-- ==== Sys2Proof/Word.lean ====
section
/-!
DEFINITION. The word types of the module: 64-bit registers (R14), bytes and the 32-bit patterns of FP32 and of check values.
-/

namespace Sys2Proof

/-- A register, or a 64-bit little-endian word of a record (R14). -/
abbrev Word := BitVec 64

/-- One byte of memory. -/
abbrev Byte := BitVec 8

/-- A 32-bit pattern: an FP32 value (R40), a CRC-32C check (R175), a frond id. -/
abbrev Word32 := BitVec 32

end Sys2Proof
end

