-- ==== Sys2Proof/Syntax.lean ====
section
/-!
DEFINITION. The commands of the block, one constructor per row of spec/opcode_table.json, in the table's order. The table
gives a row no operands; the operands here are what the row's rule leaves to the sender or to the environment: a unit, a
launch, a written value, a measured quantity, the content of a received message, whether a physical check failed.
Everything else an event does is computed from the state.
-/

namespace Sys2Proof

/-- A board strap as the pin stands when straps latch; a floating strap reads an undefined value (R434). -/
inductive Strap where
  | low | high | floating
  deriving DecidableEq, Repr

/-- The straps: CHAIN_HEAD, FEED_ID bit 0 first, SLOT_ID bit 0 first (R335). -/
structure Straps where
  chainHead : Strap
  feedId    : List Strap
  slotId    : List Strap
  deriving DecidableEq, Repr

/-- What a bring-up phase found, beyond what the state tells: a failure of Table 13.3 with its die and unit, and for phase 7
whether the stored journal is readable and what the stored certificate check says (R379, R412). -/
structure PhaseReport where
  failCode   : Nat
  die        : Nat
  unit       : Nat
  journalOk  : Bool
  flashReadA : Bool
  flashReadB : Bool
  deriving DecidableEq, Repr

/-- A cell upset: one bit of one accumulator entry of the bank being used, the physical fault that the check lines detect
(R84). -/
structure Upset where
  row : Nat
  col : Nat
  bitNo : Nat
  deriving DecidableEq, Repr

/-- What a failed read met (R188): the class is read from the frond table for a frond; a frond table copy, a view, a snapshot
copy and any other region are named here. -/
inductive ReadTarget where
  | frond (id : Nat)
  | frondTable (id : Nat) (bothCopies : Bool)
  | snapshot (slot : Nat)
  | otherRegion (addr : Nat)
  deriving DecidableEq, Repr

/-- How the read failed: an uncorrectable stack or SRAM read, a flash read that fails under R182, a check mismatch (R175). -/
inductive ReadFailure where
  | stackEcc | sramEcc | flashPage | checkMismatch
  deriving DecidableEq, Repr

/-- A 32-byte message header and body as received (Table 9.4). -/
structure ChainMsg where
  kind      : Nat
  source    : Nat
  dest      : Nat
  seq       : Nat
  jobTag    : Nat
  headOk    : Bool
  body      : List Byte
  deriving DecidableEq, Repr

/-- Where a host access lands (R312, R314). -/
inductive Endpoint where
  | a | b
  deriving DecidableEq, Repr

/-- The commands. -/
inductive Instr where
  -- power, reset and bring-up
  | pwrEnRise (disconnectsOk detectorsOk : Bool) (lowMs : Nat)
  | pwrEnFall
  | perstNDeassert (straps : Straps)
  | perstNAssert
  | bringupPhaseEnd (phase : Nat) (report : PhaseReport)
  | deviceReady (ms setpointMv pFullW : Nat)
  | bringupTimeout
  -- slots and launches
  | slotBoundary
  | crozierCommit
  | signalTakesEffect
  | anchorSet
  | launchIssue (launch : Nat)
  | launchBegin (unit : Nat)
  | launchComplete (unit : Nat)
  | waitTimeout (gate : Bool) (index op : Nat)
  -- arrays, drains, vector engines
  | arrayStep (array : Nat) (upset : Option Upset)
  | intermediateCheck (array : Nat)
  | drain (array : Nat) (upset : Option Upset)
  | tileRestart (array : Nat)
  | drainFault (array : Nat)
  | vectorEngineFault (core : Nat)
  | passRestart
  | batchLaunch (queue : Nat)
  | requestDescriptor (queue : Nat)
  | rowAccepted (queue : Nat)
  -- memory
  | moveFrond (stack : Nat)
  | viewCopy (stack : Nat)
  | failedRead (target : ReadTarget) (how : ReadFailure) (die channel addr : Nat) (inPass : Bool)
  | sramUncorrectable (addr : Nat) (inPass : Bool)
  | viewRemake (addr : Nat) (fetchOk : Bool)
  | partnerFetchTimeout (frond : Nat)
  | flashPageRead (page : Nat) (decodes : Bool) (rereads : Nat) (rereadOk : Bool)
  | pageRebuild (page : Nat) (othersOk : Bool)
  | stripeWrite (footprintMiB : Nat)
  | ledgerStore
  | onfiChannelFail (channel : Nat)
  | flashWearMove (blocks : Nat)
  | dramScrub (addr : Nat) (corrected newerWrite : Bool)
  -- training state
  | reduceAdd (drainIndex : Nat)
  | reduceAdderFault (target : Nat)
  | finalQuantisation (shard : Nat)
  | normMessageSend
  | normDecision
  | normTimeout
  | updateGroup (stack : Nat)
  | sweepTimeout (stack : Nat)
  | updateEngineFault (stack : Nat)
  | digestCompute (shard : Nat)
  | digestEngineFault (shard : Nat)
  | digestRepair (shard : Nat) (anyFailing : Bool)
  | groupRepair (stack : Nat)
  | snapshotWrite (writeOk : Bool)
  -- the chain
  | flitReceive (port : Nat) (crcOk : Bool) (ftype seq ack : Nat)
  | replayRequest (port ack : Nat)
  | idleFlit (port : Nat)
  | portDown (port : Nat)
  | portTraining (port : Nat) (trained : Bool)
  | addressToken (port value : Nat) (origin : Word)
  | closure (port length : Nat) (origin : Word)
  | errorNotice (code sender : Nat)
  | addressingTimeout
  | skipProbe (port sender : Nat)
  | skipProbeTimeout (port : Nat)
  | rejoinToken (address length : Nat) (origin : Word)
  | rejoinCheck (eAddress : Nat)
  | healNotice (link reporter : Nat) (restored : Bool)
  | linkRetrain (port : Nat) (trained : Bool)
  | acknowledgement (source seq : Nat)
  | ackSend (source : Nat)
  | messageResend (dest : Nat)
  | messageDeliver (msg : ChainMsg)
  | messageForward (msg : ChainMsg)
  | syncMsg (source object : Nat) (amount : Word)
  | normMsg (source step position : Nat) (lossNonfinite gradPoisoned passAborted : Bool) (part : Word32)
  | digestMsg (source shard step : Nat) (digest : List Byte)
  | partnerRequest (source frond tag : Nat) (step : Word)
  | partnerReply (frond tag status : Nat) (data : List Byte)
  | layoutMsg (source step layout adopted : Nat) (roleDigest : Word32)
  | permuteDecision
  | permuteTransfer (shard index : Nat)
  | feedAnnounce (sender feed : Nat)
  | lossReport (reporter lost standIn step : Nat) (norms : List (List Byte))
  | lossReportTimeout
  | reReduce (step : Nat)
  | countMsg (source step : Nat) (c : Word)
  | countMessageSend
  | collectiveData (source desc iteration stage hop index : Nat) (step : Word) (data : List Byte)
  | credit (source desc iteration fronds : Nat)
  -- intake
  | sampleDescriptor
  | sampleTimeout (batch slot : Nat)
  | imageSample (batch slot : Nat)
  | textPack (batch : Nat)
  | pressureWindow
  -- host commands, doorbells and accesses
  | load (tag : Nat)
  | start (tag : Nat)
  | stop (tag : Nat)
  | resume (tag : Nat)
  | endPlan (tag : Nat)
  | commandReserved (code tag : Nat)
  | commandOverrun
  | release (slot seq : Nat)
  | requestTail (queue tail : Nat)
  | bar2InvalidWrite (offset size : Nat)
  | bar0BadAccess (offset size : Nat) (write : Bool)
  | apertureAccess (ep : Endpoint) (offset size : Nat) (write : Option (List Byte))
  | registerWrite (offset size : Nat) (value : Word)
  | stWrite (offset size : Nat) (value : Word)
  | arrInject (value : Word)
  | numClear (value : Word)
  | numRingTail (tail : Nat)
  | lchTsRingTail (tail : Nat)
  | lchSyncSignal (object : Nat) (amount : Word)
  | lchClear (value : Word)
  | intSubTail (tail : Nat)
  | intEvTail (tail : Nat)
  -- croziers and configuration
  | hostClaim
  | hostRelease
  | claimTimeout
  | commitRequest (atSlot : Bool) (target : Nat)
  | commitAbort
  | crozierAck
  | crozierAckTimeout
  | cfgProgram (bytes : Nat)
  | cfgProgramDone (flashOk : Bool)
  | safResume (causes : Word)
  | safBistCmd (kind unit : Nat)
  -- security commands
  | attest (tag : Nat)
  | keyLoad (tag : Nat)
  | erase (tag : Nat)
  | lifecycleToken (tag : Nat)
  | raiseFloor (tag : Nat)
  | storeCertificate (tag : Nat)
  | secCommandReserved (op tag : Nat)
  | secCommandOverrun
  | irqCoalesceExpiry (vector : Nat)
  -- power envelope
  | meterBlock (vin iin blockW checkW : Nat)
  | envelopeHold
  | inputRange (vin : Nat)
  | setpointStep (up : Bool) (pFullW : Nat) (more : Bool)
  | depthChange (up : Bool)
  | minuteBoundary
  | energySigning
  | journalWrite
  -- the rack controller path
  | entdaa (address : Nat)
  | mctpControl (request : List Byte)
  | pldm (ptype : Nat) (sensor : Nat)
  | mctpOtherDrop (mtype : Nat)
  | sensorUpdate
  | read (offset count : Nat)
  | write (offset : Nat) (value : Word)
  | claim
  | releaseClaim
  -- protection and supervision
  | overcurrentTrip (both : Bool)
  | overvoltageTrip (both : Bool)
  | railTrip
  | coreRailUnder
  | sensorRead (die : Nat) (sensor0 sensor1 : Int)
  | junctionHold (die : Nat) (celsius : Int)
  | junctionTrip (die : Nat)
  | flowRead (reading : Option Nat)
  | coolantFlowLow
  | refDeviationWindow (ppm : Int)
  | missingEdge (mismatch : Bool)
  | refclkLoss
  | controlDisagree
  | selfCheckEnd (pass96 pass97 recomputeEqual : Bool)
  | singleControlCheck (pass : Bool)
  | heartbeat (die : Nat)
  | watchdogExpiry
  | dieSilent (die : Nat)
  | packageLinkError (die : Nat)
  | syncObjectFailed (object : Nat)
  -- maintenance
  | maintenanceStart (activity kind unit : Nat)
  | bistSliceEnd (verdict : Nat)
  | sensorCalibration (die : Nat)
  | linkImpedanceCalibration (port : Nat)
  | keyRotation
  | glitchDetector
  | meshMeasure (trace0 trace1 : Nat) (shorted : Bool)
  | refclkReturn
  | inputPowerLoss
  | keyStoreIntegrityFail
  deriving DecidableEq, Repr

end Sys2Proof
end

