-- ==== Sys2Proof/Machine/Num.lean ====
section
/-!
DEFINITION. The number formats of 02_number_formats.md: exact values, decoding, the two rounding modes, conversion into
plain and block formats with the counter classes of R51, the draws of R54, and FP32 arithmetic with one rounding.
An exact finite value is held as an integer number of units of 2^-300. Every decoded element, every product of two decoded
operands and every FP32 product is a whole number of these units, so nothing is lost before a rounding.
-/

namespace Sys2Proof.Machine

/-- The formats of Table 2.1. -/
inductive Fmt where
  | fp32 | bf16 | e4m3 | e5m2 | b8 | b4 | b4x | g8
  deriving DecidableEq, Repr

/-- A decoded value: NaN, an infinity with its sign, or a finite value in units of 2^-300. -/
inductive Num where
  | nan
  | inf (neg : Bool)
  | fin (n : Int)
  deriving DecidableEq, Repr

/-- The rounding modes of R52; a stochastic rounding carries its 16-bit draw (R53). -/
inductive Rnd where
  | nearest
  | stochastic (r : Nat)
  deriving DecidableEq, Repr

/-- The counter classes of R51 that an output element can fall into. -/
inductive ElemClass where
  | plain | saturated | flushed | poisoned | zeroBlock
  deriving DecidableEq, Repr

/-- The code of a format, Table 2.1. -/
def Fmt.code : Fmt → Nat
  | .fp32 => 0 | .bf16 => 1 | .e4m3 => 2 | .e5m2 => 3 | .b8 => 4 | .b4 => 5 | .b4x => 6 | .g8 => 7

/-- Codes 0x8 to 0xF are reserved (R39). -/
def Fmt.ofCode : Nat → Option Fmt
  | 0 => some .fp32 | 1 => some .bf16 | 2 => some .e4m3 | 3 => some .e5m2
  | 4 => some .b8 | 5 => some .b4 | 6 => some .b4x | 7 => some .g8
  | _ => none

/-- Whether the format is a block format of 32 elements and a scale byte. -/
def Fmt.isBlock : Fmt → Bool
  | .b8 | .b4 | .b4x | .g8 => true
  | _ => false

/-- The formats an array takes as operands (R56). -/
def Fmt.isArrayOperand : Fmt → Bool
  | .fp32 | .g8 => false
  | _ => true

/-- Bits of one element, Table 2.1. -/
def Fmt.elemBits : Fmt → Nat
  | .fp32 => 32 | .bf16 => 16 | .e4m3 | .e5m2 | .b8 | .g8 => 8 | .b4 | .b4x => 4

/-- The power of two 2^k as an exact value, for `k` from -300 up. -/
def pow2 (k : Int) : Int := 2 ^ (k + 300).toNat

/-- The value 1. -/
def numOne : Num := .fin (pow2 0)

/-- An integer as an exact value. -/
def Num.ofInt (n : Int) : Num := .fin (n * pow2 0)

/-- Zero, or a value that R43 makes +0. -/
def Num.zero : Num := .fin 0

/-- Whether a value is finite. -/
def Num.isFin : Num → Bool
  | .fin _ => true
  | _ => false

/-! ### Plain formats, Table 2.2 -/

/-- Exponent bits, mantissa bits, bias and whether the all-ones exponent means infinity and NaN. -/
structure PlainShape where
  ebits : Nat
  mbits : Nat
  bias  : Nat
  ieee  : Bool
  deriving DecidableEq, Repr

/-- The layouts of Table 2.2; a block format gives the layout of its E4M3 elements. -/
def Fmt.shape : Fmt → PlainShape
  | .fp32 => ⟨8, 23, 127, true⟩
  | .bf16 => ⟨8, 7, 127, true⟩
  | .e5m2 => ⟨5, 2, 15, true⟩
  | _ => ⟨4, 3, 7, false⟩

/-- The value of a plain code: sign, exponent and mantissa fields from the most significant bit. A BF16 subnormal and
every -0 read as +0 (R42, R43); every NaN encoding reads as NaN (R41). -/
def decodePlain (f : Fmt) (code : Nat) : Num :=
  let p := f.shape
  let man := code % 2 ^ p.mbits
  let exp := code / 2 ^ p.mbits % 2 ^ p.ebits
  let neg := decide (code / 2 ^ (p.mbits + p.ebits) % 2 = 1)
  let allOnes := decide (exp = 2 ^ p.ebits - 1)
  if p.ieee && allOnes && decide (man = 0) then .inf neg
  else if p.ieee && allOnes then .nan
  else if !p.ieee && allOnes && decide (man = 2 ^ p.mbits - 1) then .nan
  else if exp = 0 && decide (f = .bf16) then .fin 0
  else
    let m : Int := if exp = 0 then (man : Int) else ((man + 2 ^ p.mbits : Nat) : Int)
    let e : Int := (max exp 1 : Nat) - (p.bias : Int) - (p.mbits : Int)
    let v := m * pow2 e
    .fin (if neg then -v else v)

/-- An e2m1 element, Table 2.4. -/
def decodeE2m1 (code : Nat) : Num :=
  let halves : Int := [0, 1, 2, 3, 4, 6, 8, 12].getD (code % 8) 0
  let v := halves * pow2 (-1)
  .fin (if code / 8 % 2 = 1 then -v else v)

/-- The canonical NaN of a plain format, Table 2.2. -/
def canonicalNaN : Fmt → Nat
  | .fp32 => 0x7FC00000
  | .bf16 => 0x7FC0
  | .e5m2 => 0x7E
  | _ => 0x7F

/-- The infinity of a format that has one, with its sign. -/
def infCode (f : Fmt) (neg : Bool) : Nat :=
  let p := f.shape
  (if neg then 2 ^ (p.ebits + p.mbits) else 0) + (2 ^ p.ebits - 1) * 2 ^ p.mbits

/-! ### Rounding, R52 and R53 -/

/-- The number of bits of a natural number, by a search over at most `fuel` doublings. -/
def bitLenAux : Nat → Nat → Nat → Nat
  | 0, _, acc => acc
  | fuel + 1, n, acc => if n = 0 then acc else bitLenAux fuel (n / 2) (acc + 1)

/-- The number of bits of a magnitude; magnitudes of this model stay below 2^1400. -/
def bitLen (n : Nat) : Nat := bitLenAux 1400 n 0

/-- The magnitude `a` rounded to a whole number of 2^k units; the answer counts the units. `sticky` says that the exact
magnitude lies above `a` by less than one unit of `a`. -/
def roundUnits (rnd : Rnd) (a k : Nat) (sticky : Bool) : Nat :=
  let t := a / 2 ^ k
  let rem := a % 2 ^ k
  match rnd with
  | .nearest =>
    if rem * 2 > 2 ^ k then t + 1
    else if rem * 2 = 2 ^ k then (if sticky || decide (t % 2 = 1) then t + 1 else t)
    else t
  | .stochastic r => if rem * 65536 / 2 ^ k + r ≥ 65536 then t + 1 else t

/-- A magnitude in units of 2^-300 rounded to `mbits + 1` significant bits with least unit exponent `kmin` (counted in the
same units); the answer is the rounded magnitude. -/
def roundMag (rnd : Rnd) (mbits kmin a : Nat) (sticky : Bool) : Nat :=
  let k := max kmin (bitLen a - (mbits + 1))
  roundUnits rnd a k sticky * 2 ^ k

/-- Position of the least subnormal of a plain format in units of 2^-300. -/
def PlainShape.kmin (p : PlainShape) : Nat := 301 - p.bias - p.mbits

/-- The largest finite magnitude of Table 2.2. -/
def PlainShape.maxFinite (p : PlainShape) : Nat :=
  if p.ieee then (2 ^ (p.mbits + 1) - 1) * 2 ^ (300 + 2 ^ p.ebits - 2 - p.bias - p.mbits)
  else (2 ^ (p.mbits + 1) - 2) * 2 ^ (300 + 2 ^ p.ebits - 1 - p.bias - p.mbits)

/-- The code of a magnitude that the format holds exactly. -/
def encodeMag (p : PlainShape) (neg : Bool) (a : Nat) : Nat :=
  let sign := if neg then 2 ^ (p.ebits + p.mbits) else 0
  if a = 0 then 0
  else
    let unit := p.kmin
    let q := a / 2 ^ unit
    if q < 2 ^ p.mbits then sign + q
    else
      let top := bitLen q - 1
      sign + (top + 1 - p.mbits) * 2 ^ p.mbits + (q / 2 ^ (top - p.mbits) - 2 ^ p.mbits)

/-- Conversion into a plain format, Table 2.5, with the class of R51. BF16 rounds with an unbounded exponent and then
writes +0 below 2^-126 (R42); E4M3 and E5M2 saturate at their largest finite value. -/
def convPlain (f : Fmt) (rnd : Rnd) (x : Num) (sticky : Bool := false) : Nat × ElemClass :=
  let p := f.shape
  match x with
  | .nan => (canonicalNaN f, .poisoned)
  | .inf neg => if p.ieee then (infCode f neg, .poisoned) else (canonicalNaN f, .poisoned)
  | .fin n =>
    let neg := decide (n < 0)
    let a := n.natAbs
    let r := if f = .bf16 then roundMag rnd p.mbits 0 a sticky else roundMag rnd p.mbits p.kmin a sticky
    if r > p.maxFinite then
      match f with
      | .fp32 | .bf16 => (infCode f neg, .saturated)
      | _ => (encodeMag p neg p.maxFinite, .saturated)
    else if f = .bf16 && decide (r < 2 ^ 174) then (0, if a = 0 then .plain else .flushed)
    else if r = 0 then (0, if a = 0 then .plain else .flushed)
    else (encodeMag p neg r, .plain)

/-! ### FP32 arithmetic, mode 0 (R52, R60) -/

/-- One rounding of an exact value into FP32 in mode 0. -/
def toF32 (x : Num) (sticky : Bool := false) : Word32 := BitVec.ofNat 32 (convPlain .fp32 .nearest x sticky).1

/-- The value of an FP32 pattern. -/
def ofF32 (w : Word32) : Num := decodePlain .fp32 w.toNat

/-- Exact negation. -/
def Num.neg : Num → Num
  | .nan => .nan
  | .inf s => .inf (!s)
  | .fin n => .fin (-n)

/-- Exact absolute value. -/
def Num.abs : Num → Num
  | .nan => .nan
  | .inf _ => .inf false
  | .fin n => .fin n.natAbs

/-- Exact sum; infinities of both signs give NaN (R58). -/
def Num.add : Num → Num → Num
  | .nan, _ | _, .nan => .nan
  | .inf s, .inf t => if s = t then .inf s else .nan
  | .inf s, .fin _ => .inf s
  | .fin _, .inf s => .inf s
  | .fin a, .fin b => .fin (a + b)

/-- Exact product; infinity times zero gives NaN (R58). Operands are FP32 values or block elements, whose products are
whole numbers of units. -/
def Num.mul : Num → Num → Num
  | .nan, _ | _, .nan => .nan
  | .inf s, .inf t => .inf (s != t)
  | .inf s, .fin b => if b = 0 then .nan else .inf (s != decide (b < 0))
  | .fin a, .inf s => if a = 0 then .nan else .inf (s != decide (a < 0))
  | .fin a, .fin b => .fin (a * b / pow2 0)

/-- The exact sum of a list. -/
def Num.sum (xs : List Num) : Num := xs.foldl Num.add (.fin 0)

/-- Numeric order; false with a NaN on either side. -/
def Num.lt : Num → Num → Bool
  | .nan, _ | _, .nan => false
  | .inf s, .inf t => s && !t
  | .inf s, .fin _ => s
  | .fin _, .inf s => !s
  | .fin a, .fin b => decide (a < b)

/-- Numeric order or equality; false with a NaN on either side. -/
def Num.le : Num → Num → Bool
  | .nan, _ | _, .nan => false
  | .inf s, .inf t => s || !t
  | .inf s, .fin _ => s
  | .fin _, .inf s => !s
  | .fin a, .fin b => decide (a ≤ b)

/-- FP32 addition. -/
def f32Add (a b : Word32) : Word32 := toF32 ((ofF32 a).add (ofF32 b))

/-- FP32 subtraction. -/
def f32Sub (a b : Word32) : Word32 := toF32 ((ofF32 a).add (ofF32 b).neg)

/-- FP32 multiplication. -/
def f32Mul (a b : Word32) : Word32 := toF32 ((ofF32 a).mul (ofF32 b))

/-- FP32 fused multiply-add, rounded once: a × b + c. -/
def f32Fma (a b c : Word32) : Word32 := toF32 (((ofF32 a).mul (ofF32 b)).add (ofF32 c))

/-- FP32 negated multiply-add, rounded once: c - a × b. -/
def f32Fnma (a b c : Word32) : Word32 := toF32 (((ofF32 a).mul (ofF32 b)).neg.add (ofF32 c))

/-- IEEE 754-2019 minimum: NaN if either input is NaN. -/
def f32Min (a b : Word32) : Word32 :=
  match ofF32 a, ofF32 b with
  | .nan, _ | _, .nan => toF32 .nan
  | x, y => toF32 (if x.lt y then x else y)

/-- IEEE 754-2019 maximum: NaN if either input is NaN. -/
def f32Max (a b : Word32) : Word32 :=
  match ofF32 a, ofF32 b with
  | .nan, _ | _, .nan => toF32 .nan
  | x, y => toF32 (if y.lt x then x else y)

/-- FP32 absolute value. -/
def f32Abs (a : Word32) : Word32 := toF32 (ofF32 a).abs

/-- The largest integer whose square is at most `n`, found bit by bit from bit `k` down. -/
def isqrtAux : Nat → Nat → Nat → Nat
  | 0, n, r => if (r + 1) * (r + 1) ≤ n then r + 1 else r
  | k + 1, n, r => isqrtAux k n (if (r + 2 ^ (k + 1)) * (r + 2 ^ (k + 1)) ≤ n then r + 2 ^ (k + 1) else r)

/-- FP32 square root, correctly rounded in mode 0; a negative argument gives NaN. -/
def f32Sqrt (a : Word32) : Word32 :=
  match ofF32 a with
  | .nan | .inf true => toF32 .nan
  | .inf false => toF32 (.inf false)
  | .fin n =>
    if n < 0 then toF32 .nan
    else
      let m := n.toNat * 2 ^ 300
      let r := isqrtAux 372 m 0
      toF32 (.fin r) (decide (r * r ≠ m))

/-- FP32 quotient, correctly rounded in mode 0, with the special cases of IEEE 754-2019. -/
def f32Div (a b : Word32) : Word32 :=
  match ofF32 a, ofF32 b with
  | .nan, _ | _, .nan => toF32 .nan
  | .inf _, .inf _ => toF32 .nan
  | .inf s, .fin d => toF32 (.inf (s != decide (d < 0)))
  | .fin _, .inf _ => toF32 (.fin 0)
  | .fin n, .fin d =>
    if d = 0 then (if n = 0 then toF32 .nan else toF32 (.inf (decide (n < 0))))
    else
      let num := n.natAbs * 2 ^ 300
      let q := num / d.natAbs
      let neg := decide (n < 0) != decide (d < 0)
      toF32 (.fin (if neg then -(q : Int) else q)) (decide (num % d.natAbs ≠ 0))

/-- Whether an FP32 pattern is finite. -/
def f32Finite (a : Word32) : Bool := (ofF32 a).isFin

/-- The sum of a list in pairs, adjacent elements first, over `levels` levels; every addition is FP32 in mode 0 (R114,
R124, R200). -/
def f32PairSum : Nat → List Word32 → Word32
  | 0, xs => xs.headD 0
  | levels + 1, xs => f32PairSum levels (pairUp xs)
where
  pairUp : List Word32 → List Word32
    | a :: b :: rest => f32Add a b :: pairUp rest
    | [a] => [f32Add a 0]
    | [] => []

/-! ### Block formats, R44 to R50 -/

/-- One block of 32 elements: element codes, scale byte and, in B4X, the exception word. -/
structure Block where
  elems : List Nat
  scale : Nat
  exc   : Nat := 0
  deriving DecidableEq, Repr

/-- A value times 2^e, for `e` from -127 up to 126. -/
def Num.scaleBy (x : Num) (e : Int) : Num :=
  match x with
  | .fin n => if e ≥ 0 then .fin (n * 2 ^ e.toNat) else .fin (n / 2 ^ (-e).toNat)
  | y => y

/-- The element format of a block format. -/
def Fmt.decodeElem (f : Fmt) (code : Nat) : Num :=
  match f with
  | .b4 | .b4x => decodeE2m1 code
  | _ => decodePlain .e4m3 code

/-- The value of element `i` of a block (R44, R45, R47). -/
def Block.value (f : Fmt) (b : Block) (i : Nat) : Num :=
  if b.scale = 0xFF then .fin 0
  else if b.scale = 0xFE then .nan
  else
    let e : Int := (b.scale : Int) - 127
    let ev := b.exc % 256
    if f = .b4x && (ev = 0x7F || ev = 0xFF) then .nan
    else if f = .b4x && decide (ev ≠ 0x00) && decide (ev ≠ 0x80) && decide (b.exc / 256 % 32 = i) then
      (decodePlain .e4m3 ev).scaleBy e
    else (f.decodeElem (b.elems.getD i 0)).scaleBy e

/-- R45: a consumer that decodes a block element into FP32 uses an infinity for a magnitude above the largest finite
FP32 value; every other decoded value is exact. -/
def Num.clampF32 (x : Num) : Num :=
  match x with
  | .fin n => if n.natAbs > Fmt.fp32.shape.maxFinite then .inf (decide (n < 0)) else .fin n
  | y => y

/-- The smallest exponent `e` with `a ≤ m × 2^e`, searched from -127 to 126. -/
def scaleExp (a : Nat) (m : Nat) : Int :=
  let cand := (List.range 254).map fun (i : Nat) => (i : Int) - 127
  (cand.find? fun e => decide ((a : Int) ≤ m * pow2 e)).getD 126

/-- An e2m1 code of a value already divided by the block's scale: rounded, and held at ±6. -/
def roundE2m1 (rnd : Rnd) (n : Int) (shift : Int) : Nat :=
  -- the magnitude of the quotient, in units of 2^-300 times 2^shift, is rounded onto the grid of Table 2.4
  let a := n.natAbs
  let unitExp : Int := 299 + shift          -- 0.5 × 2^shift in units of 2^-300
  let half := 2 ^ unitExp.toNat
  let k := if a < 4 * half then unitExp.toNat else if a < 8 * half then unitExp.toNat + 1 else unitExp.toNat + 2
  let r := roundUnits rnd a k false * 2 ^ k / half
  let mag := if r ≥ 12 then 7 else if r ≥ 8 then 6 else if r ≥ 6 then 5 else if r ≥ 4 then 4 else r
  if mag = 0 then 0 else mag + (if n < 0 then 8 else 0)

/-- An E4M3 code of a value divided by 2^shift: rounded, and held at ±448. -/
def roundE4m3 (rnd : Rnd) (n : Int) (shift : Int) : Nat :=
  let p := Fmt.e4m3.shape
  let a := n.natAbs
  let kmin := ((p.kmin : Int) + shift).toNat
  let r := roundMag rnd p.mbits kmin a false
  let top := (p.maxFinite : Int) * (if shift ≥ 0 then 2 ^ shift.toNat else 1)
  let top := if shift ≥ 0 then top.toNat else p.maxFinite / 2 ^ (-shift).toNat
  let r := min r top
  let back := if shift ≥ 0 then r / 2 ^ shift.toNat else r * 2 ^ (-shift).toNat
  if back = 0 then 0 else encodeMag p (decide (n < 0)) back

/-- The finite magnitude of a value, 0 otherwise. -/
def Num.mag : Num → Nat
  | .fin n => n.natAbs
  | _ => 0

/-- The integer of a finite value, 0 otherwise. -/
def Num.int : Num → Int
  | .fin n => n
  | _ => 0

/-- The largest magnitude of a list of values. -/
def maxMag (xs : List Num) : Nat := xs.foldl (fun a x => max a x.mag) 0

/-- Conversion of 32 source values into one block (R50). `rnd i` is the rounding of element `i`; G8 is always given
stochastic roundings by its callers (R48). -/
def convBlock (f : Fmt) (rnd : Nat → Rnd) (xs : List Num) : Block :=
  if xs.any (fun x => !x.isFin) then ⟨[], 0xFE, 0⟩
  else if xs.all (fun x => decide (x.mag = 0)) then ⟨[], 0xFF, 0⟩
  else if f = .b4x then
    let top := maxMag xs
    let j := (xs.findIdx? fun x => decide (x.mag = top)).getD 0
    let a := ((List.range 32).filter (fun i => decide (i ≠ j))).foldl (fun m i => max m (xs.getD i (.fin 0)).mag) 0
    let e := if a = 0 then scaleExp top 448 else scaleExp a 6
    let q := (List.range 32).map fun i => if i = j then 0 else roundE2m1 (rnd i) (xs.getD i (.fin 0)).int e
    let v := roundE4m3 (rnd j) (xs.getD j (.fin 0)).int e
    if q.all (fun c => decide (c = 0)) && decide (v = 0) then ⟨[], 0xFF, 0⟩
    else ⟨q, (e + 127).toNat, if v = 0 then 0 else j * 256 + v⟩
  else
    let m := if f = .b4 then 6 else 448
    let e := scaleExp (maxMag xs) m
    let q := (List.range 32).map fun i =>
      if f = .b4 then roundE2m1 (rnd i) (xs.getD i (.fin 0)).int e else roundE4m3 (rnd i) (xs.getD i (.fin 0)).int e
    if q.all (fun c => decide (c = 0)) then ⟨[], 0xFF, 0⟩ else ⟨q, (e + 127).toNat, 0⟩

/-- The class of an output element of a block (R51), from its source and the block written. -/
def blockClass (f : Fmt) (b : Block) (xs : List Num) (i : Nat) : ElemClass :=
  let x := xs.getD i (.fin 0)
  if b.scale = 0xFE then .poisoned
  else
    let y := b.value f i
    let m : Nat := if f = .b4 || f = .b4x then 6 else 448
    let isExc := f = .b4x && decide (b.exc ≠ 0) && decide (b.exc / 256 % 32 = i)
    let lim := if isExc then 448 else m
    if decide ((x.mag : Int) > lim * pow2 ((b.scale : Int) - 127)) && decide (b.scale ≠ 0xFF)
      && decide ((y.mag : Int) = lim * pow2 ((b.scale : Int) - 127)) then .saturated
    else if decide (x.mag ≠ 0) && decide (y.mag = 0) then .flushed
    else if b.scale = 0xFF && decide (x.mag = 0) then .zeroBlock
    else .plain

/-! ### The counter-based generator, R54 -/

/-- One round of Philox-4×32 on four words with a two-word key. PRESUMED: the multipliers are those of the published
generator (log entry 2). -/
def philoxRound (c : List Nat) (k0 k1 : Nat) : List Nat :=
  let p0 := 0xD2511F53 * c.getD 0 0
  let p1 := 0xCD9E8D57 * c.getD 2 0
  [Nat.xor (Nat.xor (p1 / 2 ^ 32) (c.getD 1 0)) k0, p1 % 2 ^ 32,
   Nat.xor (Nat.xor (p0 / 2 ^ 32) (c.getD 3 0)) k1, p0 % 2 ^ 32]

/-- The rounds of Philox, the key bumped between them. -/
def philoxRounds : Nat → List Nat → Nat → Nat → List Nat
  | 0, c, _, _ => c
  | n + 1, c, k0, k1 =>
    philoxRounds n (philoxRound c k0 k1) ((k0 + 0x9E3779B9) % 2 ^ 32) ((k1 + 0xBB67AE85) % 2 ^ 32)

/-- The 16-bit draw for the element at flat index `i` of the output with tensor id `tid` in training step `n` (R54). -/
def draw (seed : Word) (i tid n : Nat) : Nat :=
  let blk := i / 8
  let out := philoxRounds 10 [blk % 2 ^ 32, blk / 2 ^ 32 % 2 ^ 32, tid % 2 ^ 32, n % 2 ^ 32]
    (seed.toNat % 2 ^ 32) (seed.toNat / 2 ^ 32)
  let w := i % 8
  out.getD (w / 2) 0 / 2 ^ (16 * (w % 2)) % 2 ^ 16

/-- The rounding an output names: mode 0, or mode 1 with the draw of the element (R52, R54). -/
def rndOf (stoch : Bool) (seed : Word) (tid n i : Nat) : Rnd :=
  if stoch then .stochastic (draw seed i tid n) else .nearest

end Sys2Proof.Machine
end

