-- ==== Sys2Proof/Machine/Plan.lean ====
section
/-!
DEFINITION. The plan as the module holds it after plan load: the plan header (Table 12.7) and the records of each section of
Table 12.6, with the field names of the tables. Addresses are byte addresses. The forms of tile programs and vector
programs, which the spec leaves to the core sequencer, appear here by the parts that the spec names.
-/

namespace Sys2Proof.Machine

/-- The op of a sync op (Table 5.5). -/
inductive SyncKind where
  | signal | waitGe | waitEq
  deriving DecidableEq, Repr

/-- A sync op (Table 5.5). -/
structure SyncOp where
  object  : Nat
  kind    : SyncKind
  stride  : Nat
  timeout : Nat
  value   : Word
  deriving DecidableEq, Repr

/-- The kinds of launch (Table 5.1). -/
inductive LaunchKind where
  | tile | vector | move | collective | sweep | intake
  deriving DecidableEq, Repr

/-- A launch descriptor (Table 5.1), with its waits, signals and predecessors gathered. -/
structure Launch where
  relSlot     : Nat
  anchor      : Nat
  kind        : LaunchKind
  phaseMarker : Bool
  backward    : Bool
  passLast    : Bool
  launcher    : Nat
  body        : Nat
  phaseId     : Nat
  waits       : List SyncOp
  signals     : List SyncOp
  preds       : List Nat
  pass        : Nat
  deriving DecidableEq, Repr

/-- An anchor (R138). -/
structure Anchor where
  offset      : Nat
  gate        : List SyncOp
  gateTimeout : Nat
  deriving DecidableEq, Repr

/-- Initial value and flags of a sync object (R144). -/
structure SyncInit where
  object     : Nat
  value      : Word
  host       : Bool
  importFlag : Bool
  passFlag   : Bool
  deriving DecidableEq, Repr

/-- An export table entry (R150). -/
structure ExportEntry where
  localObj  : Nat
  remoteObj : Nat
  dests     : Word
  deriving DecidableEq, Repr

/-- A feeder fetch mode a plan can name (Table 3.3). -/
inductive FetchMode where
  | direct | transposePlain | transposeBlock
  deriving DecidableEq, Repr

/-- An operand of a tile: the fronds it lies in, in reduction order (none for the A operand of a serving tile, whose rows come
from the queue area), its first row and column there, how it is stored and delivered (R75 to R78). -/
structure Operand where
  fronds  : List Nat
  row0    : Nat
  col0    : Nat
  stored  : Fmt
  deliver : Fmt
  mode    : FetchMode
  deriving DecidableEq, Repr

/-- An in-place accumulation target (R196). -/
structure AccTarget where
  frond     : Nat
  mb        : Nat
  tensorId  : Nat
  deriving DecidableEq, Repr

/-- One output of a drain (R123): format, rounding mode, tensor id, target, and where its elements stand. -/
structure Output where
  addr       : Nat
  fmt        : Fmt
  stoch      : Bool
  tensorId   : Nat
  frondId    : Nat
  tile       : Nat
  cls        : Nat
  row0       : Nat
  col0       : Nat
  tensorRow0 : Nat
  tensorCol0 : Nat
  tensorCols : Nat
  lossWatched : Bool
  acc        : Option AccTarget
  deriving DecidableEq, Repr

/-- A side input of a drain (R121). -/
structure SideInput where
  addr : Nat
  fmt  : Fmt
  row0 : Nat
  col0 : Nat
  deriving DecidableEq, Repr

/-- The form of the function stage (R122). -/
inductive FnForm where
  | forward | gated | derivative
  deriving DecidableEq, Repr

/-- The function stage: code of Table 4.6, form and FP32 constants. -/
structure FnStage where
  code : Nat
  form : FnForm
  beta : Word32
  lo   : Word32
  hi   : Word32
  deriving DecidableEq, Repr

/-- The drain of a tile program (Table 4.5). -/
structure DrainProgram where
  clear    : Bool
  alpha    : Option Word32
  bias     : Option Nat
  s0       : Option SideInput
  s1       : Option SideInput
  stash    : Option Output
  fn       : Option FnStage
  rowStats : Option Nat
  primary  : Output
  residual : Option Output
  deriving DecidableEq, Repr

/-- A tile program. -/
structure TileProgram where
  array   : Nat
  k       : Nat
  bank    : Nat
  clear   : Bool
  rowMask : BitVec 32
  cols    : Nat
  a       : Operand
  b       : Operand
  drain   : Option DrainProgram
  deriving DecidableEq, Repr

/-- The functions of Table 2.9. -/
inductive VFn where
  | recip | rsqrt | exp | exp2 | log | log2 | tanh | sigmoid | erf | sin | cos
  deriving DecidableEq, Repr

/-- A reduction of Table 4.2. -/
inductive VReduce where
  | sum | sumSq | max | min
  deriving DecidableEq, Repr

/-- The operations of Table 4.2 over the vector registers of a core; `bf` marks the packed BF16 form. A load
reads 512 elements of a frond row by row into FP32 lanes, a store writes 512 lanes into output `out`; the raw forms carry the
2 KiB of a register as they are. -/
inductive VInstr where
  | add (bf : Bool) (d a b : Nat)
  | sub (bf : Bool) (d a b : Nat)
  | mul (bf : Bool) (d a b : Nat)
  | fma (bf : Bool) (d a b c : Nat)
  | min (bf : Bool) (d a b : Nat)
  | max (bf : Bool) (d a b : Nat)
  | cmpLt (bf : Bool) (d a b : Nat)
  | sel (bf : Bool) (d a b c : Nat)
  | abs (bf : Bool) (d a : Nat)
  | neg (bf : Bool) (d a : Nat)
  | copy (d a : Nat)
  | sqrt (bf : Bool) (d a : Nat)
  | fn (bf : Bool) (f : VFn) (d a : Nat)
  | div (bf : Bool) (d a b : Nat)
  | perm (d a idx : Nat)
  | reduce (k : VReduce) (d a : Nat)
  | load (d frond row col : Nat) (fmt : Fmt)
  | loadRaw (d addr : Nat)
  | store (a out row col : Nat)
  | storeRaw (a addr : Nat)
  deriving DecidableEq, Repr

/-- A vector program: its instructions, the fronds it loads, and the places and headers it stores (R111, R172). -/
structure VectorProgram where
  core   : Nat
  code   : List VInstr
  reads  : List Nat
  writes : List Output
  deriving DecidableEq, Repr

/-- A move descriptor (Table 6.3). -/
structure MoveDesc where
  first  : Nat
  count  : Nat
  isView : Bool
  dest   : Nat
  deriving DecidableEq, Repr

/-- The ops of Table 9.6. -/
inductive CollOp where
  | gather | reduce | permute
  deriving DecidableEq, Repr

/-- A collective descriptor (Table 9.6), with the plan's marks for a gather (R234). -/
structure CollDesc where
  op     : CollOp
  dir    : Nat
  skip   : Bool
  f      : Nat
  first  : Nat
  tid    : Nat
  recv   : Nat
  area   : Nat
  dest   : Nat
  versionIdx : Option Nat
  regather   : Option Nat
  shard  : Nat
  passNo : Nat
  deriving DecidableEq, Repr

/-- An update program: 32-bit instructions (Table 7.7) and the constants k8 to k31 (R206). -/
structure UpdateProgram where
  code   : List Word32
  consts : List Word32
  deriving DecidableEq, Repr

/-- A shard descriptor (Table 7.2) with its placement entry (R251). -/
structure Shard where
  id         : Nat
  paramFirst : Nat
  paramCount : Nat
  stack      : Nat
  program    : Nat
  flashHomed : Bool
  skipZero   : Bool
  moments    : Nat
  bf16Moment : Bool
  residual   : Bool
  m1First    : Nat
  m2First    : Nat
  gradFirst  : Nat
  resFirst   : Nat
  gradTid    : Nat
  resTid     : Nat
  m1Tid      : Nat
  m2Tid      : Nat
  elemBase   : Nat
  position   : Nat
  home       : Nat
  deriving DecidableEq, Repr

/-- Where a local gradient frond belongs: the shard and the frond of its reduced gradient (R256). -/
structure GradPlace where
  localId : Nat
  shard   : Nat
  idx     : Nat
  deriving DecidableEq, Repr

/-- A layout (R251). -/
structure Layout where
  s      : Nat
  p      : Nat
  shards : List Shard
  grads  : List GradPlace
  deriving DecidableEq, Repr

/-- A frond table entry as the plan names it (Table 6.7). -/
structure FrondInit where
  id   : Nat
  home : Nat
  fmt  : Fmt
  cls  : Nat
  deriving DecidableEq, Repr

/-- A per-stack descriptor (Table 7.19) with the sphagnum descriptor of Table 8.3. -/
structure StackDesc where
  sphBase     : Nat
  stashSize   : Nat
  ckptSize    : Nat
  recompSize  : Nat
  vlistSize   : Nat
  pendingBase : Nat
  slotCount   : Nat
  ledgerBase  : Nat
  ledgerFirst : Nat
  ledgerCount : Nat
  deriving DecidableEq, Repr

/-- A layer stash entry (Table 8.4), with the address of its demand record, the launches of its recompute
block, its forward pass and the backward pass of the same micro-batch. -/
structure LayerStash where
  anchor     : Nat
  recompute  : Option Nat
  declared   : Bool
  fmt        : Fmt
  first      : Nat
  maxCount   : Nat
  demandAddr : Nat
  block      : List Nat
  pass       : Nat
  backPass   : Nat
  deriving DecidableEq, Repr

/-- An intake batch descriptor (Table 11.2). -/
structure IntakeBatch where
  m          : Nat
  text       : Bool
  fmt        : Fmt
  scales     : Nat
  weightMode : Bool
  first      : Nat
  count      : Nat
  w0         : Nat
  h0         : Nat
  rows       : Nat
  rowLen     : Nat
  vocab      : Nat
  out        : Nat
  table      : Nat
  tensorId   : Nat
  deriving DecidableEq, Repr

/-- A batch queue (R100, R323, R451). -/
structure BatchQueue where
  q          : Nat
  wait       : Nat
  quiet      : Nat
  holdArray  : Nat
  quietArray : Nat
  ringBase   : Nat
  ringSize   : Nat
  rowBytes   : Nat
  outRegion  : Nat
  outLen     : Nat
  queueArea  : Nat
  entries    : Nat
  listFirst  : Nat
  listCount  : Nat
  resultLaunch : Nat
  deriving DecidableEq, Repr

/-- The plan header (Table 12.7). -/
structure PlanHeader where
  seed           : Word
  startStep      : Nat
  startT         : Nat
  normObj        : Nat
  reduceObj      : Nat
  digestObj      : Nat
  orderObj       : Nat
  policyAbandon  : Bool
  ceiling        : Word32
  normTimeout    : Nat
  sweepTimeout   : Nat
  partnerTimeout : Nat
  sampleTimeout  : Nat
  restore        : Nat
  ftPrimary      : Nat
  ftSize         : Nat
  ftMirror       : Nat
  snapBase       : Nat
  snapInterval   : Nat
  snapPages      : Nat
  subBase        : Nat
  subSize        : Nat
  payloadBase    : Nat
  payloadGranules : Nat
  evBase         : Nat
  evSize         : Nat
  scalarBase     : Nat
  scalarRows     : Nat
  reportBase     : Nat
  reportWords    : Nat
  reportFirst    : Nat
  reportCount    : Nat
  deriving DecidableEq, Repr

/-- A plan as loaded. -/
structure Plan where
  training   : Bool
  iterations : Nat
  header     : PlanHeader
  anchors    : List Anchor
  launches   : List Launch
  syncInit   : List SyncInit
  exports    : List ExportEntry
  tiles      : List TileProgram
  vectors    : List VectorProgram
  moves      : List MoveDesc
  colls      : List CollDesc
  updates    : List UpdateProgram
  layouts    : List Layout
  fronds     : List FrondInit
  stackDescs : List StackDesc
  layers     : List LayerStash
  intakes    : List IntakeBatch
  queues     : List BatchQueue
  deriving DecidableEq, Repr

end Sys2Proof.Machine
end

