-- ==== Sys2Proof/Config.lean ====
section
/-!
DEFINITION. What the spec leaves open, as constants without a body: nothing proves a value of them. Function results that
the spec only bounds, numbers fixed per device, algorithms it names without giving them, and the layouts of plan sections
that it leaves to the plan's emitter.
-/

namespace Sys2Proof.Machine.Config

/-! ### Free values -/

/-- A fresh value the spec leaves open; the counter `freeCtr` of the state picks the next one (log entry 3). -/
opaque freeWord : Nat → Word

/-- The functions of Table 2.9 on finite arguments where the spec gives a bound and no rule for the bits (R61). -/
opaque vfn : VFn → Word32 → Word32

/-- Division on lanes: the spec gives a bound (R61, Table 2.9). -/
opaque vdiv : Word32 → Word32 → Word32

/-- Drain functions of codes 0x5 to 0xA on finite arguments (Table 4.6). -/
opaque drainFn : Nat → Word32 → Word32

/-- Their derivatives on finite arguments (Table 4.6). -/
opaque drainFnDeriv : Nat → Word32 → Word32

/-- rsqrt and recip of the update engines on finite arguments (Table 7.8, bounds of Table 2.9). -/
opaque updFn : VFn → Word32 → Word32

/-- Division of the update engines (Table 7.8). -/
opaque updDiv : Word32 → Word32 → Word32

/-- The pseudo-random generator of an array in dummy mode: signed 128ths (R77, Table 3.3). -/
opaque dummyElem : Nat → Nat → BitVec 8

/-! ### Fixed per device -/

/-- The serial number of the module (SEC_SERIAL). -/
opaque serial : Word

/-- The ROM version (Table 16.6). -/
opaque romVersion : Nat

/-- The Nutos manufacturing key fixed in ROM (R405), 64 bytes. -/
opaque nutosKey : List Byte

/-- The first stack-tier address of the 32 MiB whose granules on one channel make up a DRAM region of 1 MiB, by region number
(Tables 15.6 and 15.13 name regions by number and give no map). -/
opaque regionBase : Nat → Nat

/-- The resistance of each tamper mesh trace recorded in MANUFACTURE, in 0.1 Ω (R421). -/
opaque meshRef : Nat → Nat

/-! ### Algorithms that the spec names by standard -/

/-- AES-256 key wrap with padding: unwrapped key, none when the integrity check fails. -/
opaque aesUnwrap : List Byte → List Byte → Option (List Byte)

/-- ML-KEM-1024 decapsulation with the device's key. -/
opaque mlKemDecaps : List Byte → List Byte → List Byte

/-- SLH-DSA signature by a key seed over a message. -/
opaque slhSign : List Byte → List Byte → List Byte

/-- SLH-DSA verification: public key, message, signature. -/
opaque slhVerify : List Byte → List Byte → List Byte → Bool

/-- The public key of a seed. -/
opaque publicKey : List Byte → List Byte

/-- A new identity seed from the entropy source (Table 16.1), by the counter of free values. -/
opaque freshSeed : Nat → List Byte

/-- A new session key, decapsulation key and encapsulation key, by the counter of free values. -/
opaque freshSession : Nat → List Byte × List Byte

/-- The answer to an MCTP control message (DSP0236), which the spec names without giving it. -/
opaque mctpReply : List Byte → List Byte

/-- The answer to a PLDM message of a type (DSP0240, DSP0248) for a sensor and its value. -/
opaque pldmReply : Nat → Nat → Nat → List Byte

/-- What the JPEG decoder gives for a payload (R297): reason 0, or 6 or 7; width, height, whether the image has one component; and
Y, Cb, Cr of each pixel in row order after chroma replication, 8 bits each. -/
opaque jpegDecode : List Byte → Nat × Nat × Nat × Bool × List (Nat × Nat × Nat)

/-- R, G and B of Y, Cb, Cr by ITU-T T.871 in FP32, before the clamp (R297). -/
opaque yccToRgb : Nat × Nat × Nat → Word32 × Word32 × Word32

/-- Bilinear interpolation of four neighbours (top left, top right, bottom left, bottom right) with the fractions in x and y
(R298). -/
opaque bilinear : Word32 → Word32 → Word32 → Word32 → Word32 → Word32 → Word32

/-! ### Layouts of plan sections that the spec leaves to the emitter -/

/-- Section 0x02: anchors. -/
opaque parseAnchors : List Byte → Option (List Anchor)

/-- Section 0x05: predecessor lists, as one list of launch indices. -/
opaque parsePreds : List Byte → Option (List Nat)

/-- Section 0x06: initial values and flags of sync objects. -/
opaque parseSyncInit : List Byte → Option (List SyncInit)

/-- Section 0x08: tile programs in core sequencer form. -/
opaque parseTiles : List Byte → Option (List TileProgram)

/-- Section 0x09: vector programs in core sequencer form. -/
opaque parseVectors : List Byte → Option (List VectorProgram)

/-- The marks that the plan gives a collective descriptor beside Table 9.6 (R234): version entry index of a forward gather, the
forward gather that a re-gather names, shard id and pass number. From section 0x0B and the index. -/
opaque gatherMarks : List Byte → Nat → Option Nat × Option Nat × Nat × Nat

/-- The first tensor id of the scales of an intake batch (R299). From section 0x12 and the index. -/
opaque intakeTid : List Byte → Nat → Nat

/-- Section 0x0C: update programs. -/
opaque parseUpdates : List Byte → Option (List UpdateProgram)

/-- Section 0x0D: layouts with their shard descriptors and placement entries. -/
opaque parseLayouts : List Byte → Option (List Layout)

/-- Section 0x0E: frond table entries. -/
opaque parseFronds : List Byte → Option (List FrondInit)

/-- Section 0x11: layer stash entries and the addresses of their demand records. -/
opaque parseLayers : List Byte → Option (List LayerStash)

/-- Section 0x13: batch queues and request rings. -/
opaque parseQueues : List Byte → Option (List BatchQueue)

end Sys2Proof.Machine.Config
end

