-- ==== Sys2Proof/Machine/Bits.lean ====
section
/-!
DEFINITION. Bit fields of 64-bit words, little-endian byte order, the CRC-32C check of R175 and the SHAKE digests that
R169, R377 and R413 name.
-/

namespace Sys2Proof.Machine

/-- Bits [hi:lo] of a word, as a number. -/
def bits (w : Word) (hi lo : Nat) : Nat := w.toNat / 2 ^ lo % 2 ^ (hi + 1 - lo)

/-- One bit of a word. -/
def bit (w : Word) (i : Nat) : Bool := w.getLsbD i

/-- The mask of bits [hi:lo]. -/
def bitMask (hi lo : Nat) : Word := BitVec.ofNat 64 ((2 ^ (hi + 1 - lo) - 1) * 2 ^ lo)

/-- A word with bits [hi:lo] replaced by the low bits of a number. -/
def setBits (w : Word) (hi lo v : Nat) : Word :=
  (w &&& ~~~(bitMask hi lo)) ||| (BitVec.ofNat 64 (v * 2 ^ lo) &&& bitMask hi lo)

/-- The value 1 for true and 0 for false. -/
def b2n (b : Bool) : Nat := if b then 1 else 0

/-- The number of a little-endian byte list. -/
def leNat : List Byte → Nat
  | [] => 0
  | b :: bs => b.toNat + 256 * leNat bs

/-- `n` bytes of a number, least significant first. -/
def leBytes : Nat → Nat → List Byte
  | 0, _ => []
  | n + 1, v => BitVec.ofNat 8 v :: leBytes n (v / 256)

/-- A list of 64-bit words as little-endian bytes. -/
def wordBytes (ws : List Nat) : List Byte := ws.flatMap (leBytes 8)

/-- Word `i` of a little-endian byte list; missing bytes read 0. -/
def wordAt (bs : List Byte) (i : Nat) : Word := BitVec.ofNat 64 (leNat ((bs.drop (8 * i)).take 8))

/-- The exclusive or of two byte lists, to the length of the shorter. -/
def xorBytes (a b : List Byte) : List Byte := List.zipWith (fun x y => x ^^^ y) a b

/-! ### CRC-32C, R175 -/

/-- Eight steps of the reflected CRC register (polynomial 0x1EDC_6F41, reflected 0x82F6_3B78). -/
def crcBits : Nat → Word32 → Word32
  | 0, c => c
  | n + 1, c => crcBits n (if c.getLsbD 0 then (c >>> 1) ^^^ 0x82F63B78#32 else c >>> 1)

/-- The CRC register after a list of bytes. -/
def crcFold (c : Word32) (bs : List Byte) : Word32 :=
  bs.foldl (fun c b => crcBits 8 (c ^^^ b.setWidth 32)) c

/-- CRC-32C: initial value and final exclusive or 0xFFFF_FFFF (R175). -/
def crc32c (bs : List Byte) : Word32 := crcFold 0xFFFFFFFF#32 bs ^^^ 0xFFFFFFFF#32

/-! ### SHAKE128 and SHAKE256. PRESUMED: the permutation is Keccak-f[1600] of FIPS 202 (log entry 2). -/

/-- The rotation amounts of the rho step, lane x + 5y. -/
def keccakRot : List Nat :=
  [0, 1, 62, 28, 27, 36, 44, 6, 55, 20, 3, 10, 43, 25, 39, 41, 45, 15, 21, 8, 18, 2, 61, 56, 14]

/-- The round constants of the iota step. -/
def keccakRC : List Nat :=
  [0x0000000000000001, 0x0000000000008082, 0x800000000000808A, 0x8000000080008000,
   0x000000000000808B, 0x0000000080000001, 0x8000000080008081, 0x8000000000008009,
   0x000000000000008A, 0x0000000000000088, 0x0000000080008009, 0x000000008000000A,
   0x000000008000808B, 0x800000000000008B, 0x8000000000008089, 0x8000000000008003,
   0x8000000000008002, 0x8000000000000080, 0x000000000000800A, 0x800000008000000A,
   0x8000000080008081, 0x8000000000008080, 0x0000000080000001, 0x8000000080008008]

/-- One round of the permutation on 25 lanes. -/
def keccakRound (a : List Word) (rc : Nat) : List Word :=
  let lane (x y : Nat) : Word := a.getD (x + 5 * y) 0
  let col := (List.range 5).map fun x => lane x 0 ^^^ lane x 1 ^^^ lane x 2 ^^^ lane x 3 ^^^ lane x 4
  let d := (List.range 5).map fun x => col.getD ((x + 4) % 5) 0 ^^^ (col.getD ((x + 1) % 5) 0).rotateLeft 1
  let theta := (List.range 25).map fun i => a.getD i 0 ^^^ d.getD (i % 5) 0
  -- the lane that lands at (x, y) comes from (x + 3y mod 5, x)
  let b := (List.range 25).map fun i =>
    let x := i % 5
    let y := i / 5
    let j := (x + 3 * y) % 5 + 5 * x
    (theta.getD j 0).rotateLeft (keccakRot.getD j 0)
  let chi := (List.range 25).map fun i =>
    let x := i % 5
    let y := i / 5
    b.getD i 0 ^^^ (~~~(b.getD ((x + 1) % 5 + 5 * y) 0) &&& b.getD ((x + 2) % 5 + 5 * y) 0)
  match chi with
  | h :: t => (h ^^^ BitVec.ofNat 64 rc) :: t
  | [] => []

/-- The 24 rounds. -/
def keccakF (a : List Word) : List Word := keccakRC.foldl keccakRound a

/-- A state with one block of `rate` bytes added in. -/
def keccakXor (a : List Word) (blk : List Byte) : List Word :=
  (List.range 25).map fun i => a.getD i 0 ^^^ wordAt blk i

/-- Absorbing the blocks of a padded message; `fuel` counts the blocks. -/
def keccakAbsorb (rate : Nat) : Nat → List Byte → List Word → List Word
  | 0, _, a => a
  | n + 1, bs, a => keccakAbsorb rate n (bs.drop rate) (keccakF (keccakXor a (bs.take rate)))

/-- Squeezing `n` blocks. -/
def keccakSqueeze (rate : Nat) : Nat → List Word → List Byte
  | 0, _ => []
  | n + 1, a => (wordBytes (a.map BitVec.toNat)).take rate ++ keccakSqueeze rate n (keccakF a)

/-- SHAKE padding: 0x1F, zeros, and 0x80 in the last byte of the block. -/
def shakePad (rate : Nat) (bs : List Byte) : List Byte :=
  let fill := rate - bs.length % rate
  if fill = 1 then bs ++ [0x9F#8] else bs ++ 0x1F#8 :: List.replicate (fill - 2) 0#8 ++ [0x80#8]

/-- The SHAKE extendable output of a given rate. -/
def shake (rate : Nat) (bs : List Byte) (outLen : Nat) : List Byte :=
  let p := shakePad rate bs
  (keccakSqueeze rate (outLen / rate + 1) (keccakAbsorb rate (p.length / rate) p (List.replicate 25 0))).take outLen

/-- SHAKE128. -/
def shake128 (bs : List Byte) (outLen : Nat) : List Byte := shake 168 bs outLen

/-- SHAKE256. -/
def shake256 (bs : List Byte) (outLen : Nat) : List Byte := shake 136 bs outLen

end Sys2Proof.Machine
end

