-- ==== Sys2Proof/Machine/FMap.lean ====
section
/-!
DEFINITION. Sparse data by a number key: a list of key and value pairs in one canonical form, keys strictly rising and
no entry equal to what an unlisted key reads as, so that equal maps are equal lists. Registers, memory and the per-unit
records of the module are held in this form.
-/

namespace Sys2Proof.Machine

/-- A sparse map from numbers; what an unlisted key reads as is given where it is read. -/
abbrev FMap (α : Type) := List (Nat × α)

/-- The value at a key; an unlisted key reads as `d`. -/
def FMap.get {α : Type} (d : α) : FMap α → Nat → α
  | [], _ => d
  | (j, v) :: m, k => if j = k then v else FMap.get d m k

/-- The map without a key. -/
def FMap.erase {α : Type} : FMap α → Nat → FMap α
  | [], _ => []
  | (j, v) :: m, k => if j = k then FMap.erase m k else (j, v) :: FMap.erase m k

/-- A pair put at its place in rising order, before the first greater key. -/
def FMap.insert {α : Type} : FMap α → Nat → α → FMap α
  | [], k, v => [(k, v)]
  | (j, w) :: m, k, v =>
    if k < j then (k, v) :: (j, w) :: m
    else if j = k then (k, v) :: m
    else (j, w) :: FMap.insert m k v

/-- Writing the value an unlisted key reads as removes the entry. -/
def FMap.set {α : Type} [DecidableEq α] (d : α) (m : FMap α) (k : Nat) (v : α) : FMap α :=
  if v = d then FMap.erase m k else FMap.insert m k v

/-- The canonical form: keys strictly rising from above `lo`, no entry equal to the default. -/
def FMap.wfFrom {α : Type} [DecidableEq α] (d : α) : Nat → FMap α → Bool
  | _, [] => true
  | lo, (k, v) :: m => decide (lo ≤ k) && decide (v ≠ d) && FMap.wfFrom d (k + 1) m

/-- The canonical form of a whole map. -/
def FMap.wf {α : Type} [DecidableEq α] (d : α) (m : FMap α) : Bool := FMap.wfFrom d 0 m

/-- The pairs whose key lies in `lo ≤ key < hi`. -/
def FMap.range {α : Type} (m : FMap α) (lo hi : Nat) : FMap α :=
  m.filter fun p => decide (lo ≤ p.1) && decide (p.1 < hi)

/-- The keys listed. -/
def FMap.keys {α : Type} (m : FMap α) : List Nat := m.map (·.1)

end Sys2Proof.Machine
end

