-- ==== Sys2Proof/Machine/Mem.lean ====
section
/-!
DEFINITION. Memory: the bytes of the stack tier and the SRAM tier by device address (Table 6.1), and in the same form the
decrypted contents of the flash tier. A list of address and byte pairs in canonical form: addresses strictly rising, no
entry 0, since an unlisted address reads as 0 (the stack tier is zeroed in bring-up phase 6, R337; for the SRAM tier see log
entry 5).
-/

namespace Sys2Proof.Machine

/-- Memory contents. -/
abbrev Mem := List Host.Cell

/-- What an unlisted address reads as. -/
def unlistedByte : Byte := 0

/-- One byte. -/
def readByte (m : Mem) (a : Nat) : Byte := FMap.get unlistedByte m a

/-- The canonical form. -/
def Memory.wf (m : Mem) : Bool := FMap.wf unlistedByte m

/-- `n` bytes from `a`, given the cells at and above `a` in rising order. -/
def readFrom : Nat → Nat → Mem → List Byte
  | 0, _, _ => []
  | n + 1, a, [] => unlistedByte :: readFrom n (a + 1) []
  | n + 1, a, (k, v) :: c =>
    if k = a then v :: readFrom n (a + 1) c else unlistedByte :: readFrom n (a + 1) ((k, v) :: c)

/-- `n` bytes from address `a`: in one pass over cells in rising order, else address by address. Either way each byte is that of its
address. -/
def readBytes (m : Mem) (a n : Nat) : List Byte :=
  let c := FMap.range m a (a + n)
  if FMap.wfFrom unlistedByte a c then readFrom n a c else (List.range n).map fun i => readByte m (a + i)

/-- The cells of a run of bytes. -/
def cellsOf : Nat → List Byte → Mem
  | _, [] => []
  | a, b :: bs => if b = unlistedByte then cellsOf (a + 1) bs else (a, b) :: cellsOf (a + 1) bs

/-- A run of bytes written at address `a`. -/
def writeBytes (m : Mem) (a : Nat) (bs : List Byte) : Mem :=
  m.filter (fun c => decide (c.1 < a)) ++ cellsOf a bs ++ m.filter (fun c => decide (a + bs.length ≤ c.1))

/-! ### The address map, Table 6.1 -/

/-- End of the stack tier, 2 TiB. -/
def stackEnd : Nat := 0x020000000000

/-- First address of the SRAM tier. -/
def sramBase : Nat := 0x040000000000

/-- End of the SRAM tier, 64 windows of 96 MiB. -/
def sramEnd : Nat := 0x040180000000

/-- First address of the flash tier. -/
def flashBase : Nat := 0x800000000000

/-- End of the usable flash tier, 118 TiB (R181). -/
def flashEnd : Nat := 0xF60000000000

/-- The result area, the top 8 MiB of the stack tier (R327). -/
def resultArea : Nat := 0x01FFFF800000

/-- The three tiers. -/
inductive Tier where
  | stack | sram | flash
  deriving DecidableEq, Repr

/-- The tier of an address; none for an address outside every tier. -/
def tierOf (a : Nat) : Option Tier :=
  if a < stackEnd then some .stack
  else if sramBase ≤ a ∧ a < sramEnd then some .sram
  else if flashBase ≤ a ∧ a < flashEnd then some .flash
  else none

/-- Whether `n` bytes from `a` lie in one tier. -/
def inOneTier (a n : Nat) : Bool :=
  (tierOf a).isSome && (n == 0 || tierOf a == tierOf (a + n - 1))

/-- Whether `n` bytes from `a` lie wholly in the stack tier. -/
def inStackTier (a n : Nat) : Bool := decide (a + n ≤ stackEnd)

/-- Whether `n` bytes from `a` reach into the result area. -/
def touchesResults (a n : Nat) : Bool := decide (resultArea < a + n ∧ a < stackEnd)

/-- The stack that holds a stack-tier address, bits [40:37] (R158). -/
def stackOf (a : Nat) : Nat := a / 2 ^ 37 % 16

/-- The stack channel of an address, bits [12:8] (R158). -/
def channelOf (a : Nat) : Nat := a / 256 % 32

/-- The compute die whose window holds an SRAM address (R161). -/
def sramDie (a : Nat) : Nat := (a - sramBase) / 0x6000000

/-- The cluster, 2 × d + c, whose part of the window holds an SRAM address (R161). -/
def sramCluster (a : Nat) : Nat := (a - sramBase) / 0x3000000

/-- The first address of the core scratch of a flat core index 4 × d + 2 × c + k (R161). -/
def coreScratch (core : Nat) : Nat :=
  sramBase + 0x6000000 * (core / 4) + 0x3000000 * (core / 2 % 2) + 0x800000 * (core % 2)

/-- The first address of a cluster store, cluster 2 × d + c (R161). -/
def clusterStore (cl : Nat) : Nat := sramBase + 0x3000000 * cl + 0x1000000

/-- The logic die that holds an address. -/
def dieOf (a : Nat) : Nat :=
  match tierOf a with
  | some .stack => 64 + stackOf a
  | some .sram => sramDie a
  | some .flash => 92 + (let p := (a - flashBase) / 16384; (p / 31 + 1 + p % 31) % 32) / 8
  | none => 0

end Sys2Proof.Machine
end

