-- ==== Sys2Proof/Machine/Regs.lean ====
section
/-!
DEFINITION. The register map of the module: the name and BAR0 offset of every register (R13, Table 0.3 and the register
map of each block) and its fields with bits, access code (R17) and reset (R20), taken from the register tables of the spec,
block by block. A reserved bit belongs to no field.
-/

namespace Sys2Proof.Machine

/-- The access codes of Table 0.4. -/
inductive Access where
  | ro | rw | w1c | wo | st
  deriving DecidableEq, Repr

/-- The Reset column (R20): a value, a board strap, a value of the configuration image, or a number fixed per device. -/
inductive ResetVal where
  | val (v : Nat)
  | strap
  | image
  | fixed
  deriving DecidableEq, Repr

/-- A field: register offset, bits [hi:lo], access and reset. -/
structure Field where
  off   : Nat
  hi    : Nat
  lo    : Nat
  acc   : Access
  reset : ResetVal
  deriving DecidableEq, Repr

/-- A register or a family of registers: `count` at `stride`, each repeated `count2` times at `stride2`; the fields are
those of its first member. -/
structure RegRow where
  name    : String
  off     : Nat
  count   : Nat
  stride  : Nat
  count2  : Nat
  stride2 : Nat
  fields  : List Field
  deriving DecidableEq, Repr

/-- Register HST_ID (R333). -/
def Off.HST_ID : Nat := 0x0000000
def F.HST_ID_version : Field := ⟨Off.HST_ID, 15, 0, .ro, (.val 1)⟩
/-- Register HST_STATUS (R333). -/
def Off.HST_STATUS : Nat := 0x0000008
def F.HST_STATUS_device_ready : Field := ⟨Off.HST_STATUS, 0, 0, .ro, (.val 0)⟩
def F.HST_STATUS_plan_state : Field := ⟨Off.HST_STATUS, 3, 1, .ro, (.val 0)⟩
def F.HST_STATUS_safety_state : Field := ⟨Off.HST_STATUS, 5, 4, .ro, (.val 0)⟩
def F.HST_STATUS_pcie_mode : Field := ⟨Off.HST_STATUS, 6, 6, .ro, .image⟩
def F.HST_STATUS_stop_in_force : Field := ⟨Off.HST_STATUS, 7, 7, .ro, (.val 0)⟩
/-- Register HST_ERR_STATUS (R333). -/
def Off.HST_ERR_STATUS : Nat := 0x0000010
def F.HST_ERR_STATUS_access_error : Field := ⟨Off.HST_ERR_STATUS, 0, 0, .w1c, (.val 0)⟩
def F.HST_ERR_STATUS_aperture_error : Field := ⟨Off.HST_ERR_STATUS, 1, 1, .w1c, (.val 0)⟩
def F.HST_ERR_STATUS_doorbell_error : Field := ⟨Off.HST_ERR_STATUS, 2, 2, .w1c, (.val 0)⟩
def F.HST_ERR_STATUS_cmd_overrun : Field := ⟨Off.HST_ERR_STATUS, 3, 3, .w1c, (.val 0)⟩
def F.HST_ERR_STATUS_release_error : Field := ⟨Off.HST_ERR_STATUS, 4, 4, .w1c, (.val 0)⟩
def F.HST_ERR_STATUS_req_tail_error : Field := ⟨Off.HST_ERR_STATUS, 5, 5, .w1c, (.val 0)⟩
def F.HST_ERR_STATUS_req_dropped : Field := ⟨Off.HST_ERR_STATUS, 6, 6, .w1c, (.val 0)⟩
def F.HST_ERR_STATUS_report_dropped : Field := ⟨Off.HST_ERR_STATUS, 7, 7, .w1c, (.val 0)⟩
/-- Register HST_ACCESS_ERR (R333). -/
def Off.HST_ACCESS_ERR : Nat := 0x0000018
def F.HST_ACCESS_ERR_bar : Field := ⟨Off.HST_ACCESS_ERR, 1, 0, .ro, (.val 0)⟩
def F.HST_ACCESS_ERR_write : Field := ⟨Off.HST_ACCESS_ERR, 2, 2, .ro, (.val 0)⟩
def F.HST_ACCESS_ERR_size : Field := ⟨Off.HST_ACCESS_ERR, 6, 3, .ro, (.val 0)⟩
def F.HST_ACCESS_ERR_offset : Field := ⟨Off.HST_ACCESS_ERR, 48, 8, .ro, (.val 0)⟩
/-- Register HST_APERTURE (R333). -/
def Off.HST_APERTURE : Nat := 0x0000020
def F.HST_APERTURE_base : Field := ⟨Off.HST_APERTURE, 40, 30, .rw, (.val 0)⟩
/-- Register HST_APERTURE_B (R333). -/
def Off.HST_APERTURE_B : Nat := 0x0000028
def F.HST_APERTURE_B_base : Field := ⟨Off.HST_APERTURE_B, 40, 30, .rw, (.val 0)⟩
/-- Register HST_PLAN_ADDR (R333). -/
def Off.HST_PLAN_ADDR : Nat := 0x0000030
def F.HST_PLAN_ADDR_addr : Field := ⟨Off.HST_PLAN_ADDR, 47, 12, .rw, (.val 0)⟩
/-- Register HST_PLAN_LEN (R333). -/
def Off.HST_PLAN_LEN : Nat := 0x0000038
def F.HST_PLAN_LEN_bytes : Field := ⟨Off.HST_PLAN_LEN, 39, 0, .rw, (.val 0)⟩
/-- Register HST_CMD_STATUS (R333). -/
def Off.HST_CMD_STATUS : Nat := 0x0000040
def F.HST_CMD_STATUS_tag : Field := ⟨Off.HST_CMD_STATUS, 47, 0, .ro, (.val 0)⟩
def F.HST_CMD_STATUS_command : Field := ⟨Off.HST_CMD_STATUS, 51, 48, .ro, (.val 0)⟩
def F.HST_CMD_STATUS_result : Field := ⟨Off.HST_CMD_STATUS, 55, 52, .ro, (.val 0)⟩
/-- Register HST_PLAN_FAIL (R333). -/
def Off.HST_PLAN_FAIL : Nat := 0x0000048
def F.HST_PLAN_FAIL_code : Field := ⟨Off.HST_PLAN_FAIL, 3, 0, .ro, (.val 0)⟩
def F.HST_PLAN_FAIL_section : Field := ⟨Off.HST_PLAN_FAIL, 11, 4, .ro, (.val 0)⟩
def F.HST_PLAN_FAIL_item : Field := ⟨Off.HST_PLAN_FAIL, 43, 12, .ro, (.val 0)⟩
/-- Register HST_PLAN_PROGRESS (R333). -/
def Off.HST_PLAN_PROGRESS : Nat := 0x0000050
def F.HST_PLAN_PROGRESS_iteration : Field := ⟨Off.HST_PLAN_PROGRESS, 31, 0, .ro, (.val 0)⟩
def F.HST_PLAN_PROGRESS_step : Field := ⟨Off.HST_PLAN_PROGRESS, 63, 32, .ro, (.val 0)⟩
/-- Register HST_RESULT_SEQ (R333). -/
def Off.HST_RESULT_SEQ : Nat := 0x0000058
def F.HST_RESULT_SEQ_next : Field := ⟨Off.HST_RESULT_SEQ, 47, 0, .ro, (.val 1)⟩
/-- Register HST_REPORT_DROP (R333). -/
def Off.HST_REPORT_DROP : Nat := 0x0000060
def F.HST_REPORT_DROP_count : Field := ⟨Off.HST_REPORT_DROP, 63, 0, .ro, (.val 0)⟩
/-- Register HST_REQ_DROP (R333). -/
def Off.HST_REQ_DROP : Nat := 0x0000068
def F.HST_REQ_DROP_count : Field := ⟨Off.HST_REQ_DROP, 63, 0, .ro, (.val 0)⟩
/-- Register HST_IRQ_PENDING (R333). -/
def Off.HST_IRQ_PENDING : Nat := 0x0000070
def F.HST_IRQ_PENDING_pending : Field := ⟨Off.HST_IRQ_PENDING, 13, 0, .w1c, (.val 0)⟩
/-- Register HST_IRQ_COALESCE (R333). -/
def Off.HST_IRQ_COALESCE : Nat := 0x0000078
def F.HST_IRQ_COALESCE_interval_us : Field := ⟨Off.HST_IRQ_COALESCE, 15, 0, .rw, (.val 0)⟩
/-- Register HST_IRQ_MAP (R333). -/
def Off.HST_IRQ_MAP (i : Nat) : Nat := 0x0000100 + 8 * i
def F.HST_IRQ_MAP_vector (i : Nat) : Field := ⟨(Off.HST_IRQ_MAP i), 3, 0, .rw, (.val 0)⟩
def F.HST_IRQ_MAP_enable (i : Nat) : Field := ⟨(Off.HST_IRQ_MAP i), 8, 8, .rw, (.val 0)⟩
/-- Register HST_RESULT_READY (R333). -/
def Off.HST_RESULT_READY (i : Nat) : Nat := 0x0000200 + 8 * i
def F.HST_RESULT_READY_ready (i : Nat) : Field := ⟨(Off.HST_RESULT_READY i), 63, 0, .ro, (.val 0)⟩
/-- Register HST_REQ_HEAD (R333). -/
def Off.HST_REQ_HEAD (i : Nat) : Nat := 0x0000400 + 8 * i
def F.HST_REQ_HEAD_head (i : Nat) : Field := ⟨(Off.HST_REQ_HEAD i), 31, 0, .ro, (.val 0)⟩
def F.HST_REQ_HEAD_tail (i : Nat) : Field := ⟨(Off.HST_REQ_HEAD i), 63, 32, .ro, (.val 0)⟩
/-- Register CTL_ID (R355). -/
def Off.CTL_ID : Nat := 0x0100000
def F.CTL_ID_version : Field := ⟨Off.CTL_ID, 15, 0, .ro, (.val 1)⟩
/-- Register CTL_STATUS (R355). -/
def Off.CTL_STATUS : Nat := 0x0100008
def F.CTL_STATUS_device_ready : Field := ⟨Off.CTL_STATUS, 0, 0, .ro, (.val 0)⟩
def F.CTL_STATUS_config_source : Field := ⟨Off.CTL_STATUS, 2, 1, .ro, (.val 0)⟩
def F.CTL_STATUS_bringup_fail : Field := ⟨Off.CTL_STATUS, 3, 3, .ro, (.val 0)⟩
def F.CTL_STATUS_crozier_done : Field := ⟨Off.CTL_STATUS, 4, 4, .w1c, (.val 0)⟩
def F.CTL_STATUS_crozier_discarded : Field := ⟨Off.CTL_STATUS, 5, 5, .w1c, (.val 0)⟩
def F.CTL_STATUS_stage_refused : Field := ⟨Off.CTL_STATUS, 6, 6, .w1c, (.val 0)⟩
def F.CTL_STATUS_commit_busy : Field := ⟨Off.CTL_STATUS, 7, 7, .w1c, (.val 0)⟩
def F.CTL_STATUS_abort_late : Field := ⟨Off.CTL_STATUS, 8, 8, .w1c, (.val 0)⟩
def F.CTL_STATUS_cfg_done : Field := ⟨Off.CTL_STATUS, 9, 9, .w1c, (.val 0)⟩
def F.CTL_STATUS_cfg_fail : Field := ⟨Off.CTL_STATUS, 10, 10, .w1c, (.val 0)⟩
/-- Register CTL_BRINGUP (R355). -/
def Off.CTL_BRINGUP : Nat := 0x0100010
def F.CTL_BRINGUP_phase : Field := ⟨Off.CTL_BRINGUP, 3, 0, .ro, (.val 0)⟩
def F.CTL_BRINGUP_fail : Field := ⟨Off.CTL_BRINGUP, 7, 4, .ro, (.val 0)⟩
def F.CTL_BRINGUP_die : Field := ⟨Off.CTL_BRINGUP, 14, 8, .ro, (.val 0)⟩
def F.CTL_BRINGUP_ready_ms : Field := ⟨Off.CTL_BRINGUP, 31, 16, .ro, (.val 0)⟩
/-- Register CTL_STRAPS (R355). -/
def Off.CTL_STRAPS : Nat := 0x0100018
def F.CTL_STRAPS_chain_head : Field := ⟨Off.CTL_STRAPS, 0, 0, .ro, .strap⟩
def F.CTL_STRAPS_feed_id : Field := ⟨Off.CTL_STRAPS, 3, 1, .ro, .strap⟩
def F.CTL_STRAPS_slot_id : Field := ⟨Off.CTL_STRAPS, 9, 4, .ro, .strap⟩
/-- Register CTL_IMAGE_A (R355). -/
def Off.CTL_IMAGE_A : Nat := 0x0100020
def F.CTL_IMAGE_A_sequence : Field := ⟨Off.CTL_IMAGE_A, 31, 0, .ro, (.val 0)⟩
def F.CTL_IMAGE_A_valid : Field := ⟨Off.CTL_IMAGE_A, 32, 32, .ro, (.val 0)⟩
def F.CTL_IMAGE_A_reason : Field := ⟨Off.CTL_IMAGE_A, 35, 33, .ro, (.val 0)⟩
def F.CTL_IMAGE_A_selected : Field := ⟨Off.CTL_IMAGE_A, 36, 36, .ro, (.val 0)⟩
/-- Register CTL_IMAGE_B (R355). -/
def Off.CTL_IMAGE_B : Nat := 0x0100028
def F.CTL_IMAGE_B_sequence : Field := ⟨Off.CTL_IMAGE_B, 31, 0, .ro, (.val 0)⟩
def F.CTL_IMAGE_B_valid : Field := ⟨Off.CTL_IMAGE_B, 32, 32, .ro, (.val 0)⟩
def F.CTL_IMAGE_B_reason : Field := ⟨Off.CTL_IMAGE_B, 35, 33, .ro, (.val 0)⟩
def F.CTL_IMAGE_B_selected : Field := ⟨Off.CTL_IMAGE_B, 36, 36, .ro, (.val 0)⟩
/-- Register CTL_CLAIM (R355). -/
def Off.CTL_CLAIM : Nat := 0x0100030
def F.CTL_CLAIM_owner : Field := ⟨Off.CTL_CLAIM, 1, 0, .ro, (.val 0)⟩
def F.CTL_CLAIM_host_claim : Field := ⟨Off.CTL_CLAIM, 8, 8, .rw, (.val 0)⟩
/-- Register CTL_COMMIT (R355). -/
def Off.CTL_COMMIT : Nat := 0x0100038
def F.CTL_COMMIT_op : Field := ⟨Off.CTL_COMMIT, 1, 0, .wo, (.val 0)⟩
def F.CTL_COMMIT_at_slot : Field := ⟨Off.CTL_COMMIT, 2, 2, .wo, (.val 0)⟩
def F.CTL_COMMIT_target : Field := ⟨Off.CTL_COMMIT, 63, 8, .wo, (.val 0)⟩
/-- Register CTL_CROZIER (R355). -/
def Off.CTL_CROZIER : Nat := 0x0100040
def F.CTL_CROZIER_state : Field := ⟨Off.CTL_CROZIER, 1, 0, .ro, (.val 0)⟩
def F.CTL_CROZIER_result : Field := ⟨Off.CTL_CROZIER, 7, 4, .ro, (.val 0)⟩
def F.CTL_CROZIER_changed : Field := ⟨Off.CTL_CROZIER, 13, 8, .ro, (.val 0)⟩
def F.CTL_CROZIER_offset : Field := ⟨Off.CTL_CROZIER, 41, 16, .ro, (.val 0)⟩
/-- Register CTL_CROZIER_SLOT (R355). -/
def Off.CTL_CROZIER_SLOT : Nat := 0x0100048
def F.CTL_CROZIER_SLOT_slot : Field := ⟨Off.CTL_CROZIER_SLOT, 55, 0, .ro, (.val 0)⟩
/-- Register CTL_CROZIER_CNT (R355). -/
def Off.CTL_CROZIER_CNT : Nat := 0x0100050
def F.CTL_CROZIER_CNT_committed : Field := ⟨Off.CTL_CROZIER_CNT, 31, 0, .ro, (.val 0)⟩
def F.CTL_CROZIER_CNT_discarded : Field := ⟨Off.CTL_CROZIER_CNT, 63, 32, .ro, (.val 0)⟩
/-- Register CTL_CFG_PROG (R355). -/
def Off.CTL_CFG_PROG : Nat := 0x0100058
def F.CTL_CFG_PROG_addr : Field := ⟨Off.CTL_CFG_PROG, 47, 12, .rw, (.val 0)⟩
def F.CTL_CFG_PROG_copy : Field := ⟨Off.CTL_CFG_PROG, 48, 48, .rw, (.val 0)⟩
/-- Register CTL_CFG_LEN (R355). -/
def Off.CTL_CFG_LEN : Nat := 0x0100060
def F.CTL_CFG_LEN_bytes : Field := ⟨Off.CTL_CFG_LEN, 24, 0, .rw, (.val 0)⟩
def F.CTL_CFG_LEN_start : Field := ⟨Off.CTL_CFG_LEN, 63, 63, .wo, (.val 0)⟩
/-- Register CTL_CFG_STATUS (R355). -/
def Off.CTL_CFG_STATUS : Nat := 0x0100068
def F.CTL_CFG_STATUS_state : Field := ⟨Off.CTL_CFG_STATUS, 1, 0, .ro, (.val 0)⟩
def F.CTL_CFG_STATUS_result : Field := ⟨Off.CTL_CFG_STATUS, 5, 2, .ro, (.val 0)⟩
def F.CTL_CFG_STATUS_reason : Field := ⟨Off.CTL_CFG_STATUS, 8, 6, .ro, (.val 0)⟩
def F.CTL_CFG_STATUS_done_bytes : Field := ⟨Off.CTL_CFG_STATUS, 40, 16, .ro, (.val 0)⟩
/-- Register PWR_ID (R383). -/
def Off.PWR_ID : Nat := 0x0200000
def F.PWR_ID_version : Field := ⟨Off.PWR_ID, 15, 0, .ro, (.val 1)⟩
/-- Register PWR_STATUS (R383). -/
def Off.PWR_STATUS : Nat := 0x0200008
def F.PWR_STATUS_sprint_active : Field := ⟨Off.PWR_STATUS, 0, 0, .ro, (.val 0)⟩
def F.PWR_STATUS_at_floor : Field := ⟨Off.PWR_STATUS, 1, 1, .ro, (.val 0)⟩
def F.PWR_STATUS_over_ceiling : Field := ⟨Off.PWR_STATUS, 2, 2, .w1c, (.val 0)⟩
def F.PWR_STATUS_over_peak : Field := ⟨Off.PWR_STATUS, 3, 3, .w1c, (.val 0)⟩
def F.PWR_STATUS_late_cut : Field := ⟨Off.PWR_STATUS, 4, 4, .w1c, (.val 0)⟩
def F.PWR_STATUS_envelope_hold : Field := ⟨Off.PWR_STATUS, 5, 5, .w1c, (.val 0)⟩
def F.PWR_STATUS_input_range : Field := ⟨Off.PWR_STATUS, 6, 6, .w1c, (.val 0)⟩
def F.PWR_STATUS_meter_fault : Field := ⟨Off.PWR_STATUS, 7, 7, .w1c, (.val 0)⟩
def F.PWR_STATUS_sig_ready : Field := ⟨Off.PWR_STATUS, 8, 8, .w1c, (.val 0)⟩
def F.PWR_STATUS_journal_fault : Field := ⟨Off.PWR_STATUS, 9, 9, .w1c, (.val 0)⟩
/-- Register PWR_INPUT (R383). -/
def Off.PWR_INPUT : Nat := 0x0200010
def F.PWR_INPUT_vin : Field := ⟨Off.PWR_INPUT, 15, 0, .ro, (.val 0)⟩
def F.PWR_INPUT_iin : Field := ⟨Off.PWR_INPUT, 31, 16, .ro, (.val 0)⟩
def F.PWR_INPUT_check_w : Field := ⟨Off.PWR_INPUT, 47, 32, .ro, (.val 0)⟩
/-- Register PWR_DRAW (R383). -/
def Off.PWR_DRAW : Nat := 0x0200018
def F.PWR_DRAW_block_w : Field := ⟨Off.PWR_DRAW, 15, 0, .ro, (.val 0)⟩
def F.PWR_DRAW_avg_w : Field := ⟨Off.PWR_DRAW, 31, 16, .ro, (.val 0)⟩
def F.PWR_DRAW_ceiling_w : Field := ⟨Off.PWR_DRAW, 47, 32, .ro, (.val 0)⟩
def F.PWR_DRAW_ceiling_avg_w : Field := ⟨Off.PWR_DRAW, 63, 48, .ro, (.val 0)⟩
/-- Register PWR_GOV (R383). -/
def Off.PWR_GOV : Nat := 0x0200020
def F.PWR_GOV_setpoint_mv : Field := ⟨Off.PWR_GOV, 9, 0, .ro, (.val 0)⟩
def F.PWR_GOV_depth : Field := ⟨Off.PWR_GOV, 15, 10, .ro, (.val 0)⟩
def F.PWR_GOV_cap : Field := ⟨Off.PWR_GOV, 32, 16, .ro, (.val 65536)⟩
def F.PWR_GOV_slewing : Field := ⟨Off.PWR_GOV, 33, 33, .ro, (.val 0)⟩
def F.PWR_GOV_limit_mv : Field := ⟨Off.PWR_GOV, 43, 34, .ro, (.val 0)⟩
/-- Register PWR_MINUTE (R383). -/
def Off.PWR_MINUTE : Nat := 0x0200028
def F.PWR_MINUTE_minute : Field := ⟨Off.PWR_MINUTE, 31, 0, .ro, (.val 0)⟩
/-- Register PWR_MINUTE_SLOT (R383). -/
def Off.PWR_MINUTE_SLOT : Nat := 0x0200030
def F.PWR_MINUTE_SLOT_slot : Field := ⟨Off.PWR_MINUTE_SLOT, 55, 0, .ro, (.val 0)⟩
/-- Register PWR_ENERGY (R383). -/
def Off.PWR_ENERGY : Nat := 0x0200038
def F.PWR_ENERGY_mj : Field := ⟨Off.PWR_ENERGY, 63, 0, .ro, (.val 0)⟩
/-- Register PWR_SCHED_CTL (R383). -/
def Off.PWR_SCHED_CTL : Nat := 0x0200040
def F.PWR_SCHED_CTL_first_minute : Field := ⟨Off.PWR_SCHED_CTL, 31, 0, .st, .image⟩
def F.PWR_SCHED_CTL_count : Field := ⟨Off.PWR_SCHED_CTL, 42, 32, .st, .image⟩
def F.PWR_SCHED_CTL_tail_w : Field := ⟨Off.PWR_SCHED_CTL, 63, 48, .st, .image⟩
/-- Register PWR_THROTTLE (R383). -/
def Off.PWR_THROTTLE : Nat := 0x0200048
def F.PWR_THROTTLE_cap_w : Field := ⟨Off.PWR_THROTTLE, 15, 0, .st, .image⟩
def F.PWR_THROTTLE_vmax : Field := ⟨Off.PWR_THROTTLE, 25, 16, .st, .image⟩
def F.PWR_THROTTLE_sprint_en : Field := ⟨Off.PWR_THROTTLE, 26, 26, .st, .image⟩
/-- Register PWR_REC_HEAD (R383). -/
def Off.PWR_REC_HEAD : Nat := 0x0200050
def F.PWR_REC_HEAD_next : Field := ⟨Off.PWR_REC_HEAD, 63, 0, .ro, (.val 0)⟩
/-- Register PWR_SIG_HEAD (R383). -/
def Off.PWR_SIG_HEAD : Nat := 0x0200058
def F.PWR_SIG_HEAD_index : Field := ⟨Off.PWR_SIG_HEAD, 63, 0, .ro, (.val 0)⟩
/-- Register PWR_BOOT (R383). -/
def Off.PWR_BOOT : Nat := 0x0200060
def F.PWR_BOOT_boot : Field := ⟨Off.PWR_BOOT, 31, 0, .ro, (.val 0)⟩
/-- Register PWR_MCTP (R383). -/
def Off.PWR_MCTP : Nat := 0x0200068
def F.PWR_MCTP_address : Field := ⟨Off.PWR_MCTP, 6, 0, .ro, (.val 0)⟩
def F.PWR_MCTP_assigned : Field := ⟨Off.PWR_MCTP, 7, 7, .ro, (.val 0)⟩
def F.PWR_MCTP_enterprise : Field := ⟨Off.PWR_MCTP, 63, 32, .ro, (.val 61734)⟩
/-- Register PWR_BREACH_CNT (R383). -/
def Off.PWR_BREACH_CNT : Nat := 0x0200070
def F.PWR_BREACH_CNT_avg : Field := ⟨Off.PWR_BREACH_CNT, 31, 0, .ro, (.val 0)⟩
def F.PWR_BREACH_CNT_peak : Field := ⟨Off.PWR_BREACH_CNT, 63, 32, .ro, (.val 0)⟩
/-- Register PWR_SCHED (R383). -/
def Off.PWR_SCHED (i : Nat) : Nat := 0x0201000 + 8 * i
def F.PWR_SCHED_ceilings (i : Nat) : Field := ⟨(Off.PWR_SCHED i), 63, 0, .st, .image⟩
/-- Register SAF_ID (R403). -/
def Off.SAF_ID : Nat := 0x0300000
def F.SAF_ID_version : Field := ⟨Off.SAF_ID, 15, 0, .ro, (.val 1)⟩
/-- Register SAF_STATUS (R403). -/
def Off.SAF_STATUS : Nat := 0x0300008
def F.SAF_STATUS_state : Field := ⟨Off.SAF_STATUS, 1, 0, .ro, (.val 0)⟩
def F.SAF_STATUS_single_control : Field := ⟨Off.SAF_STATUS, 2, 2, .ro, (.val 0)⟩
def F.SAF_STATUS_fault_seen : Field := ⟨Off.SAF_STATUS, 3, 3, .w1c, (.val 0)⟩
def F.SAF_STATUS_hold_entered : Field := ⟨Off.SAF_STATUS, 4, 4, .w1c, (.val 0)⟩
def F.SAF_STATUS_thermal_warn : Field := ⟨Off.SAF_STATUS, 5, 5, .ro, (.val 0)⟩
def F.SAF_STATUS_sensor_fault : Field := ⟨Off.SAF_STATUS, 6, 6, .w1c, (.val 0)⟩
def F.SAF_STATUS_single_control_seen : Field := ⟨Off.SAF_STATUS, 7, 7, .w1c, (.val 0)⟩
def F.SAF_STATUS_bist_fail : Field := ⟨Off.SAF_STATUS, 8, 8, .w1c, (.val 0)⟩
def F.SAF_STATUS_bist_refused : Field := ⟨Off.SAF_STATUS, 9, 9, .w1c, (.val 0)⟩
def F.SAF_STATUS_resume_refused : Field := ⟨Off.SAF_STATUS, 10, 10, .w1c, (.val 0)⟩
/-- Register SAF_HOLD (R403). -/
def Off.SAF_HOLD : Nat := 0x0300010
def F.SAF_HOLD_pending : Field := ⟨Off.SAF_HOLD, 13, 0, .ro, (.val 0)⟩
def F.SAF_HOLD_first : Field := ⟨Off.SAF_HOLD, 21, 16, .ro, (.val 0)⟩
/-- Register SAF_RESUME (R403). -/
def Off.SAF_RESUME : Nat := 0x0300018
def F.SAF_RESUME_release : Field := ⟨Off.SAF_RESUME, 13, 0, .wo, (.val 0)⟩
/-- Register SAF_LAST_TRIP (R403). -/
def Off.SAF_LAST_TRIP : Nat := 0x0300020
def F.SAF_LAST_TRIP_code : Field := ⟨Off.SAF_LAST_TRIP, 5, 0, .ro, (.val 0)⟩
def F.SAF_LAST_TRIP_both_detectors : Field := ⟨Off.SAF_LAST_TRIP, 6, 6, .ro, (.val 0)⟩
/-- Register SAF_THERMAL (R403). -/
def Off.SAF_THERMAL : Nat := 0x0300028
def F.SAF_THERMAL_hottest_c : Field := ⟨Off.SAF_THERMAL, 7, 0, .ro, (.val 0)⟩
def F.SAF_THERMAL_die : Field := ⟨Off.SAF_THERMAL, 14, 8, .ro, (.val 0)⟩
def F.SAF_THERMAL_flow : Field := ⟨Off.SAF_THERMAL, 31, 16, .ro, (.val 0)⟩
def F.SAF_THERMAL_single_sensor : Field := ⟨Off.SAF_THERMAL, 63, 32, .ro, (.val 0)⟩
/-- Register SAF_CONTROL (R403). -/
def Off.SAF_CONTROL : Nat := 0x0300030
def F.SAF_CONTROL_fenced_die : Field := ⟨Off.SAF_CONTROL, 6, 0, .ro, (.val 0)⟩
def F.SAF_CONTROL_disagreements : Field := ⟨Off.SAF_CONTROL, 47, 32, .ro, (.val 0)⟩
def F.SAF_CONTROL_transients : Field := ⟨Off.SAF_CONTROL, 63, 48, .ro, (.val 0)⟩
/-- Register SAF_POLICY (R403). -/
def Off.SAF_POLICY : Nat := 0x0300038
def F.SAF_POLICY_bist_en : Field := ⟨Off.SAF_POLICY, 0, 0, .st, .image⟩
def F.SAF_POLICY_auto_retrain : Field := ⟨Off.SAF_POLICY, 1, 1, .st, .image⟩
def F.SAF_POLICY_bist_period_h : Field := ⟨Off.SAF_POLICY, 11, 2, .st, .image⟩
def F.SAF_POLICY_lzc_interval_s : Field := ⟨Off.SAF_POLICY, 23, 12, .st, .image⟩
def F.SAF_POLICY_scal_interval_h : Field := ⟨Off.SAF_POLICY, 31, 24, .st, .image⟩
def F.SAF_POLICY_key_rotate_h : Field := ⟨Off.SAF_POLICY, 45, 32, .st, .image⟩
def F.SAF_POLICY_flow_min : Field := ⟨Off.SAF_POLICY, 51, 46, .st, .image⟩
/-- Register SAF_MAINT (R403). -/
def Off.SAF_MAINT : Nat := 0x0300040
def F.SAF_MAINT_running : Field := ⟨Off.SAF_MAINT, 8, 0, .ro, (.val 0)⟩
def F.SAF_MAINT_waiting : Field := ⟨Off.SAF_MAINT, 24, 16, .ro, (.val 0)⟩
/-- Register SAF_BIST_CMD (R403). -/
def Off.SAF_BIST_CMD : Nat := 0x0300048
def F.SAF_BIST_CMD_kind : Field := ⟨Off.SAF_BIST_CMD, 2, 0, .wo, (.val 0)⟩
def F.SAF_BIST_CMD_unit : Field := ⟨Off.SAF_BIST_CMD, 23, 3, .wo, (.val 0)⟩
/-- Register SAF_BIST_STATUS (R403). -/
def Off.SAF_BIST_STATUS : Nat := 0x0300050
def F.SAF_BIST_STATUS_kind : Field := ⟨Off.SAF_BIST_STATUS, 2, 0, .ro, (.val 0)⟩
def F.SAF_BIST_STATUS_unit : Field := ⟨Off.SAF_BIST_STATUS, 23, 3, .ro, (.val 0)⟩
def F.SAF_BIST_STATUS_verdict : Field := ⟨Off.SAF_BIST_STATUS, 25, 24, .ro, (.val 0)⟩
def F.SAF_BIST_STATUS_abandoned : Field := ⟨Off.SAF_BIST_STATUS, 47, 32, .ro, (.val 0)⟩
def F.SAF_BIST_STATUS_failed : Field := ⟨Off.SAF_BIST_STATUS, 63, 48, .ro, (.val 0)⟩
/-- Register SAF_FAULT_CNT (R403). -/
def Off.SAF_FAULT_CNT : Nat := 0x0300058
def F.SAF_FAULT_CNT_count : Field := ⟨Off.SAF_FAULT_CNT, 63, 0, .ro, (.val 0)⟩
/-- Register SAF_LOG_HEAD (R403). -/
def Off.SAF_LOG_HEAD : Nat := 0x0300060
def F.SAF_LOG_HEAD_head : Field := ⟨Off.SAF_LOG_HEAD, 31, 0, .ro, (.val 0)⟩
/-- Register SEC_ID (R423). -/
def Off.SEC_ID : Nat := 0x0400000
def F.SEC_ID_version : Field := ⟨Off.SEC_ID, 15, 0, .ro, (.val 1)⟩
/-- Register SEC_STATUS (R423). -/
def Off.SEC_STATUS : Nat := 0x0400008
def F.SEC_STATUS_cmd_done : Field := ⟨Off.SEC_STATUS, 0, 0, .w1c, (.val 0)⟩
def F.SEC_STATUS_cmd_overrun : Field := ⟨Off.SEC_STATUS, 1, 1, .w1c, (.val 0)⟩
def F.SEC_STATUS_alarm_seen : Field := ⟨Off.SEC_STATUS, 2, 2, .w1c, (.val 0)⟩
def F.SEC_STATUS_lock : Field := ⟨Off.SEC_STATUS, 3, 3, .ro, (.val 0)⟩
def F.SEC_STATUS_erased_seen : Field := ⟨Off.SEC_STATUS, 4, 4, .w1c, (.val 0)⟩
def F.SEC_STATUS_store_mismatch : Field := ⟨Off.SEC_STATUS, 5, 5, .ro, (.val 0)⟩
def F.SEC_STATUS_mesh_breach : Field := ⟨Off.SEC_STATUS, 6, 6, .ro, (.val 0)⟩
def F.SEC_STATUS_identity_present : Field := ⟨Off.SEC_STATUS, 7, 7, .ro, (.val 0)⟩
def F.SEC_STATUS_cert_valid : Field := ⟨Off.SEC_STATUS, 8, 8, .ro, (.val 0)⟩
/-- Register SEC_LIFECYCLE (R423). -/
def Off.SEC_LIFECYCLE : Nat := 0x0400010
def F.SEC_LIFECYCLE_state : Field := ⟨Off.SEC_LIFECYCLE, 3, 0, .ro, (.val 0)⟩
def F.SEC_LIFECYCLE_t : Field := ⟨Off.SEC_LIFECYCLE, 7, 4, .ro, (.val 0)⟩
def F.SEC_LIFECYCLE_owner_life : Field := ⟨Off.SEC_LIFECYCLE, 9, 8, .ro, (.val 0)⟩
/-- Register SEC_SERIAL (R423). -/
def Off.SEC_SERIAL : Nat := 0x0400018
def F.SEC_SERIAL_serial : Field := ⟨Off.SEC_SERIAL, 63, 0, .ro, .fixed⟩
/-- Register SEC_CMD_ADDR (R423). -/
def Off.SEC_CMD_ADDR : Nat := 0x0400020
def F.SEC_CMD_ADDR_addr : Field := ⟨Off.SEC_CMD_ADDR, 47, 12, .rw, (.val 0)⟩
/-- Register SEC_CMD (R423). -/
def Off.SEC_CMD : Nat := 0x0400028
def F.SEC_CMD_op : Field := ⟨Off.SEC_CMD, 3, 0, .wo, (.val 0)⟩
def F.SEC_CMD_tag : Field := ⟨Off.SEC_CMD, 63, 16, .wo, (.val 0)⟩
/-- Register SEC_CMD_STATUS (R423). -/
def Off.SEC_CMD_STATUS : Nat := 0x0400030
def F.SEC_CMD_STATUS_tag : Field := ⟨Off.SEC_CMD_STATUS, 47, 0, .ro, (.val 0)⟩
def F.SEC_CMD_STATUS_op : Field := ⟨Off.SEC_CMD_STATUS, 51, 48, .ro, (.val 0)⟩
def F.SEC_CMD_STATUS_state : Field := ⟨Off.SEC_CMD_STATUS, 53, 52, .ro, (.val 0)⟩
def F.SEC_CMD_STATUS_result : Field := ⟨Off.SEC_CMD_STATUS, 57, 54, .ro, (.val 0)⟩
/-- Register SEC_KEY (R423). -/
def Off.SEC_KEY : Nat := 0x0400038
def F.SEC_KEY_key_loaded : Field := ⟨Off.SEC_KEY, 0, 0, .ro, (.val 0)⟩
def F.SEC_KEY_session_valid : Field := ⟨Off.SEC_KEY, 1, 1, .ro, (.val 0)⟩
/-- Register SEC_KEY_ID (R423). -/
def Off.SEC_KEY_ID : Nat := 0x0400040
def F.SEC_KEY_ID_key_id : Field := ⟨Off.SEC_KEY_ID, 63, 0, .ro, (.val 0)⟩
/-- Register SEC_KEY_COMMIT (R423). -/
def Off.SEC_KEY_COMMIT : Nat := 0x0400048
def F.SEC_KEY_COMMIT_commitment : Field := ⟨Off.SEC_KEY_COMMIT, 63, 0, .ro, (.val 0)⟩
/-- Register SEC_ROLLBACK (R423). -/
def Off.SEC_ROLLBACK : Nat := 0x0400050
def F.SEC_ROLLBACK_floor : Field := ⟨Off.SEC_ROLLBACK, 31, 0, .ro, (.val 0)⟩
def F.SEC_ROLLBACK_used : Field := ⟨Off.SEC_ROLLBACK, 36, 32, .ro, (.val 0)⟩
/-- Register SEC_TOKEN_NONCE (R423). -/
def Off.SEC_TOKEN_NONCE : Nat := 0x0400058
def F.SEC_TOKEN_NONCE_nonce : Field := ⟨Off.SEC_TOKEN_NONCE, 63, 0, .ro, (.val 0)⟩
/-- Register SEC_ALARM (R423). -/
def Off.SEC_ALARM : Nat := 0x0400060
def F.SEC_ALARM_class : Field := ⟨Off.SEC_ALARM, 1, 0, .ro, (.val 0)⟩
def F.SEC_ALARM_trigger : Field := ⟨Off.SEC_ALARM, 5, 2, .ro, (.val 0)⟩
/-- Register SEC_ALARM_SLOT (R423). -/
def Off.SEC_ALARM_SLOT : Nat := 0x0400068
def F.SEC_ALARM_SLOT_slot : Field := ⟨Off.SEC_ALARM_SLOT, 55, 0, .ro, (.val 0)⟩
/-- Register SEC_ALARM_CNT (R423). -/
def Off.SEC_ALARM_CNT : Nat := 0x0400070
def F.SEC_ALARM_CNT_class1 : Field := ⟨Off.SEC_ALARM_CNT, 31, 0, .ro, (.val 0)⟩
def F.SEC_ALARM_CNT_class2 : Field := ⟨Off.SEC_ALARM_CNT, 47, 32, .ro, (.val 0)⟩
def F.SEC_ALARM_CNT_class3 : Field := ⟨Off.SEC_ALARM_CNT, 63, 48, .ro, (.val 0)⟩
/-- Register SEC_MESH (R423). -/
def Off.SEC_MESH : Nat := 0x0400078
def F.SEC_MESH_trace0 : Field := ⟨Off.SEC_MESH, 15, 0, .ro, (.val 0)⟩
def F.SEC_MESH_trace1 : Field := ⟨Off.SEC_MESH, 31, 16, .ro, (.val 0)⟩
def F.SEC_MESH_found_at_power_up : Field := ⟨Off.SEC_MESH, 32, 32, .ro, (.val 0)⟩
/-- Register LCH_ID (R155). -/
def Off.LCH_ID : Nat := 0x0500000
def F.LCH_ID_version : Field := ⟨Off.LCH_ID, 15, 0, .ro, (.val 1)⟩
def F.LCH_ID_objects : Field := ⟨Off.LCH_ID, 31, 16, .ro, (.val 8192)⟩
/-- Register LCH_SLOT (R155). -/
def Off.LCH_SLOT : Nat := 0x0500008
def F.LCH_SLOT_slot : Field := ⟨Off.LCH_SLOT, 55, 0, .ro, (.val 0)⟩
/-- Register LCH_STATUS (R155). -/
def Off.LCH_STATUS : Nat := 0x0500010
def F.LCH_STATUS_timeout_seen : Field := ⟨Off.LCH_STATUS, 0, 0, .w1c, (.val 0)⟩
def F.LCH_STATUS_overflow_seen : Field := ⟨Off.LCH_STATUS, 1, 1, .w1c, (.val 0)⟩
def F.LCH_STATUS_import_dropped : Field := ⟨Off.LCH_STATUS, 2, 2, .w1c, (.val 0)⟩
def F.LCH_STATUS_ref_fault : Field := ⟨Off.LCH_STATUS, 3, 3, .w1c, (.val 0)⟩
def F.LCH_STATUS_host_signal_refused : Field := ⟨Off.LCH_STATUS, 4, 4, .w1c, (.val 0)⟩
def F.LCH_STATUS_ts_records_dropped : Field := ⟨Off.LCH_STATUS, 5, 5, .w1c, (.val 0)⟩
def F.LCH_STATUS_ts_tail_error : Field := ⟨Off.LCH_STATUS, 6, 6, .w1c, (.val 0)⟩
def F.LCH_STATUS_ts_ring_full : Field := ⟨Off.LCH_STATUS, 7, 7, .ro, (.val 0)⟩
/-- Register LCH_REF_STATUS (R155). -/
def Off.LCH_REF_STATUS : Nat := 0x0500018
def F.LCH_REF_STATUS_deviation_ppm : Field := ⟨Off.LCH_REF_STATUS, 15, 0, .ro, (.val 0)⟩
def F.LCH_REF_STATUS_refclk_absent : Field := ⟨Off.LCH_REF_STATUS, 16, 16, .ro, (.val 0)⟩
/-- Register LCH_ANCHOR_SLOT (R155). -/
def Off.LCH_ANCHOR_SLOT : Nat := 0x0500020
def F.LCH_ANCHOR_SLOT_slot : Field := ⟨Off.LCH_ANCHOR_SLOT, 55, 0, .ro, (.val 0)⟩
/-- Register LCH_ANCHOR_ID (R155). -/
def Off.LCH_ANCHOR_ID : Nat := 0x0500028
def F.LCH_ANCHOR_ID_anchor : Field := ⟨Off.LCH_ANCHOR_ID, 15, 0, .ro, (.val 0)⟩
def F.LCH_ANCHOR_ID_iteration : Field := ⟨Off.LCH_ANCHOR_ID, 47, 16, .ro, (.val 0)⟩
/-- Register LCH_SLIP_TOTAL (R155). -/
def Off.LCH_SLIP_TOTAL : Nat := 0x0500030
def F.LCH_SLIP_TOTAL_count : Field := ⟨Off.LCH_SLIP_TOTAL, 63, 0, .ro, (.val 0)⟩
/-- Register LCH_SLIP_MAX (R155). -/
def Off.LCH_SLIP_MAX : Nat := 0x0500038
def F.LCH_SLIP_MAX_slip : Field := ⟨Off.LCH_SLIP_MAX, 23, 0, .ro, (.val 0)⟩
def F.LCH_SLIP_MAX_launch : Field := ⟨Off.LCH_SLIP_MAX, 55, 24, .ro, (.val 0)⟩
/-- Register LCH_ANCHOR_SLIP (R155). -/
def Off.LCH_ANCHOR_SLIP : Nat := 0x0500040
def F.LCH_ANCHOR_SLIP_count : Field := ⟨Off.LCH_ANCHOR_SLIP, 63, 0, .ro, (.val 0)⟩
/-- Register LCH_TIMEOUT (R155). -/
def Off.LCH_TIMEOUT : Nat := 0x0500048
def F.LCH_TIMEOUT_object : Field := ⟨Off.LCH_TIMEOUT, 12, 0, .ro, (.val 0)⟩
def F.LCH_TIMEOUT_gate : Field := ⟨Off.LCH_TIMEOUT, 13, 13, .ro, (.val 0)⟩
def F.LCH_TIMEOUT_index : Field := ⟨Off.LCH_TIMEOUT, 45, 14, .ro, (.val 0)⟩
/-- Register LCH_TIMEOUT_SLOT (R155). -/
def Off.LCH_TIMEOUT_SLOT : Nat := 0x0500050
def F.LCH_TIMEOUT_SLOT_slot : Field := ⟨Off.LCH_TIMEOUT_SLOT, 55, 0, .ro, (.val 0)⟩
/-- Register LCH_SYNC_SIGNAL (R155). -/
def Off.LCH_SYNC_SIGNAL : Nat := 0x0500058
def F.LCH_SYNC_SIGNAL_object : Field := ⟨Off.LCH_SYNC_SIGNAL, 12, 0, .wo, (.val 0)⟩
def F.LCH_SYNC_SIGNAL_amount : Field := ⟨Off.LCH_SYNC_SIGNAL, 63, 16, .wo, (.val 0)⟩
/-- Register LCH_IMPORT_DROP (R155). -/
def Off.LCH_IMPORT_DROP : Nat := 0x0500060
def F.LCH_IMPORT_DROP_count : Field := ⟨Off.LCH_IMPORT_DROP, 63, 0, .ro, (.val 0)⟩
/-- Register LCH_CLEAR (R155). -/
def Off.LCH_CLEAR : Nat := 0x0500068
def F.LCH_CLEAR_clear : Field := ⟨Off.LCH_CLEAR, 0, 0, .wo, (.val 0)⟩
/-- Register LCH_SLIP_CAUSE (R155). -/
def Off.LCH_SLIP_CAUSE (i : Nat) : Nat := 0x0500080 + 8 * i
def F.LCH_SLIP_CAUSE_count (i : Nat) : Field := ⟨(Off.LCH_SLIP_CAUSE i), 63, 0, .ro, (.val 0)⟩
/-- Register LCH_TS_RING_BASE (R155). -/
def Off.LCH_TS_RING_BASE : Nat := 0x05000C0
def F.LCH_TS_RING_BASE_base : Field := ⟨Off.LCH_TS_RING_BASE, 47, 12, .st, .image⟩
/-- Register LCH_TS_RING_SIZE (R155). -/
def Off.LCH_TS_RING_SIZE : Nat := 0x05000C8
def F.LCH_TS_RING_SIZE_size : Field := ⟨Off.LCH_TS_RING_SIZE, 4, 0, .st, .image⟩
/-- Register LCH_TS_RING_HEAD (R155). -/
def Off.LCH_TS_RING_HEAD : Nat := 0x05000D0
def F.LCH_TS_RING_HEAD_head : Field := ⟨Off.LCH_TS_RING_HEAD, 31, 0, .ro, (.val 0)⟩
/-- Register LCH_TS_RING_TAIL (R155). -/
def Off.LCH_TS_RING_TAIL : Nat := 0x05000D8
def F.LCH_TS_RING_TAIL_tail : Field := ⟨Off.LCH_TS_RING_TAIL, 31, 0, .rw, (.val 0)⟩
/-- Register LCH_SYNC (R155). -/
def Off.LCH_SYNC (i : Nat) : Nat := 0x0510000 + 8 * i
def F.LCH_SYNC_value (i : Nat) : Field := ⟨(Off.LCH_SYNC i), 63, 0, .ro, (.val 0)⟩
/-- Register NUM_ID (R70). -/
def Off.NUM_ID : Nat := 0x0600000
def F.NUM_ID_version : Field := ⟨Off.NUM_ID, 15, 0, .ro, (.val 1)⟩
/-- Register NUM_SELECT (R70). -/
def Off.NUM_SELECT : Nat := 0x0600008
def F.NUM_SELECT_rec_mode : Field := ⟨Off.NUM_SELECT, 1, 0, .st, .image⟩
def F.NUM_SELECT_format_mask : Field := ⟨Off.NUM_SELECT, 15, 8, .st, .image⟩
def F.NUM_SELECT_step_interval : Field := ⟨Off.NUM_SELECT, 31, 16, .st, .image⟩
/-- Register NUM_RANGE (R70). -/
def Off.NUM_RANGE : Nat := 0x0600010
def F.NUM_RANGE_tensor_lo : Field := ⟨Off.NUM_RANGE, 31, 0, .st, .image⟩
def F.NUM_RANGE_tensor_hi : Field := ⟨Off.NUM_RANGE, 63, 32, .st, .image⟩
/-- Register NUM_RING_BASE (R70). -/
def Off.NUM_RING_BASE : Nat := 0x0600018
def F.NUM_RING_BASE_base : Field := ⟨Off.NUM_RING_BASE, 47, 12, .st, .image⟩
/-- Register NUM_RING_SIZE (R70). -/
def Off.NUM_RING_SIZE : Nat := 0x0600020
def F.NUM_RING_SIZE_size : Field := ⟨Off.NUM_RING_SIZE, 4, 0, .st, .image⟩
/-- Register NUM_RING_HEAD (R70). -/
def Off.NUM_RING_HEAD : Nat := 0x0600028
def F.NUM_RING_HEAD_head : Field := ⟨Off.NUM_RING_HEAD, 31, 0, .ro, (.val 0)⟩
/-- Register NUM_RING_TAIL (R70). -/
def Off.NUM_RING_TAIL : Nat := 0x0600030
def F.NUM_RING_TAIL_tail : Field := ⟨Off.NUM_RING_TAIL, 31, 0, .rw, (.val 0)⟩
/-- Register NUM_STATUS (R70). -/
def Off.NUM_STATUS : Nat := 0x0600038
def F.NUM_STATUS_ring_full : Field := ⟨Off.NUM_STATUS, 0, 0, .ro, (.val 0)⟩
def F.NUM_STATUS_records_dropped : Field := ⟨Off.NUM_STATUS, 1, 1, .w1c, (.val 0)⟩
def F.NUM_STATUS_tail_error : Field := ⟨Off.NUM_STATUS, 2, 2, .w1c, (.val 0)⟩
def F.NUM_STATUS_drop_count : Field := ⟨Off.NUM_STATUS, 63, 32, .ro, (.val 0)⟩
/-- Register NUM_CLEAR (R70). -/
def Off.NUM_CLEAR : Nat := 0x0600040
def F.NUM_CLEAR_clear : Field := ⟨Off.NUM_CLEAR, 0, 0, .wo, (.val 0)⟩
/-- Register NUM_CNT (R70). -/
def Off.NUM_CNT (i j : Nat) : Nat := 0x0601000 + 64 * i + 8 * j
def F.NUM_CNT_count (i j : Nat) : Field := ⟨(Off.NUM_CNT i j), 63, 0, .ro, (.val 0)⟩
/-- Register MEM_ID (R191). -/
def Off.MEM_ID : Nat := 0x0700000
def F.MEM_ID_version : Field := ⟨Off.MEM_ID, 15, 0, .ro, (.val 1)⟩
/-- Register MEM_STATUS (R191). -/
def Off.MEM_STATUS : Nat := 0x0700008
def F.MEM_STATUS_uncorr_seen : Field := ⟨Off.MEM_STATUS, 0, 0, .w1c, (.val 0)⟩
def F.MEM_STATUS_poison_seen : Field := ⟨Off.MEM_STATUS, 1, 1, .w1c, (.val 0)⟩
def F.MEM_STATUS_ft_fault : Field := ⟨Off.MEM_STATUS, 2, 2, .w1c, (.val 0)⟩
def F.MEM_STATUS_range_fault : Field := ⟨Off.MEM_STATUS, 3, 3, .w1c, (.val 0)⟩
/-- Register MEM_FT_BASE (R191). -/
def Off.MEM_FT_BASE : Nat := 0x0700010
def F.MEM_FT_BASE_base : Field := ⟨Off.MEM_FT_BASE, 47, 8, .ro, (.val 0)⟩
/-- Register MEM_FT_MIRROR (R191). -/
def Off.MEM_FT_MIRROR : Nat := 0x0700018
def F.MEM_FT_MIRROR_base : Field := ⟨Off.MEM_FT_MIRROR, 47, 8, .ro, (.val 0)⟩
/-- Register MEM_FT_SIZE (R191). -/
def Off.MEM_FT_SIZE : Nat := 0x0700020
def F.MEM_FT_SIZE_ft_size : Field := ⟨Off.MEM_FT_SIZE, 4, 0, .ro, (.val 0)⟩
/-- Register MEM_SCRUB (R191). -/
def Off.MEM_SCRUB : Nat := 0x0700028
def F.MEM_SCRUB_scrub_hours : Field := ⟨Off.MEM_SCRUB, 7, 0, .st, .image⟩
/-- Register MEM_ECC_CORR_CNT (R191). -/
def Off.MEM_ECC_CORR_CNT : Nat := 0x0700030
def F.MEM_ECC_CORR_CNT_count : Field := ⟨Off.MEM_ECC_CORR_CNT, 63, 0, .ro, (.val 0)⟩
/-- Register MEM_ECC_UNCORR_CNT (R191). -/
def Off.MEM_ECC_UNCORR_CNT : Nat := 0x0700038
def F.MEM_ECC_UNCORR_CNT_count : Field := ⟨Off.MEM_ECC_UNCORR_CNT, 63, 0, .ro, (.val 0)⟩
/-- Register MEM_CHECK_FAIL_CNT (R191). -/
def Off.MEM_CHECK_FAIL_CNT : Nat := 0x0700040
def F.MEM_CHECK_FAIL_CNT_count : Field := ⟨Off.MEM_CHECK_FAIL_CNT, 63, 0, .ro, (.val 0)⟩
/-- Register MEM_POISON_CNT (R191). -/
def Off.MEM_POISON_CNT : Nat := 0x0700048
def F.MEM_POISON_CNT_count : Field := ⟨Off.MEM_POISON_CNT, 63, 0, .ro, (.val 0)⟩
/-- Register MEM_PARTNER_FETCH_CNT (R191). -/
def Off.MEM_PARTNER_FETCH_CNT : Nat := 0x0700050
def F.MEM_PARTNER_FETCH_CNT_count : Field := ⟨Off.MEM_PARTNER_FETCH_CNT, 63, 0, .ro, (.val 0)⟩
/-- Register MEM_MOVE_CNT (R191). -/
def Off.MEM_MOVE_CNT : Nat := 0x0700058
def F.MEM_MOVE_CNT_count : Field := ⟨Off.MEM_MOVE_CNT, 63, 0, .ro, (.val 0)⟩
/-- Register MEM_LAST_ERROR (R191). -/
def Off.MEM_LAST_ERROR : Nat := 0x0700060
def F.MEM_LAST_ERROR_kind : Field := ⟨Off.MEM_LAST_ERROR, 3, 0, .ro, (.val 0)⟩
def F.MEM_LAST_ERROR_die : Field := ⟨Off.MEM_LAST_ERROR, 10, 4, .ro, (.val 0)⟩
def F.MEM_LAST_ERROR_channel : Field := ⟨Off.MEM_LAST_ERROR, 15, 11, .ro, (.val 0)⟩
/-- Register MEM_LAST_ERROR_ADDR (R191). -/
def Off.MEM_LAST_ERROR_ADDR : Nat := 0x0700068
def F.MEM_LAST_ERROR_ADDR_addr : Field := ⟨Off.MEM_LAST_ERROR_ADDR, 47, 0, .ro, (.val 0)⟩
/-- Register MEM_LAST_POISON (R191). -/
def Off.MEM_LAST_POISON : Nat := 0x0700070
def F.MEM_LAST_POISON_frond_id : Field := ⟨Off.MEM_LAST_POISON, 31, 0, .ro, (.val 0)⟩
def F.MEM_LAST_POISON_class : Field := ⟨Off.MEM_LAST_POISON, 35, 32, .ro, (.val 0)⟩
def F.MEM_LAST_POISON_outcome : Field := ⟨Off.MEM_LAST_POISON, 37, 36, .ro, (.val 0)⟩
/-- Register UPD_ID (R222). -/
def Off.UPD_ID : Nat := 0x0800000
def F.UPD_ID_version : Field := ⟨Off.UPD_ID, 15, 0, .ro, (.val 1)⟩
/-- Register UPD_STATUS (R222). -/
def Off.UPD_STATUS : Nat := 0x0800008
def F.UPD_STATUS_abandon_seen : Field := ⟨Off.UPD_STATUS, 0, 0, .w1c, (.val 0)⟩
def F.UPD_STATUS_clip_seen : Field := ⟨Off.UPD_STATUS, 1, 1, .w1c, (.val 0)⟩
def F.UPD_STATUS_digest_mismatch : Field := ⟨Off.UPD_STATUS, 2, 2, .w1c, (.val 0)⟩
def F.UPD_STATUS_pending_stall : Field := ⟨Off.UPD_STATUS, 3, 3, .w1c, (.val 0)⟩
def F.UPD_STATUS_engine_fault : Field := ⟨Off.UPD_STATUS, 4, 4, .w1c, (.val 0)⟩
def F.UPD_STATUS_group_fault : Field := ⟨Off.UPD_STATUS, 5, 5, .w1c, (.val 0)⟩
/-- Register UPD_STEP (R222). -/
def Off.UPD_STEP : Nat := 0x0800010
def F.UPD_STEP_step : Field := ⟨Off.UPD_STEP, 63, 0, .ro, (.val 0)⟩
/-- Register UPD_COMMITS (R222). -/
def Off.UPD_COMMITS : Nat := 0x0800018
def F.UPD_COMMITS_t : Field := ⟨Off.UPD_COMMITS, 63, 0, .ro, (.val 0)⟩
/-- Register UPD_LAST_OUTCOME (R222). -/
def Off.UPD_LAST_OUTCOME : Nat := 0x0800020
def F.UPD_LAST_OUTCOME_step : Field := ⟨Off.UPD_LAST_OUTCOME, 31, 0, .ro, (.val 0)⟩
def F.UPD_LAST_OUTCOME_outcome : Field := ⟨Off.UPD_LAST_OUTCOME, 35, 32, .ro, (.val 0)⟩
def F.UPD_LAST_OUTCOME_res_buffer : Field := ⟨Off.UPD_LAST_OUTCOME, 36, 36, .ro, (.val 0)⟩
/-- Register UPD_NORM (R222). -/
def Off.UPD_NORM : Nat := 0x0800028
def F.UPD_NORM_norm : Field := ⟨Off.UPD_NORM, 31, 0, .ro, (.val 0)⟩
def F.UPD_NORM_gscale : Field := ⟨Off.UPD_NORM, 63, 32, .ro, (.val 0)⟩
/-- Register UPD_G2 (R222). -/
def Off.UPD_G2 : Nat := 0x0800030
def F.UPD_G2_g2 : Field := ⟨Off.UPD_G2, 31, 0, .ro, (.val 0)⟩
def F.UPD_G2_divisor : Field := ⟨Off.UPD_G2, 63, 32, .ro, (.val 0)⟩
/-- Register UPD_DIGEST (R222). -/
def Off.UPD_DIGEST : Nat := 0x0800038
def F.UPD_DIGEST_interval : Field := ⟨Off.UPD_DIGEST, 15, 0, .st, .image⟩
/-- Register UPD_ABANDON_CNT (R222). -/
def Off.UPD_ABANDON_CNT : Nat := 0x0800040
def F.UPD_ABANDON_CNT_count : Field := ⟨Off.UPD_ABANDON_CNT, 63, 0, .ro, (.val 0)⟩
/-- Register UPD_CLIP_CNT (R222). -/
def Off.UPD_CLIP_CNT : Nat := 0x0800048
def F.UPD_CLIP_CNT_count : Field := ⟨Off.UPD_CLIP_CNT, 63, 0, .ro, (.val 0)⟩
/-- Register UPD_SKIP_ZERO_CNT (R222). -/
def Off.UPD_SKIP_ZERO_CNT : Nat := 0x0800050
def F.UPD_SKIP_ZERO_CNT_count : Field := ⟨Off.UPD_SKIP_ZERO_CNT, 63, 0, .ro, (.val 0)⟩
/-- Register UPD_ACC_DUP_CNT (R222). -/
def Off.UPD_ACC_DUP_CNT : Nat := 0x0800058
def F.UPD_ACC_DUP_CNT_count : Field := ⟨Off.UPD_ACC_DUP_CNT, 63, 0, .ro, (.val 0)⟩
/-- Register UPD_PENDING_STALL (R222). -/
def Off.UPD_PENDING_STALL : Nat := 0x0800060
def F.UPD_PENDING_STALL_slots : Field := ⟨Off.UPD_PENDING_STALL, 63, 0, .ro, (.val 0)⟩
/-- Register UPD_SWEEP_WAIT (R222). -/
def Off.UPD_SWEEP_WAIT : Nat := 0x0800068
def F.UPD_SWEEP_WAIT_slots : Field := ⟨Off.UPD_SWEEP_WAIT, 63, 0, .ro, (.val 0)⟩
/-- Register UPD_DIGEST_CMP_CNT (R222). -/
def Off.UPD_DIGEST_CMP_CNT : Nat := 0x0800070
def F.UPD_DIGEST_CMP_CNT_count : Field := ⟨Off.UPD_DIGEST_CMP_CNT, 63, 0, .ro, (.val 0)⟩
/-- Register UPD_DIGEST_MISMATCH_CNT (R222). -/
def Off.UPD_DIGEST_MISMATCH_CNT : Nat := 0x0800078
def F.UPD_DIGEST_MISMATCH_CNT_count : Field := ⟨Off.UPD_DIGEST_MISMATCH_CNT, 63, 0, .ro, (.val 0)⟩
/-- Register UPD_PASS_STATUS (R236). -/
def Off.UPD_PASS_STATUS : Nat := 0x0800080
def F.UPD_PASS_STATUS_stash_fault : Field := ⟨Off.UPD_PASS_STATUS, 0, 0, .w1c, (.val 0)⟩
def F.UPD_PASS_STATUS_demand_fault : Field := ⟨Off.UPD_PASS_STATUS, 1, 1, .w1c, (.val 0)⟩
def F.UPD_PASS_STATUS_version_fault : Field := ⟨Off.UPD_PASS_STATUS, 2, 2, .w1c, (.val 0)⟩
def F.UPD_PASS_STATUS_recompute_seen : Field := ⟨Off.UPD_PASS_STATUS, 3, 3, .w1c, (.val 0)⟩
/-- Register UPD_ABORT (R236). -/
def Off.UPD_ABORT : Nat := 0x0800088
def F.UPD_ABORT_step : Field := ⟨Off.UPD_ABORT, 31, 0, .ro, (.val 0)⟩
def F.UPD_ABORT_pass : Field := ⟨Off.UPD_ABORT, 47, 32, .ro, (.val 0)⟩
def F.UPD_ABORT_cause : Field := ⟨Off.UPD_ABORT, 49, 48, .ro, (.val 0)⟩
/-- Register UPD_ABORT_DETAIL (R236). -/
def Off.UPD_ABORT_DETAIL : Nat := 0x0800090
def F.UPD_ABORT_DETAIL_index : Field := ⟨Off.UPD_ABORT_DETAIL, 19, 0, .ro, (.val 0)⟩
def F.UPD_ABORT_DETAIL_stack : Field := ⟨Off.UPD_ABORT_DETAIL, 23, 20, .ro, (.val 0)⟩
/-- Register UPD_RECOMPUTE_CNT (R236). -/
def Off.UPD_RECOMPUTE_CNT : Nat := 0x0800098
def F.UPD_RECOMPUTE_CNT_count : Field := ⟨Off.UPD_RECOMPUTE_CNT, 63, 0, .ro, (.val 0)⟩
/-- Register UPD_VOID_CNT (R236). -/
def Off.UPD_VOID_CNT : Nat := 0x08000A0
def F.UPD_VOID_CNT_count : Field := ⟨Off.UPD_VOID_CNT, 63, 0, .ro, (.val 0)⟩
/-- Register UPD_REPAIR (R289). -/
def Off.UPD_REPAIR : Nat := 0x08000A8
def F.UPD_REPAIR_shard : Field := ⟨Off.UPD_REPAIR, 19, 0, .ro, (.val 0)⟩
def F.UPD_REPAIR_method : Field := ⟨Off.UPD_REPAIR, 21, 20, .ro, (.val 0)⟩
def F.UPD_REPAIR_fronds : Field := ⟨Off.UPD_REPAIR, 63, 32, .ro, (.val 0)⟩
/-- Register UPD_SURVIVE_STATUS (R289). -/
def Off.UPD_SURVIVE_STATUS : Nat := 0x08000B0
def F.UPD_SURVIVE_STATUS_repair_done : Field := ⟨Off.UPD_SURVIVE_STATUS, 0, 0, .w1c, (.val 0)⟩
def F.UPD_SURVIVE_STATUS_repair_hold : Field := ⟨Off.UPD_SURVIVE_STATUS, 1, 1, .w1c, (.val 0)⟩
def F.UPD_SURVIVE_STATUS_snapshot_done : Field := ⟨Off.UPD_SURVIVE_STATUS, 2, 2, .w1c, (.val 0)⟩
def F.UPD_SURVIVE_STATUS_snapshot_fail : Field := ⟨Off.UPD_SURVIVE_STATUS, 3, 3, .w1c, (.val 0)⟩
def F.UPD_SURVIVE_STATUS_restore_done : Field := ⟨Off.UPD_SURVIVE_STATUS, 4, 4, .w1c, (.val 0)⟩
def F.UPD_SURVIVE_STATUS_counter_fixed : Field := ⟨Off.UPD_SURVIVE_STATUS, 5, 5, .w1c, (.val 0)⟩
/-- Register UPD_SNAP_CFG (R289). -/
def Off.UPD_SNAP_CFG : Nat := 0x08000B8
def F.UPD_SNAP_CFG_base : Field := ⟨Off.UPD_SNAP_CFG, 47, 12, .ro, (.val 0)⟩
def F.UPD_SNAP_CFG_interval : Field := ⟨Off.UPD_SNAP_CFG, 63, 48, .ro, (.val 0)⟩
/-- Register UPD_SNAP_SIZE (R289). -/
def Off.UPD_SNAP_SIZE : Nat := 0x08000C0
def F.UPD_SNAP_SIZE_pages : Field := ⟨Off.UPD_SNAP_SIZE, 31, 0, .ro, (.val 0)⟩
/-- Register UPD_SNAP (R289). -/
def Off.UPD_SNAP (i : Nat) : Nat := 0x08000C8 + 8 * i
def F.UPD_SNAP_step (i : Nat) : Field := ⟨(Off.UPD_SNAP i), 31, 0, .ro, (.val 0)⟩
def F.UPD_SNAP_valid (i : Nat) : Field := ⟨(Off.UPD_SNAP i), 32, 32, .ro, (.val 0)⟩
/-- Register UPD_RESTORE (R289). -/
def Off.UPD_RESTORE : Nat := 0x08000D8
def F.UPD_RESTORE_step : Field := ⟨Off.UPD_RESTORE, 31, 0, .ro, (.val 0)⟩
def F.UPD_RESTORE_slot : Field := ⟨Off.UPD_RESTORE, 32, 32, .ro, (.val 0)⟩
def F.UPD_RESTORE_counter_fixed : Field := ⟨Off.UPD_RESTORE, 33, 33, .ro, (.val 0)⟩
def F.UPD_RESTORE_refusal : Field := ⟨Off.UPD_RESTORE, 37, 34, .ro, (.val 0)⟩
def F.UPD_RESTORE_stored : Field := ⟨Off.UPD_RESTORE, 63, 38, .ro, (.val 0)⟩
/-- Register UPD_PENDING (R222). -/
def Off.UPD_PENDING (i : Nat) : Nat := 0x0800100 + 8 * i
def F.UPD_PENDING_slots (i : Nat) : Field := ⟨(Off.UPD_PENDING i), 15, 0, .ro, (.val 0)⟩
def F.UPD_PENDING_in_use (i : Nat) : Field := ⟨(Off.UPD_PENDING i), 31, 16, .ro, (.val 0)⟩
def F.UPD_PENDING_high_water (i : Nat) : Field := ⟨(Off.UPD_PENDING i), 47, 32, .ro, (.val 0)⟩
/-- Register UPD_STASH (R236). -/
def Off.UPD_STASH (i : Nat) : Nat := 0x0800180 + 8 * i
def F.UPD_STASH_pointer (i : Nat) : Field := ⟨(Off.UPD_STASH i), 31, 0, .ro, (.val 0)⟩
def F.UPD_STASH_high_water (i : Nat) : Field := ⟨(Off.UPD_STASH i), 63, 32, .ro, (.val 0)⟩
/-- Register CHN_ID (R263). -/
def Off.CHN_ID : Nat := 0x0900000
def F.CHN_ID_version : Field := ⟨Off.CHN_ID, 15, 0, .ro, (.val 1)⟩
/-- Register CHN_STATUS (R263). -/
def Off.CHN_STATUS : Nat := 0x0900008
def F.CHN_STATUS_addressed : Field := ⟨Off.CHN_STATUS, 0, 0, .ro, (.val 0)⟩
def F.CHN_STATUS_chain_error : Field := ⟨Off.CHN_STATUS, 1, 1, .w1c, (.val 0)⟩
def F.CHN_STATUS_skip_fault : Field := ⟨Off.CHN_STATUS, 2, 2, .w1c, (.val 0)⟩
def F.CHN_STATUS_heal_seen : Field := ⟨Off.CHN_STATUS, 3, 3, .w1c, (.val 0)⟩
def F.CHN_STATUS_module_lost : Field := ⟨Off.CHN_STATUS, 4, 4, .w1c, (.val 0)⟩
def F.CHN_STATUS_chain_broken : Field := ⟨Off.CHN_STATUS, 5, 5, .w1c, (.val 0)⟩
def F.CHN_STATUS_msg_dropped : Field := ⟨Off.CHN_STATUS, 6, 6, .w1c, (.val 0)⟩
def F.CHN_STATUS_collective_fault : Field := ⟨Off.CHN_STATUS, 7, 7, .w1c, (.val 0)⟩
def F.CHN_STATUS_permute_done : Field := ⟨Off.CHN_STATUS, 8, 8, .w1c, (.val 0)⟩
def F.CHN_STATUS_permute_deferred : Field := ⟨Off.CHN_STATUS, 9, 9, .w1c, (.val 0)⟩
/-- Register CHN_ADDR (R263). -/
def Off.CHN_ADDR : Nat := 0x0900010
def F.CHN_ADDR_address : Field := ⟨Off.CHN_ADDR, 5, 0, .ro, (.val 0)⟩
def F.CHN_ADDR_length : Field := ⟨Off.CHN_ADDR, 12, 6, .ro, (.val 0)⟩
def F.CHN_ADDR_head : Field := ⟨Off.CHN_ADDR, 13, 13, .ro, .strap⟩
def F.CHN_ADDR_error : Field := ⟨Off.CHN_ADDR, 17, 14, .ro, (.val 0)⟩
/-- Register CHN_JOB (R263). -/
def Off.CHN_JOB : Nat := 0x0900018
def F.CHN_JOB_job_tag : Field := ⟨Off.CHN_JOB, 15, 0, .st, (.val 0)⟩
def F.CHN_JOB_s : Field := ⟨Off.CHN_JOB, 22, 16, .st, (.val 1)⟩
def F.CHN_JOB_p : Field := ⟨Off.CHN_JOB, 29, 23, .st, (.val 1)⟩
def F.CHN_JOB_layout : Field := ⟨Off.CHN_JOB, 33, 30, .st, (.val 0)⟩
/-- Register CHN_ADOPTED (R263). -/
def Off.CHN_ADOPTED : Nat := 0x0900020
def F.CHN_ADOPTED_role_digest : Field := ⟨Off.CHN_ADOPTED, 31, 0, .ro, (.val 0)⟩
def F.CHN_ADOPTED_layout : Field := ⟨Off.CHN_ADOPTED, 35, 32, .ro, (.val 0)⟩
def F.CHN_ADOPTED_valid : Field := ⟨Off.CHN_ADOPTED, 36, 36, .ro, (.val 0)⟩
/-- Register CHN_HEAL (R263). -/
def Off.CHN_HEAL : Nat := 0x0900028
def F.CHN_HEAL_link : Field := ⟨Off.CHN_HEAL, 5, 0, .ro, (.val 0)⟩
def F.CHN_HEAL_restored : Field := ⟨Off.CHN_HEAL, 6, 6, .ro, (.val 0)⟩
def F.CHN_HEAL_reporter : Field := ⟨Off.CHN_HEAL, 12, 7, .ro, (.val 0)⟩
/-- Register CHN_HEAL_SLOT (R263). -/
def Off.CHN_HEAL_SLOT : Nat := 0x0900030
def F.CHN_HEAL_SLOT_slot : Field := ⟨Off.CHN_HEAL_SLOT, 55, 0, .ro, (.val 0)⟩
/-- Register CHN_LOST (R263). -/
def Off.CHN_LOST : Nat := 0x0900038
def F.CHN_LOST_lost : Field := ⟨Off.CHN_LOST, 63, 0, .ro, (.val 0)⟩
/-- Register CHN_MSG_TX (R263). -/
def Off.CHN_MSG_TX : Nat := 0x0900040
def F.CHN_MSG_TX_count : Field := ⟨Off.CHN_MSG_TX, 63, 0, .ro, (.val 0)⟩
/-- Register CHN_MSG_RX (R263). -/
def Off.CHN_MSG_RX : Nat := 0x0900048
def F.CHN_MSG_RX_count : Field := ⟨Off.CHN_MSG_RX, 63, 0, .ro, (.val 0)⟩
/-- Register CHN_MSG_DROP (R263). -/
def Off.CHN_MSG_DROP : Nat := 0x0900050
def F.CHN_MSG_DROP_count : Field := ⟨Off.CHN_MSG_DROP, 63, 0, .ro, (.val 0)⟩
/-- Register CHN_RESEND_CNT (R263). -/
def Off.CHN_RESEND_CNT : Nat := 0x0900058
def F.CHN_RESEND_CNT_count : Field := ⟨Off.CHN_RESEND_CNT, 63, 0, .ro, (.val 0)⟩
/-- Register CHN_PERMUTE_CNT (R263). -/
def Off.CHN_PERMUTE_CNT : Nat := 0x0900060
def F.CHN_PERMUTE_CNT_count : Field := ⟨Off.CHN_PERMUTE_CNT, 63, 0, .ro, (.val 0)⟩
/-- Register CHN_PARTNER (R288). -/
def Off.CHN_PARTNER : Nat := 0x0900068
def F.CHN_PARTNER_address : Field := ⟨Off.CHN_PARTNER, 5, 0, .ro, (.val 0)⟩
def F.CHN_PARTNER_group : Field := ⟨Off.CHN_PARTNER, 11, 6, .ro, (.val 0)⟩
def F.CHN_PARTNER_partner_feed : Field := ⟨Off.CHN_PARTNER, 14, 12, .ro, (.val 0)⟩
def F.CHN_PARTNER_own_feed : Field := ⟨Off.CHN_PARTNER, 17, 15, .ro, .strap⟩
def F.CHN_PARTNER_valid : Field := ⟨Off.CHN_PARTNER, 18, 18, .ro, (.val 0)⟩
def F.CHN_PARTNER_feed_shared : Field := ⟨Off.CHN_PARTNER, 19, 19, .ro, (.val 0)⟩
/-- Register CHN_SURVIVE (R288). -/
def Off.CHN_SURVIVE : Nat := 0x0900070
def F.CHN_SURVIVE_stand_in_active : Field := ⟨Off.CHN_SURVIVE, 0, 0, .ro, (.val 0)⟩
def F.CHN_SURVIVE_feed_shared : Field := ⟨Off.CHN_SURVIVE, 1, 1, .ro, (.val 0)⟩
def F.CHN_SURVIVE_no_partner : Field := ⟨Off.CHN_SURVIVE, 2, 2, .ro, (.val 0)⟩
def F.CHN_SURVIVE_loss_seen : Field := ⟨Off.CHN_SURVIVE, 3, 3, .w1c, (.val 0)⟩
def F.CHN_SURVIVE_step_dropped : Field := ⟨Off.CHN_SURVIVE, 4, 4, .w1c, (.val 0)⟩
def F.CHN_SURVIVE_report_fault : Field := ⟨Off.CHN_SURVIVE, 5, 5, .w1c, (.val 0)⟩
def F.CHN_SURVIVE_repartnered : Field := ⟨Off.CHN_SURVIVE, 6, 6, .w1c, (.val 0)⟩
/-- Register CHN_STANDIN (R288). -/
def Off.CHN_STANDIN : Nat := 0x0900078
def F.CHN_STANDIN_lost : Field := ⟨Off.CHN_STANDIN, 63, 0, .ro, (.val 0)⟩
/-- Register CHN_LOSS (R288). -/
def Off.CHN_LOSS : Nat := 0x0900080
def F.CHN_LOSS_lost : Field := ⟨Off.CHN_LOSS, 5, 0, .ro, (.val 0)⟩
def F.CHN_LOSS_dropped : Field := ⟨Off.CHN_LOSS, 6, 6, .ro, (.val 0)⟩
def F.CHN_LOSS_step : Field := ⟨Off.CHN_LOSS, 38, 7, .ro, (.val 0)⟩
def F.CHN_LOSS_stand_in : Field := ⟨Off.CHN_LOSS, 44, 39, .ro, (.val 0)⟩
/-- Register CHN_PORT (R263). -/
def Off.CHN_PORT (i : Nat) : Nat := 0x0900100 + 8 * i
def F.CHN_PORT_state (i : Nat) : Field := ⟨(Off.CHN_PORT i), 1, 0, .ro, (.val 0)⟩
def F.CHN_PORT_retrains (i : Nat) : Field := ⟨(Off.CHN_PORT i), 31, 16, .ro, (.val 0)⟩
def F.CHN_PORT_crc_fail (i : Nat) : Field := ⟨(Off.CHN_PORT i), 47, 32, .ro, (.val 0)⟩
def F.CHN_PORT_replays (i : Nat) : Field := ⟨(Off.CHN_PORT i), 63, 48, .ro, (.val 0)⟩
/-- Register CHN_ROLE (R263). -/
def Off.CHN_ROLE (i : Nat) : Nat := 0x0900200 + 8 * i
def F.CHN_ROLE_group (i : Nat) : Field := ⟨(Off.CHN_ROLE i), 5, 0, .st, (.val 0)⟩
def F.CHN_ROLE_position (i : Nat) : Field := ⟨(Off.CHN_ROLE i), 11, 6, .st, (.val 0)⟩
def F.CHN_ROLE_member (i : Nat) : Field := ⟨(Off.CHN_ROLE i), 12, 12, .st, (.val 0)⟩
/-- Register CHN_FEED (R288). -/
def Off.CHN_FEED (i : Nat) : Nat := 0x0900400 + 8 * i
def F.CHN_FEED_feed0 (i : Nat) : Field := ⟨(Off.CHN_FEED i), 2, 0, .ro, (.val 0)⟩
def F.CHN_FEED_feed1 (i : Nat) : Field := ⟨(Off.CHN_FEED i), 10, 8, .ro, (.val 0)⟩
def F.CHN_FEED_feed2 (i : Nat) : Field := ⟨(Off.CHN_FEED i), 18, 16, .ro, (.val 0)⟩
def F.CHN_FEED_feed3 (i : Nat) : Field := ⟨(Off.CHN_FEED i), 26, 24, .ro, (.val 0)⟩
def F.CHN_FEED_feed4 (i : Nat) : Field := ⟨(Off.CHN_FEED i), 34, 32, .ro, (.val 0)⟩
def F.CHN_FEED_feed5 (i : Nat) : Field := ⟨(Off.CHN_FEED i), 42, 40, .ro, (.val 0)⟩
def F.CHN_FEED_feed6 (i : Nat) : Field := ⟨(Off.CHN_FEED i), 50, 48, .ro, (.val 0)⟩
def F.CHN_FEED_feed7 (i : Nat) : Field := ⟨(Off.CHN_FEED i), 58, 56, .ro, (.val 0)⟩
def F.CHN_FEED_known0 (i : Nat) : Field := ⟨(Off.CHN_FEED i), 7, 7, .ro, (.val 0)⟩
def F.CHN_FEED_known1 (i : Nat) : Field := ⟨(Off.CHN_FEED i), 15, 15, .ro, (.val 0)⟩
def F.CHN_FEED_known2 (i : Nat) : Field := ⟨(Off.CHN_FEED i), 23, 23, .ro, (.val 0)⟩
def F.CHN_FEED_known3 (i : Nat) : Field := ⟨(Off.CHN_FEED i), 31, 31, .ro, (.val 0)⟩
def F.CHN_FEED_known4 (i : Nat) : Field := ⟨(Off.CHN_FEED i), 39, 39, .ro, (.val 0)⟩
def F.CHN_FEED_known5 (i : Nat) : Field := ⟨(Off.CHN_FEED i), 47, 47, .ro, (.val 0)⟩
def F.CHN_FEED_known6 (i : Nat) : Field := ⟨(Off.CHN_FEED i), 55, 55, .ro, (.val 0)⟩
def F.CHN_FEED_known7 (i : Nat) : Field := ⟨(Off.CHN_FEED i), 63, 63, .ro, (.val 0)⟩
/-- Register CHN_PARTNER_MAP (R288). -/
def Off.CHN_PARTNER_MAP (i : Nat) : Nat := 0x0900500 + 8 * i
def F.CHN_PARTNER_MAP_group (i : Nat) : Field := ⟨(Off.CHN_PARTNER_MAP i), 5, 0, .st, .image⟩
def F.CHN_PARTNER_MAP_override (i : Nat) : Field := ⟨(Off.CHN_PARTNER_MAP i), 6, 6, .st, .image⟩
/-- Register INT_ID (R308). -/
def Off.INT_ID : Nat := 0x0A00000
def F.INT_ID_version : Field := ⟨Off.INT_ID, 15, 0, .ro, (.val 1)⟩
/-- Register INT_STATUS (R308). -/
def Off.INT_STATUS : Nat := 0x0A00008
def F.INT_STATUS_corrupt_seen : Field := ⟨Off.INT_STATUS, 0, 0, .w1c, (.val 0)⟩
def F.INT_STATUS_desc_dropped : Field := ⟨Off.INT_STATUS, 1, 1, .w1c, (.val 0)⟩
def F.INT_STATUS_sub_error : Field := ⟨Off.INT_STATUS, 2, 2, .w1c, (.val 0)⟩
def F.INT_STATUS_ev_records_dropped : Field := ⟨Off.INT_STATUS, 3, 3, .w1c, (.val 0)⟩
def F.INT_STATUS_ev_tail_error : Field := ⟨Off.INT_STATUS, 4, 4, .w1c, (.val 0)⟩
def F.INT_STATUS_ev_ring_full : Field := ⟨Off.INT_STATUS, 5, 5, .ro, (.val 0)⟩
def F.INT_STATUS_last_reason : Field := ⟨Off.INT_STATUS, 11, 8, .ro, (.val 0)⟩
/-- Register INT_PRESSURE (R308). -/
def Off.INT_PRESSURE : Nat := 0x0A00010
def F.INT_PRESSURE_pressure : Field := ⟨Off.INT_PRESSURE, 15, 0, .ro, (.val 0)⟩
def F.INT_PRESSURE_backlog_us : Field := ⟨Off.INT_PRESSURE, 47, 16, .ro, (.val 0)⟩
/-- Register INT_SUB_BASE (R308). -/
def Off.INT_SUB_BASE : Nat := 0x0A00018
def F.INT_SUB_BASE_base : Field := ⟨Off.INT_SUB_BASE, 47, 12, .ro, (.val 0)⟩
/-- Register INT_SUB_SIZE (R308). -/
def Off.INT_SUB_SIZE : Nat := 0x0A00020
def F.INT_SUB_SIZE_size : Field := ⟨Off.INT_SUB_SIZE, 4, 0, .ro, (.val 0)⟩
/-- Register INT_SUB_HEAD (R308). -/
def Off.INT_SUB_HEAD : Nat := 0x0A00028
def F.INT_SUB_HEAD_head : Field := ⟨Off.INT_SUB_HEAD, 31, 0, .ro, (.val 0)⟩
/-- Register INT_SUB_TAIL (R308). -/
def Off.INT_SUB_TAIL : Nat := 0x0A00030
def F.INT_SUB_TAIL_tail : Field := ⟨Off.INT_SUB_TAIL, 31, 0, .rw, (.val 0)⟩
/-- Register INT_PAYLOAD_DONE (R308). -/
def Off.INT_PAYLOAD_DONE : Nat := 0x0A00038
def F.INT_PAYLOAD_DONE_done : Field := ⟨Off.INT_PAYLOAD_DONE, 31, 0, .ro, (.val 0)⟩
/-- Register INT_EV_BASE (R308). -/
def Off.INT_EV_BASE : Nat := 0x0A00040
def F.INT_EV_BASE_base : Field := ⟨Off.INT_EV_BASE, 47, 12, .ro, (.val 0)⟩
/-- Register INT_EV_SIZE (R308). -/
def Off.INT_EV_SIZE : Nat := 0x0A00048
def F.INT_EV_SIZE_size : Field := ⟨Off.INT_EV_SIZE, 4, 0, .ro, (.val 0)⟩
/-- Register INT_EV_HEAD (R308). -/
def Off.INT_EV_HEAD : Nat := 0x0A00050
def F.INT_EV_HEAD_head : Field := ⟨Off.INT_EV_HEAD, 31, 0, .ro, (.val 0)⟩
/-- Register INT_EV_TAIL (R308). -/
def Off.INT_EV_TAIL : Nat := 0x0A00058
def F.INT_EV_TAIL_tail : Field := ⟨Off.INT_EV_TAIL, 31, 0, .rw, (.val 0)⟩
/-- Register INT_POSITION (R308). -/
def Off.INT_POSITION : Nat := 0x0A00060
def F.INT_POSITION_position : Field := ⟨Off.INT_POSITION, 63, 0, .ro, (.val 0)⟩
/-- Register INT_COUNT (R308). -/
def Off.INT_COUNT : Nat := 0x0A00068
def F.INT_COUNT_step : Field := ⟨Off.INT_COUNT, 31, 0, .ro, (.val 0)⟩
def F.INT_COUNT_count : Field := ⟨Off.INT_COUNT, 63, 32, .ro, (.val 0)⟩
/-- Register INT_SAMPLES_CNT (R308). -/
def Off.INT_SAMPLES_CNT : Nat := 0x0A00070
def F.INT_SAMPLES_CNT_count : Field := ⟨Off.INT_SAMPLES_CNT, 63, 0, .ro, (.val 0)⟩
/-- Register INT_CORRUPT_CNT (R308). -/
def Off.INT_CORRUPT_CNT : Nat := 0x0A00078
def F.INT_CORRUPT_CNT_count : Field := ⟨Off.INT_CORRUPT_CNT, 63, 0, .ro, (.val 0)⟩
/-- Register INT_DESC_DROP (R308). -/
def Off.INT_DESC_DROP : Nat := 0x0A00080
def F.INT_DESC_DROP_count : Field := ⟨Off.INT_DESC_DROP, 63, 0, .ro, (.val 0)⟩
/-- Register INT_LAST_CORRUPT (R308). -/
def Off.INT_LAST_CORRUPT : Nat := 0x0A00088
def F.INT_LAST_CORRUPT_sample_id : Field := ⟨Off.INT_LAST_CORRUPT, 63, 0, .ro, (.val 0)⟩
/-- Register FLS_ID (R192). -/
def Off.FLS_ID : Nat := 0x0B00000
def F.FLS_ID_version : Field := ⟨Off.FLS_ID, 15, 0, .ro, (.val 1)⟩
/-- Register FLS_STATUS (R192). -/
def Off.FLS_STATUS : Nat := 0x0B00008
def F.FLS_STATUS_flash_closed : Field := ⟨Off.FLS_STATUS, 0, 0, .ro, (.val 1)⟩
def F.FLS_STATUS_flash_degraded : Field := ⟨Off.FLS_STATUS, 1, 1, .ro, (.val 0)⟩
def F.FLS_STATUS_credit_wait : Field := ⟨Off.FLS_STATUS, 2, 2, .ro, (.val 0)⟩
def F.FLS_STATUS_flash_poison_seen : Field := ⟨Off.FLS_STATUS, 3, 3, .w1c, (.val 0)⟩
/-- Register FLS_CAPACITY (R192). -/
def Off.FLS_CAPACITY : Nat := 0x0B00010
def F.FLS_CAPACITY_gib : Field := ⟨Off.FLS_CAPACITY, 31, 0, .ro, (.val 120832)⟩
/-- Register FLS_CREDIT (R192). -/
def Off.FLS_CREDIT : Nat := 0x0B00018
def F.FLS_CREDIT_mib : Field := ⟨Off.FLS_CREDIT, 31, 0, .ro, (.val 0)⟩
/-- Register FLS_BUDGET (R192). -/
def Off.FLS_BUDGET : Nat := 0x0B00020
def F.FLS_BUDGET_mib : Field := ⟨Off.FLS_BUDGET, 31, 0, .ro, (.val 39845888)⟩
/-- Register FLS_WRITTEN (R192). -/
def Off.FLS_WRITTEN : Nat := 0x0B00028
def F.FLS_WRITTEN_mib : Field := ⟨Off.FLS_WRITTEN, 63, 0, .ro, (.val 0)⟩
/-- Register FLS_READ (R192). -/
def Off.FLS_READ : Nat := 0x0B00030
def F.FLS_READ_mib : Field := ⟨Off.FLS_READ, 63, 0, .ro, (.val 0)⟩
/-- Register FLS_RETRY_CNT (R192). -/
def Off.FLS_RETRY_CNT : Nat := 0x0B00038
def F.FLS_RETRY_CNT_count : Field := ⟨Off.FLS_RETRY_CNT, 63, 0, .ro, (.val 0)⟩
/-- Register FLS_REBUILD_CNT (R192). -/
def Off.FLS_REBUILD_CNT : Nat := 0x0B00040
def F.FLS_REBUILD_CNT_count : Field := ⟨Off.FLS_REBUILD_CNT, 63, 0, .ro, (.val 0)⟩
/-- Register FLS_CREDIT_WAIT (R192). -/
def Off.FLS_CREDIT_WAIT : Nat := 0x0B00048
def F.FLS_CREDIT_WAIT_slots : Field := ⟨Off.FLS_CREDIT_WAIT, 63, 0, .ro, (.val 0)⟩
/-- Register FLS_LAST_FAIL (R192). -/
def Off.FLS_LAST_FAIL : Nat := 0x0B00050
def F.FLS_LAST_FAIL_page : Field := ⟨Off.FLS_LAST_FAIL, 32, 0, .ro, (.val 0)⟩
def F.FLS_LAST_FAIL_channel : Field := ⟨Off.FLS_LAST_FAIL, 37, 33, .ro, (.val 0)⟩
def F.FLS_LAST_FAIL_outcome : Field := ⟨Off.FLS_LAST_FAIL, 39, 38, .ro, (.val 0)⟩
/-- Register FLS_WEAR (R192). -/
def Off.FLS_WEAR : Nat := 0x0B00058
def F.FLS_WEAR_max_cycles : Field := ⟨Off.FLS_WEAR, 15, 0, .ro, (.val 0)⟩
def F.FLS_WEAR_mean_cycles : Field := ⟨Off.FLS_WEAR, 31, 16, .ro, (.val 0)⟩
def F.FLS_WEAR_rated : Field := ⟨Off.FLS_WEAR, 47, 32, .ro, (.val 3000)⟩
def F.FLS_WEAR_retired : Field := ⟨Off.FLS_WEAR, 63, 48, .ro, (.val 0)⟩
/-- Register FLS_CH_FENCED (R192). -/
def Off.FLS_CH_FENCED : Nat := 0x0B00060
def F.FLS_CH_FENCED_fenced : Field := ⟨Off.FLS_CH_FENCED, 31, 0, .ro, (.val 0)⟩
/-- Register ARR_ID (R108). -/
def Off.ARR_ID : Nat := 0x0C00000
def F.ARR_ID_version : Field := ⟨Off.ARR_ID, 15, 0, .ro, (.val 1)⟩
def F.ARR_ID_arrays : Field := ⟨Off.ARR_ID, 31, 16, .ro, (.val 512)⟩
/-- Register ARR_STATUS (R108). -/
def Off.ARR_STATUS : Nat := 0x0C00008
def F.ARR_STATUS_mismatch_seen : Field := ⟨Off.ARR_STATUS, 0, 0, .w1c, (.val 0)⟩
def F.ARR_STATUS_fence_changed : Field := ⟨Off.ARR_STATUS, 1, 1, .w1c, (.val 0)⟩
def F.ARR_STATUS_cluster_lost : Field := ⟨Off.ARR_STATUS, 2, 2, .w1c, (.val 0)⟩
def F.ARR_STATUS_stop_seen : Field := ⟨Off.ARR_STATUS, 3, 3, .w1c, (.val 0)⟩
def F.ARR_STATUS_inject_refused : Field := ⟨Off.ARR_STATUS, 4, 4, .w1c, (.val 0)⟩
/-- Register ARR_ENVELOPE (R108). -/
def Off.ARR_ENVELOPE : Nat := 0x0C00010
def F.ARR_ENVELOPE_ramp_step : Field := ⟨Off.ARR_ENVELOPE, 15, 0, .ro, (.val 2)⟩
def F.ARR_ENVELOPE_hold_slots : Field := ⟨Off.ARR_ENVELOPE, 23, 16, .ro, (.val 15)⟩
def F.ARR_ENVELOPE_check_interval : Field := ⟨Off.ARR_ENVELOPE, 47, 32, .ro, (.val 16384)⟩
/-- Register ARR_LAST_MISMATCH (R108). -/
def Off.ARR_LAST_MISMATCH : Nat := 0x0C00018
def F.ARR_LAST_MISMATCH_array : Field := ⟨Off.ARR_LAST_MISMATCH, 8, 0, .ro, (.val 0)⟩
def F.ARR_LAST_MISMATCH_line : Field := ⟨Off.ARR_LAST_MISMATCH, 9, 9, .ro, (.val 0)⟩
def F.ARR_LAST_MISMATCH_line_index : Field := ⟨Off.ARR_LAST_MISMATCH, 16, 10, .ro, (.val 0)⟩
def F.ARR_LAST_MISMATCH_point : Field := ⟨Off.ARR_LAST_MISMATCH, 17, 17, .ro, (.val 0)⟩
def F.ARR_LAST_MISMATCH_int_eq : Field := ⟨Off.ARR_LAST_MISMATCH, 18, 18, .ro, (.val 0)⟩
def F.ARR_LAST_MISMATCH_injected : Field := ⟨Off.ARR_LAST_MISMATCH, 19, 19, .ro, (.val 0)⟩
/-- Register ARR_LAST_MISMATCH_SLOT (R108). -/
def Off.ARR_LAST_MISMATCH_SLOT : Nat := 0x0C00020
def F.ARR_LAST_MISMATCH_SLOT_slot : Field := ⟨Off.ARR_LAST_MISMATCH_SLOT, 55, 0, .ro, (.val 0)⟩
/-- Register ARR_MISMATCH_CNT (R108). -/
def Off.ARR_MISMATCH_CNT : Nat := 0x0C00028
def F.ARR_MISMATCH_CNT_count : Field := ⟨Off.ARR_MISMATCH_CNT, 63, 0, .ro, (.val 0)⟩
/-- Register ARR_CHECK_SKIP_CNT (R108). -/
def Off.ARR_CHECK_SKIP_CNT : Nat := 0x0C00030
def F.ARR_CHECK_SKIP_CNT_count : Field := ⟨Off.ARR_CHECK_SKIP_CNT, 63, 0, .ro, (.val 0)⟩
/-- Register ARR_STEP_USEFUL (R108). -/
def Off.ARR_STEP_USEFUL : Nat := 0x0C00038
def F.ARR_STEP_USEFUL_count : Field := ⟨Off.ARR_STEP_USEFUL, 63, 0, .ro, (.val 0)⟩
/-- Register ARR_STEP_DUMMY (R108). -/
def Off.ARR_STEP_DUMMY : Nat := 0x0C00040
def F.ARR_STEP_DUMMY_count : Field := ⟨Off.ARR_STEP_DUMMY, 63, 0, .ro, (.val 0)⟩
/-- Register ARR_GROUP_SKIPPED (R108). -/
def Off.ARR_GROUP_SKIPPED : Nat := 0x0C00048
def F.ARR_GROUP_SKIPPED_count : Field := ⟨Off.ARR_GROUP_SKIPPED, 63, 0, .ro, (.val 0)⟩
/-- Register ARR_RAMP_STALL (R108). -/
def Off.ARR_RAMP_STALL : Nat := 0x0C00050
def F.ARR_RAMP_STALL_count : Field := ⟨Off.ARR_RAMP_STALL, 63, 0, .ro, (.val 0)⟩
/-- Register ARR_BATCH_FULL (R108). -/
def Off.ARR_BATCH_FULL : Nat := 0x0C00058
def F.ARR_BATCH_FULL_count : Field := ⟨Off.ARR_BATCH_FULL, 63, 0, .ro, (.val 0)⟩
/-- Register ARR_BATCH_TIMED (R108). -/
def Off.ARR_BATCH_TIMED : Nat := 0x0C00060
def F.ARR_BATCH_TIMED_count : Field := ⟨Off.ARR_BATCH_TIMED, 63, 0, .ro, (.val 0)⟩
/-- Register ARR_ROWS_MASKED (R108). -/
def Off.ARR_ROWS_MASKED : Nat := 0x0C00068
def F.ARR_ROWS_MASKED_count : Field := ⟨Off.ARR_ROWS_MASKED, 63, 0, .ro, (.val 0)⟩
/-- Register ARR_STOP_STATUS (R108). -/
def Off.ARR_STOP_STATUS : Nat := 0x0C00070
def F.ARR_STOP_STATUS_last_kind : Field := ⟨Off.ARR_STOP_STATUS, 1, 0, .ro, (.val 0)⟩
def F.ARR_STOP_STATUS_last_drain_ns : Field := ⟨Off.ARR_STOP_STATUS, 31, 16, .ro, (.val 0)⟩
def F.ARR_STOP_STATUS_passes_discarded : Field := ⟨Off.ARR_STOP_STATUS, 63, 32, .ro, (.val 0)⟩
/-- Register ARR_INJECT (R108). -/
def Off.ARR_INJECT : Nat := 0x0C00078
def F.ARR_INJECT_array : Field := ⟨Off.ARR_INJECT, 8, 0, .wo, (.val 0)⟩
def F.ARR_INJECT_line : Field := ⟨Off.ARR_INJECT, 9, 9, .wo, (.val 0)⟩
/-- Register ARR_FENCED (R108). -/
def Off.ARR_FENCED (i : Nat) : Nat := 0x0C00100 + 8 * i
def F.ARR_FENCED_fenced (i : Nat) : Field := ⟨(Off.ARR_FENCED i), 63, 0, .ro, (.val 0)⟩

/-- The registers of block HST. -/
def regsHst : List RegRow := [
  ⟨"HST_ID", 0x0000000, 1, 0, 1, 0, [F.HST_ID_version]⟩,
  ⟨"HST_STATUS", 0x0000008, 1, 0, 1, 0, [F.HST_STATUS_device_ready, F.HST_STATUS_plan_state, F.HST_STATUS_safety_state, F.HST_STATUS_pcie_mode, F.HST_STATUS_stop_in_force]⟩,
  ⟨"HST_ERR_STATUS", 0x0000010, 1, 0, 1, 0, [F.HST_ERR_STATUS_access_error, F.HST_ERR_STATUS_aperture_error, F.HST_ERR_STATUS_doorbell_error, F.HST_ERR_STATUS_cmd_overrun, F.HST_ERR_STATUS_release_error, F.HST_ERR_STATUS_req_tail_error, F.HST_ERR_STATUS_req_dropped, F.HST_ERR_STATUS_report_dropped]⟩,
  ⟨"HST_ACCESS_ERR", 0x0000018, 1, 0, 1, 0, [F.HST_ACCESS_ERR_bar, F.HST_ACCESS_ERR_write, F.HST_ACCESS_ERR_size, F.HST_ACCESS_ERR_offset]⟩,
  ⟨"HST_APERTURE", 0x0000020, 1, 0, 1, 0, [F.HST_APERTURE_base]⟩,
  ⟨"HST_APERTURE_B", 0x0000028, 1, 0, 1, 0, [F.HST_APERTURE_B_base]⟩,
  ⟨"HST_PLAN_ADDR", 0x0000030, 1, 0, 1, 0, [F.HST_PLAN_ADDR_addr]⟩,
  ⟨"HST_PLAN_LEN", 0x0000038, 1, 0, 1, 0, [F.HST_PLAN_LEN_bytes]⟩,
  ⟨"HST_CMD_STATUS", 0x0000040, 1, 0, 1, 0, [F.HST_CMD_STATUS_tag, F.HST_CMD_STATUS_command, F.HST_CMD_STATUS_result]⟩,
  ⟨"HST_PLAN_FAIL", 0x0000048, 1, 0, 1, 0, [F.HST_PLAN_FAIL_code, F.HST_PLAN_FAIL_section, F.HST_PLAN_FAIL_item]⟩,
  ⟨"HST_PLAN_PROGRESS", 0x0000050, 1, 0, 1, 0, [F.HST_PLAN_PROGRESS_iteration, F.HST_PLAN_PROGRESS_step]⟩,
  ⟨"HST_RESULT_SEQ", 0x0000058, 1, 0, 1, 0, [F.HST_RESULT_SEQ_next]⟩,
  ⟨"HST_REPORT_DROP", 0x0000060, 1, 0, 1, 0, [F.HST_REPORT_DROP_count]⟩,
  ⟨"HST_REQ_DROP", 0x0000068, 1, 0, 1, 0, [F.HST_REQ_DROP_count]⟩,
  ⟨"HST_IRQ_PENDING", 0x0000070, 1, 0, 1, 0, [F.HST_IRQ_PENDING_pending]⟩,
  ⟨"HST_IRQ_COALESCE", 0x0000078, 1, 0, 1, 0, [F.HST_IRQ_COALESCE_interval_us]⟩,
  ⟨"HST_IRQ_MAP", 0x0000100, 16, 8, 1, 0, [F.HST_IRQ_MAP_vector 0, F.HST_IRQ_MAP_enable 0]⟩,
  ⟨"HST_RESULT_READY", 0x0000200, 32, 8, 1, 0, [F.HST_RESULT_READY_ready 0]⟩,
  ⟨"HST_REQ_HEAD", 0x0000400, 256, 8, 1, 0, [F.HST_REQ_HEAD_head 0, F.HST_REQ_HEAD_tail 0]⟩]

/-- The registers of block CTL. -/
def regsCtl : List RegRow := [
  ⟨"CTL_ID", 0x0100000, 1, 0, 1, 0, [F.CTL_ID_version]⟩,
  ⟨"CTL_STATUS", 0x0100008, 1, 0, 1, 0, [F.CTL_STATUS_device_ready, F.CTL_STATUS_config_source, F.CTL_STATUS_bringup_fail, F.CTL_STATUS_crozier_done, F.CTL_STATUS_crozier_discarded, F.CTL_STATUS_stage_refused, F.CTL_STATUS_commit_busy, F.CTL_STATUS_abort_late, F.CTL_STATUS_cfg_done, F.CTL_STATUS_cfg_fail]⟩,
  ⟨"CTL_BRINGUP", 0x0100010, 1, 0, 1, 0, [F.CTL_BRINGUP_phase, F.CTL_BRINGUP_fail, F.CTL_BRINGUP_die, F.CTL_BRINGUP_ready_ms]⟩,
  ⟨"CTL_STRAPS", 0x0100018, 1, 0, 1, 0, [F.CTL_STRAPS_chain_head, F.CTL_STRAPS_feed_id, F.CTL_STRAPS_slot_id]⟩,
  ⟨"CTL_IMAGE_A", 0x0100020, 1, 0, 1, 0, [F.CTL_IMAGE_A_sequence, F.CTL_IMAGE_A_valid, F.CTL_IMAGE_A_reason, F.CTL_IMAGE_A_selected]⟩,
  ⟨"CTL_IMAGE_B", 0x0100028, 1, 0, 1, 0, [F.CTL_IMAGE_B_sequence, F.CTL_IMAGE_B_valid, F.CTL_IMAGE_B_reason, F.CTL_IMAGE_B_selected]⟩,
  ⟨"CTL_CLAIM", 0x0100030, 1, 0, 1, 0, [F.CTL_CLAIM_owner, F.CTL_CLAIM_host_claim]⟩,
  ⟨"CTL_COMMIT", 0x0100038, 1, 0, 1, 0, [F.CTL_COMMIT_op, F.CTL_COMMIT_at_slot, F.CTL_COMMIT_target]⟩,
  ⟨"CTL_CROZIER", 0x0100040, 1, 0, 1, 0, [F.CTL_CROZIER_state, F.CTL_CROZIER_result, F.CTL_CROZIER_changed, F.CTL_CROZIER_offset]⟩,
  ⟨"CTL_CROZIER_SLOT", 0x0100048, 1, 0, 1, 0, [F.CTL_CROZIER_SLOT_slot]⟩,
  ⟨"CTL_CROZIER_CNT", 0x0100050, 1, 0, 1, 0, [F.CTL_CROZIER_CNT_committed, F.CTL_CROZIER_CNT_discarded]⟩,
  ⟨"CTL_CFG_PROG", 0x0100058, 1, 0, 1, 0, [F.CTL_CFG_PROG_addr, F.CTL_CFG_PROG_copy]⟩,
  ⟨"CTL_CFG_LEN", 0x0100060, 1, 0, 1, 0, [F.CTL_CFG_LEN_bytes, F.CTL_CFG_LEN_start]⟩,
  ⟨"CTL_CFG_STATUS", 0x0100068, 1, 0, 1, 0, [F.CTL_CFG_STATUS_state, F.CTL_CFG_STATUS_result, F.CTL_CFG_STATUS_reason, F.CTL_CFG_STATUS_done_bytes]⟩]

/-- The registers of block PWR. -/
def regsPwr : List RegRow := [
  ⟨"PWR_ID", 0x0200000, 1, 0, 1, 0, [F.PWR_ID_version]⟩,
  ⟨"PWR_STATUS", 0x0200008, 1, 0, 1, 0, [F.PWR_STATUS_sprint_active, F.PWR_STATUS_at_floor, F.PWR_STATUS_over_ceiling, F.PWR_STATUS_over_peak, F.PWR_STATUS_late_cut, F.PWR_STATUS_envelope_hold, F.PWR_STATUS_input_range, F.PWR_STATUS_meter_fault, F.PWR_STATUS_sig_ready, F.PWR_STATUS_journal_fault]⟩,
  ⟨"PWR_INPUT", 0x0200010, 1, 0, 1, 0, [F.PWR_INPUT_vin, F.PWR_INPUT_iin, F.PWR_INPUT_check_w]⟩,
  ⟨"PWR_DRAW", 0x0200018, 1, 0, 1, 0, [F.PWR_DRAW_block_w, F.PWR_DRAW_avg_w, F.PWR_DRAW_ceiling_w, F.PWR_DRAW_ceiling_avg_w]⟩,
  ⟨"PWR_GOV", 0x0200020, 1, 0, 1, 0, [F.PWR_GOV_setpoint_mv, F.PWR_GOV_depth, F.PWR_GOV_cap, F.PWR_GOV_slewing, F.PWR_GOV_limit_mv]⟩,
  ⟨"PWR_MINUTE", 0x0200028, 1, 0, 1, 0, [F.PWR_MINUTE_minute]⟩,
  ⟨"PWR_MINUTE_SLOT", 0x0200030, 1, 0, 1, 0, [F.PWR_MINUTE_SLOT_slot]⟩,
  ⟨"PWR_ENERGY", 0x0200038, 1, 0, 1, 0, [F.PWR_ENERGY_mj]⟩,
  ⟨"PWR_SCHED_CTL", 0x0200040, 1, 0, 1, 0, [F.PWR_SCHED_CTL_first_minute, F.PWR_SCHED_CTL_count, F.PWR_SCHED_CTL_tail_w]⟩,
  ⟨"PWR_THROTTLE", 0x0200048, 1, 0, 1, 0, [F.PWR_THROTTLE_cap_w, F.PWR_THROTTLE_vmax, F.PWR_THROTTLE_sprint_en]⟩,
  ⟨"PWR_REC_HEAD", 0x0200050, 1, 0, 1, 0, [F.PWR_REC_HEAD_next]⟩,
  ⟨"PWR_SIG_HEAD", 0x0200058, 1, 0, 1, 0, [F.PWR_SIG_HEAD_index]⟩,
  ⟨"PWR_BOOT", 0x0200060, 1, 0, 1, 0, [F.PWR_BOOT_boot]⟩,
  ⟨"PWR_MCTP", 0x0200068, 1, 0, 1, 0, [F.PWR_MCTP_address, F.PWR_MCTP_assigned, F.PWR_MCTP_enterprise]⟩,
  ⟨"PWR_BREACH_CNT", 0x0200070, 1, 0, 1, 0, [F.PWR_BREACH_CNT_avg, F.PWR_BREACH_CNT_peak]⟩,
  ⟨"PWR_SCHED", 0x0201000, 360, 8, 1, 0, [F.PWR_SCHED_ceilings 0]⟩]

/-- The registers of block SAF. -/
def regsSaf : List RegRow := [
  ⟨"SAF_ID", 0x0300000, 1, 0, 1, 0, [F.SAF_ID_version]⟩,
  ⟨"SAF_STATUS", 0x0300008, 1, 0, 1, 0, [F.SAF_STATUS_state, F.SAF_STATUS_single_control, F.SAF_STATUS_fault_seen, F.SAF_STATUS_hold_entered, F.SAF_STATUS_thermal_warn, F.SAF_STATUS_sensor_fault, F.SAF_STATUS_single_control_seen, F.SAF_STATUS_bist_fail, F.SAF_STATUS_bist_refused, F.SAF_STATUS_resume_refused]⟩,
  ⟨"SAF_HOLD", 0x0300010, 1, 0, 1, 0, [F.SAF_HOLD_pending, F.SAF_HOLD_first]⟩,
  ⟨"SAF_RESUME", 0x0300018, 1, 0, 1, 0, [F.SAF_RESUME_release]⟩,
  ⟨"SAF_LAST_TRIP", 0x0300020, 1, 0, 1, 0, [F.SAF_LAST_TRIP_code, F.SAF_LAST_TRIP_both_detectors]⟩,
  ⟨"SAF_THERMAL", 0x0300028, 1, 0, 1, 0, [F.SAF_THERMAL_hottest_c, F.SAF_THERMAL_die, F.SAF_THERMAL_flow, F.SAF_THERMAL_single_sensor]⟩,
  ⟨"SAF_CONTROL", 0x0300030, 1, 0, 1, 0, [F.SAF_CONTROL_fenced_die, F.SAF_CONTROL_disagreements, F.SAF_CONTROL_transients]⟩,
  ⟨"SAF_POLICY", 0x0300038, 1, 0, 1, 0, [F.SAF_POLICY_bist_en, F.SAF_POLICY_auto_retrain, F.SAF_POLICY_bist_period_h, F.SAF_POLICY_lzc_interval_s, F.SAF_POLICY_scal_interval_h, F.SAF_POLICY_key_rotate_h, F.SAF_POLICY_flow_min]⟩,
  ⟨"SAF_MAINT", 0x0300040, 1, 0, 1, 0, [F.SAF_MAINT_running, F.SAF_MAINT_waiting]⟩,
  ⟨"SAF_BIST_CMD", 0x0300048, 1, 0, 1, 0, [F.SAF_BIST_CMD_kind, F.SAF_BIST_CMD_unit]⟩,
  ⟨"SAF_BIST_STATUS", 0x0300050, 1, 0, 1, 0, [F.SAF_BIST_STATUS_kind, F.SAF_BIST_STATUS_unit, F.SAF_BIST_STATUS_verdict, F.SAF_BIST_STATUS_abandoned, F.SAF_BIST_STATUS_failed]⟩,
  ⟨"SAF_FAULT_CNT", 0x0300058, 1, 0, 1, 0, [F.SAF_FAULT_CNT_count]⟩,
  ⟨"SAF_LOG_HEAD", 0x0300060, 1, 0, 1, 0, [F.SAF_LOG_HEAD_head]⟩]

/-- The registers of block SEC. -/
def regsSec : List RegRow := [
  ⟨"SEC_ID", 0x0400000, 1, 0, 1, 0, [F.SEC_ID_version]⟩,
  ⟨"SEC_STATUS", 0x0400008, 1, 0, 1, 0, [F.SEC_STATUS_cmd_done, F.SEC_STATUS_cmd_overrun, F.SEC_STATUS_alarm_seen, F.SEC_STATUS_lock, F.SEC_STATUS_erased_seen, F.SEC_STATUS_store_mismatch, F.SEC_STATUS_mesh_breach, F.SEC_STATUS_identity_present, F.SEC_STATUS_cert_valid]⟩,
  ⟨"SEC_LIFECYCLE", 0x0400010, 1, 0, 1, 0, [F.SEC_LIFECYCLE_state, F.SEC_LIFECYCLE_t, F.SEC_LIFECYCLE_owner_life]⟩,
  ⟨"SEC_SERIAL", 0x0400018, 1, 0, 1, 0, [F.SEC_SERIAL_serial]⟩,
  ⟨"SEC_CMD_ADDR", 0x0400020, 1, 0, 1, 0, [F.SEC_CMD_ADDR_addr]⟩,
  ⟨"SEC_CMD", 0x0400028, 1, 0, 1, 0, [F.SEC_CMD_op, F.SEC_CMD_tag]⟩,
  ⟨"SEC_CMD_STATUS", 0x0400030, 1, 0, 1, 0, [F.SEC_CMD_STATUS_tag, F.SEC_CMD_STATUS_op, F.SEC_CMD_STATUS_state, F.SEC_CMD_STATUS_result]⟩,
  ⟨"SEC_KEY", 0x0400038, 1, 0, 1, 0, [F.SEC_KEY_key_loaded, F.SEC_KEY_session_valid]⟩,
  ⟨"SEC_KEY_ID", 0x0400040, 1, 0, 1, 0, [F.SEC_KEY_ID_key_id]⟩,
  ⟨"SEC_KEY_COMMIT", 0x0400048, 1, 0, 1, 0, [F.SEC_KEY_COMMIT_commitment]⟩,
  ⟨"SEC_ROLLBACK", 0x0400050, 1, 0, 1, 0, [F.SEC_ROLLBACK_floor, F.SEC_ROLLBACK_used]⟩,
  ⟨"SEC_TOKEN_NONCE", 0x0400058, 1, 0, 1, 0, [F.SEC_TOKEN_NONCE_nonce]⟩,
  ⟨"SEC_ALARM", 0x0400060, 1, 0, 1, 0, [F.SEC_ALARM_class, F.SEC_ALARM_trigger]⟩,
  ⟨"SEC_ALARM_SLOT", 0x0400068, 1, 0, 1, 0, [F.SEC_ALARM_SLOT_slot]⟩,
  ⟨"SEC_ALARM_CNT", 0x0400070, 1, 0, 1, 0, [F.SEC_ALARM_CNT_class1, F.SEC_ALARM_CNT_class2, F.SEC_ALARM_CNT_class3]⟩,
  ⟨"SEC_MESH", 0x0400078, 1, 0, 1, 0, [F.SEC_MESH_trace0, F.SEC_MESH_trace1, F.SEC_MESH_found_at_power_up]⟩]

/-- The registers of block LCH. -/
def regsLch : List RegRow := [
  ⟨"LCH_ID", 0x0500000, 1, 0, 1, 0, [F.LCH_ID_version, F.LCH_ID_objects]⟩,
  ⟨"LCH_SLOT", 0x0500008, 1, 0, 1, 0, [F.LCH_SLOT_slot]⟩,
  ⟨"LCH_STATUS", 0x0500010, 1, 0, 1, 0, [F.LCH_STATUS_timeout_seen, F.LCH_STATUS_overflow_seen, F.LCH_STATUS_import_dropped, F.LCH_STATUS_ref_fault, F.LCH_STATUS_host_signal_refused, F.LCH_STATUS_ts_records_dropped, F.LCH_STATUS_ts_tail_error, F.LCH_STATUS_ts_ring_full]⟩,
  ⟨"LCH_REF_STATUS", 0x0500018, 1, 0, 1, 0, [F.LCH_REF_STATUS_deviation_ppm, F.LCH_REF_STATUS_refclk_absent]⟩,
  ⟨"LCH_ANCHOR_SLOT", 0x0500020, 1, 0, 1, 0, [F.LCH_ANCHOR_SLOT_slot]⟩,
  ⟨"LCH_ANCHOR_ID", 0x0500028, 1, 0, 1, 0, [F.LCH_ANCHOR_ID_anchor, F.LCH_ANCHOR_ID_iteration]⟩,
  ⟨"LCH_SLIP_TOTAL", 0x0500030, 1, 0, 1, 0, [F.LCH_SLIP_TOTAL_count]⟩,
  ⟨"LCH_SLIP_MAX", 0x0500038, 1, 0, 1, 0, [F.LCH_SLIP_MAX_slip, F.LCH_SLIP_MAX_launch]⟩,
  ⟨"LCH_ANCHOR_SLIP", 0x0500040, 1, 0, 1, 0, [F.LCH_ANCHOR_SLIP_count]⟩,
  ⟨"LCH_TIMEOUT", 0x0500048, 1, 0, 1, 0, [F.LCH_TIMEOUT_object, F.LCH_TIMEOUT_gate, F.LCH_TIMEOUT_index]⟩,
  ⟨"LCH_TIMEOUT_SLOT", 0x0500050, 1, 0, 1, 0, [F.LCH_TIMEOUT_SLOT_slot]⟩,
  ⟨"LCH_SYNC_SIGNAL", 0x0500058, 1, 0, 1, 0, [F.LCH_SYNC_SIGNAL_object, F.LCH_SYNC_SIGNAL_amount]⟩,
  ⟨"LCH_IMPORT_DROP", 0x0500060, 1, 0, 1, 0, [F.LCH_IMPORT_DROP_count]⟩,
  ⟨"LCH_CLEAR", 0x0500068, 1, 0, 1, 0, [F.LCH_CLEAR_clear]⟩,
  ⟨"LCH_SLIP_CAUSE", 0x0500080, 8, 8, 1, 0, [F.LCH_SLIP_CAUSE_count 0]⟩,
  ⟨"LCH_TS_RING_BASE", 0x05000C0, 1, 0, 1, 0, [F.LCH_TS_RING_BASE_base]⟩,
  ⟨"LCH_TS_RING_SIZE", 0x05000C8, 1, 0, 1, 0, [F.LCH_TS_RING_SIZE_size]⟩,
  ⟨"LCH_TS_RING_HEAD", 0x05000D0, 1, 0, 1, 0, [F.LCH_TS_RING_HEAD_head]⟩,
  ⟨"LCH_TS_RING_TAIL", 0x05000D8, 1, 0, 1, 0, [F.LCH_TS_RING_TAIL_tail]⟩,
  ⟨"LCH_SYNC", 0x0510000, 8192, 8, 1, 0, [F.LCH_SYNC_value 0]⟩]

/-- The registers of block NUM. -/
def regsNum : List RegRow := [
  ⟨"NUM_ID", 0x0600000, 1, 0, 1, 0, [F.NUM_ID_version]⟩,
  ⟨"NUM_SELECT", 0x0600008, 1, 0, 1, 0, [F.NUM_SELECT_rec_mode, F.NUM_SELECT_format_mask, F.NUM_SELECT_step_interval]⟩,
  ⟨"NUM_RANGE", 0x0600010, 1, 0, 1, 0, [F.NUM_RANGE_tensor_lo, F.NUM_RANGE_tensor_hi]⟩,
  ⟨"NUM_RING_BASE", 0x0600018, 1, 0, 1, 0, [F.NUM_RING_BASE_base]⟩,
  ⟨"NUM_RING_SIZE", 0x0600020, 1, 0, 1, 0, [F.NUM_RING_SIZE_size]⟩,
  ⟨"NUM_RING_HEAD", 0x0600028, 1, 0, 1, 0, [F.NUM_RING_HEAD_head]⟩,
  ⟨"NUM_RING_TAIL", 0x0600030, 1, 0, 1, 0, [F.NUM_RING_TAIL_tail]⟩,
  ⟨"NUM_STATUS", 0x0600038, 1, 0, 1, 0, [F.NUM_STATUS_ring_full, F.NUM_STATUS_records_dropped, F.NUM_STATUS_tail_error, F.NUM_STATUS_drop_count]⟩,
  ⟨"NUM_CLEAR", 0x0600040, 1, 0, 1, 0, [F.NUM_CLEAR_clear]⟩,
  ⟨"NUM_CNT", 0x0601000, 8, 64, 5, 8, [F.NUM_CNT_count 0 0]⟩]

/-- The registers of block MEM. -/
def regsMem : List RegRow := [
  ⟨"MEM_ID", 0x0700000, 1, 0, 1, 0, [F.MEM_ID_version]⟩,
  ⟨"MEM_STATUS", 0x0700008, 1, 0, 1, 0, [F.MEM_STATUS_uncorr_seen, F.MEM_STATUS_poison_seen, F.MEM_STATUS_ft_fault, F.MEM_STATUS_range_fault]⟩,
  ⟨"MEM_FT_BASE", 0x0700010, 1, 0, 1, 0, [F.MEM_FT_BASE_base]⟩,
  ⟨"MEM_FT_MIRROR", 0x0700018, 1, 0, 1, 0, [F.MEM_FT_MIRROR_base]⟩,
  ⟨"MEM_FT_SIZE", 0x0700020, 1, 0, 1, 0, [F.MEM_FT_SIZE_ft_size]⟩,
  ⟨"MEM_SCRUB", 0x0700028, 1, 0, 1, 0, [F.MEM_SCRUB_scrub_hours]⟩,
  ⟨"MEM_ECC_CORR_CNT", 0x0700030, 1, 0, 1, 0, [F.MEM_ECC_CORR_CNT_count]⟩,
  ⟨"MEM_ECC_UNCORR_CNT", 0x0700038, 1, 0, 1, 0, [F.MEM_ECC_UNCORR_CNT_count]⟩,
  ⟨"MEM_CHECK_FAIL_CNT", 0x0700040, 1, 0, 1, 0, [F.MEM_CHECK_FAIL_CNT_count]⟩,
  ⟨"MEM_POISON_CNT", 0x0700048, 1, 0, 1, 0, [F.MEM_POISON_CNT_count]⟩,
  ⟨"MEM_PARTNER_FETCH_CNT", 0x0700050, 1, 0, 1, 0, [F.MEM_PARTNER_FETCH_CNT_count]⟩,
  ⟨"MEM_MOVE_CNT", 0x0700058, 1, 0, 1, 0, [F.MEM_MOVE_CNT_count]⟩,
  ⟨"MEM_LAST_ERROR", 0x0700060, 1, 0, 1, 0, [F.MEM_LAST_ERROR_kind, F.MEM_LAST_ERROR_die, F.MEM_LAST_ERROR_channel]⟩,
  ⟨"MEM_LAST_ERROR_ADDR", 0x0700068, 1, 0, 1, 0, [F.MEM_LAST_ERROR_ADDR_addr]⟩,
  ⟨"MEM_LAST_POISON", 0x0700070, 1, 0, 1, 0, [F.MEM_LAST_POISON_frond_id, F.MEM_LAST_POISON_class, F.MEM_LAST_POISON_outcome]⟩]

/-- The registers of block UPD. -/
def regsUpd : List RegRow := [
  ⟨"UPD_ID", 0x0800000, 1, 0, 1, 0, [F.UPD_ID_version]⟩,
  ⟨"UPD_STATUS", 0x0800008, 1, 0, 1, 0, [F.UPD_STATUS_abandon_seen, F.UPD_STATUS_clip_seen, F.UPD_STATUS_digest_mismatch, F.UPD_STATUS_pending_stall, F.UPD_STATUS_engine_fault, F.UPD_STATUS_group_fault]⟩,
  ⟨"UPD_STEP", 0x0800010, 1, 0, 1, 0, [F.UPD_STEP_step]⟩,
  ⟨"UPD_COMMITS", 0x0800018, 1, 0, 1, 0, [F.UPD_COMMITS_t]⟩,
  ⟨"UPD_LAST_OUTCOME", 0x0800020, 1, 0, 1, 0, [F.UPD_LAST_OUTCOME_step, F.UPD_LAST_OUTCOME_outcome, F.UPD_LAST_OUTCOME_res_buffer]⟩,
  ⟨"UPD_NORM", 0x0800028, 1, 0, 1, 0, [F.UPD_NORM_norm, F.UPD_NORM_gscale]⟩,
  ⟨"UPD_G2", 0x0800030, 1, 0, 1, 0, [F.UPD_G2_g2, F.UPD_G2_divisor]⟩,
  ⟨"UPD_DIGEST", 0x0800038, 1, 0, 1, 0, [F.UPD_DIGEST_interval]⟩,
  ⟨"UPD_ABANDON_CNT", 0x0800040, 1, 0, 1, 0, [F.UPD_ABANDON_CNT_count]⟩,
  ⟨"UPD_CLIP_CNT", 0x0800048, 1, 0, 1, 0, [F.UPD_CLIP_CNT_count]⟩,
  ⟨"UPD_SKIP_ZERO_CNT", 0x0800050, 1, 0, 1, 0, [F.UPD_SKIP_ZERO_CNT_count]⟩,
  ⟨"UPD_ACC_DUP_CNT", 0x0800058, 1, 0, 1, 0, [F.UPD_ACC_DUP_CNT_count]⟩,
  ⟨"UPD_PENDING_STALL", 0x0800060, 1, 0, 1, 0, [F.UPD_PENDING_STALL_slots]⟩,
  ⟨"UPD_SWEEP_WAIT", 0x0800068, 1, 0, 1, 0, [F.UPD_SWEEP_WAIT_slots]⟩,
  ⟨"UPD_DIGEST_CMP_CNT", 0x0800070, 1, 0, 1, 0, [F.UPD_DIGEST_CMP_CNT_count]⟩,
  ⟨"UPD_DIGEST_MISMATCH_CNT", 0x0800078, 1, 0, 1, 0, [F.UPD_DIGEST_MISMATCH_CNT_count]⟩,
  ⟨"UPD_PASS_STATUS", 0x0800080, 1, 0, 1, 0, [F.UPD_PASS_STATUS_stash_fault, F.UPD_PASS_STATUS_demand_fault, F.UPD_PASS_STATUS_version_fault, F.UPD_PASS_STATUS_recompute_seen]⟩,
  ⟨"UPD_ABORT", 0x0800088, 1, 0, 1, 0, [F.UPD_ABORT_step, F.UPD_ABORT_pass, F.UPD_ABORT_cause]⟩,
  ⟨"UPD_ABORT_DETAIL", 0x0800090, 1, 0, 1, 0, [F.UPD_ABORT_DETAIL_index, F.UPD_ABORT_DETAIL_stack]⟩,
  ⟨"UPD_RECOMPUTE_CNT", 0x0800098, 1, 0, 1, 0, [F.UPD_RECOMPUTE_CNT_count]⟩,
  ⟨"UPD_VOID_CNT", 0x08000A0, 1, 0, 1, 0, [F.UPD_VOID_CNT_count]⟩,
  ⟨"UPD_REPAIR", 0x08000A8, 1, 0, 1, 0, [F.UPD_REPAIR_shard, F.UPD_REPAIR_method, F.UPD_REPAIR_fronds]⟩,
  ⟨"UPD_SURVIVE_STATUS", 0x08000B0, 1, 0, 1, 0, [F.UPD_SURVIVE_STATUS_repair_done, F.UPD_SURVIVE_STATUS_repair_hold, F.UPD_SURVIVE_STATUS_snapshot_done, F.UPD_SURVIVE_STATUS_snapshot_fail, F.UPD_SURVIVE_STATUS_restore_done, F.UPD_SURVIVE_STATUS_counter_fixed]⟩,
  ⟨"UPD_SNAP_CFG", 0x08000B8, 1, 0, 1, 0, [F.UPD_SNAP_CFG_base, F.UPD_SNAP_CFG_interval]⟩,
  ⟨"UPD_SNAP_SIZE", 0x08000C0, 1, 0, 1, 0, [F.UPD_SNAP_SIZE_pages]⟩,
  ⟨"UPD_SNAP", 0x08000C8, 2, 8, 1, 0, [F.UPD_SNAP_step 0, F.UPD_SNAP_valid 0]⟩,
  ⟨"UPD_RESTORE", 0x08000D8, 1, 0, 1, 0, [F.UPD_RESTORE_step, F.UPD_RESTORE_slot, F.UPD_RESTORE_counter_fixed, F.UPD_RESTORE_refusal, F.UPD_RESTORE_stored]⟩,
  ⟨"UPD_PENDING", 0x0800100, 16, 8, 1, 0, [F.UPD_PENDING_slots 0, F.UPD_PENDING_in_use 0, F.UPD_PENDING_high_water 0]⟩,
  ⟨"UPD_STASH", 0x0800180, 16, 8, 1, 0, [F.UPD_STASH_pointer 0, F.UPD_STASH_high_water 0]⟩]

/-- The registers of block CHN. -/
def regsChn : List RegRow := [
  ⟨"CHN_ID", 0x0900000, 1, 0, 1, 0, [F.CHN_ID_version]⟩,
  ⟨"CHN_STATUS", 0x0900008, 1, 0, 1, 0, [F.CHN_STATUS_addressed, F.CHN_STATUS_chain_error, F.CHN_STATUS_skip_fault, F.CHN_STATUS_heal_seen, F.CHN_STATUS_module_lost, F.CHN_STATUS_chain_broken, F.CHN_STATUS_msg_dropped, F.CHN_STATUS_collective_fault, F.CHN_STATUS_permute_done, F.CHN_STATUS_permute_deferred]⟩,
  ⟨"CHN_ADDR", 0x0900010, 1, 0, 1, 0, [F.CHN_ADDR_address, F.CHN_ADDR_length, F.CHN_ADDR_head, F.CHN_ADDR_error]⟩,
  ⟨"CHN_JOB", 0x0900018, 1, 0, 1, 0, [F.CHN_JOB_job_tag, F.CHN_JOB_s, F.CHN_JOB_p, F.CHN_JOB_layout]⟩,
  ⟨"CHN_ADOPTED", 0x0900020, 1, 0, 1, 0, [F.CHN_ADOPTED_role_digest, F.CHN_ADOPTED_layout, F.CHN_ADOPTED_valid]⟩,
  ⟨"CHN_HEAL", 0x0900028, 1, 0, 1, 0, [F.CHN_HEAL_link, F.CHN_HEAL_restored, F.CHN_HEAL_reporter]⟩,
  ⟨"CHN_HEAL_SLOT", 0x0900030, 1, 0, 1, 0, [F.CHN_HEAL_SLOT_slot]⟩,
  ⟨"CHN_LOST", 0x0900038, 1, 0, 1, 0, [F.CHN_LOST_lost]⟩,
  ⟨"CHN_MSG_TX", 0x0900040, 1, 0, 1, 0, [F.CHN_MSG_TX_count]⟩,
  ⟨"CHN_MSG_RX", 0x0900048, 1, 0, 1, 0, [F.CHN_MSG_RX_count]⟩,
  ⟨"CHN_MSG_DROP", 0x0900050, 1, 0, 1, 0, [F.CHN_MSG_DROP_count]⟩,
  ⟨"CHN_RESEND_CNT", 0x0900058, 1, 0, 1, 0, [F.CHN_RESEND_CNT_count]⟩,
  ⟨"CHN_PERMUTE_CNT", 0x0900060, 1, 0, 1, 0, [F.CHN_PERMUTE_CNT_count]⟩,
  ⟨"CHN_PARTNER", 0x0900068, 1, 0, 1, 0, [F.CHN_PARTNER_address, F.CHN_PARTNER_group, F.CHN_PARTNER_partner_feed, F.CHN_PARTNER_own_feed, F.CHN_PARTNER_valid, F.CHN_PARTNER_feed_shared]⟩,
  ⟨"CHN_SURVIVE", 0x0900070, 1, 0, 1, 0, [F.CHN_SURVIVE_stand_in_active, F.CHN_SURVIVE_feed_shared, F.CHN_SURVIVE_no_partner, F.CHN_SURVIVE_loss_seen, F.CHN_SURVIVE_step_dropped, F.CHN_SURVIVE_report_fault, F.CHN_SURVIVE_repartnered]⟩,
  ⟨"CHN_STANDIN", 0x0900078, 1, 0, 1, 0, [F.CHN_STANDIN_lost]⟩,
  ⟨"CHN_LOSS", 0x0900080, 1, 0, 1, 0, [F.CHN_LOSS_lost, F.CHN_LOSS_dropped, F.CHN_LOSS_step, F.CHN_LOSS_stand_in]⟩,
  ⟨"CHN_PORT", 0x0900100, 4, 8, 1, 0, [F.CHN_PORT_state 0, F.CHN_PORT_retrains 0, F.CHN_PORT_crc_fail 0, F.CHN_PORT_replays 0]⟩,
  ⟨"CHN_ROLE", 0x0900200, 64, 8, 1, 0, [F.CHN_ROLE_group 0, F.CHN_ROLE_position 0, F.CHN_ROLE_member 0]⟩,
  ⟨"CHN_FEED", 0x0900400, 8, 8, 1, 0, [F.CHN_FEED_feed0 0, F.CHN_FEED_feed1 0, F.CHN_FEED_feed2 0, F.CHN_FEED_feed3 0, F.CHN_FEED_feed4 0, F.CHN_FEED_feed5 0, F.CHN_FEED_feed6 0, F.CHN_FEED_feed7 0, F.CHN_FEED_known0 0, F.CHN_FEED_known1 0, F.CHN_FEED_known2 0, F.CHN_FEED_known3 0, F.CHN_FEED_known4 0, F.CHN_FEED_known5 0, F.CHN_FEED_known6 0, F.CHN_FEED_known7 0]⟩,
  ⟨"CHN_PARTNER_MAP", 0x0900500, 64, 8, 1, 0, [F.CHN_PARTNER_MAP_group 0, F.CHN_PARTNER_MAP_override 0]⟩]

/-- The registers of block INT. -/
def regsInt : List RegRow := [
  ⟨"INT_ID", 0x0A00000, 1, 0, 1, 0, [F.INT_ID_version]⟩,
  ⟨"INT_STATUS", 0x0A00008, 1, 0, 1, 0, [F.INT_STATUS_corrupt_seen, F.INT_STATUS_desc_dropped, F.INT_STATUS_sub_error, F.INT_STATUS_ev_records_dropped, F.INT_STATUS_ev_tail_error, F.INT_STATUS_ev_ring_full, F.INT_STATUS_last_reason]⟩,
  ⟨"INT_PRESSURE", 0x0A00010, 1, 0, 1, 0, [F.INT_PRESSURE_pressure, F.INT_PRESSURE_backlog_us]⟩,
  ⟨"INT_SUB_BASE", 0x0A00018, 1, 0, 1, 0, [F.INT_SUB_BASE_base]⟩,
  ⟨"INT_SUB_SIZE", 0x0A00020, 1, 0, 1, 0, [F.INT_SUB_SIZE_size]⟩,
  ⟨"INT_SUB_HEAD", 0x0A00028, 1, 0, 1, 0, [F.INT_SUB_HEAD_head]⟩,
  ⟨"INT_SUB_TAIL", 0x0A00030, 1, 0, 1, 0, [F.INT_SUB_TAIL_tail]⟩,
  ⟨"INT_PAYLOAD_DONE", 0x0A00038, 1, 0, 1, 0, [F.INT_PAYLOAD_DONE_done]⟩,
  ⟨"INT_EV_BASE", 0x0A00040, 1, 0, 1, 0, [F.INT_EV_BASE_base]⟩,
  ⟨"INT_EV_SIZE", 0x0A00048, 1, 0, 1, 0, [F.INT_EV_SIZE_size]⟩,
  ⟨"INT_EV_HEAD", 0x0A00050, 1, 0, 1, 0, [F.INT_EV_HEAD_head]⟩,
  ⟨"INT_EV_TAIL", 0x0A00058, 1, 0, 1, 0, [F.INT_EV_TAIL_tail]⟩,
  ⟨"INT_POSITION", 0x0A00060, 1, 0, 1, 0, [F.INT_POSITION_position]⟩,
  ⟨"INT_COUNT", 0x0A00068, 1, 0, 1, 0, [F.INT_COUNT_step, F.INT_COUNT_count]⟩,
  ⟨"INT_SAMPLES_CNT", 0x0A00070, 1, 0, 1, 0, [F.INT_SAMPLES_CNT_count]⟩,
  ⟨"INT_CORRUPT_CNT", 0x0A00078, 1, 0, 1, 0, [F.INT_CORRUPT_CNT_count]⟩,
  ⟨"INT_DESC_DROP", 0x0A00080, 1, 0, 1, 0, [F.INT_DESC_DROP_count]⟩,
  ⟨"INT_LAST_CORRUPT", 0x0A00088, 1, 0, 1, 0, [F.INT_LAST_CORRUPT_sample_id]⟩]

/-- The registers of block FLS. -/
def regsFls : List RegRow := [
  ⟨"FLS_ID", 0x0B00000, 1, 0, 1, 0, [F.FLS_ID_version]⟩,
  ⟨"FLS_STATUS", 0x0B00008, 1, 0, 1, 0, [F.FLS_STATUS_flash_closed, F.FLS_STATUS_flash_degraded, F.FLS_STATUS_credit_wait, F.FLS_STATUS_flash_poison_seen]⟩,
  ⟨"FLS_CAPACITY", 0x0B00010, 1, 0, 1, 0, [F.FLS_CAPACITY_gib]⟩,
  ⟨"FLS_CREDIT", 0x0B00018, 1, 0, 1, 0, [F.FLS_CREDIT_mib]⟩,
  ⟨"FLS_BUDGET", 0x0B00020, 1, 0, 1, 0, [F.FLS_BUDGET_mib]⟩,
  ⟨"FLS_WRITTEN", 0x0B00028, 1, 0, 1, 0, [F.FLS_WRITTEN_mib]⟩,
  ⟨"FLS_READ", 0x0B00030, 1, 0, 1, 0, [F.FLS_READ_mib]⟩,
  ⟨"FLS_RETRY_CNT", 0x0B00038, 1, 0, 1, 0, [F.FLS_RETRY_CNT_count]⟩,
  ⟨"FLS_REBUILD_CNT", 0x0B00040, 1, 0, 1, 0, [F.FLS_REBUILD_CNT_count]⟩,
  ⟨"FLS_CREDIT_WAIT", 0x0B00048, 1, 0, 1, 0, [F.FLS_CREDIT_WAIT_slots]⟩,
  ⟨"FLS_LAST_FAIL", 0x0B00050, 1, 0, 1, 0, [F.FLS_LAST_FAIL_page, F.FLS_LAST_FAIL_channel, F.FLS_LAST_FAIL_outcome]⟩,
  ⟨"FLS_WEAR", 0x0B00058, 1, 0, 1, 0, [F.FLS_WEAR_max_cycles, F.FLS_WEAR_mean_cycles, F.FLS_WEAR_rated, F.FLS_WEAR_retired]⟩,
  ⟨"FLS_CH_FENCED", 0x0B00060, 1, 0, 1, 0, [F.FLS_CH_FENCED_fenced]⟩]

/-- The registers of block ARR. -/
def regsArr : List RegRow := [
  ⟨"ARR_ID", 0x0C00000, 1, 0, 1, 0, [F.ARR_ID_version, F.ARR_ID_arrays]⟩,
  ⟨"ARR_STATUS", 0x0C00008, 1, 0, 1, 0, [F.ARR_STATUS_mismatch_seen, F.ARR_STATUS_fence_changed, F.ARR_STATUS_cluster_lost, F.ARR_STATUS_stop_seen, F.ARR_STATUS_inject_refused]⟩,
  ⟨"ARR_ENVELOPE", 0x0C00010, 1, 0, 1, 0, [F.ARR_ENVELOPE_ramp_step, F.ARR_ENVELOPE_hold_slots, F.ARR_ENVELOPE_check_interval]⟩,
  ⟨"ARR_LAST_MISMATCH", 0x0C00018, 1, 0, 1, 0, [F.ARR_LAST_MISMATCH_array, F.ARR_LAST_MISMATCH_line, F.ARR_LAST_MISMATCH_line_index, F.ARR_LAST_MISMATCH_point, F.ARR_LAST_MISMATCH_int_eq, F.ARR_LAST_MISMATCH_injected]⟩,
  ⟨"ARR_LAST_MISMATCH_SLOT", 0x0C00020, 1, 0, 1, 0, [F.ARR_LAST_MISMATCH_SLOT_slot]⟩,
  ⟨"ARR_MISMATCH_CNT", 0x0C00028, 1, 0, 1, 0, [F.ARR_MISMATCH_CNT_count]⟩,
  ⟨"ARR_CHECK_SKIP_CNT", 0x0C00030, 1, 0, 1, 0, [F.ARR_CHECK_SKIP_CNT_count]⟩,
  ⟨"ARR_STEP_USEFUL", 0x0C00038, 1, 0, 1, 0, [F.ARR_STEP_USEFUL_count]⟩,
  ⟨"ARR_STEP_DUMMY", 0x0C00040, 1, 0, 1, 0, [F.ARR_STEP_DUMMY_count]⟩,
  ⟨"ARR_GROUP_SKIPPED", 0x0C00048, 1, 0, 1, 0, [F.ARR_GROUP_SKIPPED_count]⟩,
  ⟨"ARR_RAMP_STALL", 0x0C00050, 1, 0, 1, 0, [F.ARR_RAMP_STALL_count]⟩,
  ⟨"ARR_BATCH_FULL", 0x0C00058, 1, 0, 1, 0, [F.ARR_BATCH_FULL_count]⟩,
  ⟨"ARR_BATCH_TIMED", 0x0C00060, 1, 0, 1, 0, [F.ARR_BATCH_TIMED_count]⟩,
  ⟨"ARR_ROWS_MASKED", 0x0C00068, 1, 0, 1, 0, [F.ARR_ROWS_MASKED_count]⟩,
  ⟨"ARR_STOP_STATUS", 0x0C00070, 1, 0, 1, 0, [F.ARR_STOP_STATUS_last_kind, F.ARR_STOP_STATUS_last_drain_ns, F.ARR_STOP_STATUS_passes_discarded]⟩,
  ⟨"ARR_INJECT", 0x0C00078, 1, 0, 1, 0, [F.ARR_INJECT_array, F.ARR_INJECT_line]⟩,
  ⟨"ARR_FENCED", 0x0C00100, 8, 8, 1, 0, [F.ARR_FENCED_fenced 0]⟩]

/-- Every register of the map, by rising offset. -/
def regTable : List RegRow :=
  regsHst ++ regsCtl ++ regsPwr ++ regsSaf ++ regsSec ++ regsLch ++ regsNum ++ regsMem ++ regsUpd ++ regsChn ++ regsInt ++ regsFls ++ regsArr

end Sys2Proof.Machine
end

