-- ==== Sys2Proof/Machine/State.lean ====
section
/-!
DEFINITION. The state of the module as plain data: the registers of BAR0, the memory tiers, the loaded plan, the records
that the launchers, arrays, engines, link units and the control dies keep while it runs, what survives reset, and the queue
of commands that wait. A quantity that the spec shows in a register field is held there and nowhere else.
-/

namespace Sys2Proof.Machine

/-- Why a step can stop. No meaning of this model raises it: the spec gives every command of the table an effect, or none
when its condition does not hold (log entry 1). Safe: a stop proves nothing about the module. -/
inductive Fault where
  /-- Raised by no one; kept so that the interface has a reason type. Safe. -/
  | none
  deriving DecidableEq, Repr

/-- Why a command has no meaning. -/
inductive Refusal where
  /-- Raised by exec for a command whose meaning is not written. Safe: it proves nothing about the module. -/
  | notModelled (mnemonic : String)
  deriving DecidableEq, Repr

/-! ### Launches, units and sync objects -/

/-- The flags of a sync object (R144) and whether it has failed (R446). -/
structure SyncFlags where
  host   : Bool
  imp    : Bool
  pass   : Bool
  failed : Bool
  deriving DecidableEq, Repr

/-- A signal on its way: effect boundary, object, amount (R134, R146). -/
structure Signal where
  effect : Nat
  object : Nat
  amount : Nat
  deriving DecidableEq, Repr

/-- The counts of one op so far: tensor id, output format code, and the five classes of Table 2.10 (R63). -/
structure OpCount where
  tensorId : Nat
  fmt      : Nat
  counts   : List Nat
  deriving DecidableEq, Repr

/-- What the module keeps of one launch: `counted` is the boundary up to which own slip has been counted (R142), `causes` the
own slip by cause, `attempt` rises with each restart (R147), `poisoned` records a read of a poisoned frond (R190). -/
structure LaunchRun where
  issued    : Bool
  issueSlot : Nat
  slip      : Nat
  ownSlip   : Nat
  counted   : Nat
  causes    : List Nat
  completed : Bool
  doneSlot  : Nat
  isVoid    : Bool
  passed    : Bool
  released  : Bool
  signalled : Bool
  poisoned  : Bool
  ops       : List OpCount
  deriving DecidableEq, Repr

/-- A launch that has not issued. -/
def LaunchRun.fresh : LaunchRun :=
  ⟨false, 0, 0, 0, 0, List.replicate 8 0, false, 0, false, false, false, false, false, []⟩

/-- A unit: the launch in its waiting place, the boundary from which the place is seen empty, and the launch it runs with the
progress of that launch in elements of its own kind (R135). -/
structure UnitRun where
  waiting  : Option Nat
  freeFrom : Nat
  running  : Option Nat
  progress : Nat
  deriving DecidableEq, Repr

/-- A unit with nothing to run. -/
def UnitRun.idle : UnitRun := ⟨none, 0, none, 0⟩

/-- A pass: whether it has been discarded and waits for its restart boundary, from which boundary it was stopped, the stop
intervals that its timeouts leave out (R148), whether it is aborted (R233). -/
structure PassRun where
  stopped   : Bool
  stopFrom  : Nat
  restartAt : Nat
  pauses    : List (Nat × Nat)
  aborted   : Bool
  deriving DecidableEq, Repr

/-- A pass that has not begun. -/
def PassRun.fresh : PassRun := ⟨false, 0, 0, [], false⟩

/-- An accumulator bank with its check lines (R80, R84): entries by 128 × row + column; `n` groups since the last clear,
`red` the reduction length, `steps` feed steps since the last drain and at
the last intermediate check, the conditions of R86 so far, and the tiles that
accumulated into it. The check cells hold the signed and the magnitude accumulator, and the exact sums of R86. -/
structure Bank where
  n      : Nat
  red    : Nat
  steps  : Nat
  checked : Nat
  intEq  : Bool
  aScale : Option Nat
  bScale : Option Nat
  entry  : FMap Word32
  rowX   : FMap Word32
  rowN   : FMap Word32
  colX   : FMap Word32
  colN   : FMap Word32
  rowE   : FMap Int
  colE   : FMap Int
  tiles  : List Nat
  deriving DecidableEq, Repr

/-- A cleared bank. -/
def Bank.clear : Bank := ⟨0, 0, 0, 0, true, none, none, [], [], [], [], [], [], [], []⟩

/-- An array: issue level, its tile's feed step, tiles whose banks wait for their drain, tiles to run again (R89), tiles
that have released their outputs, the slot of its last feed step, and a forced mismatch with its line (R109). -/
structure ArrayRun where
  level     : Nat
  feeding   : Option Nat
  step      : Nat
  drains    : List Nat
  rerun     : List Nat
  ready     : List Nat
  lastFeed  : Nat
  gapFrom   : Nat
  inject    : Option Bool
  heldTest  : Bool
  dummies   : Nat
  deriving DecidableEq, Repr

/-- An idle array. -/
def ArrayRun.idle : ArrayRun := ⟨0, none, 0, [], [], [], 0, 0, none, false, 0⟩

/-- A row of a batch queue: its place in the queue area, request id, result slot and acceptance slot (R100, R325). -/
structure QueueRow where
  entry   : Nat
  request : Word
  slot    : Nat
  accept  : Nat
  deriving DecidableEq, Repr

/-- A batch that runs: its rows, its array, the boundary that stands as its anchor, the launches still to complete. -/
structure BatchRun where
  number  : Nat
  rows    : List QueueRow
  array   : Nat
  anchor  : Nat
  resultDone : Bool
  done    : Bool
  deriving DecidableEq, Repr

/-- A batch queue: rows waiting, requests whose row copy is under way, batches launched since plan load, batches that run,
and how far the current batch condition has been counted. -/
structure QueueRun where
  rows    : List QueueRow
  copying : List QueueRow
  count   : Nat
  counted : Nat
  batches : List BatchRun
  deriving DecidableEq, Repr

/-- An empty queue. -/
def QueueRun.empty : QueueRun := ⟨[], [], 0, 0, []⟩

/-- The launch and sync state beyond the LCH registers. `base` is the slot from which the next anchor is planned (R138);
`anchors` holds slot + 1 of each anchor set, by 65,536 × iteration + anchor; launches and their runs go by launch key. -/
structure LchState where
  skipped  : Bool
  iter     : Nat
  next     : Nat
  base     : Nat
  anchors  : FMap Nat
  runs     : FMap LaunchRun
  passes   : FMap PassRun
  units    : FMap UnitRun
  flags    : FMap SyncFlags
  signals  : List Signal
  stopFrom : Nat
  pauses   : List (Nat × Nat)
  holdEnd  : Nat
  clearReq : Bool
  numClear : Bool
  seals    : FMap Nat
  refFault : Bool
  deriving DecidableEq, Repr

/-- No plan has run. -/
def LchState.init : LchState :=
  ⟨false, 0, 0, 0, [], [], [], [], [], [], 0, [], 0, false, false, [], false⟩

/-- The array and engine state: arrays by flat index, banks by 4 × array + bank, vector registers by
65,536 × core + 512 × register + lane, fenced vector engines, tile lists that wait for a restart by array. -/
structure ArrState where
  arrays   : FMap ArrayRun
  banks    : FMap Bank
  vregs    : FMap Word32
  veFenced : FMap Bool
  restarts : FMap (List Nat)
  queues   : FMap QueueRun
  deriving DecidableEq, Repr

/-- Nothing fed. -/
def ArrState.init : ArrState := ⟨[], [], [], [], [], []⟩

/-! ### The host side -/

/-- A step report that waits for its slot: n and the payload (R331). -/
structure Report where
  n       : Nat
  payload : List Byte
  deriving DecidableEq, Repr

/-- What the module has sent: an MSI-X message (R332), a message into the chain on a port, a link-level item on a Serros port (kind
code, value, 64-bit content), a reply on the rack path, the data of a host read, an in-band interrupt on
I3C. -/
inductive Sent where
  | msix (vector : Nat)
  | message (port : Option Nat) (m : ChainMsg)
  | link (port kind value : Nat) (content : Word)
  | rack (bytes : List Byte)
  | hostRead (bytes : List Byte)
  | ibi
  deriving DecidableEq, Repr

/-- Interrupt spacing (vectors whose interval runs, vectors with a message that waits), step reports that wait, the command that
is pending (1 LOAD waits for DEVICE_READY and chain addressing, 5 END waits for steps in flight), the SHAKE256 measure of the
loaded plan image (Table 16.6), and log2 of the BAR4 size (Table 12.2). -/
structure HostState where
  irqOpen : FMap Bool
  irqWait : FMap Bool
  reports : List Report
  cmd     : Option Nat
  planHash : List Byte
  bar4    : Nat
  deriving DecidableEq, Repr

/-- Nothing waits; BAR4 has its default size of 64 GiB. -/
def HostState.init : HostState := ⟨[], [], [], none, [], 36⟩

/-! ### The chain -/

/-- A message sent and not yet acknowledged, with the slot of its last sending (R247). -/
structure Unacked where
  dest   : Nat
  seq    : Nat
  sent   : Nat
  msg    : ChainMsg
  deriving DecidableEq, Repr

/-- The link layer of one port (R239): sequence number of the next flit, of the last good flit received plus 1, replays of the
flit being replayed, slot of the last good flit, whether its training has failed (R240). -/
structure PortRun where
  txSeq   : Nat
  rxNext  : Nat
  replays : Nat
  replayOf : Nat
  lastGood : Nat
  failed  : Bool
  deriving DecidableEq, Repr

/-- A port at start. -/
def PortRun.fresh : PortRun := ⟨0, 0, 0, 0, 0, false⟩

/-- A collective data message that waits for credit (R253): destination and body. -/
structure OutData where
  dest : Nat
  body : List Byte
  deriving DecidableEq, Repr

/-- A partial that a reduce step holds: frond index, FP32 or encoded image. -/
structure PartFrond where
  role  : Nat
  idx   : Nat
  image : List Byte
  deriving DecidableEq, Repr

/-- A collective step that has issued (R252 to R258): launch key, descriptor, iteration, step n, whether it is a re-reduction
(R272), whether it runs in direct form (R275), data that waits for credit, credit by peer, group partials w by frond index,
stage 2 data that came before its w, S values of the spread that have come in part, views
sealed (gather, by B8 frond index), data received, messages that it has taken as done. -/
structure CollRun where
  key     : Nat
  desc    : Nat
  iter    : Nat
  step    : Nat
  redo    : Bool
  direct  : Bool
  queue   : List OutData
  credit  : FMap Nat
  parts   : List PartFrond
  early   : List PartFrond
  spread  : List PartFrond
  sealed  : List Nat
  ended   : Bool
  deriving DecidableEq, Repr

/-- A layout message of a member (R261). -/
structure LayoutRec where
  source  : Nat
  step    : Nat
  layout  : Nat
  adopted : Nat
  digest  : Word32
  deriving DecidableEq, Repr

/-- A permute that has issued: launch key, step, the requested layout and the role table read at issue, whether it
proceeds once that is decided, fronds sent (64 × frond + destination) and received. -/
structure PermRun where
  key     : Nat
  step    : Nat
  layout  : Nat
  roles   : FMap Nat
  go      : Option Bool
  sentF   : List Nat
  gotF    : List Nat
  deriving DecidableEq, Repr

/-- The loss of a module under way (R269 to R272): lost address, slot of the loss boundary, stand-in named, reporters heard,
first dropped step. -/
structure LossRun where
  lost    : Nat
  at0     : Nat
  standIn : Nat
  heard   : List Nat
  dropped : Option Nat
  open0   : Bool
  deriving DecidableEq, Repr

/-- Messaging: next seq by destination, messages not acknowledged, next seq expected by source, messages held behind a gap,
messages received since the last acknowledgement by source, links marked lost; the ports; addressing (origin of the token
taken, slot of the token sent and of the training of port W, closure seen, skip ports probed, rejoined); adopted roles by
address (R250); collective steps issued and gathers completed, by descriptor and iteration; layout messages; the permute
and the loss under way; acknowledgements due; credit that came before its step (source, descriptor, iteration, fronds);
addresses whose role is lost until a permute removes it (R273); the slot of the closure; partner requests that wait for a frond in
move (source, frond, tag; R248); loss reports that came before the loss boundary (reporter, lost, stand-in, norms). -/
structure ChnState where
  txSeq   : FMap Nat
  unacked : List Unacked
  rxNext  : FMap Nat
  held    : List ChainMsg
  rxCount : FMap Nat
  lost    : FMap Bool
  ports   : FMap PortRun
  origin  : Option Word
  tokenAt : Option Nat
  trainAt : Option Nat
  closed  : Bool
  probed  : List Nat
  rejoined : Bool
  roles   : FMap Nat
  colls   : List CollRun
  doneColls : List (Nat × Nat)
  layouts : List LayoutRec
  perm    : Option PermRun
  loss    : Option LossRun
  ackDue  : FMap Nat
  credits : List (Nat × Nat × Nat × Nat)
  gone    : FMap Bool
  closedAt : Nat
  reqs    : List (Nat × Nat × Nat)
  reports : List (Nat × Nat × Nat × List (List Byte))
  deriving DecidableEq, Repr

/-- No message has passed. -/
def ChnState.init : ChnState := ⟨[], [], [], [], [], [], [], none, none, none, false, [], false, [], [], [], [], none, none, [], [], [], 0, [], []⟩

/-! ### Training -/

/-- A stash placed by a layer's decision (R229): iteration, layer index, mode full, fronds and granules per stack. -/
structure StashPlace where
  iter   : Nat
  layer  : Nat
  full   : Bool
  counts : List Nat
  grans  : List Nat
  released : Bool
  deriving DecidableEq, Repr

/-- A sealed incoming frond that waits for the reduce adder (R196, R197): its address, the target, the tiles that wait for it,
the output record that places its elements, the training step. -/
structure AddJob where
  addr   : Nat
  target : AccTarget
  keys   : List Nat
  out    : Output
  step   : Nat
  deriving DecidableEq, Repr

/-- A frond asked of the partner (R189): its id, the request tag, the place that waits for it, the step its header must carry,
the slot of the request, whether a move waits to switch, the module asked, and why: 0 a failed read, 1 a digest repair, 2 a
group repair. -/
structure FetchJob where
  frond : Nat
  tag   : Nat
  place : Nat
  step  : Word
  start : Nat
  move  : Bool
  src   : Nat
  why   : Nat
  deriving DecidableEq, Repr

/-- A norm message of a step (Table 7.4), the module's own among them; `stale` when its source sent it before its loss report
(R272). -/
structure NormRec where
  step     : Nat
  source   : Nat
  position : Nat
  loss     : Bool
  grad     : Bool
  abort    : Bool
  part     : Word32
  stale    : Bool
  deriving DecidableEq, Repr

/-- A shard digest the module holds (R219, R220): shard, step, its own digest, those received by source; round 0 first
comparison, 1 fetches under way, 2 second comparison (R281), with the fronds fetched and the method. -/
structure DigestRec where
  shard : Nat
  step  : Nat
  own   : Option (List Byte)
  got   : List (Nat × List Byte)
  round : Nat
  count : Nat
  method : Nat
  deriving DecidableEq, Repr

/-- The sum s of R200 for one gradient frond of a shard, formed by a reduce step: FP32 values, the first flat index of its
draws, and the launch. -/
structure SumRec where
  shard : Nat
  idx   : Nat
  base  : Nat
  key   : Nat
  vals  : List Word32
  deriving DecidableEq, Repr

/-- Training state beyond the UPD registers: stash placements; additions that wait; partner fetches; views to be made again; the
flags of R202; the step whose decision is open; frond partials by 2^20 × shard + frond; shards with a partial; zero shards of the
step; norm messages; when the last reduction completed; pending slots in use by (65,536 × stack + slot, frond); sweeps that
wait and the slot from which; fenced update engines; shards that owe a digest; digests; the last committed step + 1; local
counts by (source, step, C); sums that wait for final quantisation; fronds quantised and fronds all of zero blocks, keyed as
the partials; counts of the ops that run outside any launch; a snapshot owed; whether a write waits for a pending slot; the stacks
whose group waits for repair; whether HOLD cause 8 has a fault without release. -/
structure TrnState where
  stash : List StashPlace
  adds  : List AddJob
  fetches : List FetchJob
  nextTag : Nat
  remake  : List Nat
  gradPoisoned : Bool
  cur      : Nat
  partials : FMap Word32
  haveParts : List Nat
  zeroShards : List Nat
  lossBad  : Bool
  norms    : List NormRec
  normSent : Bool
  normFrom : Nat
  pend     : List (Nat × Nat)
  sweepFrom : FMap Nat
  fencedUpd : FMap Bool
  owed     : List Nat
  digests  : List DigestRec
  committed : Nat
  counts   : List (Nat × Nat × Nat)
  sums     : List SumRec
  quant    : List Nat
  qops     : List OpCount
  zeroFr   : List Nat
  snapOwed : Option Nat
  pendWait : Bool
  repair   : List Nat
  hard8    : Bool
  deriving DecidableEq, Repr

/-- Nothing trained. -/
def TrnState.init : TrnState := ⟨[], [], [], 0, [], false, 0, [], [], [], false, [], false, 0, [], [], [], [], [], 0, [], [], [], [], [], none, false, [], false⟩

/-! ### The flash tier -/

/-- The flash tier beyond the FLS registers: the fraction of a MiB of credit in 337,500,000,000ths, what the ledger has stored,
MiB debited since the last store and the slot of that store,
blocks' pages marked for retirement, pages whose rereads have failed and that wait for a rebuild, KiB of stripe writes that the
credit has covered and no frond has used yet, stripe writes made and KiB read since reset, and FLS_WEAR as the ledger keeps it
across a reset. -/
structure FlsState where
  frac     : Nat
  stored   : Nat
  debited  : Nat
  storedAt : Nat
  retire   : List Nat
  failed   : List Nat
  granted  : Nat
  written  : Nat
  readKib  : Nat
  wear     : Word
  deriving DecidableEq, Repr

/-- Nothing written. -/
def FlsState.init : FlsState := ⟨0, 0, 0, 0, [], [], 0, 0, 0, 0⟩

/-! ### Maintenance -/

/-- A maintenance activity of Table 15.4, in table order: BIST 0, SCR 1, WEAR 2, LRT 3, LZC 4, DIG 5, SCAL 6, ENV 7, KEY 8;
with its kind (BIST: Table 15.13) and its unit (array, core, region, channel, lane group, stack, port or die). -/
structure Activity where
  act  : Nat
  kind : Nat
  unit : Nat
  deriving DecidableEq, Repr

/-- The activities that run and the requests that wait, oldest first (R396). -/
structure MaintState where
  running : List Activity
  waiting : List Activity
  deriving DecidableEq, Repr

/-- Nothing runs. -/
def MaintState.init : MaintState := ⟨[], []⟩

/-! ### The one-time store -/

/-- The one-time store (R406): the lifecycle count t in the copies of both control dies, the identity seed (unprogrammed bits 0,
erased all ones), the four owner slots of 32 bytes, the four sets of rollback floor slots as written so far, and the breach
mark (SEC_STATUS mesh_breach). -/
structure OneTime where
  t      : Nat
  tCopy  : Nat
  seed   : List Byte
  owners : List (List Byte)
  floors : List (List Nat)
  breach : Bool
  deriving DecidableEq, Repr

/-- A store in which nothing is programmed. -/
def OneTime.blank : OneTime :=
  ⟨0, 0, List.replicate 96 0, List.replicate 4 (List.replicate 32 0), List.replicate 4 [], false⟩

/-! ### Intake -/

/-- A filed sample (R292): step, micro-batch, slot, descriptor number, the descriptor, its cost in 80ths of a ns (Table 11.5),
whether it has been written. -/
structure Sample where
  step : Nat
  m    : Nat
  slot : Nat
  num  : Nat
  desc : List Byte
  cost : Nat
  done : Bool
  deriving DecidableEq, Repr

/-- A completed sample slot (R295): reason 0 for valid, and weight. -/
structure SlotDone where
  step   : Nat
  m      : Nat
  slot   : Nat
  id     : Word
  reason : Nat
  weight : Nat
  deriving DecidableEq, Repr

/-- Intake beyond the INT registers: filed samples, completed slots, descriptors whose payload has been read, costs filed in
the window that runs, the step + 1 whose count has been sent, largest position + 1 by step, keys of text batches that are
packed. -/
structure IntState where
  filed   : List Sample
  slots   : List SlotDone
  read    : List Nat
  window  : Nat
  sent    : Nat
  top     : FMap Nat
  packed  : List Nat
  deriving DecidableEq, Repr

/-- No sample filed. -/
def IntState.init : IntState := ⟨[], [], [], 0, 0, [], []⟩

/-! ### Power, reset and metering -/

/-- Unpowered (PWR_EN low), OFF (disconnects open after a trip or a failed test), in reset (PERST_N low), or up (R336, R384). -/
inductive PowerMode where
  | unpowered | off | inReset | up
  deriving DecidableEq, Repr

/-- One 100 µs block: power of the primary and of the check meter, and the enforcement ceiling at its end (R356, R368). -/
structure MeterBlock where
  w       : Nat
  check   : Nat
  ceiling : Nat
  deriving DecidableEq, Repr

/-- What the energy record in progress holds (Table 14.10): first slot, energy at its start and the integral of the ceiling in
force, both in tenths of a mJ, lowest cap, largest average and block power, lowest and highest voltage, flags, skipped slots. -/
structure RecordAcc where
  start   : Nat
  energy0 : Nat
  allowed : Nat
  cap     : Nat
  maxAvg  : Nat
  peak    : Nat
  vinMin  : Nat
  vinMax  : Nat
  flags   : Nat
  skipped : Nat
  deriving DecidableEq, Repr

/-- An empty record from a slot. -/
def RecordAcc.start0 : RecordAcc := ⟨0, 0, 0, 0, 0, 0, 0xFFFF, 0, 0, 0⟩

/-- Power and reset: mode, the pins PWR_EN and PERST_N, the latched trip (code, both detectors) and whether OFF has not been left
since; bring-up phases that have ended, flash mount failure (0x6), control pair failure (0x2). Metering: energy since PWR_EN
rise in tenths of a mJ; the blocks of the last second, newest first; blocks since DEVICE_READY; the run of blocks above the
peak limit; whether the last window broke the average rule; blocks at depth 63 with the cap reached; blocks with the input in
range; whether the meters have differed; a late cut (slot, draw); the slot of the last setpoint step; the scheduled ceiling of
the minute in progress; the record in progress; records that wait for a signature and for the journal; PLDM sensor values. -/
structure PwrState where
  mode     : PowerMode
  pwrEn    : Bool
  perstN   : Bool
  trip     : Nat
  tripBoth : Bool
  tripped  : Bool
  phases   : List Nat
  flashBad : Bool
  pairBad  : Bool
  energy   : Nat
  blocks   : List MeterBlock
  ready    : Nat
  peakRun  : Nat
  avgBroken : Bool
  floorRun : Nat
  vinOk    : Nat
  meterBad : Bool
  cut      : Option (Nat × Nat)
  stepAt   : Nat
  minuteW  : Nat
  acc      : RecordAcc
  sigWait  : List Nat
  unstored : List Nat
  pldm     : List Nat
  deriving DecidableEq, Repr

/-- The power side right after PERST_N has deasserted, with no bring-up phase ended. -/
def PwrState.init : PwrState :=
  ⟨.up, true, true, 0, false, false, [], false, false, 0, [], 0, 0, false, 0, 0, false, none, 0, 0, RecordAcc.start0, [], [],
   List.replicate 7 0⟩

/-! ### Croziers and configuration -/

/-- A frozen set (R349): the staged values written since the last freeze, the timing asked for, the effect boundary of the request,
the settings it changes, and the commit slot once it is known (R352). -/
structure Crozier where
  values  : FMap (Option Word)
  atSlot  : Bool
  target  : Nat
  asked   : Nat
  changed : Nat
  commit  : Option Nat
  deriving DecidableEq, Repr

/-- An image copy being programmed (R346): whether it is copy B, and its bytes. -/
structure CfgJob where
  copyB : Bool
  bytes : List Byte
  deriving DecidableEq, Repr

/-- Staging: values written since the last freeze, registers returned to the value in effect while a set is frozen, the frozen
set, the slot of the holder's last write, the slot of the last commit, and the programming in progress. -/
structure CtlState where
  staged  : FMap (Option Word)
  dropped : List Nat
  frozen  : Option Crozier
  wroteAt : Nat
  lastC   : Nat
  prog    : Option CfgJob
  deriving DecidableEq, Repr

/-- Nothing staged. -/
def CtlState.init : CtlState := ⟨[], [], none, 0, 0, none⟩

/-- What outlives power (R341, R379, R404, R412): the image copies of the configuration flash; the metering journal with boot
count, chain head, last records by index and the newest signature; the identity certificate; the key commitment. -/
structure NvState where
  copyA   : List Byte
  copyB   : List Byte
  boot    : Nat
  next    : Nat
  records : List (Nat × List Byte)
  sig     : Option (Nat × List Byte)
  cert    : List Byte
  commitment : Option Word
  deriving DecidableEq, Repr

/-- A module that has never been started. -/
def NvState.blank : NvState := ⟨[], [], 0, 0, [], none, [], none⟩

/-! ### Security and supervision -/

/-- The volatile key store (Table 16.1) with the session id, the debug flag, the slots of class 1 alarms of the last hour and of the
last glitch event. -/
structure SecState where
  tenant  : Option (List Byte)
  session : Option (List Byte)
  sessionId : Word
  debug   : Bool
  class1  : List Nat
  glitch  : Option Nat
  deriving DecidableEq, Repr

/-- No key, no alarm. -/
def SecState.init : SecState := ⟨none, none, 0, false, [], none⟩

/-- Supervision: last sensor readings of a die in tenths of a degree; consecutive calibrations that found sensor 0 or 1
implausible; the sensor that a die runs on alone; flow reads at or above and below the least flow; whether a control decision
waits on the self-check; the slot of the last control heartbeat; whether every control die has stopped its heartbeat. -/
structure SafState where
  temps   : FMap (Int × Int)
  doubt   : FMap (Nat × Nat)
  alone   : FMap (Option Bool)
  flowOk  : Nat
  flowLow : Nat
  checking : Bool
  beatAt  : Nat
  muted   : Bool
  deriving DecidableEq, Repr

/-- Nothing read. -/
def SafState.init : SafState := ⟨[], [], [], 0, 0, false, 0, false⟩

/-- The state of the module. -/
structure State where
  pending : List Instr
  regs    : FMap Word
  mem     : Mem
  flash   : Mem
  plan    : Option Plan
  lch     : LchState
  arr     : ArrState
  host    : HostState
  chn     : ChnState
  trn     : TrnState
  fuse    : OneTime
  fls     : FlsState
  maint   : MaintState
  int     : IntState
  pwr     : PwrState
  ctl     : CtlState
  nv      : NvState
  sec     : SecState
  saf     : SafState
  sent    : List Sent
  freeCtr : Nat
  deriving DecidableEq, Repr

/-! ### Reset -/

/-- The registers whose Reset column (R20) is not 0, by rising offset; SEC_SERIAL is fixed per device (log entry 4), the strap
fields read 0 (log entry 9). -/
def resetRegs : FMap Word :=
  [(Off.HST_ID, 1), (Off.HST_RESULT_SEQ, 1), (Off.CTL_ID, 1), (Off.PWR_ID, 1), (Off.PWR_GOV, 0x100000000),
   (Off.PWR_MCTP, 0xF12600000000), (Off.SAF_ID, 1), (Off.SEC_ID, 1), (Off.SEC_SERIAL, Config.serial), (Off.LCH_ID, 0x20000001),
   (Off.NUM_ID, 1), (Off.MEM_ID, 1), (Off.UPD_ID, 1), (Off.CHN_ID, 1), (Off.CHN_JOB, 0x810000), (Off.INT_ID, 1), (Off.FLS_ID, 1),
   (Off.FLS_STATUS, 1), (Off.FLS_CAPACITY, 120832), (Off.FLS_BUDGET, 39845888), (Off.FLS_WEAR, 0xBB800000000), (Off.ARR_ID, 0x2000001),
   (Off.ARR_ENVELOPE, 0x4000000F0002)]

/-- The module right after PERST_N has deasserted with every strap low: registers at their Reset values, no bring-up phase ended,
nothing in memory, no plan, no command waiting; the one-time store, the flash tier and the configuration flash blank (log
entry 9). -/
def State.reset : State :=
  { pending := [], regs := resetRegs, mem := [], flash := [], plan := none, lch := LchState.init, arr := ArrState.init,
    host := HostState.init, chn := ChnState.init, trn := TrnState.init, fuse := OneTime.blank, fls := FlsState.init,
    maint := MaintState.init, int := IntState.init, pwr := PwrState.init, ctl := CtlState.init, nv := NvState.blank,
    sec := SecState.init, saf := SafState.init, sent := [], freeCtr := 0 }

end Sys2Proof.Machine
end

