-- ==== Sys2Proof/Machine/Flags.lean ====
section
/-!
DEFINITION. Registers, status bits, counters and events: reading and writing a field of a register, counters that stop at
their largest value, interrupts (R332), the fault log (R402), the safety state (R384) and the free values.
-/

namespace Sys2Proof.Machine

/-- The register at a BAR0 offset. -/
def getReg (s : State) (off : Nat) : Word := FMap.get 0 s.regs off

/-- A register written whole. -/
def setReg (s : State) (off : Nat) (w : Word) : State := { s with regs := FMap.set 0 s.regs off w }

/-- The value of a field. -/
def getF (s : State) (f : Field) : Nat := bits (getReg s f.off) f.hi f.lo

/-- A field written; a value too wide keeps its low bits. -/
def setF (s : State) (f : Field) (v : Nat) : State := setReg s f.off (setBits (getReg s f.off) f.hi f.lo v)

/-- Whether a one-bit field is set. -/
def hasF (s : State) (f : Field) : Bool := getF s f != 0

/-- The largest value of a field. -/
def Field.max (f : Field) : Nat := 2 ^ (f.hi + 1 - f.lo) - 1

/-- A counter raised by `n`; it stops at the largest value of its field (R191 and the like). -/
def bumpF (s : State) (f : Field) (n : Nat) : State := setF s f (Nat.min f.max (getF s f + n))

/-- A field written with the value stopped at its largest. -/
def setFmax (s : State) (f : Field) (v : Nat) : State := setF s f (Nat.min f.max v)

/-- The member of a field's register family at a byte offset from the first. -/
def Field.at (f : Field) (d : Nat) : Field := { f with off := f.off + d }

/-- The slot counter (R132). -/
def slot (s : State) : Nat := getF s F.LCH_SLOT_slot

/-- A fresh free value (log entry 3). -/
def takeFree (s : State) : Word × State :=
  (Config.freeWord s.freeCtr, { s with freeCtr := s.freeCtr + 1 })

/-- The module sends something. -/
def send (s : State) (x : Sent) : State := { s with sent := x :: s.sent }

/-! ### Interrupts, R332 -/

/-- A message on a vector: sent at once, or left to wait while the vector's interval runs. -/
def sendIrq (s : State) (v : Nat) : State :=
  if getF s F.HST_IRQ_COALESCE_interval_us = 0 then send s (.msix v)
  else if FMap.get false s.host.irqOpen v then
    { s with host := { s.host with irqWait := FMap.set false s.host.irqWait v true } }
  else
    send { s with host := { s.host with irqOpen := FMap.set false s.host.irqOpen v true } } (.msix v)

/-- An event of a source of Table 12.13: the bit turns on, and the message goes out when the source is enabled; while the
bit stays set, further events send nothing. -/
def raise (s : State) (src : Nat) : State :=
  let p := getF s F.HST_IRQ_PENDING_pending
  if p.testBit src then s
  else
    let s := setF s F.HST_IRQ_PENDING_pending (p ||| 2 ^ src)
    if hasF s (F.HST_IRQ_MAP_enable src) then sendIrq s (getF s (F.HST_IRQ_MAP_vector src)) else s

/-- A status bit set, with the event of its source. -/
def flag (s : State) (f : Field) (src : Nat) : State := raise (setF s f 1) src

/-- An error bit of HST_ERR_STATUS set: event source 3 (R333). -/
def hostErr (s : State) (f : Field) : State := flag s f 3

/-- A refused access recorded in HST_ACCESS_ERR (Table 12.17). -/
def recordAccess (s : State) (bar : Nat) (write : Bool) (size offset : Nat) : State :=
  setReg s Off.HST_ACCESS_ERR
    (BitVec.ofNat 64 (bar % 4 + 4 * b2n write + 8 * Nat.min 15 size + 256 * (offset % 2 ^ 41)))

/-! ### The plan state and the safety state -/

/-- The plan states of Table 12.9. -/
inductive PlanState where
  | empty | loading | loaded | running | stopped | held | ended
  deriving DecidableEq, Repr

/-- The code of Table 12.9. -/
def PlanState.code : PlanState → Nat
  | .empty => 0 | .loading => 1 | .loaded => 2 | .running => 3 | .stopped => 4 | .held => 5 | .ended => 6

/-- The plan state held in HST_STATUS. -/
def planState (s : State) : PlanState :=
  match getF s F.HST_STATUS_plan_state with
  | 0 => .empty | 1 => .loading | 2 => .loaded | 3 => .running | 4 => .stopped | 5 => .held | _ => .ended

/-- A change of the plan state raises event source 2 (Table 12.13). -/
def setPlanState (s : State) (p : PlanState) : State :=
  if getF s F.HST_STATUS_plan_state = p.code then s else raise (setF s F.HST_STATUS_plan_state p.code) 2

/-- Whether a HOLD cause is pending (R384). -/
def inHold (s : State) : Bool := getF s F.SAF_HOLD_pending != 0

/-- Whether a host stop is in force. -/
def stopInForce (s : State) : Bool := hasF s F.HST_STATUS_stop_in_force

/-- Whether any array is fenced (R385). -/
def anyFenced (s : State) : Bool := (List.range 8).any fun i => getReg s (Off.ARR_FENCED i) != 0

/-- A degrade condition of R385 holds. -/
def degraded (s : State) : Bool :=
  anyFenced s || !s.arr.veFenced.isEmpty || hasF s F.SAF_STATUS_single_control
    || getF s F.SAF_THERMAL_single_sensor != 0 || hasF s F.FLS_STATUS_flash_degraded || hasF s F.PWR_STATUS_meter_fault

/-! ### The fault log, R402 -/

/-- The offset of fault log entry h. -/
def logEntry (h : Nat) : Nat := 0x310000 + 0x10 * (h % 256)

/-- One fault log entry of a fault of Table 15.3, with the safety event (R392, R403). Outcome 0 RUN, 1 DEGRADED, 2 HOLD,
3 OFF. -/
def logFault (s : State) (code outcome die unit detail : Nat) : State :=
  let h := getF s F.SAF_LOG_HEAD_head
  let s := setReg s (logEntry h + 8) (BitVec.ofNat 64 (die % 128 + 128 * (unit % 512) + 2 ^ 32 * (detail % 2 ^ 32)))
  let s := setReg s (logEntry h) (BitVec.ofNat 64 (slot s + 2 ^ 56 * (code % 64) + 2 ^ 62 * (outcome % 4)))
  let s := setF s F.SAF_LOG_HEAD_head (h + 1)
  let s := bumpF s F.SAF_FAULT_CNT_count 1
  flag s F.SAF_STATUS_fault_seen 11

end Sys2Proof.Machine
end

