-- ==== Sys2Proof/Machine/Ops.lean ====
section
/-!
DEFINITION. Operations over memory and over the records of the module: reading and writing the tiers, fronds and their
headers (R170 to R175), the frond table (R176 to R179), seals (R174), sync signals (R146), record rings (R65), the stops of
R104 and the entry into HOLD (R386).
-/

namespace Sys2Proof.Machine

/-- The outcome of a command of a module that runs: it leaves the queue and the one-time store as they are. While the module is
unpowered, in OFF or in reset, the logic dies are held and the command changes nothing (R336, R388). -/
def settle (s t : State) : Host.Outcome State Fault Refusal :=
  .next (if s.pwr.mode = .up then { t with pending := s.pending, fuse := s.fuse } else s)

/-- The outcome of an event of the supply, the pins or the always-on circuits, which acts in every power mode. -/
def settleAny (s t : State) : Host.Outcome State Fault Refusal := .next { t with pending := s.pending, fuse := s.fuse }

/-- The outcome of a command that may program the one-time store; the queue stands. -/
def settleFuse (s t : State) : Host.Outcome State Fault Refusal := .next { t with pending := s.pending }

/-- Whether a bring-up phase has ended (Table 13.2). -/
def phaseEnded (s : State) (n : Nat) : Bool := s.pwr.phases.contains n

/-- Whether the host reaches BAR0, BAR2 and BAR4: phase 3 has ended (R337), the control pair stands (Table 13.3, 0x2) and REFCLK
is present (R435). -/
def hostLink (s : State) : Bool := phaseEnded s 3 && !s.pwr.pairBad && !hasF s F.LCH_REF_STATUS_refclk_absent

/-- A host access: without the link it does not arrive. -/
def hostStep (s : State) (f : State → State) : State := if hostLink s then f s else s

/-! ### Memory -/

/-- `n` bytes from a device address of a tier. -/
def rd (s : State) (a n : Nat) : List Byte :=
  if flashBase ≤ a then readBytes s.flash a n else readBytes s.mem a n

/-- Bytes written at a device address of a tier. -/
def wr (s : State) (a : Nat) (bs : List Byte) : State :=
  if flashBase ≤ a then { s with flash := writeBytes s.flash a bs } else { s with mem := writeBytes s.mem a bs }

/-- `n` bytes from a device address of a tier set to what an unlisted byte reads as. -/
def clearBytes (s : State) (a n : Nat) : State :=
  let out := fun (c : Host.Cell) => decide (c.1 < a) || decide (a + n ≤ c.1)
  if flashBase ≤ a then { s with flash := s.flash.filter out } else { s with mem := s.mem.filter out }

/-- A 64-bit little-endian word of memory. -/
def rdWord (s : State) (a : Nat) : Word := BitVec.ofNat 64 (leNat (rd s a 8))

/-- A 32-bit little-endian word of memory. -/
def rdWord32 (s : State) (a : Nat) : Word32 := BitVec.ofNat 32 (leNat (rd s a 4))

/-! ### Fronds, R170 to R175 -/

/-- The payload of a frond in bytes (R171). -/
def payloadLen : Nat := 65536

/-- Rows of a frond and elements of a row (Table 6.5). -/
def Fmt.rows : Fmt → Nat
  | .fp32 => 128 | .bf16 => 128 | _ => 256

/-- Elements of one frond row (Table 6.5). -/
def Fmt.rowElems : Fmt → Nat
  | .fp32 => 128 | .bf16 => 256 | .b4 => 512 | .b4x => 448 | _ => 256

/-- Elements of a frond. -/
def Fmt.elems (f : Fmt) : Nat := f.rows * f.rowElems

/-- Blocks of one frond row; 0 for a plain format. -/
def Fmt.rowBlocks (f : Fmt) : Nat := if f.isBlock then f.rowElems / 32 else 0

/-- Payload bytes of one frond row (R171). -/
def Fmt.rowBytes (f : Fmt) : Nat := f.rowElems * f.elemBits / 8

/-- Side band length (Table 6.5). -/
def Fmt.sideLen (f : Fmt) : Nat := 64 + f.rows * f.rowBlocks

/-- Payload and side band. -/
def Fmt.imageLen (f : Fmt) : Nat := payloadLen + f.sideLen

/-- A length rounded up to whole granules. -/
def roundUp (n g : Nat) : Nat := (n + g - 1) / g * g

/-- The footprint of a frond at an address (R173). -/
def Fmt.footprint (f : Fmt) (a : Nat) : Nat :=
  if flashBase ≤ a then roundUp f.imageLen 4096 else roundUp f.imageLen 256

/-- The frond header (Table 6.6). -/
structure Header where
  frondId  : Nat
  fmt      : Fmt
  cls      : Nat
  view     : Bool
  step     : Word
  fragment : Word
  tensorId : Nat
  tile     : Nat
  check    : Nat
  deriving DecidableEq, Repr

/-- The 64 bytes of a header. -/
def Header.bytes (h : Header) : List Byte :=
  wordBytes [h.frondId % 2 ^ 32 + 2 ^ 32 * h.fmt.code + 2 ^ 36 * (h.cls % 16) + 2 ^ 40 * b2n h.view,
    h.step.toNat, h.fragment.toNat, h.tensorId % 2 ^ 32 + 2 ^ 32 * (h.tile % 2 ^ 32), h.fmt.sideLen, 0, 0, h.check]

/-- The header held by 64 bytes; a reserved format code reads as FP32. -/
def Header.ofBytes (bs : List Byte) : Header :=
  let w0 := wordAt bs 0
  let w3 := wordAt bs 3
  { frondId := bits w0 31 0, fmt := (Fmt.ofCode (bits w0 35 32)).getD .fp32, cls := bits w0 39 36, view := bit w0 40,
    step := wordAt bs 1, fragment := wordAt bs 2, tensorId := bits w3 31 0, tile := bits w3 63 32,
    check := bits (wordAt bs 7) 31 0 }

/-- The header of the frond at an address. -/
def headerAt (s : State) (a : Nat) : Header := Header.ofBytes (rd s (a + payloadLen) 64)

/-- The end-to-end check of a frond image: CRC-32C over payload and side band with bytes 56 to 59 of the side band taken as
zero (R175). -/
def frondCheck (image : List Byte) : Nat :=
  (crc32c (image.take (payloadLen + 56) ++ List.replicate 4 0 ++ image.drop (payloadLen + 60))).toNat

/-- The image of a frond of a format at an address. -/
def frondImage (s : State) (f : Fmt) (a : Nat) : List Byte := rd s a f.imageLen

/-- Whether the frond at an address passes its check. -/
def checkOk (s : State) (f : Fmt) (a : Nat) : Bool :=
  frondCheck (frondImage s f a) == (headerAt s a).check

/-- The check of the frond at an address written into its header. -/
def writeCheck (s : State) (f : Fmt) (a : Nat) : State :=
  wr s (a + payloadLen + 56) (leBytes 4 (frondCheck (frondImage s f a)))

/-- A frond header written with its check (the payload and the scale bytes stand). -/
def writeHeader (s : State) (a : Nat) (h : Header) : State :=
  writeCheck (wr s (a + payloadLen) ({ h with check := 0 } : Header).bytes) h.fmt a

/-- The zero-payload image whose every element reads as NaN: poisoned blocks, or the canonical NaN in a plain format (R45,
R188). -/
def poisonImage (h : Header) : List Byte :=
  let body :=
    if h.fmt.isBlock then List.replicate payloadLen 0
    else (List.replicate (h.fmt.elems) (leBytes (h.fmt.elemBits / 8) (canonicalNaN h.fmt))).flatten
  body ++ ({ h with check := 0 } : Header).bytes ++ List.replicate (h.fmt.rows * h.fmt.rowBlocks) 0xFE#8

/-! ### Seals, R174 -/

/-- The place at an address is sealed; the seal is seen two boundaries on (R134). -/
def sealAt (s : State) (a : Nat) : State :=
  { s with lch := { s.lch with seals := FMap.set 0 s.lch.seals a (slot s + 3) } }

/-- The place at an address is no longer sealed. -/
def breakSeal (s : State) (a : Nat) : State :=
  { s with lch := { s.lch with seals := FMap.set 0 s.lch.seals a 0 } }

/-- Whether a seal stands at an address, seen or not. -/
def isSealed (s : State) (a : Nat) : Bool := FMap.get 0 s.lch.seals a != 0

/-- Whether the seal at an address is seen at the present boundary. -/
def sealSeen (s : State) (a : Nat) : Bool :=
  let e := FMap.get 0 s.lch.seals a
  e != 0 && decide (e ≤ slot s + 1)

/-! ### The frond table, R176 to R179 -/

/-- A frond table entry (Table 6.7); addresses in bytes. -/
structure FtEntry where
  home     : Nat
  valid    : Bool
  poisoned : Bool
  inMove   : Bool
  fmt      : Fmt
  cls      : Nat
  seq      : Nat
  dest     : Nat
  deriving DecidableEq, Repr

/-- The 16 bytes of an entry. -/
def FtEntry.bytes (e : FtEntry) : List Byte :=
  wordBytes [e.home / 256 % 2 ^ 40 + 2 ^ 40 * b2n e.valid + 2 ^ 41 * b2n e.poisoned + 2 ^ 42 * b2n e.inMove
      + 2 ^ 43 * e.fmt.code + 2 ^ 47 * (e.cls % 16) + 2 ^ 52 * (e.seq % 4096), e.dest / 256 % 2 ^ 40]

/-- The entry held by 16 bytes. -/
def FtEntry.ofBytes (bs : List Byte) : FtEntry :=
  let w := wordAt bs 0
  { home := 256 * bits w 39 0, valid := bit w 40, poisoned := bit w 41, inMove := bit w 42,
    fmt := (Fmt.ofCode (bits w 46 43)).getD .fp32, cls := bits w 50 47, seq := bits w 63 52,
    dest := 256 * bits (wordAt bs 1) 39 0 }

/-- Byte address of an entry in the primary copy. -/
def ftPrimary (s : State) (id : Nat) : Nat := 256 * getF s F.MEM_FT_BASE_base + 16 * id

/-- Byte address of an entry in the mirror. -/
def ftMirror (s : State) (id : Nat) : Nat := 256 * getF s F.MEM_FT_MIRROR_base + 16 * id

/-- Entries of the table; none before plan load. -/
def ftCount (s : State) : Nat :=
  let z := getF s F.MEM_FT_SIZE_ft_size
  if z = 0 then 0 else 2 ^ z

/-- An entry as the units read it, from the primary copy; an id outside the table has no home. -/
def ftGet (s : State) (id : Nat) : FtEntry :=
  if id < ftCount s then FtEntry.ofBytes (rd s (ftPrimary s id) 16)
  else { home := 0, valid := false, poisoned := false, inMove := false, fmt := .fp32, cls := 0, seq := 0, dest := 0 }

/-- An entry written: the primary copy, then the mirror (R179). -/
def ftSet (s : State) (id : Nat) (e : FtEntry) : State :=
  if id < ftCount s then wr (wr s (ftPrimary s id) e.bytes) (ftMirror s id) e.bytes else s

/-- The home of a frond. -/
def homeOf (s : State) (id : Nat) : Nat := (ftGet s id).home

/-! ### Sync objects, R144 to R146 -/

/-- The flags of an object. -/
def syncFlags (s : State) (o : Nat) : SyncFlags := FMap.get ⟨false, false, false, false⟩ s.lch.flags o

/-- The value of an object. -/
def syncValue (s : State) (o : Nat) : Nat := (getReg s (Off.LCH_SYNC o)).toNat

/-- A signal put on its way, to take effect at a boundary. -/
def signalAt (s : State) (effect object amount : Nat) : State :=
  { s with lch := { s.lch with signals := s.lch.signals ++ [⟨effect, object, amount⟩] } }

/-- A signal whose event falls in the present slot: effect boundary slot + 2 (R134). -/
def signal (s : State) (object amount : Nat) : State := signalAt s (slot s + 2) object amount

/-! ### Record rings, R65 and R69 -/

/-- One record written to a ring, or dropped on a full ring: ring base, log2 of the entry count, record length, head and tail
fields. The answer says whether it was written. -/
def ringPut (s : State) (base size len : Nat) (head tail : Field) (rec : List Byte) : State × Bool :=
  let h := getF s head
  let t := getF s tail
  if (h + 2 ^ 32 - t) % 2 ^ 32 ≥ 2 ^ size then (s, false)
  else (setF (wr s (base + len * (h % 2 ^ size)) rec) head (h + 1), true)

/-! ### Launches -/

/-- The key of a launch of a plan iteration. -/
def planKey (iter idx : Nat) : Nat := iter * 2 ^ 32 + idx

/-- The key of a launch of a batch (R451). -/
def batchKey (q inst idx : Nat) : Nat := 2 ^ 100 * (q + 1) + inst * 2 ^ 32 + idx

/-- The descriptor index of a key. -/
def keyIdx (k : Nat) : Nat := k % 2 ^ 32

/-- The iteration of a key, or the number of its batch. -/
def keyIter (k : Nat) : Nat := k / 2 ^ 32 % 2 ^ 64

/-- The queue of a key that belongs to a batch. -/
def keyQueue (k : Nat) : Option Nat := if k < 2 ^ 100 then none else some (k / 2 ^ 100 - 1)

/-- A key of the same iteration or batch for another descriptor. -/
def keyWith (k idx : Nat) : Nat := k - keyIdx k + idx

/-- The launch descriptor of a key. -/
def launchOf (s : State) (k : Nat) : Option Launch :=
  match s.plan with
  | some p => p.launches[keyIdx k]?
  | none => none

/-- What the module keeps of a launch. -/
def runOf (s : State) (k : Nat) : LaunchRun := FMap.get LaunchRun.fresh s.lch.runs k

/-- The record of a launch replaced. -/
def setRun (s : State) (k : Nat) (r : LaunchRun) : State :=
  { s with lch := { s.lch with runs := FMap.set LaunchRun.fresh s.lch.runs k r } }

/-- The state of a unit. -/
def unitOf (s : State) (u : Nat) : UnitRun := FMap.get UnitRun.idle s.lch.units u

/-- The state of a unit replaced. -/
def setUnit (s : State) (u : Nat) (r : UnitRun) : State :=
  { s with lch := { s.lch with units := FMap.set UnitRun.idle s.lch.units u r } }

/-- The state of a pass. -/
def passOf (s : State) (p : Nat) : PassRun := FMap.get PassRun.fresh s.lch.passes p

/-- The state of a pass replaced. -/
def setPass (s : State) (p : Nat) (r : PassRun) : State :=
  { s with lch := { s.lch with passes := FMap.set PassRun.fresh s.lch.passes p r } }

/-- The state of an array. -/
def arrayOf (s : State) (a : Nat) : ArrayRun := FMap.get ArrayRun.idle s.arr.arrays a

/-- The state of an array replaced. -/
def setArray (s : State) (a : Nat) (r : ArrayRun) : State :=
  { s with arr := { s.arr with arrays := FMap.set ArrayRun.idle s.arr.arrays a r } }

/-- A bank of an array. -/
def bankOf (s : State) (a b : Nat) : Bank := FMap.get Bank.clear s.arr.banks (4 * a + b)

/-- A bank of an array replaced. -/
def setBank (s : State) (a b : Nat) (k : Bank) : State :=
  { s with arr := { s.arr with banks := FMap.set Bank.clear s.arr.banks (4 * a + b) k } }

/-- A batch queue. -/
def queueOf (s : State) (q : Nat) : QueueRun := FMap.get QueueRun.empty s.arr.queues q

/-- A batch queue replaced. -/
def setQueue (s : State) (q : Nat) (r : QueueRun) : State :=
  { s with arr := { s.arr with queues := FMap.set QueueRun.empty s.arr.queues q r } }

/-- The pass of a key: an instance of a batch list is one pass (R451); none for a launch outside any pass. -/
def passKey (s : State) (k : Nat) : Option Nat :=
  match keyQueue k with
  | some _ => some (k / 2 ^ 32)
  | none =>
    match launchOf s k with
    | some l => if l.pass = 0xFFFF then none else some (keyIter k * 65536 + l.pass)
    | none => none

/-- The keys of the launches of a pass. -/
def passLaunches (s : State) (p : Nat) : List Nat :=
  match s.plan with
  | none => []
  | some pl =>
    if p < 2 ^ 68 then
      (List.range pl.launches.length).filterMap fun i =>
        match pl.launches[i]? with
        | some l => if l.pass = p % 65536 ∧ l.pass ≠ 0xFFFF then some (planKey (p / 65536) i) else none
        | none => none
    else
      let q := p / 2 ^ 68 - 1
      match pl.queues.find? (fun b => b.q == q) with
      | some b => (List.range b.listCount).map fun j => p * 2 ^ 32 + (b.listFirst + j)
      | none => []

/-- The passes that are in flight: some launch has issued and not every launch has completed. -/
def passInFlight (s : State) (p : Nat) : Bool :=
  let ks := passLaunches s p
  ks.any (fun k => (runOf s k).issued) && ks.any (fun k => !(runOf s k).completed)

/-- The passes of the launches that have a record. -/
def knownPasses (s : State) : List Nat := ((FMap.keys s.lch.runs).filterMap (passKey s)).eraseDups

/-! ### Releasing the stash, R232 -/

/-- The stash pointers after releases: each stands at the granules of the last placement that has not been released, since space
returns in the reverse order of placement (R232). -/
def settleStash (s : State) : State :=
  let live := (s.trn.stash.reverse.dropWhile (·.released)).reverse
  let s := (List.range 16).foldl (fun s q =>
    setF s (F.UPD_STASH_pointer q) (live.foldl (fun n p => n + p.grans.getD q 0) 0)) s
  { s with trn := { s.trn with stash := live } }

/-- The stash placements that a predicate picks are released: their entries turn invalid (R232). -/
def releaseStash (s : State) (pick : StashPlace → LayerStash → Bool) : State :=
  match s.plan with
  | none => s
  | some pl =>
    let hit := fun (p : StashPlace) => match pl.layers[p.layer]? with | some y => !p.released && pick p y | none => false
    let s := s.trn.stash.foldl (fun s p =>
      if hit p then
        match pl.layers[p.layer]? with
        | some y => (List.range 16).foldl (fun s q => (List.range (p.counts.getD q 0)).foldl (fun s i =>
            let id := y.first + q * y.maxCount + i
            ftSet s id { ftGet s id with valid := false }) s) s
        | none => s
      else s) s
    settleStash { s with trn := { s.trn with stash := s.trn.stash.map fun p => if hit p then { p with released := true } else p } }

/-- The stash of a stopped forward pass is released; that of a stopped backward pass stands (R232). -/
def releaseStopped (s : State) (passes : List Nat) : State :=
  releaseStash s fun p y => passes.contains (p.iter * 65536 + y.pass)

/-! ### Stops, R104 -/

/-- A launch taken back: it has not issued, it keeps whether it has signalled (R147), and its own slip counts on from the
present boundary. -/
def resetLaunch (s : State) (k : Nat) : State :=
  setRun s k { LaunchRun.fresh with signalled := (runOf s k).signalled, counted := slot s }

/-- The launches of a list leave every unit; a waiting place that empties is seen two boundaries on. -/
def leaveUnits (s : State) (ks : List Nat) : State :=
  (FMap.keys s.lch.units).foldl (fun s u =>
    let r := unitOf s u
    let w := match r.waiting with | some k => ks.contains k | none => false
    let g := match r.running with | some k => ks.contains k | none => false
    setUnit s u { waiting := if w then none else r.waiting, freeFrom := if w then slot s + 2 else r.freeFrom,
                  running := if g then none else r.running, progress := if g then 0 else r.progress }) s

/-- The tiles of a list leave every array, and the banks that they hold are discarded. -/
def leaveArrays (s : State) (ks : List Nat) : State :=
  let s := (FMap.keys s.arr.arrays).foldl (fun s a =>
    let r := arrayOf s a
    let f := match r.feeding with | some k => ks.contains k | none => false
    setArray s a { r with feeding := if f then none else r.feeding, step := if f then 0 else r.step,
                          drains := r.drains.filter (fun k => !ks.contains k),
                          rerun := r.rerun.filter (fun k => !ks.contains k),
                          ready := r.ready.filter (fun k => !ks.contains k) }) s
  let s := { s with arr := { s.arr with banks := s.arr.banks.filter fun b => !b.2.tiles.any ks.contains } }
  { s with arr := { s.arr with restarts := s.arr.restarts.filter fun r => !r.2.any ks.contains } }

/-- The launches of a list are discarded as a stop discards a pass: they leave their units and arrays and restart later. -/
def discard (s : State) (ks : List Nat) : State :=
  ks.foldl resetLaunch (leaveArrays (leaveUnits s ks) ks)

/-- A stop noted in the ARR registers (Table 3.14): kind 1 hard pre-emption, 2 fault stop; the time the arrays took is a free
value (log entry 6). -/
def noteStop (s : State) (kind passes : Nat) : State :=
  let (w, s) := takeFree s
  let s := setF s F.ARR_STOP_STATUS_last_kind kind
  let s := setF s F.ARR_STOP_STATUS_last_drain_ns w.toNat
  let s := bumpF s F.ARR_STOP_STATUS_passes_discarded passes
  flag s F.ARR_STATUS_stop_seen 4

/-- A fault stop of one pass: the pass is discarded and waits for its restart boundary. -/
def stopPass (s : State) (p : Nat) : State :=
  if (passOf s p).stopped then s
  else
    let s := releaseStopped (discard s (passLaunches s p)) [p]
    setPass s p { passOf s p with stopped := true, stopFrom := slot s }

/-- A fault stop of a list of passes (R104). -/
def faultStop (s : State) (ps : List Nat) : State := noteStop (ps.foldl stopPass s) 2 ps.length

/-- The restart boundary of every stopped pass: the stop is no longer in force. -/
def restartPasses (s : State) : State :=
  (FMap.keys s.lch.passes).foldl (fun s p =>
    let r := passOf s p
    if r.stopped then
      setPass s p { r with stopped := false, restartAt := slot s, pauses := r.pauses ++ [(r.stopFrom, slot s)] }
    else s) s

/-! ### Maintenance requests, R396 -/

/-- SAF_MAINT shows one bit per activity that runs and per activity that waits (Table 15.13). -/
def showMaint (s : State) : State :=
  let mask := fun (xs : List Activity) => xs.foldl (fun m x => m ||| 2 ^ x.act) 0
  setF (setF s F.SAF_MAINT_running (mask s.maint.running)) F.SAF_MAINT_waiting (mask s.maint.waiting)

/-- A request for an activity queues behind those that wait; one that already waits or runs is not queued twice. -/
def requestActivity (s : State) (x : Activity) : State :=
  if s.maint.waiting.contains x || s.maint.running.contains x then s
  else showMaint { s with maint := { s.maint with waiting := s.maint.waiting ++ [x] } }

/-- An activity runs. -/
def runActivity (s : State) (x : Activity) : State :=
  let m := s.maint
  showMaint { s with maint := { running := m.running.filter (· != x) ++ [x], waiting := m.waiting.filter (· != x) } }

/-- An activity is over, whether it ran or waited. -/
def endActivity (s : State) (x : Activity) : State :=
  showMaint { s with maint := { s.maint with running := s.maint.running.filter (· != x), waiting := s.maint.waiting.filter (· != x) } }

/-- A stop before the switch: the move engines abandon the fronds that they wait for, which keep their homes (R167). -/
def abandonMoves (s : State) : State :=
  let s := (s.trn.fetches.filter (·.move)).foldl (fun s j => ftSet s j.frond { ftGet s j.frond with inMove := false, dest := 0 }) s
  { s with trn := { s.trn with fetches := s.trn.fetches.map fun j => { j with move := false } } }

/-! ### HOLD, R386 -/

/-- The bit of a HOLD cause sets, and the energy record notes HOLD. -/
def markHold (s : State) (cause : Nat) : State :=
  setF { s with pwr := { s.pwr with acc := { s.pwr.acc with flags := s.pwr.acc.flags ||| 128 } } } F.SAF_HOLD_pending
    (getF s F.SAF_HOLD_pending ||| 2 ^ cause)

/-- A plan that runs or is stopped is held. -/
def holdPlan (s : State) : State :=
  match planState s with
  | .running => setPlanState s .held
  | .stopped => setPlanState s .held
  | _ => s

/-- The module enters HOLD: every pass in flight is fault-stopped, plan state HELD, the issue cap lowered to 0 as Table 14.7 gives,
FAULT_N asserted (computed from the pending causes). -/
def enterHold (s : State) (code : Nat) : State :=
  let s := setF s F.SAF_HOLD_first code
  flag (holdPlan (abandonMoves (faultStop s ((knownPasses s).filter (passInFlight s))))) F.SAF_STATUS_hold_entered 11

/-- A HOLD cause: its bit sets, and the first cause takes the module into HOLD. -/
def holdCause (s : State) (cause code : Nat) : State :=
  if inHold s then markHold s cause else enterHold (markHold s cause) code

/-- A fault of Table 15.3 whose outcome is HOLD: the log entry, then the cause. -/
def holdFault (s : State) (code cause die unit detail : Nat) : State :=
  holdCause (logFault s code 2 die unit detail) cause code

/-- A fault of Table 15.3 whose outcome leaves the module in RUN or DEGRADED. -/
def runFault (s : State) (code die unit detail : Nat) : State :=
  logFault s code (if degraded s then 1 else 0) die unit detail

/-- A launch or a unit reaches an address outside its tier: R156. -/
def rangeFault (s : State) (addr : Nat) : State :=
  let s := setReg s Off.MEM_LAST_ERROR (BitVec.ofNat 64 5)
  let s := setF s F.MEM_LAST_ERROR_ADDR_addr addr
  let s := setF s F.MEM_STATUS_range_fault 1
  holdFault s 0x1C 6 0 0 0

end Sys2Proof.Machine
end

