-- ==== Sys2Proof/Machine/Messages.lean ====
section
/-!
DEFINITION. Sending messages into the chain (R244 to R247): the chain address and role of the module, and a message with its
seq, kept until it is acknowledged.
-/

namespace Sys2Proof.Machine

/-- The chain address of the module. -/
def myAddr (s : State) : Nat := getF s F.CHN_ADDR_address

/-- The number of modules on the chain, N. -/
def chainLen (s : State) : Nat := getF s F.CHN_ADDR_length

/-- The adopted role entry of an address (R250): group [5:0], position [11:6], member [12]. -/
def roleEntry (s : State) (a : Nat) : Nat := FMap.get 0 s.chn.roles a

/-- Its replica group, shard position and membership. -/
def groupOf (s : State) (a : Nat) : Nat := roleEntry s a % 64
def posOf (s : State) (a : Nat) : Nat := roleEntry s a / 64 % 64
def isMember (s : State) (a : Nat) : Bool := (roleEntry s a).testBit 12

/-- The shard position and the replica group of the module. -/
def myPos (s : State) : Nat := posOf s (myAddr s)
def myGroup (s : State) : Nat := groupOf s (myAddr s)

/-- Whether the module at an address is lost (R249), or its role is until a permute removes it (R273). -/
def isLost (s : State) (a : Nat) : Bool := (getF s F.CHN_LOST_lost).testBit a || FMap.get false s.chn.gone a

/-- The members of the adopted job. -/
def members (s : State) : List Nat := (List.range 64).filter (isMember s)

/-- The other members that are not lost. -/
def others (s : State) : List Nat := (members s).filter fun a => a != myAddr s && !isLost s a

/-- The address that holds a role. -/
def addrOfRole (s : State) (g p : Nat) : Option Nat := (members s).find? fun a => groupOf s a == g && posOf s a == p

/-- Whether a kind is a management kind, whose job tag is 0 (R245, R265). -/
def isManagement (kind : Nat) : Bool := kind ≤ 0x07 || kind == 0x16

/-- Whether a link is lost; link a joins a and a + 1 mod N. -/
def linkLost (s : State) (a : Nat) : Bool := FMap.get false s.chn.lost a

/-- Whether a port carries traffic: up, and not unused (R242, R249). -/
def portUp (s : State) (k : Nat) : Bool := getF s (F.CHN_PORT_state k) == 2

/-- A state of a port of CHN_PORT: 0 down, 1 training, 2 up, 3 unused. -/
def setPort (s : State) (k v : Nat) : State := setF s (F.CHN_PORT_state k) v

/-- The port on which a message for an address leaves (R246, R249): port 0 W, 1 E, 2 W2, 3 E2; the skip ports for a step that
sets skip and a module two places away, and around a lost link; none when the route needs a skip port that does not carry. -/
def route (s : State) (d : Nat) (skip : Bool) : Option Nat :=
  let a := myAddr s
  let n := chainLen s
  let east := decide ((d + n - a) % n ≤ (a + n - d) % n)
  if skip && (d + n - a) % n == 2 && portUp s 3 then some 3
  else if skip && (a + n - d) % n == 2 && portUp s 2 then some 2
  else if east then (if linkLost s a then (if portUp s 3 then some 3 else none) else some 1)
  else (if linkLost s ((a + n - 1) % n) then (if portUp s 2 then some 2 else none) else some 0)

/-- Whether a data message belongs to a step that sets skip. -/
def skips (s : State) (kind : Nat) (body : List Byte) : Bool :=
  kind == 0x20 && match s.plan with | some p => (match p.colls[leNat (body.take 4)]? with | some c => c.skip | none => false) | none => false

/-- Flits of a message: 32 header bytes and the body in payloads of 240 bytes (Table 9.2). -/
def flitsOf (body : List Byte) : Nat := (32 + body.length + 239) / 240

/-- A port record. -/
def portRun (s : State) (k : Nat) : PortRun := FMap.get PortRun.fresh s.chn.ports k

/-- A port record replaced. -/
def setPortRun (s : State) (k : Nat) (r : PortRun) : State :=
  { s with chn := { s.chn with ports := FMap.set PortRun.fresh s.chn.ports k r } }

/-- The chain is broken: a route needs a skip port that is down or unused; a job that spans the break enters HOLD (R249). -/
def chainBroken (s : State) : State :=
  let s := flag s F.CHN_STATUS_chain_broken 8
  if (members s).length > 1 then holdFault s 0x1E 9 0 0 0 else s

/-- A message put on its route. -/
def transmit (s : State) (m : ChainMsg) : State :=
  if m.dest = myAddr s then send s (.message none m)
  else
    match route s m.dest (skips s m.kind m.body) with
    | some k =>
      let r := portRun s k
      send (setPortRun s k { r with txSeq := (r.txSeq + flitsOf m.body) % 2 ^ 24 }) (.message (some k) m)
    | none => chainBroken s

/-- A message sent, counted, and kept until it is acknowledged. -/
def postMsg (s : State) (kind dest : Nat) (body : List Byte) : State :=
  let seq := FMap.get 0 s.chn.txSeq dest
  let m : ChainMsg := ⟨kind, myAddr s, dest, seq, if isManagement kind then 0 else getF s F.CHN_JOB_job_tag, true, body⟩
  let s := { s with chn := { s.chn with txSeq := FMap.set 0 s.chn.txSeq dest ((seq + 1) % 2 ^ 32),
                                        unacked := s.chn.unacked ++ [⟨dest, seq, slot s, m⟩] } }
  transmit (bumpF s F.CHN_MSG_TX_count 1) m

/-- A message sent to each of a list of destinations. -/
def postAll (s : State) (kind : Nat) (dests : List Nat) (body : Nat → List Byte) : State :=
  dests.foldl (fun s d => postMsg s kind d (body d)) s

/-- A message for the next hop on a port, without seq (kinds 0x01 to 0x06), counted as sent. -/
def postHop (s : State) (port kind value : Nat) (content : Word) : State :=
  send (bumpF s F.CHN_MSG_TX_count 1) (.link port kind value content)

/-- A message discarded (R245, R247). -/
def dropMsg (s : State) : State := setF (bumpF s F.CHN_MSG_DROP_count 1) F.CHN_STATUS_msg_dropped 1

end Sys2Proof.Machine
end

