-- ==== Sys2Proof/Machine/Operands.lean ====
section
/-!
DEFINITION. Operand forms: the elements of a frond (R46, R170, R171), what a feeder delivers (R75 to R78), side inputs and
bias (R121, R445), the rows of a serving batch (R451), and the outputs that units write, with the counters of R62.
-/

namespace Sys2Proof.Machine

/-! ### Elements of a frond -/

/-- Whether the frond homed at an address is poisoned (R188): its entry says so. -/
def poisonedAt (s : State) (a : Nat) : Bool :=
  let e := ftGet s (headerAt s a).frondId
  e.valid && e.poisoned && e.home == a

/-- The code of element (row, col) of a frond image read as a number of `elemBits` bits. -/
def elemCode (s : State) (f : Fmt) (a row col : Nat) : Nat :=
  let bitsAt := f.elemBits * col
  let w := leNat (rd s (a + f.rowBytes * row + bitsAt / 8) ((f.elemBits + 7) / 8))
  w / 2 ^ (bitsAt % 8) % 2 ^ f.elemBits

/-- The scale byte of a block of a frond row (R172). -/
def scaleAt (s : State) (f : Fmt) (a row blk : Nat) : Nat :=
  leNat (rd s (a + payloadLen + 64 + f.rowBlocks * row + blk) 1)

/-- The exception word of a block of a B4X frond row (R171). -/
def excAt (s : State) (a row blk : Nat) : Nat :=
  let b := 13 * (14 * row + blk)
  leNat (rd s (a + 57344 + b / 8) 3) / 2 ^ (b % 8) % 2 ^ 13

/-- A block of a frond row. -/
def blockAt (s : State) (f : Fmt) (a row blk : Nat) : Block :=
  { elems := (List.range 32).map fun i => elemCode s f a row (32 * blk + i),
    scale := if poisonedAt s a then 0xFE else scaleAt s f a row blk,
    exc := if f = .b4x then excAt s a row blk else 0 }

/-- The value of element (row, col) of a frond (R44, R45). -/
def elemAt (s : State) (f : Fmt) (a row col : Nat) : Num :=
  if f.isBlock then
    if poisonedAt s a then .nan
    else Block.value f ⟨List.replicate (col % 32) 0 ++ [elemCode s f a row col], scaleAt s f a row (col / 32),
      if f = .b4x then excAt s a row (col / 32) else 0⟩ (col % 32)
  else if poisonedAt s a then .nan
  else decodePlain f (elemCode s f a row col)

/-- The same, decoded into FP32 as R45 gives. -/
def elemF32 (s : State) (f : Fmt) (a row col : Nat) : Word32 := toF32 (elemAt s f a row col).clampF32

/-- Element e of a frond in frond order, decoded into FP32. -/
def flatF32 (s : State) (f : Fmt) (a e : Nat) : Word32 := elemF32 s f a (e / f.rowElems) (e % f.rowElems)

/-! ### The cumulative counters, R62 -/

/-- Counts of the five classes of Table 2.10. -/
def zeroCounts : List Nat := [0, 0, 0, 0, 0]

/-- The class of an element as a counter number; none for an element in no class. -/
def ElemClass.index : ElemClass → Option Nat
  | .saturated => some 1 | .flushed => some 2 | .poisoned => some 3 | .zeroBlock => some 4 | .plain => none

/-- The counts of a list of written elements. -/
def countClasses (cs : List ElemClass) : List Nat :=
  cs.foldl (fun n c => match c.index with | some i => n.set i (n.getD i 0 + 1) | none => n) [cs.length, 0, 0, 0, 0]

/-- The sum of two counts. -/
def addCounts (a b : List Nat) : List Nat := List.zipWith (· + ·) a b

/-- The cumulative counters of a format raised. -/
def bumpNum (s : State) (f : Fmt) (cs : List Nat) : State :=
  (List.range 5).foldl (fun s k =>
    let n := cs.getD k 0
    if n = 0 then s else bumpF s (F.NUM_CNT_count f.code k) n) s

/-- The counts of an op added to its launch (R63). -/
def noteOp (s : State) (key : Nat) (tid : Nat) (f : Fmt) (cs : List Nat) : State :=
  let r := runOf s key
  let ops :=
    if r.ops.any (fun o => o.tensorId == tid) then
      r.ops.map fun o => if o.tensorId = tid then { o with counts := addCounts o.counts cs } else o
    else r.ops ++ [⟨tid, f.code, cs⟩]
  setRun s key { r with ops := ops }

/-! ### Feeders, R75 to R78 -/

/-- Whether a flat array index is a quiet array (R5). -/
def isQuiet (a : Nat) : Bool := a % 4 == 0

/-- Reduction indices of a group (R57). -/
def Fmt.group : Fmt → Nat
  | .b4 => 64 | .b4x => 64 | _ => 32

/-- Array steps of a group (Table 3.1). -/
def Fmt.groupSteps : Fmt → Nat
  | .bf16 => 64 | _ => 32

/-- The K length of a tile: the array steps of a reduction length (R72). -/
def kLength (f : Fmt) (k : Nat) : Nat := k / f.group * f.groupSteps

/-- The stored element that feeds row r, reduction index k: frond, row, column. A reduction longer than a frond goes on in the
next frond of the operand. -/
def Operand.locate (o : Operand) (r k : Nat) : Nat × Nat × Nat :=
  match o.mode with
  | .direct =>
    let c := o.col0 + k
    (o.fronds.getD (c / o.stored.rowElems) 0, o.row0 + r, c % o.stored.rowElems)
  | _ =>
    let q := o.row0 + k
    (o.fronds.getD (q / o.stored.rows) 0, q % o.stored.rows, o.col0 + r)

/-- What a feeder delivers for row r, index k, and the class of its conversion in a transposing block fetch (R77, R78). -/
def feed (s : State) (o : Operand) (r k : Nat) : Num × Option ElemClass :=
  let (a, row, col) := o.locate r k
  let x := elemAt s o.stored a row col
  if o.mode = .transposeBlock then
    let (c, cls) := convPlain o.deliver .nearest x
    (decodePlain o.deliver c, some cls)
  else (x, none)

/-- Element k of a batch row held in a queue entry (R451). -/
def queueElem (s : State) (f : Fmt) (addr kLen k : Nat) : Num :=
  if f.isBlock then
    let payload := kLen * f.elemBits / 8
    let w := leNat (rd s (addr + f.elemBits * k / 8) 1)
    let code := w / 2 ^ (f.elemBits * k % 8) % 2 ^ f.elemBits
    let sc := leNat (rd s (addr + payload + k / 32) 1)
    let exc := if f = .b4x then leNat (rd s (addr + payload + kLen / 32 + 2 * (k / 32)) 2) % 2 ^ 13 else 0
    Block.value f ⟨List.replicate (k % 32) 0 ++ [code], sc, exc⟩ (k % 32)
  else decodePlain f (leNat (rd s (addr + f.elemBits / 8 * k) (f.elemBits / 8)))

/-- The code of element k of a batch row held in a queue entry. -/
def queueCode (s : State) (f : Fmt) (addr k : Nat) : Nat :=
  leNat (rd s (addr + f.elemBits * k / 8) ((f.elemBits + 7) / 8)) / 2 ^ (f.elemBits * k % 8) % 2 ^ f.elemBits

/-- The scale byte and the exception word of block b of a batch row (R451). -/
def queueBlock (s : State) (f : Fmt) (addr kLen b : Nat) : Nat × Nat :=
  let payload := kLen * f.elemBits / 8
  (leNat (rd s (addr + payload + b) 1), if f = .b4x then leNat (rd s (addr + payload + kLen / 32 + 2 * b) 2) % 2 ^ 13 else 0)

/-- The byte length of a serving row (R451). -/
def rowLayoutLen (f : Fmt) (k : Nat) : Nat :=
  k * f.elemBits / 8 + (if f.isBlock then k / 32 else 0) + (if f = .b4x then 2 * (k / 32) else 0)

/-! ### BF16 subnormal inputs, R42 and R62 -/

/-- The code of an element as a unit reads it; a poisoned frond reads as NaN and shows no code. -/
def readCode (s : State) (f : Fmt) (a row col : Nat) : Nat := if poisonedAt s a then 0 else elemCode s f a row col

/-- Whether a BF16 pattern is a subnormal, which is read as +0 (R42). -/
def isBf16Sub (c : Nat) : Bool := c / 128 % 256 == 0 && c % 128 != 0

/-- Elements that a unit reads: each BF16 subnormal raises the flushed counter of BF16 (R62, log entry 100). -/
def noteReads (s : State) (f : Fmt) (codes : List Nat) : State :=
  if f = .bf16 then bumpNum s .bf16 [0, 0, (codes.filter isBf16Sub).length, 0, 0] else s

/-- The codes of the elements that the feeder of an operand fetches for the lines `ls` over the `g` indices from k0. -/
def feedCodes (s : State) (o : Operand) (ls : List Nat) (k0 g : Nat) : List Nat :=
  ls.flatMap fun r => (List.range g).map fun x =>
    let (a, row, col) := o.locate r (k0 + x)
    readCode s o.stored a row col

/-- The codes of a frond in frond order, from element e0 to before e1. -/
def frondCodes (s : State) (f : Fmt) (a e0 e1 : Nat) : List Nat :=
  (List.range (e1 - e0)).map fun x => readCode s f a ((e0 + x) / f.rowElems) ((e0 + x) % f.rowElems)

/-! ### Outputs -/

/-- The flat index of an output element in its tensor (R54). -/
def Output.flat (o : Output) (i j : Nat) : Nat := (o.tensorRow0 + i) * o.tensorCols + o.tensorCol0 + j

/-- Bytes written into a frond row at an element column. -/
def writeCodes (s : State) (f : Fmt) (a row col : Nat) (codes : List Nat) : State :=
  wr s (a + f.rowBytes * row + f.elemBits * col / 8)
    (leBytes (codes.length * f.elemBits / 8) (codes.foldr (fun c n => c + 2 ^ f.elemBits * n) 0))

/-- One block written: element payload, scale byte, exception word; a poisoned or zero block writes its scale byte alone. -/
def writeBlock (s : State) (f : Fmt) (a row blk : Nat) (b : Block) : State :=
  let s := if b.elems.isEmpty then s else writeCodes s f a row (32 * blk) b.elems
  let s := wr s (a + payloadLen + 64 + f.rowBlocks * row + blk) (leBytes 1 b.scale)
  if f = .b4x then
    let p := 13 * (14 * row + blk)
    let at0 := a + 57344 + p / 8
    let w := leNat (rd s at0 3)
    let sh := p % 8
    let w' := w - (w / 2 ^ sh % 2 ^ 13) * 2 ^ sh + b.exc % 2 ^ 13 * 2 ^ sh
    wr s at0 (leBytes 3 w')
  else s

/-- One row of an output: the values of the columns `0 .. cols - 1`, written in the output's format with its rounding mode and
draws; masked columns of a partly used block take +0 (R123). The answer carries the counts. -/
def writeOutRow (s : State) (o : Output) (seed : Word) (n i cols : Nat) (v : Nat → Num) : State × List Nat :=
  let stoch := o.stoch || o.fmt == .g8
  let rnd := fun j => rndOf stoch seed o.tensorId n (o.flat i j)
  if o.fmt.isBlock then
    (List.range ((cols + 31) / 32)).foldl (fun (s, cs) b =>
      let xs := (List.range 32).map fun e => if 32 * b + e < cols then v (32 * b + e) else .fin 0
      let blk := convBlock o.fmt (fun e => rnd (32 * b + e)) xs
      let cl := (List.range 32).map fun e => blockClass o.fmt blk xs e
      (writeBlock s o.fmt o.addr (o.row0 + i) (o.col0 / 32 + b) blk, addCounts cs (countClasses cl))) (s, zeroCounts)
  else
    let cc := (List.range cols).map fun j => convPlain o.fmt (rnd j) (v j)
    (writeCodes s o.fmt o.addr (o.row0 + i) o.col0 (cc.map (·.1)), countClasses (cc.map (·.2)))

end Sys2Proof.Machine
end

