-- ==== Sys2Proof/Machine/Launch.lean ====
section
/-!
DEFINITION. What decides whether a launch or an anchor is due and ready: units and substitutes (R90, R119, R135), input fronds
(R448), waits (R146), due slots and slip (R139, R142), timeouts (R148), stash decisions (R229) and pass aborts (R233).
-/

namespace Sys2Proof.Machine

/-! ### Units -/

/-- Whether an array is fenced. -/
def fenced (s : State) (a : Nat) : Bool := bit (getReg s (Off.ARR_FENCED (a / 64))) (a % 64)

/-- The arrays that may stand for an array, in the order of R90, itself first: the other array of the core, then the arrays of
the other core. -/
def arrayOrder (a : Nat) : List Nat :=
  let other := a / 4 * 4 + (2 - a / 2 % 2 * 2)
  [a, a / 2 * 2 + (1 - a % 2), other, other + 1]

/-- The array that runs the tiles of an array: itself, or its substitute; none when the cluster is lost. -/
def standIn (s : State) (a : Nat) : Option Nat := (arrayOrder a).find? fun x => !fenced s x

/-- Whether the vector engine of a core is fenced. -/
def veFenced (s : State) (core : Nat) : Bool := FMap.get false s.arr.veFenced core

/-- The vector engine that runs the programs of a core (R119). -/
def veFor (s : State) (core : Nat) : Option Nat :=
  if !veFenced s core then some core
  else
    let o := core / 2 * 2 + (1 - core % 2)
    if veFenced s o then none else some o

/-- The batch of a key. -/
def batchOf (s : State) (k : Nat) : Option BatchRun :=
  match keyQueue k with
  | some q => (queueOf s q).batches.find? fun b => b.number == keyIter k
  | none => none

/-- The tile program of a launch. -/
def tileOf (s : State) (l : Launch) : Option TileProgram :=
  match s.plan with | some p => p.tiles[l.body]? | none => none

/-- The vector program of a launch. -/
def vectorOf (s : State) (l : Launch) : Option VectorProgram :=
  match s.plan with | some p => p.vectors[l.body]? | none => none

/-- The array a tile launch runs on: that of its batch or of its tile program, or the substitute. -/
def tileArray (s : State) (k : Nat) (l : Launch) : Option Nat :=
  match batchOf s k with
  | some b => standIn s b.array
  | none => match tileOf s l with | some t => standIn s t.array | none => none

/-- The unit that runs a launch: arrays 0 to 511, vector engines 512 to 767, move engines 768 to 783, update engines 784 to
799, collective units 800 to 803, intake units 804 to 807. -/
def unitFor (s : State) (k : Nat) (l : Launch) : Option Nat :=
  match l.kind with
  | .tile => tileArray s k l
  | .vector => (veFor s (match vectorOf s l with | some v => v.core | none => l.launcher)).map (512 + ·)
  | .move => some (768 + (l.launcher - 256))
  | .sweep => some (784 + (l.launcher - 272))
  | .collective => some (800 + (l.launcher - 288))
  | .intake => some (804 + (l.launcher - 292))

/-- Whether a unit's waiting place is seen empty at the present boundary (R134, R135). -/
def unitFree (s : State) (u : Nat) : Bool :=
  let r := unitOf s u
  r.waiting.isNone && decide (r.freeFrom ≤ slot s)

/-! ### Anchors and due slots -/

/-- The slot of the anchor of a launch, once it is set. -/
def anchorSlot (s : State) (k : Nat) (l : Launch) : Option Nat :=
  match keyQueue k with
  | some _ => (batchOf s k).map (·.anchor)
  | none =>
    match FMap.get 0 s.lch.anchors (keyIter k * 65536 + l.anchor) with
    | 0 => none
    | a + 1 => some a

/-- Whether every predecessor has issued (R139). -/
def predsIssued (s : State) (k : Nat) (l : Launch) : Bool := l.preds.all fun p => (runOf s (keyWith k p)).issued

/-- The shift a launch inherits: the greatest slip of its predecessors (R139). -/
def shiftOf (s : State) (k : Nat) (l : Launch) : Nat :=
  l.preds.foldl (fun m p => max m (runOf s (keyWith k p)).slip) 0

/-- due(L): known once the anchor is set and every predecessor has issued (R139, R142). -/
def dueOf (s : State) (k : Nat) (l : Launch) : Option Nat :=
  match anchorSlot s k l with
  | some a => if predsIssued s k l then some (a + l.relSlot + shiftOf s k l) else none
  | none => none

/-! ### Waits, R146 -/

/-- Whether a wait op is met in an iteration at the present boundary; no wait on a failed object is met (R446). -/
def waitMet (s : State) (i : Nat) (w : SyncOp) : Bool :=
  let t := (w.value.toNat + w.stride * i) % 2 ^ 64
  let v := syncValue s w.object
  !(syncFlags s w.object).failed &&
    match w.kind with
    | .waitGe => decide (v ≥ t)
    | .waitEq => decide (v = t)
    | .signal => true

/-! ### Input fronds, R448 -/

/-- The layout the module has adopted. -/
def layoutOf (s : State) : Option Layout :=
  match s.plan with | some p => p.layouts[getF s F.CHN_ADOPTED_layout]? | none => none

/-- The number of modules of the adopted job, S × P. -/
def jobSize (s : State) : Nat := match layoutOf s with | some y => y.s * y.p | none => 1

/-- The backward passes of an iteration; their number is the M of Table 7.3 (R213). -/
def backPasses (s : State) : List Nat :=
  match s.plan with
  | some p => ((p.launches.filter fun l => l.backward && l.pass != 0xFFFF).map (·.pass)).eraseDups
  | none => []

/-- Whether a reduced gradient forms in the backward drain (Table 7.3, row 2). -/
def finalAtDrain (s : State) : Bool := jobSize s == 1 && (backPasses s).length == 1

/-- Fronds of a shard's reduced gradient and of one residual buffer (R194). -/
def Shard.gradCount (h : Shard) : Nat := (h.paramCount + 3) / 4
def Shard.resCount (h : Shard) : Nat := (h.paramCount + 1) / 2

/-- Fronds of a moment stream. -/
def Shard.momCount (h : Shard) : Nat := if h.bf16Moment then (h.paramCount + 1) / 2 else h.paramCount

/-- The shards that the module owns, by ascending shard id. -/
def ownShards (s : State) : List Shard :=
  match layoutOf s with
  | some y => y.shards.filter fun h => h.position == myPos s
  | none => []

/-- The residual buffer in force, t mod 2 (R201). -/
def resBuffer (s : State) : Nat := getF s F.UPD_COMMITS_t % 2

/-- A frond of residual buffer b of a shard. -/
def Shard.resFrond (h : Shard) (b x : Nat) : Nat := h.resFirst + b * h.resCount + x

/-- The shards of a stack whose sweep a launch runs. -/
def sweepShards (s : State) (l : Launch) : List Shard :=
  match layoutOf s with
  | some y => y.shards.filter fun h => h.stack == l.launcher - 272 && h.program == l.body
                && h.position == myPos s
  | none => []

/-- The move descriptor of a launch. -/
def moveOf (s : State) (l : Launch) : Option MoveDesc :=
  match s.plan with | some p => p.moves[l.body]? | none => none

/-- The collective descriptor of a launch. -/
def collOf (s : State) (l : Launch) : Option CollDesc :=
  match s.plan with | some p => p.colls[l.body]? | none => none

/-- The addresses of the input fronds of a launch. -/
def inputFronds (s : State) (l : Launch) : List Nat :=
  match l.kind with
  | .tile => match tileOf s l with | some t => t.a.fronds ++ t.b.fronds | none => []
  | .vector => match vectorOf s l with | some v => v.reads | none => []
  | .move =>
    match moveOf s l with
    | some m => (List.range m.count).map fun i => homeOf s (m.first + i)
    | none => []
  | .collective =>
    match collOf s l with
    | some c =>
      match c.op with
      | .gather => (List.range (4 * c.f)).map fun i => homeOf s (c.first + i)
      | .reduce => (List.range c.f).map fun i => homeOf s (c.first + i)
      | .permute => []
    | none => []
  | .sweep => (sweepShards s l).flatMap fun h =>
      (List.range (max 1 (h.paramCount / 4))).map fun i => homeOf s (h.gradFirst + i)
  | .intake => []

/-! ### Stops and order -/

/-- Whether a stop is in force for a launch, HOLD counting as one (R104, R386). -/
def stopFor (s : State) (k : Nat) : Bool :=
  stopInForce s || inHold s || (match passKey s k with | some p => (passOf s p).stopped | none => false)

/-- Whether an earlier launch of the same launcher has not issued (Table 5.4, cause 6). -/
def earlierWaits (s : State) (k : Nat) (l : Launch) : Bool :=
  match s.plan with
  | none => false
  | some p =>
    let same := (List.range p.launches.length).filter fun i =>
      match p.launches[i]? with | some m => m.launcher == l.launcher | none => false
    match keyQueue k with
    | some q =>
      match p.queues.find? (fun b => b.q == q) with
      | some b => same.any fun i => decide (b.listFirst ≤ i) && decide (i < keyIdx k) && !(runOf s (keyWith k i)).issued
      | none => false
    | none =>
      -- the launches of the anchored plan: those of the batch launch lists run under their own anchors
      let inList := fun i => p.queues.any fun b => decide (b.listFirst ≤ i) && decide (i < b.listFirst + b.listCount)
      same.any fun i => !inList i &&
        ((decide (i < keyIdx k) && !(runOf s (keyWith k i)).issued) ||
          (decide (keyIter k > 0) && !(runOf s (planKey (keyIter k - 1) i)).issued))

/-! ### Void and passed-over launches, R230 and R233 -/

/-- Whether a launch is void: its pass, or an earlier pass of its iteration, has aborted. -/
def voidLaunch (s : State) (k : Nat) (l : Launch) : Bool :=
  (keyQueue k).isNone && l.pass != 0xFFFF &&
    (List.range (l.pass + 1)).any fun p => (passOf s (keyIter k * 65536 + p)).aborted

/-- The layer whose recompute block a launch belongs to. -/
def blockLayer (s : State) (k : Nat) : Option (Nat × LayerStash) :=
  match s.plan with
  | none => none
  | some p =>
    if (keyQueue k).isSome then none
    else (p.layers.zipIdx.find? fun x => x.1.block.contains (keyIdx k)).map fun x => (x.2, x.1)

/-- The stash decision of a layer in an iteration. -/
def stashOf (s : State) (iter layer : Nat) : Option StashPlace :=
  s.trn.stash.find? fun p => p.iter == iter && p.layer == layer && !p.released

/-- Whether a launch is passed over: its layer ran in full mode. -/
def passedOver (s : State) (k : Nat) : Bool :=
  match blockLayer s k with
  | some (i, _) => match stashOf s (keyIter k) i with | some p => p.full | none => false
  | none => false

/-! ### Slip causes, Table 5.4 -/

/-- Whether the array a tile launch runs on is held for test (R398). -/
def heldForTest (s : State) (k : Nat) (l : Launch) : Bool :=
  l.kind == .tile && (match tileArray s k l with | some a => (arrayOf s a).heldTest | none => true)

/-- Whether the vector engine a program runs on serves a fenced engine's core and another core's program holds its place. -/
def sharedBusy (s : State) (k : Nat) (l : Launch) : Bool :=
  l.kind == .vector &&
    match unitFor s k l with
    | some u =>
      veFenced s ((u - 512) / 2 * 2 + (1 - (u - 512) % 2)) &&
        match (unitOf s u).waiting with
        | some w => match launchOf s w with | some m => m.launcher != l.launcher | none => false
        | none => false
    | none => false

/-- Whether the vector engine that a program runs on is under test (R398). -/
def engineInTest (s : State) (k : Nat) (l : Launch) : Bool :=
  l.kind == .vector && match unitFor s k l with | some u => s.maint.running.contains ⟨0, 1, u - 512⟩ | none => false

/-- The lowest-numbered cause of Table 5.4 that holds for a launch with a known due slot at the present boundary; none when it
is ready. -/
def slipCause (s : State) (k : Nat) (l : Launch) : Option Nat :=
  if s.lch.skipped then some 0
  else if stopFor s k || s.lch.refFault then some 1
  else if voidLaunch s k l || passedOver s k then none
  else if !(inputFronds s l).all (sealSeen s) then some 2
  else if !l.waits.all (waitMet s (keyIter k)) then some 3
  else if heldForTest s k l then some 4
  else if sharedBusy s k l then some 5
  else if earlierWaits s k l || engineInTest s k l then some 6
  else
    match unitFor s k l with
    | some u => if unitFree s u then none else some 6
    | none => some 6

/-- Own slip added to a launch and to the slip counters (R142). -/
def addSlip (s : State) (k cause n : Nat) : State :=
  if n = 0 then s
  else
    let r := runOf s k
    let s := setRun s k { r with causes := r.causes.set cause (r.causes.getD cause 0 + n) }
    bumpF (bumpF s F.LCH_SLIP_TOTAL_count n) (F.LCH_SLIP_CAUSE_count cause) n

/-- The boundaries from due(L) on at which a predecessor had not yet issued, counted once due(L) is known (R142): cause 6 up to
the issue of the last predecessor on the same launcher, cause 7 from there on. -/
def addRetro (s : State) (k : Nat) (l : Launch) (due : Nat) : State :=
  let from0 := max due (runOf s k).counted
  let issues := fun (same : Bool) => l.preds.foldl (fun m p =>
    match launchOf s (keyWith k p) with
    | some q => if (q.launcher == l.launcher) == same then max m (runOf s (keyWith k p)).issueSlot else m
    | none => m) 0
  let six := issues true
  let last := max six (issues false)
  let s := addSlip s k 6 (six - from0)
  let s := addSlip s k 7 (last - max from0 six)
  setRun s k { runOf s k with counted := max from0 last }

/-- Own slip of one launch counted up to and with the present boundary. -/
def countLaunch (s : State) (k : Nat) : State :=
  match launchOf s k with
  | none => s
  | some l =>
    if (runOf s k).issued then s
    else
      match dueOf s k l with
      | none => s
      | some due =>
        if slot s < due then s
        else
          let s := addRetro s k l due
          let r := runOf s k
          if r.counted ≤ slot s then
            let n := slot s + 1 - r.counted
            let s := addSlip s k ((slipCause s k l).getD 6) n
            setRun s k { runOf s k with counted := slot s + 1 }
          else s

/-- The keys of the launches whose anchor is set and of the batches that run. -/
def openLaunches (s : State) : List Nat :=
  match s.plan with
  | none => []
  | some p =>
    let plan := s.lch.anchors.flatMap fun a =>
      (List.range p.launches.length).filterMap fun i =>
        match p.launches[i]? with
        | some l => if l.anchor = a.1 % 65536 ∧ !(p.queues.any fun b => decide (b.listFirst ≤ i) && decide (i < b.listFirst + b.listCount))
                    then some (planKey (a.1 / 65536) i) else none
        | none => none
    let batch := p.queues.flatMap fun b =>
      (queueOf s b.q).batches.flatMap fun r =>
        if r.done then [] else (List.range b.listCount).map fun j => batchKey b.q r.number (b.listFirst + j)
    plan ++ batch

/-- Own slip of every open launch counted for the boundary that ends (R142). -/
def countSlips (s : State) : State := (openLaunches s).foldl countLaunch s

/-! ### Timeouts, R148 -/

/-- The boundaries of (start, now] that lie in stop intervals. -/
def pausedIn (pauses : List (Nat × Nat)) (start now : Nat) : Nat :=
  pauses.foldl (fun n p => n + (min now p.2 - max start p.1)) 0

/-- The timeout count of a wait that started at a boundary: it pauses while a stop is in force and starts anew at the end of
HOLD. -/
def timeoutCount (s : State) (start : Nat) (pauses : List (Nat × Nat)) : Nat :=
  let st := max start s.lch.holdEnd
  slot s - st - pausedIn (s.lch.pauses ++ pauses) st (slot s)

/-! ### Pass aborts, R233 -/

/-- The training step of an iteration: the start step of the plan header plus the iteration (R195). -/
def stepOf (s : State) (iter : Nat) : Nat :=
  match s.plan with | some p => p.header.startStep + iter | none => iter

/-- A pass aborts: its record and status bit, and the rest of the step turns into void launches. -/
def abortPass (s : State) (iter pass cause index stack : Nat) : State :=
  let s := setPass s (iter * 65536 + pass) { passOf s (iter * 65536 + pass) with aborted := true }
  let s := setF s F.UPD_ABORT_step (stepOf s iter)
  let s := setF s F.UPD_ABORT_pass pass
  let s := setF s F.UPD_ABORT_cause cause
  let s := setF s F.UPD_ABORT_DETAIL_index index
  let s := setF s F.UPD_ABORT_DETAIL_stack stack
  match cause with
  | 1 => flag s F.UPD_PASS_STATUS_stash_fault 7
  | 2 => flag s F.UPD_PASS_STATUS_demand_fault 7
  | _ => flag s F.UPD_PASS_STATUS_version_fault 7

/-! ### The stash, R227 to R232 -/

/-- Granules of a stash frond (R228). -/
def stashGranules (f : Fmt) : Nat := f.footprint 0 / 256

/-- The stash pointer of a stack moved, with its high-water mark (Table 8.11). -/
def setStashPtr (s : State) (q v : Nat) : State :=
  let s := setF s (F.UPD_STASH_pointer q) v
  setF s (F.UPD_STASH_high_water q) (max v (getF s (F.UPD_STASH_high_water q)))

/-- The demand of a layer on each stack, in fronds (R229). -/
def demandOf (s : State) (y : LayerStash) : List Nat :=
  if y.declared then (List.range 16).map fun q => leNat (rd s (y.demandAddr + 2 * q) 2)
  else List.replicate 16 y.maxCount

/-- A frond of a layer given a home (R229, R230). -/
def homeStash (s : State) (y : LayerStash) (q i addr : Nat) : State :=
  let id := y.first + q * y.maxCount + i
  breakSeal (ftSet s id { ftGet s id with home := addr, valid := true, poisoned := false, fmt := y.fmt, cls := 5 }) addr

/-- The decision of the lichen pair for one layer: full mode with homes placed, recompute mode, or an abort (R229). -/
def stashDecision (s : State) (iter : Nat) (li : Nat) (y : LayerStash) : State × Bool :=
  let d := demandOf s y
  let g := stashGranules y.fmt
  let desc := match s.plan with | some p => p.stackDescs | none => []
  match (List.range 16).find? fun q => decide (d.getD q 0 > y.maxCount) with
  | some q => (abortPass s iter y.pass 2 y.anchor q, false)
  | none =>
    let short := (List.range 16).find? fun q =>
      match desc[q]? with
      | some k => decide (getF s (F.UPD_STASH_pointer q) + d.getD q 0 * g > k.stashSize)
      | none => decide (d.getD q 0 > 0)
    match short with
    | none =>
      let s := (List.range 16).foldl (fun s q =>
        match desc[q]? with
        | some k =>
          let ptr := getF s (F.UPD_STASH_pointer q)
          let s := (List.range (d.getD q 0)).foldl (fun s i =>
            homeStash s y q i (k.sphBase + 256 * (ptr + i * g))) s
          setStashPtr s q (ptr + d.getD q 0 * g)
        | none => s) s
      ({ s with trn := { s.trn with stash := s.trn.stash ++ [⟨iter, li, true, d, d.map (· * g), false⟩] } }, true)
    | some q =>
      if y.recompute.isSome then
        let s := { s with trn := { s.trn with stash := s.trn.stash ++ [⟨iter, li, false, d, List.replicate 16 0, false⟩] } }
        (bumpF (setF s F.UPD_PASS_STATUS_recompute_seen 1) F.UPD_RECOMPUTE_CNT_count 1, true)
      else (abortPass s iter y.pass 1 y.anchor q, false)

/-- The stash fronds of a layer given homes in the recompute area, consecutively from its start (R230). -/
def placeRecompute (s : State) (y : LayerStash) (p : StashPlace) : State :=
  let g := stashGranules y.fmt
  let desc := match s.plan with | some p => p.stackDescs | none => []
  (List.range 16).foldl (fun s q =>
    match desc[q]? with
    | some k => (List.range (p.counts.getD q 0)).foldl (fun s i =>
        homeStash s y q i (k.sphBase + 256 * (k.stashSize + k.ckptSize + i * g))) s
    | none => s) s

end Sys2Proof.Machine
end

