-- ==== Sys2Proof/Machine/Slots.lean ====
section
/-!
DEFINITION. The slot counter, signals, anchors and launches: SLOT_BOUNDARY, SIGNAL_TAKES_EFFECT, ANCHOR_SET and WAIT_TIMEOUT, and
the issue of a launch (R132 to R154, R226 to R233).
-/

namespace Sys2Proof.Machine

/-! ### SLOT_BOUNDARY -/

/-- Whether the governor skips a slot at a depth (R363). -/
def skipsSlot (depth b : Nat) : Bool := decide ((b + 1) * depth / 64 > b * depth / 64)

/-- A level moved towards a target by at most a step. -/
def towards (v target step : Nat) : Nat := if v < target then min target (v + step) else max target (v - step)

/-- The target of the issue cap: 0 in HOLD (Table 14.7), by depth otherwise (R363). -/
def capTarget (s : State) : Nat := if inHold s then 0 else 1024 * (64 - getF s F.PWR_GOV_depth)

/-- The arrays whose level the slot moves: those that have a record and those that the plan's tiles name. -/
def levelArrays (s : State) : List Nat :=
  let named := match s.plan with | some p => p.tiles.map (·.array) | none => []
  (FMap.keys s.arr.arrays ++ named).eraseDups

/-- The launch slot that the plan gives an array's next tile: the earliest anchor slot plus relative slot of its open tile
launches that have not begun. -/
def nextTileSlot (s : State) (a : Nat) : Option Nat :=
  (openLaunches s).foldl (fun m k =>
    match launchOf s k with
    | some l =>
      if l.kind = .tile && !(runOf s k).issued && tileArray s k l == some a then
        match anchorSlot s k l with
        | some b => some (match m with | some x => min x (b + l.relSlot) | none => b + l.relSlot)
        | none => m
      else m
    | none => m) none

/-- The level an array takes in the next slot (R93 to R95, R98, R153): a current-hold array holds the cap while it feeds, in
gaps of at most 15 slots and through slips, and follows the ramp of R94 in a longer planned gap; a quiet array follows its
feeding at the ramp rate; an array held for test keeps full level (R398); no level exceeds the cap. -/
def nextLevel (s : State) (a : Nat) : Nat :=
  let r := arrayOf s a
  let step := getF s F.ARR_ENVELOPE_ramp_step
  let cap := getF s F.PWR_GOV_cap
  let b := slot s + 1
  if fenced s a then 0
  else if r.heldTest then min cap 65536
  else if r.feeding.isSome || (unitOf s a).waiting.isSome then min cap (towards r.level 65536 step)
  else if isQuiet a then towards r.level 0 step
  else
    match nextTileSlot s a with
    | some t =>
      if t ≤ b then min cap (towards r.level 65536 step)
      else if t - r.lastFeed ≤ getF s F.ARR_ENVELOPE_hold_slots && r.lastFeed != 0 then min cap r.level
      else min cap (max (r.level - step) (65536 - step * (t - b)))
    | none => r.level - step

/-- Every array's level moved for the slot that begins. -/
def moveLevels (s : State) : State :=
  (levelArrays s).foldl (fun s a => setArray s a { arrayOf s a with level := nextLevel s a }) s

/-- The write credit of R185: 38 TiB per 86,400 s is 39,845,888 MiB in 337,500,000,000 slots; it never exceeds the budget. -/
def accrueCredit (s : State) : State :=
  if phaseEnded s 7 then
    let n := s.fls.frac + 39845888
    let c := getF s F.FLS_CREDIT_mib + n / 337500000000
    let s := { s with fls := { s.fls with frac := n % 337500000000 } }
    let s := setF s F.FLS_CREDIT_mib (min c (getF s F.FLS_BUDGET_mib))
    if hasF s F.FLS_STATUS_credit_wait then bumpF s F.FLS_CREDIT_WAIT_slots 1 else s
  else s

/-- A write of LCH_CLEAR acts at the next boundary (R155). -/
def clearLch (s : State) : State :=
  let s := setReg s Off.LCH_SLIP_TOTAL 0
  let s := setReg s Off.LCH_SLIP_MAX 0
  let s := setReg s Off.LCH_ANCHOR_SLIP 0
  let s := setReg s Off.LCH_IMPORT_DROP 0
  (List.range 8).foldl (fun s c => setReg s (Off.LCH_SLIP_CAUSE c) 0) s

/-- A write of NUM_CLEAR acts at the next boundary (R68). -/
def clearNum (s : State) : State :=
  let s := setF (setF s F.NUM_STATUS_records_dropped 0) F.NUM_STATUS_drop_count 0
  (List.range 8).foldl (fun s f => (List.range 5).foldl (fun s k => setReg s (Off.NUM_CNT f k) 0) s) s

/-- Boundary b = slot + 1: own slip of the boundary that ends is counted, clears that were asked for act, the counter takes b,
the governor's decision for b applies, cap, levels and credit move (R140 row 2, R142, R94, R185, R363). -/
def advanceSlot (s : State) : State :=
  let s := countSlips s
  let s := if s.lch.clearReq then clearLch { s with lch := { s.lch with clearReq := false } } else s
  let s := if s.lch.numClear then clearNum { s with lch := { s.lch with numClear := false } } else s
  let s := moveLevels s
  let s := setF s F.PWR_GOV_cap (towards (getF s F.PWR_GOV_cap) (capTarget s) (getF s F.ARR_ENVELOPE_ramp_step))
  let s := accrueCredit s
  let s := bumpF s F.UPD_SWEEP_WAIT_slots s.trn.sweepFrom.length
  let s := bumpF s F.UPD_PENDING_STALL_slots (b2n s.trn.pendWait)
  let b := slot s + 1
  let skip := skipsSlot (getF s F.PWR_GOV_depth) b
  let s := { s with pwr := { s.pwr with acc := { s.pwr.acc with skipped := s.pwr.acc.skipped + b2n skip } } }
  setF { s with lch := { s.lch with skipped := skip } } F.LCH_SLOT_slot b

/-! ### SIGNAL_TAKES_EFFECT -/

/-- The body of a sync message (Table 5.7). -/
def syncBody (src dest obj amount : Nat) : List Byte :=
  wordBytes [src + 64 * dest + 4096 * obj, amount]

/-- One sync message to each destination of an exported object (R150, R151). -/
def exportSignal (s : State) (obj amount : Nat) : State :=
  match s.plan with
  | none => s
  | some p =>
    match p.exports.find? (fun e => e.localObj == obj) with
    | none => s
    | some e =>
      postAll s 0x10 ((List.range 64).filter fun j => bit e.dests j) (fun j => syncBody (myAddr s) j e.remoteObj amount)

/-- One signal added to its object; a failed object discards it (R446); beyond the largest value the object saturates, with
overflow_seen and a plan fault (R146). -/
def addSignal (s : State) (g : Signal) : State :=
  if (syncFlags s g.object).failed then s
  else
    let v := syncValue s g.object + g.amount
    let s := setReg s (Off.LCH_SYNC g.object) (BitVec.ofNat 64 (min v (2 ^ 64 - 1)))
    let s := exportSignal s g.object g.amount
    if v ≥ 2 ^ 64 then holdFault (flag s F.LCH_STATUS_overflow_seen 5) 0x1C 6 0 0 0 else s

/-- Every signal whose effect boundary has come takes effect together (R146). -/
def signalsDue (s : State) : State :=
  let due := s.lch.signals.filter fun g => decide (g.effect ≤ slot s)
  let s := { s with lch := { s.lch with signals := s.lch.signals.filter fun g => !decide (g.effect ≤ slot s) } }
  due.foldl addSignal s

/-- SIGNAL_TAKES_EFFECT (R146, row 3 of Table 5.3). -/
def execSignalTakesEffect (s : State) : Host.Outcome State Fault Refusal := settle s (signalsDue s)

/-! ### ANCHOR_SET -/

/-- The next anchor of the plan: iteration, number and record. -/
def nextAnchor (s : State) : Option (Nat × Nat × Anchor) :=
  match s.plan with
  | some p =>
    if p.iterations ≠ 0 ∧ p.iterations ≤ s.lch.iter then none
    else (p.anchors[s.lch.next]?).map fun a => (s.lch.iter, s.lch.next, a)
  | none => none

/-- The planned slot of the next anchor (R138). -/
def plannedSlot (s : State) (a : Anchor) : Nat := s.lch.base + a.offset

/-- Whether the next anchor is set at the present boundary (R138). -/
def anchorDue (s : State) : Bool :=
  match nextAnchor s with
  | some (i, _, a) =>
    planState s == .running && !s.lch.skipped && !stopInForce s && !inHold s && !s.lch.refFault
      && decide (plannedSlot s a ≤ slot s) && a.gate.all (waitMet s i)
  | none => false

/-- The stash decisions of the layers whose forward anchor it is; false when one aborts the pass (R229). A pass that has
aborted decides nothing more. -/
def stashDecisions (s : State) (iter k : Nat) : State × Bool :=
  match s.plan with
  | none => (s, true)
  | some p =>
    p.layers.zipIdx.foldl (fun (st : State × Bool) (y : LayerStash × Nat) =>
      if st.2 && y.1.anchor == k && !(passOf st.1 (iter * 65536 + y.1.pass)).aborted then
        stashDecision st.1 iter y.2 y.1 else st) (s, true)

/-- The anchor set: its slot, the LCH registers of Table 5.13, anchor slip, and the next anchor in line. -/
def setAnchor (s : State) (i k : Nat) (a : Anchor) : State :=
  let b := slot s
  let n := match s.plan with | some p => p.anchors.length | none => 0
  let s := bumpF s F.LCH_ANCHOR_SLIP_count (b - plannedSlot s a)
  let s := setF s F.LCH_ANCHOR_SLOT_slot b
  let s := setF (setF s F.LCH_ANCHOR_ID_anchor k) F.LCH_ANCHOR_ID_iteration i
  let s := setF s F.HST_PLAN_PROGRESS_iteration i
  { s with lch := { s.lch with anchors := FMap.set 0 s.lch.anchors (i * 65536 + k) (b + 1), base := b,
                               iter := if k + 1 < n then i else i + 1, next := if k + 1 < n then k + 1 else 0 } }

/-- Anchor 0 begins an iteration: UPD_STEP takes its step, the stash pointers start at 0 (R229). -/
def startIteration (s : State) (k : Nat) : State :=
  if k = 0 then
    let s := setF s F.UPD_STEP_step (stepOf s s.lch.iter)
    settleStash s
  else s

/-- The anchor step of row 4: the decisions first, then the anchor. -/
def anchorStep (s : State) : State :=
  match nextAnchor s with
  | some (i, k, a) =>
    if anchorDue s then
      let (s, ok) := stashDecisions (startIteration s k) i k
      if ok then setAnchor s i k a else s
    else s
  | none => s

/-- ANCHOR_SET (R138). -/
def execAnchorSet (s : State) : Host.Outcome State Fault Refusal := settle s (anchorStep s)

/-! ### LAUNCH_ISSUE -/

/-- A frond written as poisoned, with no payload, and sealed (R167, R233). -/
def writePoisoned (s : State) (o : Output) (step : Nat) : State :=
  let h : Header := ⟨o.frondId, o.fmt, o.cls, false, BitVec.ofNat 64 step, 0, o.tensorId, o.tile, 0⟩
  let s := wr s o.addr (poisonImage h)
  let s := sealAt (writeCheck s o.fmt o.addr) o.addr
  let e := ftGet s o.frondId
  if e.valid && e.home == o.addr then ftSet s o.frondId { e with poisoned := true } else s

/-- The outputs a launch would write as fronds. -/
def outputsOf (s : State) (l : Launch) : List Output :=
  match l.kind with
  | .tile =>
    match tileOf s l with
    | some t => match t.drain with
      | some d => d.primary :: (d.stash.toList ++ d.residual.toList)
      | none => []
    | none => []
  | .vector => match vectorOf s l with | some v => v.writes | none => []
  | _ => []

/-- The signal ops of a completed launch put on their way, once per pass (R137, R147). -/
def scheduleSignals (s : State) (k : Nat) (l : Launch) : State :=
  if (runOf s k).signalled then s
  else
    let s := l.signals.foldl (fun s g => signal s g.object g.value.toNat) s
    setRun s k { runOf s k with signalled := true }

/-- A launch that completes at once as it issues (R230, R233). -/
def completeAtOnce (s : State) (k : Nat) (l : Launch) : State :=
  scheduleSignals (setRun s k { runOf s k with completed := true, doneSlot := slot s }) k l

/-- The issue of a launch noted: slot, slip, own slip and LCH_SLIP_MAX (R139, Table 5.13). -/
def noteIssue (s : State) (k : Nat) (l : Launch) (a due : Nat) : State :=
  let b := slot s
  let slip := b - (a + l.relSlot)
  let s := setRun s k { runOf s k with issued := true, issueSlot := b, slip := slip, ownSlip := b - due, counted := b }
  if min slip 0xFFFFFF > getF s F.LCH_SLIP_MAX_slip then
    setF (setF s F.LCH_SLIP_MAX_slip (min slip 0xFFFFFF)) F.LCH_SLIP_MAX_launch (keyIdx k)
  else s

/-- An address that a move or a collective step cannot reach at run time (R156, R178, R184): a frond without a home, or a
flash-tier place while the tier is closed. -/
def unreachable (s : State) (l : Launch) : Option Nat :=
  let closed := hasF s F.FLS_STATUS_flash_closed
  let bad := fun (a : Nat) => !(tierOf a).isSome || (closed && decide (flashBase ≤ a))
  match l.kind with
  | .move =>
    match moveOf s l with
    | some m =>
      let homes := (List.range m.count).filterMap fun i =>
        let e := ftGet s (m.first + i)
        if e.valid then (if bad e.home then some e.home else none) else some (256 * (m.first + i))
      match homes with
      | a :: _ => some a
      | [] => if bad m.dest then some m.dest else none
    | none => none
  | _ => none

/-- Whether a launch writes the flash tier (R186). -/
def writesFlash (s : State) (l : Launch) : Bool :=
  match l.kind with
  | .move => match moveOf s l with | some m => decide (flashBase ≤ m.dest) | none => false
  | _ => false

/-- A launch issued into the waiting place of its unit; a void launch and a passed-over launch complete at once. -/
def issueLaunch (s : State) (k : Nat) (l : Launch) (a due : Nat) : State :=
  let s := noteIssue (addRetro s k l due) k l a due
  if voidLaunch s k l then
    let s := (outputsOf s l).foldl (fun s o => writePoisoned s o (stepOf s (keyIter k))) s
    let s := setRun s k { runOf s k with isVoid := true }
    completeAtOnce (bumpF s F.UPD_VOID_CNT_count 1) k l
  else if passedOver s k then
    completeAtOnce (setRun s k { runOf s k with passed := true }) k l
  else
    let s := match blockLayer s k with
      | some (i, y) =>
        match stashOf s (keyIter k) i with
        | some p => if y.block.head? = some (keyIdx k) then placeRecompute s y p else s
        | none => s
      | none => s
    let s := setRun s k { runOf s k with poisoned := (inputFronds s l).any (poisonedAt s) }
    match unitFor s k l with
    | some u => setUnit s u { unitOf s u with waiting := some k }
    | none => s

/-- Whether a launch issues at the present boundary (R139). -/
def launchDue (s : State) (k : Nat) (l : Launch) : Bool :=
  match dueOf s k l with
  | some due =>
    !(runOf s k).issued && planState s == .running && decide (due ≤ slot s) && (slipCause s k l).isNone
  | none => false

/-- One launch at the present boundary: it issues, or an address it cannot reach takes the action of R156, or a flash write
behind a failed channel that of R186. -/
def issueStep (s : State) (k : Nat) : State :=
  match launchOf s k with
  | none => s
  | some l =>
    match anchorSlot s k l, dueOf s k l with
    | some a, some due =>
      if launchDue s k l then
        if voidLaunch s k l || passedOver s k then issueLaunch s k l a due
        else
          match unreachable s l with
          | some bad => rangeFault s bad
          | none =>
            if writesFlash s l && getF s F.FLS_CH_FENCED_fenced != 0 then
              holdFault s 0x12 7 (92 + (List.range 32).findIdx (fun h => (getF s F.FLS_CH_FENCED_fenced).testBit h) / 8) 0 0
            else issueLaunch s k l a due
      else s
    | _, _ => s

/-! ### WAIT_TIMEOUT -/

/-- A timeout recorded (R148): the object, launch wait or gate, the index, the slot; then HOLD cause 0. -/
def noteTimeout (s : State) (obj : Nat) (gate : Bool) (index : Nat) : State :=
  let s := setF s F.LCH_TIMEOUT_object obj
  let s := setF s F.LCH_TIMEOUT_gate (b2n gate)
  let s := setF s F.LCH_TIMEOUT_index index
  let s := setF s F.LCH_TIMEOUT_SLOT_slot (slot s)
  holdFault (flag s F.LCH_STATUS_timeout_seen 5) 0x1B 0 0 0 0

/-- Whether a gate wait op of the next anchor has timed out. -/
def gateTimedOut (s : State) (op : Nat) : Option (Nat × Nat) :=
  match nextAnchor s with
  | some (i, k, a) =>
    match a.gate[op]? with
    | some w =>
      if a.gateTimeout ≠ 0 && !waitMet s i w && decide (plannedSlot s a ≤ slot s)
          && decide (a.gateTimeout ≤ timeoutCount s (plannedSlot s a) []) then some (w.object, k) else none
    | none => none
  | none => none

/-- Whether a wait op of a launch has timed out. -/
def launchTimedOut (s : State) (k op : Nat) : Option Nat :=
  match launchOf s k with
  | some l =>
    match dueOf s k l, l.waits[op]? with
    | some due, some w =>
      let pauses := match passKey s k with | some p => (passOf s p).pauses | none => []
      if !(runOf s k).issued && w.timeout ≠ 0 && !waitMet s (keyIter k) w && decide (due ≤ slot s)
          && decide (w.timeout ≤ timeoutCount s due pauses) then some w.object else none
    | _, _ => none
  | none => none

/-- The timeout check of row 6 for one wait; in HOLD no count advances. -/
def timeoutStep (s : State) (gate : Bool) (index op : Nat) : State :=
  if inHold s || stopInForce s || planState s != .running then s
  else if gate then
    match gateTimedOut s op with
    | some (obj, k) => noteTimeout s obj true k
    | none => s
  else
    match launchTimedOut s index op with
    | some obj => noteTimeout s obj false (keyIdx index)
    | none => s

/-- WAIT_TIMEOUT (R148). -/
def execWaitTimeout (gate : Bool) (index op : Nat) (s : State) : Host.Outcome State Fault Refusal :=
  settle s (timeoutStep s gate index op)

end Sys2Proof.Machine
end

