-- ==== Sys2Proof/Machine/Vector.lean ====
section
/-!
DEFINITION. Vector programs (R110 to R117) and the drain functions (R122, R447): the operations of Table 4.2 lane by lane, the
functions of Table 2.9 with their special results, the reductions of R114.
-/

namespace Sys2Proof.Machine

/-- Canonical NaN, infinities and 1 in FP32. -/
def f32NaN : Word32 := 0x7FC00000#32
def f32Inf : Word32 := 0x7F800000#32
def f32NegInf : Word32 := 0xFF800000#32
def f32One : Word32 := 0x3F800000#32
def f32NegOne : Word32 := 0xBF800000#32

/-- A BF16 pattern widened. -/
def bfNum (h : Nat) : Num := decodePlain .bf16 h

/-- A value rounded once into BF16 in mode 0 (R113). -/
def toBf (x : Num) : Nat := (convPlain .bf16 .nearest x).1

/-- A lane function applied to FP32, or to both BF16 halves of a lane through its exact form (R113). -/
def lane2 (bf : Bool) (f : Word32 → Word32 → Word32) (g : Num → Num → Num) (a b : Word32) : Word32 :=
  if bf then
    let lo := toBf (g (bfNum (a.toNat % 65536)) (bfNum (b.toNat % 65536)))
    let hi := toBf (g (bfNum (a.toNat / 65536)) (bfNum (b.toNat / 65536)))
    BitVec.ofNat 32 (lo + 65536 * hi)
  else f a b

/-- A lane function of one operand; the BF16 form is the FP32 form on each half and one conversion. -/
def lane1 (bf : Bool) (f : Word32 → Word32) (a : Word32) : Word32 :=
  if bf then
    let half := fun h => toBf (ofF32 (f (toF32 (bfNum h))))
    BitVec.ofNat 32 (half (a.toNat % 65536) + 65536 * half (a.toNat / 65536))
  else f a

/-- The smaller and the greater of two values, NaN if either is NaN. -/
def numMin (a b : Num) : Num :=
  match a, b with
  | .nan, _ => .nan
  | _, .nan => .nan
  | a, b => if b.lt a then b else a

def numMax (a b : Num) : Num :=
  match a, b with
  | .nan, _ => .nan
  | _, .nan => .nan
  | a, b => if a.lt b then b else a

/-- A function of Table 2.9: NaN gives NaN, the special results of the table, and a free value within the bound elsewhere (log
entry 7). -/
def vfnBy (free : VFn → Word32 → Word32) (f : VFn) (x : Word32) : Word32 :=
  match ofF32 x with
  | .nan => f32NaN
  | .inf neg =>
    match f with
    | .recip => 0
    | .rsqrt => if neg then f32NaN else free .rsqrt x
    | .exp | .exp2 => if neg then 0 else f32Inf
    | .log | .log2 => if neg then f32NaN else f32Inf
    | .tanh | .erf => if neg then f32NegOne else f32One
    | .sigmoid => if neg then 0 else f32One
    | .sin | .cos => f32NaN
  | .fin n =>
    match f with
    | .recip => if n = 0 then f32Inf else free .recip x
    | .rsqrt => if n = 0 then f32Inf else if n < 0 then f32NaN else free .rsqrt x
    | .log => if n = 0 then f32NegInf else if n < 0 then f32NaN else free .log x
    | .log2 => if n = 0 then f32NegInf else if n < 0 then f32NaN else free .log2 x
    | g => free g x

/-- The functions of the vector engines. -/
def vfnF32 (f : VFn) (x : Word32) : Word32 := vfnBy Config.vfn f x

/-- Division on lanes: the IEEE 754-2019 special cases, a free value within the bound elsewhere (Table 2.9). -/
def vdivBy (free : Word32 → Word32 → Word32) (x y : Word32) : Word32 :=
  match ofF32 x, ofF32 y with
  | .fin n, .fin d => if d = 0 then f32Div x y else if n = 0 then 0 else free x y
  | _, _ => f32Div x y

/-- Division in the vector engines. -/
def vdivF32 (x y : Word32) : Word32 := vdivBy Config.vdiv x y

/-! ### Drain functions, Table 4.6 -/

/-- f(v) of a drain function code (R122, R447, Table 4.9). -/
def drainF (g : FnStage) (v : Word32) : Word32 :=
  let x := ofF32 v
  if x = .nan then f32NaN
  else
    match g.code with
    | 0 => toF32 x
    | 1 => f32Max v 0
    | 2 => if (Num.fin 0).lt x then toF32 x else f32Mul g.beta v
    | 3 => f32Min (f32Max v g.lo) g.hi
    | 4 => f32Mul v v
    | c =>
      match x with
      | .inf false => if c = 8 || c = 9 then f32One else f32Inf
      | .inf true => if c = 9 then f32NegOne else 0
      | _ => Config.drainFn c v

/-- f'(s) of a drain function code. -/
def drainFPrime (g : FnStage) (v : Word32) : Word32 :=
  let x := ofF32 v
  if x = .nan then f32NaN
  else
    match g.code with
    | 0 => f32One
    | 1 => if (Num.fin 0).lt x then f32One else 0
    | 2 => if (Num.fin 0).lt x then f32One else toF32 (ofF32 g.beta)
    | 3 => if (ofF32 g.lo).le x && x.le (ofF32 g.hi) then f32One else 0
    | 4 => f32Mul 0x40000000#32 v
    | c =>
      match x with
      | .inf false => if c = 0xA then f32Inf else if c = 8 || c = 9 then 0 else f32One
      | .inf true => 0
      | _ => Config.drainFnDeriv c v

/-- Stage 6 in one of its three forms (R122). -/
def drainStage (g : FnStage) (v s1 : Word32) : Word32 :=
  match g.form with
  | .forward => drainF g v
  | .gated => f32Mul (drainF g v) s1
  | .derivative => f32Mul v (drainFPrime g s1)

/-! ### Vector registers and programs -/

/-- A vector register of a core, 512 lanes. -/
def vreg (s : State) (core r : Nat) : List Word32 :=
  (List.range 512).map fun i => FMap.get 0 s.arr.vregs (65536 * core + 512 * (r % 64) + i)

/-- A vector register written. -/
def setVreg (s : State) (core r : Nat) (xs : List Word32) : State :=
  { s with arr := { s.arr with vregs := xs.zipIdx.foldl (fun m x =>
      FMap.set 0 m (65536 * core + 512 * (r % 64) + x.2) x.1) s.arr.vregs } }

/-- A reduction over 512 lanes (R114): sums in pairs over 9 levels, squares rounded first; maximum and minimum in the same
order. The result stands in every lane (log entry 8). -/
def reduceLanes (k : VReduce) (xs : List Word32) : Word32 :=
  match k with
  | .sum => f32PairSum 9 xs
  | .sumSq => f32PairSum 9 (xs.map fun x => f32Mul x x)
  | .max => xs.foldl f32Max (xs.headD 0)
  | .min => xs.foldl f32Min (xs.headD 0)

/-- The context of a running vector program. -/
structure VCtx where
  core : Nat
  prog : VectorProgram
  key  : Nat
  seed : Word
  n    : Nat
  deriving DecidableEq, Repr

/-- A store of 512 lanes into an output of the program, from element (row, col) on in frond order, with the counters of R62
and R63. -/
def vStore (s : State) (c : VCtx) (o : Output) (row col : Nat) (xs : List Word32) : State :=
  let perRow := min 512 (o.fmt.rowElems - col)
  let rows := (512 + perRow - 1) / perRow
  let (s, cs) := (List.range rows).foldl (fun (st : State × List Nat) r =>
    let vals := (xs.drop (r * perRow)).take perRow
    let oo := { o with row0 := 0, col0 := col }
    let (t, k) := writeOutRow st.1 oo c.seed c.n (row + r) vals.length (fun j => ofF32 (vals.getD j 0))
    (t, addCounts st.2 k)) (breakSeal s o.addr, zeroCounts)
  noteOp (bumpNum s o.fmt cs) c.key o.tensorId o.fmt cs

/-- One operation of Table 4.2. -/
def vStep (c : VCtx) (s : State) (i : VInstr) : State :=
  let r := vreg s c.core
  let put := setVreg s c.core
  match i with
  | .add bf d a b => put d (List.zipWith (lane2 bf f32Add Num.add) (r a) (r b))
  | .sub bf d a b => put d (List.zipWith (lane2 bf f32Sub (fun x y => x.add y.neg)) (r a) (r b))
  | .mul bf d a b => put d (List.zipWith (lane2 bf f32Mul Num.mul) (r a) (r b))
  | .fma bf d a b k => put d (List.zipWith (fun (ab : Word32 × Word32) z =>
      if bf then
        let h := fun (w : Word32) (p : Nat) => bfNum (w.toNat / 65536 ^ p % 65536)
        let one := fun p => toBf (((h ab.1 p).mul (h ab.2 p)).add (h z p))
        BitVec.ofNat 32 (one 0 + 65536 * one 1)
      else f32Fma ab.1 ab.2 z) ((r a).zip (r b)) (r k))
  | .min bf d a b => put d (List.zipWith (lane2 bf f32Min numMin) (r a) (r b))
  | .max bf d a b => put d (List.zipWith (lane2 bf f32Max numMax) (r a) (r b))
  | .cmpLt bf d a b => put d (List.zipWith (lane2 bf
      (fun x y => if (ofF32 x).lt (ofF32 y) then f32One else 0)
      (fun x y => if x.lt y then numOne else .fin 0)) (r a) (r b))
  | .sel bf d a b k => put d (List.zipWith (fun (ab : Word32 × Word32) z =>
      if bf then
        let one := fun (p : Nat) =>
          if ab.1.toNat / 65536 ^ p % 65536 ≠ 0 then ab.2.toNat / 65536 ^ p % 65536 else z.toNat / 65536 ^ p % 65536
        BitVec.ofNat 32 (one 0 + 65536 * one 1)
      else if ab.1 ≠ 0 then ab.2 else z) ((r a).zip (r b)) (r k))
  | .abs bf d a => put d ((r a).map (lane1 bf f32Abs))
  | .neg bf d a => put d ((r a).map (lane1 bf fun x => toF32 (ofF32 x).neg))
  | .copy d a => put d (r a)
  | .sqrt bf d a => put d ((r a).map (lane1 bf f32Sqrt))
  | .fn bf f d a => put d ((r a).map (lane1 bf (vfnF32 f)))
  | .div bf d a b => put d (List.zipWith (fun x y =>
      if bf then
        let one := fun (p : Nat) =>
          toBf (ofF32 (vdivF32 (toF32 (bfNum (x.toNat / 65536 ^ p % 65536))) (toF32 (bfNum (y.toNat / 65536 ^ p % 65536)))))
        BitVec.ofNat 32 (one 0 + 65536 * one 1)
      else vdivF32 x y) (r a) (r b))
  | .perm d a idx => put d ((r idx).map fun x => (r a).getD (x.toNat % 512) 0)
  | .reduce k d a => put d (List.replicate 512 (reduceLanes k (r a)))
  | .load d frond row col f =>
    let e0 := row * f.rowElems + col
    noteReads (put d ((List.range 512).map fun e => flatF32 s f frond (e0 + e))) f (frondCodes s f frond e0 (e0 + 512))
  | .loadRaw d addr => put d ((List.range 512).map fun e => rdWord32 s (addr + 4 * e))
  | .store a out row col =>
    match c.prog.writes[out]? with
    | some o => vStore s c o row col (r a)
    | none => s
  | .storeRaw a addr => wr s addr ((r a).flatMap fun x => leBytes 4 x.toNat)

/-- The step number of a launch: the training step of its iteration, or in a batch the number of the batch (R451). -/
def runStep (s : State) (k : Nat) : Nat :=
  match keyQueue k with
  | some _ => keyIter k
  | none =>
    match s.plan with
    | some p =>
      if p.training then stepOf s (keyIter k)
      else match launchOf s k with | some l => l.pass | none => 0
    | none => 0

/-- The job seed (R55). -/
def jobSeed (s : State) : Word := match s.plan with | some p => p.header.seed | none => 0

/-- A vector program run from its first instruction to its last store. -/
def runVector (s : State) (core k : Nat) (v : VectorProgram) : State :=
  v.code.foldl (vStep ⟨core, v, k, jobSeed s, runStep s k⟩) s

end Sys2Proof.Machine
end

