-- ==== Sys2Proof/Machine/Arrays.lean ====
section
/-!
DEFINITION. The arrays and their drains: LAUNCH_BEGIN, ARRAY_STEP, INTERMEDIATE_CHECK, DRAIN, TILE_RESTART, DRAIN_FAULT,
VECTOR_ENGINE_FAULT, PASS_RESTART and ARR_INJECT (R71 to R129, R447).
-/

namespace Sys2Proof.Machine

/-! ### Group sums and check lines, R57, R58, R84 -/

/-- Whether row i of a tile is unmasked; in a batch, whether the batch has a row i. -/
def rowOn (s : State) (k : Nat) (t : TileProgram) (i : Nat) : Bool :=
  match batchOf s k with
  | some b => decide (i < b.rows.length)
  | none => t.rowMask.getLsbD i

/-- The address of a queue entry (R451). -/
def entryAddr (s : State) (q e : Nat) : Nat :=
  match s.plan with
  | some p => match p.queues.find? (fun b => b.q == q) with | some b => b.queueArea + e * b.rowBytes | none => 0
  | none => 0

/-- A pseudo-random operand of dummy mode, of magnitude at most 1 (Table 3.3). -/
def dummyVal (a n : Nat) : Num := .fin ((Config.dummyElem a n).toInt * pow2 (-7))

/-- Row i of the A operand over the `g` indices from k0: masked rows are +0 on a quiet array and dummy values on a current-hold
array (R99). -/
def aRow (s : State) (arr k : Nat) (t : TileProgram) (i k0 g : Nat) : List Num :=
  (List.range g).map fun x =>
    if rowOn s k t i then
      match batchOf s k, keyQueue k with
      | some b, some q =>
        if t.a.fronds.isEmpty then queueElem s t.a.stored (entryAddr s q (b.rows.getD i ⟨0, 0, 0, 0⟩).entry) t.k (k0 + x)
        else (feed s t.a i (k0 + x)).1
      | _, _ => (feed s t.a i (k0 + x)).1
    else if isQuiet arr then .fin 0
    else dummyVal arr ((k0 + x) * 256 + i)

/-- Column j of the B operand over the `g` indices from k0. -/
def bCol (s : State) (arr : Nat) (t : TileProgram) (j k0 g : Nat) : List Num :=
  (List.range g).map fun x =>
    if j < t.cols then (feed s t.b j (k0 + x)).1
    else if isQuiet arr then .fin 0
    else dummyVal arr ((k0 + x) * 256 + 128 + j)

/-- The exact sum of the products of two lists (R57, R58). -/
def dot (a b : List Num) : Num := Num.sum (List.zipWith Num.mul a b)

/-- An FP32 accumulator with a group sum added in one rounding. -/
def accAdd (acc : Word32) (g : Num) : Word32 := toF32 ((ofF32 acc).add g)

/-- Column sums of a list of rows, index by index. -/
def sumRows (rows : List (List Num)) (g : Nat) : List Num :=
  (List.range g).map fun x => Num.sum (rows.map fun r => r.getD x (.fin 0))

/-- A bank after one group: every entry, the signed and magnitude check cells and the exact sums of R86. -/
def addGroup (bk : Bank) (as bs : List (List Num)) (g : Nat) : Bank :=
  let aSum := sumRows as g
  let bSum := sumRows bs g
  let aAbs := sumRows (as.map (·.map Num.abs)) g
  let bAbs := sumRows (bs.map (·.map Num.abs)) g
  let abs := fun (x : List Num) => x.map Num.abs
  { bk with
    n := bk.n + 1,
    red := bk.red + g,
    entry := (List.range 4096).foldl (fun m c =>
      FMap.set 0 m c (accAdd (FMap.get 0 m c) (dot (as.getD (c / 128) []) (bs.getD (c % 128) [])))) bk.entry,
    rowX := (List.range 128).foldl (fun m j => FMap.set 0 m j (accAdd (FMap.get 0 m j) (dot aSum (bs.getD j [])))) bk.rowX,
    rowN := (List.range 128).foldl (fun m j =>
      FMap.set 0 m j (accAdd (FMap.get 0 m j) (dot aAbs (abs (bs.getD j []))))) bk.rowN,
    colX := (List.range 32).foldl (fun m i => FMap.set 0 m i (accAdd (FMap.get 0 m i) (dot (as.getD i []) bSum))) bk.colX,
    colN := (List.range 32).foldl (fun m i =>
      FMap.set 0 m i (accAdd (FMap.get 0 m i) (dot (abs (as.getD i [])) bAbs))) bk.colN,
    rowE := (List.range 128).foldl (fun m j =>
      FMap.set 0 m j (FMap.get 0 m j + (dot aSum (bs.getD j [])).int)) bk.rowE,
    colE := (List.range 32).foldl (fun m i =>
      FMap.set 0 m i (FMap.get 0 m i + (dot (as.getD i []) bSum).int)) bk.colE }

/-- The scale bytes and exception words of the blocks of one operand line over a group. -/
def groupBlocks (s : State) (o : Operand) (r k0 g : Nat) : List (Nat × Nat) :=
  (List.range (g / 32)).map fun b =>
    let (a, row, col) := o.locate r (k0 + 32 * b)
    (if poisonedAt s a then 0xFE else scaleAt s o.stored a row (col / 32),
      if o.stored = .b4x then excAt s a row (col / 32) else 0)

/-- The entry of row i of a batch whose A operand comes from its queue (R451); none where fronds feed the tile. -/
def queueRow (s : State) (k : Nat) (t : TileProgram) (i : Nat) : Option Nat :=
  match batchOf s k, keyQueue k with
  | some b, some q => if t.a.fronds.isEmpty then some (entryAddr s q (b.rows.getD i ⟨0, 0, 0, 0⟩).entry) else none
  | _, _ => none

/-- The scale bytes and exception words of the blocks of row i of the A operand over a group. -/
def aBlocks (s : State) (k : Nat) (t : TileProgram) (i k0 g : Nat) : List (Nat × Nat) :=
  match queueRow s k t i with
  | some addr => (List.range (g / 32)).map fun b => queueBlock s t.a.stored addr t.k (k0 / 32 + b)
  | none => groupBlocks s t.a i k0 g

/-- The codes that the A feeder fetches for row i over a group. -/
def aCodes (s : State) (k : Nat) (t : TileProgram) (i k0 g : Nat) : List Nat :=
  match queueRow s k t i with
  | some addr => (List.range g).map fun x => queueCode s t.a.stored addr (k0 + x)
  | none => feedCodes s t.a [i] k0 g

/-- The conditions of R86 after one group. -/
def noteIntEq (s : State) (arr k : Nat) (t : TileProgram) (bk : Bank) (k0 g : Nat) : Bank :=
  let fmtOk := (t.a.deliver == .b4 || t.a.deliver == .b4x) && t.a.mode == .direct && t.b.mode == .direct
  let rows := (List.range 32).filter (rowOn s k t)
  let ab := rows.flatMap fun i => aBlocks s k t i k0 g
  let bb := (List.range t.cols).flatMap fun j => groupBlocks s t.b j k0 g
  let live := fun (xs : List (Nat × Nat)) => (xs.filter fun x => x.1 != 0xFF && x.1 != 0xFE).map (·.1)
  let clean := fun (xs : List (Nat × Nat)) => xs.all fun x => x.1 != 0xFE && (x.1 == 0xFF || x.2 % 256 == 0 || x.2 % 256 == 0x80)
  let one := fun (old : Option Nat) (xs : List Nat) =>
    match old, xs with
    | some v, xs => xs.all (· == v)
    | none, x :: xs => xs.all (· == x)
    | none, [] => true
  let whole := isQuiet arr || (rows.length == 32 && t.cols == 128)
  if fmtOk then
    { bk with
      intEq := bk.intEq && clean ab && clean bb && one bk.aScale (live ab) && one bk.bScale (live bb) && whole
        && decide (bk.red + g ≤ 65536),
      aScale := match bk.aScale with | some v => some v | none => (live ab).head?,
      bScale := match bk.bScale with | some v => some v | none => (live bb).head? }
  else { bk with intEq := false }

/-- Whether a quiet array skips the group from k0 (R97): block formats fed as stored, all blocks of one operand zero blocks and
no block of the other poisoned or holding an element that decodes to NaN. -/
def skipGroup (s : State) (arr k : Nat) (t : TileProgram) (k0 g : Nat) : Bool :=
  isQuiet arr && t.a.stored.isBlock && t.a.mode == .direct && t.b.mode == .direct &&
    let rows := (List.range 32).filter (rowOn s k t)
    let cols := List.range t.cols
    let zero := fun (bs : List (Nat × Nat)) => bs.all fun x => x.1 == 0xFF
    let noNaN := fun (xs : List Num) => xs.all fun x => x != .nan
    ((rows.all fun i => zero (aBlocks s k t i k0 g)) && cols.all fun j => noNaN (bCol s arr t j k0 g))
      || ((cols.all fun j => zero (groupBlocks s t.b j k0 g)) && rows.all fun i => noNaN (aRow s arr k t i k0 g))

/-- One group added to the bank of a tile: values, conditions of R86, and the counters of conversions in the feeders and of BF16
subnormals that they read (R78, R62). -/
def feedGroup (s : State) (arr k : Nat) (t : TileProgram) (g0 : Nat) : State :=
  let g := t.a.deliver.group
  let k0 := g0 * g
  let as := (List.range 32).map fun i => aRow s arr k t i k0 g
  let bs := (List.range 128).map fun j => bCol s arr t j k0 g
  let conv := fun (o : Operand) (ls : List Nat) =>
    if o.mode = .transposeBlock then
      ls.flatMap fun r => (List.range g).filterMap fun x => (feed s o r (k0 + x)).2
    else []
  let cls := conv t.a ((List.range 32).filter (rowOn s k t)) ++ conv t.b (List.range t.cols)
  let bk := addGroup (noteIntEq s arr k t (bankOf s arr t.bank) k0 g) as bs g
  let on := (List.range 32).filter (rowOn s k t)
  let aIn := on.flatMap fun i => aCodes s k t i k0 g
  let bIn := feedCodes s t.b (List.range t.cols) k0 g
  let s := setBank s arr t.bank bk
  let s := noteReads (noteReads s t.a.stored aIn) t.b.stored bIn
  if cls.isEmpty then s else bumpNum s t.a.deliver (countClasses cls)

/-! ### Units take launches: LAUNCH_BEGIN -/

/-- The tile of a key. -/
def tileOfKey (s : State) (k : Nat) : Option TileProgram :=
  match launchOf s k with | some l => tileOf s l | none => none

/-- A tile taken by an array: the feed starts, with the bank cleared when the tile says so (R80, R135). -/
def beginTile (s : State) (a k : Nat) (t : TileProgram) : State :=
  let bk := if t.clear then Bank.clear else bankOf s a t.bank
  let s := setBank s a t.bank { bk with tiles := bk.tiles ++ [k] }
  setArray s a { arrayOf s a with feeding := some k, step := 0 }

/-- Whether an array can take a tile: it feeds nothing, no re-run waits, and the tile's bank does not wait for a drain (R81,
R83). -/
def tileCanBegin (s : State) (a : Nat) (t : TileProgram) : Bool :=
  let r := arrayOf s a
  r.feeding.isNone && r.rerun.isEmpty && !fenced s a && !r.heldTest &&
    !r.drains.any fun k => match tileOfKey s k with | some d => d.bank == t.bank | none => false

/-- The waiting place empties; the change is seen two boundaries on (R134, R135). -/
def takeWaiting (s : State) (u k : Nat) (running : Bool) : State :=
  setUnit s u { waiting := none, freeFrom := slot s + 2, running := if running then some k else none, progress := 0 }

/-- A launch begins on its unit. -/
def beginStep (s : State) (u : Nat) : State :=
  match (unitOf s u).waiting with
  | none => s
  | some k =>
    match launchOf s k with
    | none => s
    | some l =>
      if stopFor s k then s
      else
        match l.kind with
        | .tile =>
          match tileOf s l with
          | some t => if tileCanBegin s u t then beginTile (takeWaiting s u k false) u k t else s
          | none => s
        | .vector =>
          if (unitOf s u).running.isSome || veFenced s (u - 512) then s
          else
            match vectorOf s l with
            | some v => runVector (takeWaiting s u k true) (u - 512) k v
            | none => s
        | _ => if (unitOf s u).running.isSome then s else takeWaiting s u k true

/-- LAUNCH_BEGIN (R135, R141; a vector program runs here, R112 to R117). -/
def execLaunchBegin (u : Nat) (s : State) : Host.Outcome State Fault Refusal := settle s (beginStep s u)

/-! ### ARRAY_STEP -/

/-- The next tile that an array has to run again, if it feeds nothing (R89). -/
def startRerun (s : State) (a : Nat) : State :=
  let r := arrayOf s a
  match r.feeding, r.rerun with
  | none, k :: ks =>
    let s := setArray s a { r with feeding := some k, step := 0, rerun := ks }
    match tileOfKey s k with
    | some t => setBank s a t.bank { bankOf s a t.bank with tiles := (bankOf s a t.bank).tiles ++ [k] }
    | none => s
  | _, _ => s

/-- The feed of a tile ends: its bank waits for its drain, or the tile is ready to complete (R82). -/
def endFeed (s : State) (a k : Nat) (t : TileProgram) : State :=
  let r := arrayOf s a
  let s := setArray s a { r with feeding := none, step := 0, lastFeed := slot s,
                                 drains := if t.drain.isSome then r.drains ++ [k] else r.drains,
                                 ready := if t.drain.isSome then r.ready else r.ready ++ [k] }
  startRerun s a

/-- Groups that a quiet array skips at the present step (R97); `fuel` counts the groups left. -/
def skipGroups : Nat → State → Nat → Nat → TileProgram → State
  | 0, s, _, _, _ => s
  | n + 1, s, a, k, t =>
    let r := arrayOf s a
    let gs := t.a.deliver.groupSteps
    let g := t.a.deliver.group
    if r.step % gs = 0 && decide (r.step < kLength t.a.deliver t.k) && skipGroup s a k t (r.step / gs * g) g then
      let bk := bankOf s a t.bank
      let s := setBank s a t.bank { bk with n := bk.n + 1, red := bk.red + g }
      let s := setArray s a { r with step := r.step + gs }
      skipGroups n (bumpF s F.ARR_GROUP_SKIPPED_count 1) a k t
    else s

/-- One bit of an accumulator entry flipped: the cell fault that the check lines detect (R84). -/
def flipEntry (s : State) (a b : Nat) (u : Upset) : State :=
  let bk := bankOf s a b
  let c := 128 * (u.row % 32) + u.col % 128
  setBank s a b { bk with entry := FMap.set 0 bk.entry c (FMap.get 0 bk.entry c ^^^ (1#32 <<< (u.bitNo % 32))) }

/-- Whether the bank of a tile has reached an intermediate check (R88). -/
def checkDue (s : State) (a : Nat) (t : TileProgram) : Bool :=
  let bk := bankOf s a t.bank
  decide (bk.steps / getF s F.ARR_ENVELOPE_check_interval > bk.checked / getF s F.ARR_ENVELOPE_check_interval)

/-- A dummy step: an array with an issue level fills a step that has no useful feed (R94, R96). -/
def dummyStep (s : State) (a : Nat) : State :=
  if (arrayOf s a).level = 0 then s else bumpF s F.ARR_STEP_DUMMY_count 1

/-- One feed step of a tile: at the last step of a group, the group enters the bank (R57, R71). -/
def usefulStep (s : State) (a k : Nat) (t : TileProgram) (upset : Option Upset) : State :=
  let r := arrayOf s a
  let gs := t.a.deliver.groupSteps
  let s := bumpF s F.ARR_STEP_USEFUL_count 1
  let s := if (r.step + 1) % gs = 0 then feedGroup s a k t (r.step / gs) else s
  let s := match upset with | some u => flipEntry s a t.bank u | none => s
  let bk := bankOf s a t.bank
  let s := setBank s a t.bank { bk with steps := bk.steps + 1 }
  let s := setArray s a { r with step := r.step + 1, lastFeed := slot s }
  if r.step + 1 ≥ kLength t.a.deliver t.k then endFeed s a k t else s

/-- One handshake cycle of an array (R71): a fenced or held array takes no step; an issue cap of 0 holds the feed back as a ramp
stall (R98, R363); a bank that has reached an intermediate check pauses. -/
def arrayStep (s : State) (a : Nat) (upset : Option Upset) : State :=
  if fenced s a || (arrayOf s a).heldTest then s
  else
    match (arrayOf s a).feeding with
    | none => dummyStep s a
    | some k =>
      match tileOfKey s k with
      | none => s
      | some t =>
        if getF s F.PWR_GOV_cap = 0 then bumpF s F.ARR_RAMP_STALL_count 1
        else if checkDue s a t then dummyStep s a
        else
          let s := skipGroups (t.k / t.a.deliver.group) s a k t
          if (arrayOf s a).step ≥ kLength t.a.deliver t.k then endFeed s a k t else usefulStep s a k t upset

/-- ARRAY_STEP (R71). -/
def execArrayStep (a : Nat) (upset : Option Upset) (s : State) : Host.Outcome State Fault Refusal :=
  settle s (arrayStep s a upset)

/-! ### Comparison, R85 -/

/-- What a comparison of one line finds: pass, pass with an infinite magnitude accumulator, mismatch (Table 3.5). -/
inductive LineResult where
  | pass | skipped | mismatch
  deriving DecidableEq, Repr

/-- The float criterion of Table 3.5: X, S and N of one line of a bank of n groups. -/
def floatLine (n : Nat) (x sm mag : Num) : LineResult :=
  match x, sm with
  | .nan, .nan => .pass
  | .inf a, .inf b => if a = b then .pass else .mismatch
  | .fin p, .fin q =>
    match mag with
    | .inf _ => .skipped
    | .nan => .mismatch
    | .fin m => if ((p - q).natAbs : Int) * 2 ^ 24 ≤ (2 * (n : Int) + 8) * m then .pass else .mismatch
  | _, _ => .mismatch

/-- The comparison of column j (check row). -/
def columnLine (bk : Bank) (j : Nat) : LineResult :=
  let sm := Num.sum ((List.range 32).map fun i => ofF32 (FMap.get 0 bk.entry (128 * i + j)))
  if bk.intEq then if sm = .fin (FMap.get 0 bk.rowE j) then .pass else .mismatch
  else floatLine bk.n (ofF32 (FMap.get 0 bk.rowX j)) (ofF32 (toF32 sm)) (ofF32 (FMap.get 0 bk.rowN j))

/-- The comparison of row i (check column). -/
def rowLine (bk : Bank) (i : Nat) : LineResult :=
  let sm := Num.sum ((List.range 128).map fun j => ofF32 (FMap.get 0 bk.entry (128 * i + j)))
  if bk.intEq then if sm = .fin (FMap.get 0 bk.colE i) then .pass else .mismatch
  else floatLine bk.n (ofF32 (FMap.get 0 bk.colX i)) (ofF32 (toF32 sm)) (ofF32 (FMap.get 0 bk.colN i))

/-- The first failing line of a bank: false with a column, true with a row. -/
def failingLine (bk : Bank) : Option (Bool × Nat) :=
  match (List.range 128).find? fun j => columnLine bk j == .mismatch with
  | some j => some (false, j)
  | none => ((List.range 32).find? fun i => rowLine bk i == .mismatch).map fun i => (true, i)

/-- Comparisons of a bank passed with an infinite magnitude accumulator. -/
def skippedLines (bk : Bank) : Nat :=
  ((List.range 128).filter fun j => columnLine bk j == .skipped).length
    + ((List.range 32).filter fun i => rowLine bk i == .skipped).length

/-! ### Fences, R89 to R92 -/

/-- An array fenced: its bit, fence_changed, and a BIST slice requested (R399); when all four arrays of the cluster are fenced,
cluster_lost and HOLD cause 5 (R90). -/
def fenceArray (s : State) (a : Nat) : State :=
  let off := Off.ARR_FENCED (a / 64)
  let s := setReg s off (getReg s off ||| BitVec.ofNat 64 (2 ^ (a % 64)))
  let s := setF s F.ARR_STATUS_fence_changed 1
  let s := requestActivity s ⟨0, 0, a⟩
  if (arrayOrder a).all (fenced s) then
    holdFault (flag s F.ARR_STATUS_cluster_lost 4) 0x0E 5 (a / 8) a 0
  else s

/-- The tiles of a fenced array that run again on its substitute: those of the failed bank in plan order, what it feeds, and
what waits for it (R89). -/
def moveTiles (s : State) (a : Nat) (bank : Nat) (failed : Nat) : State :=
  let r := arrayOf s a
  let tiles := ((bankOf s a bank).tiles ++ [failed] ++ r.feeding.toList ++ r.rerun ++ (unitOf s a).waiting.toList).eraseDups
  let s := setUnit s a { unitOf s a with waiting := none, freeFrom := slot s + 2 }
  let s := setArray s a { r with feeding := none, step := 0, rerun := [], drains := r.drains.filter (fun k => k != failed) }
  let s := setBank s a bank Bank.clear
  { s with arr := { s.arr with restarts := FMap.set [] s.arr.restarts a (FMap.get [] s.arr.restarts a ++ tiles) } }

/-- A failed comparison (R89): the record of Table 3.11, the fence, the fault 0x0B, and the tiles to run again. -/
def mismatch (s : State) (a bank key : Nat) (row : Bool) (idx : Nat) (point intEq injected : Bool) : State :=
  let s := setReg s Off.ARR_LAST_MISMATCH (BitVec.ofNat 64
    (a + 2 ^ 9 * b2n row + 2 ^ 10 * idx + 2 ^ 17 * b2n point + 2 ^ 18 * b2n intEq + 2 ^ 19 * b2n injected))
  let s := setF s F.ARR_LAST_MISMATCH_SLOT_slot (slot s)
  let s := bumpF s F.ARR_MISMATCH_CNT_count 1
  let s := flag s F.ARR_STATUS_mismatch_seen 4
  let s := logFault s 0x0B 1 (a / 8) a 0
  fenceArray (moveTiles s a bank key) a

/-- A comparison of a bank: an injected mismatch first (Table 3.15), then the criteria. The answer says whether it passed. -/
def compareBank (s : State) (a bank key : Nat) (point : Bool) : State × Bool :=
  let bk := bankOf s a bank
  match (arrayOf s a).inject with
  | some row => (mismatch (setArray s a { arrayOf s a with inject := none }) a bank key row 0 point bk.intEq true, false)
  | none =>
    match failingLine bk with
    | some (row, idx) => (mismatch s a bank key row idx point bk.intEq false, false)
    | none => (bumpF s F.ARR_CHECK_SKIP_CNT_count (skippedLines bk), true)

/-- An intermediate check of the bank that an array feeds (R88). -/
def intermediateStep (s : State) (a : Nat) : State :=
  match (arrayOf s a).feeding with
  | none => s
  | some k =>
    match tileOfKey s k with
    | none => s
    | some t =>
      if checkDue s a t then
        let (s, ok) := compareBank s a t.bank k true
        if ok then
          let bk := bankOf s a t.bank
          setBank s a t.bank { bk with checked := bk.steps }
        else s
      else s

/-- INTERMEDIATE_CHECK (R88). -/
def execIntermediateCheck (a : Nat) (s : State) : Host.Outcome State Fault Refusal := settle s (intermediateStep s a)

/-! ### DRAIN -/

/-- The value of an entry through stages 2 to 4 (Table 4.5). -/
def stagesTo4 (s : State) (d : DrainProgram) (v : Word32) (i j : Nat) : Word32 :=
  let v := match d.alpha with | some al => f32Mul v al | none => v
  let v := match d.bias with | some b => f32Add v (rdWord32 s (b + 4 * j)) | none => v
  match d.s0 with
  | some o => f32Add v (elemF32 s o.fmt o.addr (o.row0 + i) (o.col0 + j))
  | none => v

/-- The value of an entry after stage 6. -/
def stage6 (s : State) (d : DrainProgram) (v : Word32) (i j : Nat) : Word32 :=
  match d.fn with
  | some g =>
    let s1 := match d.s1 with | some o => elemF32 s o.fmt o.addr (o.row0 + i) (o.col0 + j) | none => 0
    drainStage g v s1
  | none => v

/-- The row statistics record of one row (R124): maximum, sum, sum of squares over the unmasked columns, and their number. -/
def rowStats (vs : List Word32) : List Byte :=
  let pad := fun (xs : List Word32) => xs ++ List.replicate (128 - xs.length) 0
  leBytes 4 (vs.foldl f32Max (vs.headD 0)).toNat ++ leBytes 4 (f32PairSum 7 (pad vs)).toNat
    ++ leBytes 4 (f32PairSum 7 (pad (vs.map fun v => f32Mul v v))).toNat ++ leBytes 4 vs.length

/-- The launches of a pass, or of an iteration for a launch outside any pass, that write the frond at an address. -/
def writersOf (s : State) (k addr : Nat) : List Nat :=
  let ks := match passKey s k with
    | some p => passLaunches s p
    | none => [k]
  ks.filter fun j => match launchOf s j with
    | some l => (outputsOf s l).any fun o => o.addr == addr
    | none => false

/-- The header of a frond written by a drain or a vector program (R172). -/
def outHeader (o : Output) (step : Nat) : Header :=
  ⟨o.frondId, o.fmt, o.cls, false, BitVec.ofNat 64 step, 0, o.tensorId, o.tile, 0⟩

/-- An output that reads as its own flat index from a base in frond order (R450). -/
def Output.fromBase (o : Output) (base : Nat) : Output :=
  { o with tensorRow0 := o.row0, tensorCol0 := base + o.col0, tensorCols := o.fmt.rowElems }

/-- The shard whose residual buffers hold a frond. -/
def resShard (s : State) (id : Nat) : Option Shard :=
  (ownShards s).find? fun h => h.residual && decide (h.resFirst ≤ id) && decide (id < h.resFirst + 2 * h.resCount)

/-- A residual output goes to buffer 1 - (t mod 2), keyed by elem_base + e (R201, R450). -/
def finalRes (s : State) (o : Output) : Output :=
  match resShard s o.frondId with
  | some h =>
    let x := (o.frondId - h.resFirst) % h.resCount
    let id := h.resFrond (1 - resBuffer s) x
    Output.fromBase { o with frondId := id, addr := homeOf s id } (h.elemBase + 32768 * x)
  | none => o

/-- A primary output that is a reduced gradient draws by elem_base + e (R450). -/
def finalGrad (s : State) (o : Output) : Output :=
  match (ownShards s).find? fun h => decide (h.gradFirst ≤ o.frondId) && decide (o.frondId < h.gradFirst + h.gradCount) with
  | some h => Output.fromBase o (h.elemBase + 65536 * (o.frondId - h.gradFirst))
  | none => o

/-- A side input that is a residual reads buffer t mod 2 (R201). -/
def finalSide (s : State) (i : SideInput) : SideInput :=
  match resShard s (headerAt s i.addr).frondId with
  | some h => { i with addr := homeOf s (h.resFrond (resBuffer s) (((headerAt s i.addr).frondId - h.resFirst) % h.resCount)) }
  | none => i

/-- A drain as it runs: where final quantisation takes place in the backward drain, its residual buffers follow t and its
draws follow R450. -/
def finalDrain (s : State) (d : DrainProgram) : DrainProgram :=
  if finalAtDrain s then
    { d with s0 := d.s0.map (finalSide s), primary := finalGrad s d.primary, residual := d.residual.map (finalRes s) }
  else d

/-- loss_nonfinite: an element of a loss-watched output is NaN or infinite (R202). -/
def watchLoss (s : State) (o : Output) : State :=
  if o.lossWatched && (List.range o.fmt.elems).any fun e => !(elemAt s o.fmt o.addr (e / o.fmt.rowElems) (e % o.fmt.rowElems)).isFin
  then { s with trn := { s.trn with lossBad := true } } else s

/-- A frond whose writers have all released their output is sealed with its check (R87); an in-place accumulation target then
waits for the reduce adder (R105, R196). A frond homed in the frond table is no longer poisoned once it is written whole. -/
def sealOutput (s : State) (k : Nat) (o : Output) : State :=
  let ws := writersOf s k o.addr
  if ws.all fun j => j == k || (runOf s j).released then
    let step := runStep s k
    let s := sealAt (writeHeader s o.addr (outHeader o step)) o.addr
    let e := ftGet s o.frondId
    let s := if e.valid && e.home == o.addr && e.poisoned then ftSet s o.frondId { e with poisoned := false } else s
    let s := watchLoss s o
    match o.acc with
    | some t => { s with trn := { s.trn with adds := s.trn.adds ++ [⟨o.addr, t, ws, o, step⟩] } }
    | none => s
  else s

/-- The row values of a drain before conversion, unmasked columns only. -/
def drainRow (s : State) (bk : Bank) (d : DrainProgram) (cols i : Nat) : List Word32 × List Word32 :=
  let tap := (List.range cols).map fun j => stagesTo4 s d (FMap.get 0 bk.entry (128 * i + j)) i j
  (tap, tap.zipIdx.map fun x => stage6 s d x.1 i x.2)

/-- The residual v - decode(q), formed exactly and rounded once in mode 1 by the conversion into BF16 (R123). -/
def residualRow (s : State) (o : Output) (i : Nat) (vs : List Word32) : List Num :=
  vs.zipIdx.map fun x =>
    let q := elemAt s o.fmt o.addr (o.row0 + i) (o.col0 + x.2)
    (ofF32 x.1).add q.neg

/-- One row of a drain released: stash tap, row statistics, primary output, residual (Table 4.5). In recompute mode the stash
taps are disabled (R229). -/
def releaseRow (s : State) (k : Nat) (t : TileProgram) (d : DrainProgram) (bk : Bank) (tapOn : Bool) (i : Nat)
    (acc : List (List Nat)) : State × List (List Nat) :=
  let seed := jobSeed s
  let n := runStep s k
  let (tap, vs) := drainRow s bk d t.cols i
  let (s, c1) := match d.stash with
    | some o => if tapOn then writeOutRow s o seed n i t.cols (fun j => ofF32 (tap.getD j 0)) else (s, zeroCounts)
    | none => (s, zeroCounts)
  let s := match d.rowStats with | some a => wr s (a + 16 * i) (rowStats vs) | none => s
  let (s, c0) := writeOutRow s d.primary seed n i t.cols (fun j => ofF32 (vs.getD j 0))
  let (s, c2) := match d.residual with
    | some o =>
      let rs := residualRow s d.primary i vs
      writeOutRow s { o with stoch := true } seed n i t.cols (fun j => rs.getD j (.fin 0))
    | none => (s, zeroCounts)
  (s, List.zipWith addCounts acc [c0, c1, c2])

/-- The BF16 subnormals among the side inputs that a drain reads for its rows (R62, R121). -/
def noteSides (s : State) (d : DrainProgram) (rows : List Nat) (cols : Nat) : State :=
  let codes := fun (o : SideInput) => rows.flatMap fun i => (List.range cols).map fun j => readCode s o.fmt o.addr (o.row0 + i) (o.col0 + j)
  let one := fun (v : State) (o : Option SideInput) => match o with | some o => noteReads v o.fmt (codes o) | none => v
  one (one s d.s0) (if d.fn.isSome then d.s1 else none)

/-- Whether the stash tap of a drain writes: not in a recompute block of a layer whose stash is not full (R229). -/
def tapOn (s : State) (k : Nat) : Bool :=
  match s.plan with
  | some p => !(p.layers.zipIdx.any fun y => (match launchOf s k with | some l => y.1.anchor == l.anchor && (blockLayer s k).isNone | none => false)
      && (match stashOf s (keyIter k) y.2 with | some q => !q.full | none => false))
  | none => true

/-- Every unmasked row of a drain converted and written, with the counts of the primary output, the stash tap and the residual. -/
def drainRows (s : State) (k : Nat) (t : TileProgram) (d : DrainProgram) (bk : Bank) : State × List (List Nat) :=
  ((List.range 32).filter (rowOn s k t)).foldl (fun (st : State × List (List Nat)) i => releaseRow st.1 k t d bk (tapOn s k) i st.2)
    (s, [zeroCounts, zeroCounts, zeroCounts])

/-- The outputs of a drain that count, with the place of their counts. -/
def drainOutputs (s : State) (k : Nat) (d : DrainProgram) : List (Output × Nat) :=
  (d.primary, 0) :: (if tapOn s k then d.stash.toList.map fun o => (o, 1) else []) ++ d.residual.toList.map fun o => (o, 2)

/-- The outputs of a drain released (R87, R127), with the counters of R62 and R63. -/
def releaseDrain (s : State) (a k : Nat) (t : TileProgram) (d : DrainProgram) : State :=
  let bk := bankOf s a t.bank
  let outs := drainOutputs s k d
  let s := breakSeal (noteSides s d ((List.range 32).filter (rowOn s k t)) t.cols) d.primary.addr
  let (s, cs) := drainRows s k t d bk
  let s := outs.foldl (fun s x =>
    let c := cs.getD x.2 zeroCounts
    noteOp (bumpNum s x.1.fmt c) k x.1.tensorId x.1.fmt c) s
  let s := setRun s k { runOf s k with released := true }
  let s := outs.foldl (fun s x => sealOutput s k x.1) s
  let bk := if d.clear then Bank.clear else { bk with steps := 0, checked := 0 }
  let s := setBank s a t.bank bk
  let r := arrayOf s a
  setArray s a { r with drains := r.drains.drop 1, ready := if d.primary.acc.isSome then r.ready else r.ready ++ [k] }

/-- The conversions of a drain whose comparison fails: the drain buffer is discarded, and the conversions count in the cumulative
counters alone (R62, R63, R87). `v` is the state before the comparison. -/
def countDiscarded (v : State) (a k : Nat) (t : TileProgram) (d : DrainProgram) (s : State) : State :=
  let cs := (drainRows v k t d (bankOf v a t.bank)).2
  (drainOutputs v k d).foldl (fun s x => bumpNum s x.1.fmt (cs.getD x.2 zeroCounts))
    (noteSides s d ((List.range 32).filter (rowOn v k t)) t.cols)

/-- Whether the side inputs of a drain are sealed (R121). -/
def sidesReady (s : State) (d : DrainProgram) : Bool :=
  (match d.s0 with | some o => isSealed s o.addr | none => true)
    && (match d.s1 with | some o => isSealed s o.addr | none => true)

/-- The oldest bank of an array that waits for its drain is read, compared and, when it passes, released (R120). -/
def drainStep (s : State) (a : Nat) (upset : Option Upset) : State :=
  match (arrayOf s a).drains with
  | [] => s
  | k :: _ =>
    match tileOfKey s k with
    | none => s
    | some t =>
      match t.drain with
      | none => s
      | some d =>
        let d := finalDrain s d
        if sidesReady s d then
          let s := match upset with | some u => flipEntry s a t.bank u | none => s
          let (u, ok) := compareBank s a t.bank k false
          if ok then releaseDrain u a k t d else countDiscarded s a k t d u
        else s

/-- DRAIN (R120). -/
def execDrain (a : Nat) (upset : Option Upset) (s : State) : Host.Outcome State Fault Refusal :=
  settle s (drainStep s a upset)

/-- A residue check of a drain stage fails (R128): steps 1 to 4 of R89, fault 0x0D in place of the mismatch record. -/
def drainFaultStep (s : State) (a : Nat) : State :=
  match (arrayOf s a).drains with
  | [] => s
  | k :: _ =>
    match tileOfKey s k with
    | none => s
    | some t => fenceArray (moveTiles (logFault s 0x0D 1 (a / 8) a 0) a t.bank k) a

/-- DRAIN_FAULT (R128). -/
def execDrainFault (a : Nat) (s : State) : Host.Outcome State Fault Refusal := settle s (drainFaultStep s a)

/-- The tiles that wait for a restart begin again on the substitute, with their bank cleared (R89, R90). -/
def restartTiles (s : State) (a : Nat) : State :=
  match FMap.get [] s.arr.restarts a, standIn s a with
  | k :: ks, some sub =>
    let s := { s with arr := { s.arr with restarts := FMap.set [] s.arr.restarts a [] } }
    let s := (k :: ks).foldl (fun s j => match tileOfKey s j with | some t => setBank s sub t.bank Bank.clear | none => s) s
    let r := arrayOf s sub
    startRerun (setArray s sub { r with rerun := r.rerun ++ k :: ks }) sub
  | _, _ => s

/-- TILE_RESTART (R89). -/
def execTileRestart (a : Nat) (s : State) : Host.Outcome State Fault Refusal := settle s (restartTiles s a)

/-! ### VECTOR_ENGINE_FAULT, PASS_RESTART, ARR_INJECT -/

/-- A vector engine fenced (R119): its waiting program goes to the other engine of the cluster, a BIST slice is requested, and
with both engines fenced the cluster is lost. -/
def fenceVe (s : State) (core : Nat) : State :=
  let s := { s with arr := { s.arr with veFenced := FMap.set false s.arr.veFenced core true } }
  let s := requestActivity s ⟨0, 1, core⟩
  match veFor s core with
  | some o =>
    match (unitOf s (512 + core)).waiting, (unitOf s (512 + o)).waiting with
    | some k, none =>
      let s := setUnit s (512 + core) { unitOf s (512 + core) with waiting := none, freeFrom := slot s + 2 }
      setUnit s (512 + o) { unitOf s (512 + o) with waiting := some k }
    | _, _ => s
  | none => holdFault (flag s F.ARR_STATUS_cluster_lost 4) 0x0E 5 (core / 4) core 0

/-- Parity or a residue check of a vector engine fails (R119): the fault, a fault stop of the pass it runs, the fence. -/
def veFault (s : State) (core : Nat) : State :=
  let s := logFault s 0x0C 1 (core / 4) core 0
  let u := unitOf s (512 + core)
  let ps := (u.running.toList ++ u.waiting.toList).filterMap (passKey s)
  let s := if ps.isEmpty then s else faultStop s ps.eraseDups
  fenceVe s core

/-- VECTOR_ENGINE_FAULT (R119). -/
def execVectorEngineFault (core : Nat) (s : State) : Host.Outcome State Fault Refusal := settle s (veFault s core)

/-- The layers of a restarted forward pass whose anchors stand decide again (R232). -/
def decideAgain (s : State) (p : Nat) : State :=
  match s.plan with
  | none => s
  | some pl =>
    pl.layers.zipIdx.foldl (fun s y =>
      if p < 2 ^ 68 && y.1.pass == p % 65536 && FMap.get 0 s.lch.anchors (p / 65536 * 65536 + y.1.anchor) != 0
          && !(passOf s p).aborted && (stashOf s (p / 65536) y.2).isNone then
        (stashDecision s (p / 65536) y.2 y.1).1 else s) s

/-- The restart boundary of the stopped passes (R104). -/
def restartAll (s : State) : State :=
  let ps := (FMap.keys s.lch.passes).filter fun p => (passOf s p).stopped
  ps.foldl decideAgain (restartPasses s)

/-- A restart waits while the module is in HOLD or a host stop is in force. -/
def passRestart (s : State) : State := if inHold s || stopInForce s then s else restartAll s

/-- PASS_RESTART (R104). -/
def execPassRestart (s : State) : Host.Outcome State Fault Refusal := settle s (passRestart s)

end Sys2Proof.Machine
end

