-- ==== Sys2Proof/Machine/Samples.lean ====
section
/-!
DEFINITION. Samples of the intake pipeline: descriptor fields (R290), the bounds check (R296), where the fronds of a batch lie
(R299, R300), the packing of text rows (R300), sample table entries (R295), corrupt samples with their event records (R301,
R302, R305).
-/

namespace Sys2Proof.Machine

/-! ### Descriptors, R290 -/

/-- A word of a sample descriptor. -/
def descWord (d : List Byte) (i : Nat) : Word := wordAt d i

/-- Fields of Table 11.1. -/
def descId (d : List Byte) : Word := wordAt d 0
def descPos (d : List Byte) : Nat := (wordAt d 1).toNat
def descStep (d : List Byte) : Nat := bits (wordAt d 2) 31 0
def descM (d : List Byte) : Nat := bits (wordAt d 2) 37 32
def descSlot (d : List Byte) : Nat := bits (wordAt d 2) 53 38
def descKind (d : List Byte) : Nat := bits (wordAt d 2) 57 54
def descPayload (d : List Byte) : Nat := 256 * bits (wordAt d 3) 39 0
def descBytes (d : List Byte) : Nat := bits (wordAt d 4) 31 0
def descWidth (d : List Byte) : Nat := bits (wordAt d 4) 47 32
def descHeight (d : List Byte) : Nat := bits (wordAt d 4) 63 48
def descTokens (d : List Byte) : Nat := bits (wordAt d 4) 63 32
def descCropX (d : List Byte) : Nat := bits (wordAt d 5) 15 0
def descCropY (d : List Byte) : Nat := bits (wordAt d 5) 31 16
def descCropW (d : List Byte) : Nat := bits (wordAt d 5) 47 32
def descCropH (d : List Byte) : Nat := bits (wordAt d 5) 63 48
def descFlip (d : List Byte) : Bool := bit (wordAt d 6) 0

/-- Colour value i of the twelve: c00 to c22, then o0 to o2. -/
def descColour (d : List Byte) (i : Nat) : Word32 := BitVec.ofNat 32 (leNat ((d.drop (56 + 4 * i)).take 4))

/-- The descriptor check (Table 11.1). -/
def descOk (d : List Byte) : Bool := (crc32c (d.take 120)).toNat == bits (wordAt d 15) 31 0

/-! ### The bounds check, R296 -/

/-- Whether the payload of a descriptor lies wholly in the payload area of the plan. -/
def inPayloadArea (s : State) (d : List Byte) : Bool :=
  match s.plan with
  | some p => decide (p.header.payloadBase ≤ descPayload d)
      && decide (descPayload d + descBytes d ≤ p.header.payloadBase + 256 * p.header.payloadGranules)
  | none => false

/-- The first five checks of Table 11.3, in order; 0 when all pass. -/
def boundsReason (s : State) (b : IntakeBatch) (d : List Byte) : Nat :=
  let k := descKind d
  let w := descWidth d
  let h := descHeight d
  let image := decide (k ≤ 1)
  if (if b.text then k ≠ 2 else ¬ k ≤ 1) then 12
  else if image && !(decide (1 ≤ w) && decide (w ≤ 16384) && decide (1 ≤ h) && decide (h ≤ 16384)) then 1
  else if image && decide (64 * descBytes d < w * h) then 2
  else if k = 0 && !(decide (1 ≤ descCropW d) && decide (1 ≤ descCropH d) && decide (descCropX d + descCropW d ≤ w)
      && decide (descCropY d + descCropH d ≤ h)) then 3
  else if k = 1 && !(w == b.w0 && h == b.h0 && descBytes d == b.w0 * b.h0 * 3 * (b.fmt.elemBits / 8)) then 4
  else if k = 2 && !(descBytes d == 4 * descTokens d && decide (1 ≤ descTokens d) && decide (descTokens d ≤ b.rows * b.rowLen)) then 4
  else if !inPayloadArea s d then 4
  else 0

/-- The payload of a descriptor. -/
def payloadOf (s : State) (d : List Byte) : List Byte := rd s (descPayload d) (descBytes d)

/-- The payload check of Table 11.3. -/
def payloadOk (s : State) (d : List Byte) : Bool := (crc32c (payloadOf s d)).toNat == bits (wordAt d 14) 31 0

/-! ### Where the fronds of a batch lie -/

/-- Width and height of a scale (R299). -/
def scaleDims (b : IntakeBatch) (sc : Nat) : Nat × Nat := (b.w0 / 2 ^ sc, b.h0 / 2 ^ sc)

/-- Fronds that one image takes across and down at a scale. -/
def scaleGrid (b : IntakeBatch) (sc : Nat) : Nat × Nat :=
  let (w, h) := scaleDims b sc
  ((3 * w + b.fmt.rowElems - 1) / b.fmt.rowElems, (h + b.fmt.rows - 1) / b.fmt.rows)

/-- Fronds that one image takes at a scale. -/
def perImage (b : IntakeBatch) (sc : Nat) : Nat := (scaleGrid b sc).1 * (scaleGrid b sc).2

/-- The number within its scale and the address of frond j of a slot at a scale: scale 0 of every slot comes first (R299). -/
def imageFrond (b : IntakeBatch) (sc i j : Nat) : Nat × Nat :=
  let before := (List.range sc).foldl (fun n t => n + b.count * perImage b t) 0
  let t := i * perImage b sc + j
  (t, b.out + (before + t) * b.fmt.footprint b.out)

/-- Bytes of the rows of a text batch. -/
def textBytes (b : IntakeBatch) : Nat := 8 * b.rowLen * b.rows

/-- Fronds of a text batch. -/
def textFronds (b : IntakeBatch) : Nat := (textBytes b + payloadLen - 1) / payloadLen

/-- The address of frond i of a text batch. -/
def textFrond (b : IntakeBatch) (i : Nat) : Nat := b.out + i * Fmt.fp32.footprint b.out

/-! ### Packing, R300 -/

/-- The sample filed for a slot of a step and micro-batch. -/
def filedOf (s : State) (step m slot0 : Nat) : Option Sample :=
  s.int.filed.find? fun x => x.step == step && x.m == m && x.slot == slot0

/-- The completed record of a slot. -/
def doneOf (s : State) (step m slot0 : Nat) : Option SlotDone :=
  s.int.slots.find? fun x => x.step == step && x.m == m && x.slot == slot0

/-- A placement of the packing: slot, position of its first token in the rows, tokens placed, segment index, and whether there was
room. -/
structure Placement where
  slot  : Nat
  start : Nat
  c     : Nat
  seg   : Nat
  room  : Bool
  deriving DecidableEq, Repr

/-- The placements of the slots of a batch in ascending order (R300). -/
def packSlots (s : State) (b : IntakeBatch) (step : Nat) : List Placement :=
  let l := b.rowLen
  ((List.range b.count).foldl (fun (st : List Placement × Nat × Nat × Nat) i =>
    let (out, row, col, seg) := st
    let c0 := match filedOf s step b.m (b.first + i) with
      | some x => if boundsReason s b x.desc = 0 then descTokens x.desc else 0
      | none => 0
    let (row, col, seg) := if 0 < c0 ∧ 0 < col ∧ l - col < c0 then (row + 1, 0, 0) else (row, col, seg)
    let room := decide (row * l + col + c0 ≤ b.rows * l)
    let c := if room then c0 else 0
    let at0 := row * l + col
    let e := at0 + c
    (out ++ [⟨b.first + i, at0, c, seg, room⟩], e / l, e % l, seg + 1)) ([], 0, 0, 0)).1

/-- The token record of token j of a placement (R300): a piece that starts a row takes segment 0. -/
def tokenRecord (b : IntakeBatch) (p : Placement) (j token : Nat) (loss : Bool) : Nat :=
  let at0 := p.start + j
  let pieceStart := if p.start / b.rowLen = at0 / b.rowLen then p.start % b.rowLen else 0
  let seg := if pieceStart = 0 then 0 else p.seg % 2 ^ 15
  token % 2 ^ 32 + 2 ^ 32 * (j % 65536) + 2 ^ 48 * seg + 2 ^ 63 * b2n loss

/-! ### Completed slots and corrupt samples -/

/-- The sample table entry of a slot (R295). -/
def writeEntry (s : State) (b : IntakeBatch) (x : SlotDone) : State :=
  wr s (b.table + 16 * (x.slot - b.first))
    (wordBytes [x.id.toNat, b2n (x.reason == 0) + 2 * x.reason + 2 ^ 32 * (x.weight % 2 ^ 32)])

/-- The event ring shows whether it is full (Table 11.8). -/
def showEvRing (s : State) : State :=
  let n := (getF s F.INT_EV_HEAD_head + 2 ^ 32 - getF s F.INT_EV_TAIL_tail) % 2 ^ 32
  setF s F.INT_STATUS_ev_ring_full (b2n (decide (2 ^ getF s F.INT_EV_SIZE_size ≤ n)))

/-- A sample turns corrupt (R301): its event record, the count, the registers and the event. -/
def corruptSample (s : State) (x : SlotDone) (pos : Nat) : State :=
  let (s, ok) := ringPut s (2 ^ 12 * getF s F.INT_EV_BASE_base) (getF s F.INT_EV_SIZE_size) 32 F.INT_EV_HEAD_head F.INT_EV_TAIL_tail
    (wordBytes [x.id.toNat, pos, x.step % 2 ^ 32 + 2 ^ 32 * x.m + 2 ^ 38 * x.slot + 2 ^ 54 * x.reason + 2 ^ 60 * 3, slot s])
  let s := if ok then showEvRing s else setF s F.INT_STATUS_ev_records_dropped 1
  let s := bumpF s F.INT_CORRUPT_CNT_count 1
  let s := setReg s Off.INT_LAST_CORRUPT x.id
  flag (setF s F.INT_STATUS_last_reason x.reason) F.INT_STATUS_corrupt_seen 9

/-- A slot completes, valid or corrupt (R294, R295, R301). -/
def finishSlot (s : State) (b : IntakeBatch) (x : SlotDone) (pos : Nat) : State :=
  let filed := s.int.filed.map fun f => if f.step = x.step ∧ f.m = x.m ∧ f.slot = x.slot then { f with done := true } else f
  let s := { s with int := { s.int with slots := s.int.slots ++ [x], filed := filed } }
  let s := bumpF (writeEntry s b x) F.INT_SAMPLES_CNT_count 1
  if x.reason = 0 then s else corruptSample s x pos

/-- The position field of a filed sample; 0 for a slot that has none. -/
def posOfSlot (s : State) (x : SlotDone) : Nat :=
  match filedOf s x.step x.m x.slot with | some f => descPos f.desc | none => 0

/-- Whether a slot of a batch has a pixel or a token in the frond at an address. -/
def slotTouches (s : State) (b : IntakeBatch) (step slot0 a : Nat) : Bool :=
  if b.text then
    (packSlots s b step).any fun p => p.slot == slot0 && decide (0 < p.c) &&
      (List.range (textFronds b)).any fun i => textFrond b i == a
        && decide (8 * p.start < payloadLen * (i + 1)) && decide (payloadLen * i < 8 * (p.start + p.c))
  else
    (List.range b.scales).any fun sc => (List.range (perImage b sc)).any fun j => (imageFrond b sc (slot0 - b.first) j).2 == a

/-- A batch fetch of an intake frond fails (R302): every valid sample with a part in it turns corrupt with reason 11 and weight 0; a
sample marked after the count has gone out poisons the gradient of its step (R304). -/
def markSamples (s : State) (step a : Nat) : State :=
  match s.plan with
  | none => s
  | some p =>
    p.intakes.foldl (fun s b =>
      let hit := s.int.slots.filter fun x => x.step == step && x.m == b.m && decide (b.first ≤ x.slot)
        && decide (x.slot < b.first + b.count) && x.reason == 0 && slotTouches s b step x.slot a
      hit.foldl (fun s x =>
        let y := { x with reason := 11, weight := 0 }
        let s := { s with int := { s.int with slots := s.int.slots.map fun z => if z = x then y else z } }
        let s := corruptSample (writeEntry s b y) y (posOfSlot s x)
        if step < s.int.sent then { s with trn := { s.trn with gradPoisoned := true } } else s) s) s

/-- The view of an intake frond that cannot be read: +0 elements under a view header with valid checks, sealed (R302). -/
def zeroView (s : State) (f : Fmt) (home d step : Nat) : State :=
  let h := { headerAt s home with frondId := 0xFFFFFFFF, view := true, fmt := f, cls := 7, step := BitVec.ofNat 64 step }
  let s := wr (breakSeal s d) d (List.replicate f.imageLen 0)
  sealAt (writeHeader s d h) d

end Sys2Proof.Machine
end

