-- ==== Sys2Proof/Machine/Memory.lean ====
section
/-!
DEFINITION. Moves, views, failed reads and the flash tier: MOVE_FROND, VIEW_COPY, FAILED_READ, SRAM_UNCORRECTABLE, VIEW_REMAKE,
PARTNER_FETCH_TIMEOUT, FLASH_PAGE_READ, PAGE_REBUILD, STRIPE_WRITE, LEDGER_STORE, ONFI_CHANNEL_FAIL, FLASH_WEAR_MOVE and
DRAM_SCRUB (R156 to R192, R443, R444).
-/

namespace Sys2Proof.Machine

/-! ### Partner fetches and poison, R188, R189 -/

/-- A frond poisoned (R188): its entry, the count, MEM_LAST_POISON with an outcome of Table 6.16, and the event. -/
def poisonFrond (s : State) (id outcome : Nat) : State :=
  let e := ftGet s id
  let s := ftSet s id { e with poisoned := true }
  let s := bumpF s F.MEM_POISON_CNT_count 1
  let s := setReg s Off.MEM_LAST_POISON (BitVec.ofNat 64 (id % 2 ^ 32 + 2 ^ 32 * (e.cls % 16) + 2 ^ 36 * outcome))
  flag s F.MEM_STATUS_poison_seen 6

/-- Whether the module has a partner (CHN_PARTNER, R264). -/
def hasPartner (s : State) : Bool := hasF s F.CHN_PARTNER_valid

/-- The reply to a partner request (R248): status 0 with the frond when its entry is valid, not poisoned and its check passes; 1
for a frond not held; 2 otherwise. -/
def answerRequest (s : State) (src id tag : Nat) : State :=
  let e := ftGet s id
  let head := fun (st : Nat) => wordBytes [id % 2 ^ 32 + 2 ^ 32 * (tag % 2 ^ 32), st]
  if !e.valid then postMsg s 0x14 src (head 1)
  else if e.poisoned || !checkOk s e.fmt e.home then postMsg s 0x14 src (head 2)
  else postMsg s 0x14 src (head 0 ++ frondImage s e.fmt e.home)

/-- The requests that waited for a frond that was in move are answered (R248). -/
def answerWaiting (s : State) : State :=
  let go := s.chn.reqs.filter fun r => !(ftGet s r.2.1).inMove
  let s := { s with chn := { s.chn with reqs := s.chn.reqs.filter fun r => (ftGet s r.2.1).inMove } }
  go.foldl (fun s r => answerRequest s r.1 r.2.1 r.2.2) s

/-- A fetch that fails: the frond is poisoned and the job enters HOLD, cause 7 (R189); a move that waited goes on. -/
def fetchFailed (s : State) (id : Nat) : State :=
  let s := { s with trn := { s.trn with fetches := s.trn.fetches.filter fun j => j.frond != id } }
  let s := poisonFrond s id 2
  let s := if (ftGet s id).inMove then ftSet s id { ftGet s id with inMove := false, dest := 0 } else s
  answerWaiting (holdFault s 0x10 7 (dieOf (homeOf s id)) 0 id)

/-- A partner fetch begins: the frond counts as not sealed and the request goes to the partner; without a partner it fails. -/
def partnerFetch (s : State) (id place : Nat) (move : Bool) : State :=
  if hasPartner s then
    let tag := s.trn.nextTag
    let step := (headerAt s (homeOf s id)).step
    let s := breakSeal s (homeOf s id)
    let s := { s with trn := { s.trn with fetches := s.trn.fetches ++ [⟨id, tag, place, step, slot s, move, getF s F.CHN_PARTNER_address, 0⟩],
                                          nextTag := (tag + 1) % 2 ^ 32 } }
    postMsg s 0x13 (getF s F.CHN_PARTNER_address) (wordBytes [id % 2 ^ 32 + 2 ^ 32 * tag, step.toNat])
  else fetchFailed s id

/-- Whether the loaded plan is a training plan. -/
def isTraining (s : State) : Bool := match s.plan with | some p => p.training | none => false

/-- The outcome of a failed read of a frond by class and plan kind (Table 6.11); `place` is where the read was bringing it. -/
def readOutcome (s : State) (id place : Nat) (move inPass : Bool) : State :=
  let e := ftGet s id
  match e.cls with
  | 0 | 1 | 2 => if isTraining s then partnerFetch s id place move else poisonFrond s id 0
  | 3 | 4 | 5 =>
    if isTraining s then
      let s := poisonFrond s id 1
      { s with trn := { s.trn with gradPoisoned := true } }
    else poisonFrond s id 3
  | 6 =>
    if inPass then faultStop s ((knownPasses s).filter (passInFlight s))
    else holdFault s 0x10 7 (dieOf e.home) 0 id
  | 7 => poisonFrond s id 3
  | 8 => (List.range 2).foldl (fun s k => setF s (F.UPD_SNAP_valid k) 0) s
  | _ => holdFault s 0x10 7 (dieOf e.home) 0 id

/-- The counters and records of a failed read (R188, Table 6.16, faults 0x0F to 0x11). -/
def countRead (s : State) (how : ReadFailure) (die channel addr detail : Nat) : State :=
  let s := setF s F.MEM_LAST_ERROR_ADDR_addr addr
  match how with
  | .stackEcc =>
    let s := bumpF s F.MEM_ECC_UNCORR_CNT_count 1
    let s := setReg s Off.MEM_LAST_ERROR (BitVec.ofNat 64 (1 + 16 * (die % 128) + 2 ^ 11 * (channel % 32)))
    runFault (flag s F.MEM_STATUS_uncorr_seen 6) 0x10 die channel detail
  | .sramEcc =>
    let s := bumpF s F.MEM_ECC_UNCORR_CNT_count 1
    let s := setReg s Off.MEM_LAST_ERROR (BitVec.ofNat 64 (2 + 16 * (die % 128)))
    runFault (flag s F.MEM_STATUS_uncorr_seen 6) 0x0F die 0 detail
  | .flashPage => runFault s 0x11 die channel detail
  | .checkMismatch =>
    let s := bumpF s F.MEM_CHECK_FAIL_CNT_count 1
    let s := setReg s Off.MEM_LAST_ERROR (BitVec.ofNat 64 (3 + 16 * (die % 128)))
    runFault s 0x10 die 0 detail

/-- A frond table copy that cannot be read (R179): the primary is rewritten from the mirror; with both unreadable, HOLD. -/
def tableRead (s : State) (id : Nat) (both : Bool) : State :=
  let s := setF s F.MEM_LAST_ERROR_kind 4
  let s := flag s F.MEM_STATUS_ft_fault 6
  if both then holdFault s 0x13 7 (64 + stackOf (ftPrimary s id)) 0 id
  else if id < ftCount s then wr s (ftPrimary s id) (rd s (ftMirror s id) 16) else s

/-- A failed read resolved by what it met (Table 6.11). -/
def failedRead (s : State) (t : ReadTarget) (how : ReadFailure) (die channel addr : Nat) (inPass : Bool) : State :=
  let s := countRead s how die channel addr (match t with | .frond id => id | .frondTable id _ => id | _ => 0)
  match t with
  | .frond id => if id < ftCount s && (ftGet s id).valid then readOutcome s id (homeOf s id) false inPass else s
  | .frondTable id both => tableRead s id both
  | .snapshot k => setF s (F.UPD_SNAP_valid (k % 2)) 0
  | .otherRegion _ => holdFault s 0x10 7 die channel 0

/-- FAILED_READ (R188). -/
def execFailedRead (t : ReadTarget) (how : ReadFailure) (die channel addr : Nat) (inPass : Bool) (s : State) :
    Host.Outcome State Fault Refusal := settle s (failedRead s t how die channel addr inPass)

/-- PARTNER_FETCH_TIMEOUT (R189): no copy within the plan's partner timeout, 390,625 slots when it gives 0. -/
def fetchTimeout (s : State) (id : Nat) : State :=
  let lim := match s.plan with | some p => if p.header.partnerTimeout = 0 then 390625 else p.header.partnerTimeout | none => 390625
  match s.trn.fetches.find? fun j => j.frond == id with
  | some j => if slot s ≥ j.start + lim then fetchFailed s id else s
  | none => s

def execPartnerFetchTimeout (id : Nat) (s : State) : Host.Outcome State Fault Refusal := settle s (fetchTimeout s id)

/-! ### Moves and views, R163 to R168 -/

/-- The destination of frond i of a move: the footprints of the fronds before it lie between (Table 6.3). -/
def moveDest (s : State) (m : MoveDesc) (i : Nat) : Nat :=
  (List.range i).foldl (fun a j => a + (ftGet s (m.first + j)).fmt.footprint a) m.dest

/-- The switch: home, move_seq, both copies; the destination is sealed (R163, R165, R179). -/
def switchHome (s : State) (id d : Nat) : State :=
  let e := ftGet s id
  let s := ftSet s id { e with home := d, inMove := false, dest := 0, seq := e.seq + 1 }
  sealAt (bumpF s F.MEM_MOVE_CNT_count 1) d

/-- KiB of a frond's footprint in the flash tier. -/
def flashKib (f : Fmt) : Nat := roundUp f.imageLen 4096 / 1024

/-- A read of the flash tier counted in MiB (Table 6.19). -/
def countFlashRead (s : State) (a kib : Nat) : State :=
  if flashBase ≤ a then
    let n := s.fls.readKib + kib
    setFmax { s with fls := { s.fls with readKib := n } } F.FLS_READ_mib (n / 1024)
  else s

/-- The move engine of a stack moves on by one frond (R165). -/
def moveOne (s : State) (u k : Nat) (m : MoveDesc) : State :=
  let i := (unitOf s u).progress
  if m.count ≤ i then s
  else
    let id := m.first + i
    let e := ftGet s id
    let d := moveDest s m i
    let next := fun (s : State) => setUnit s u { unitOf s u with progress := i + 1 }
    if !e.valid then rangeFault s (256 * id)
    else if e.home = d && !e.inMove then next s
    else if e.inMove then s
    else if flashBase ≤ d && decide (s.fls.granted < flashKib e.fmt) then s
    else
      let s := countFlashRead s e.home (flashKib e.fmt)
      let s := if flashBase ≤ d then { s with fls := { s.fls with granted := s.fls.granted - flashKib e.fmt } } else s
      let s := breakSeal s d
      if e.poisoned then
        next (switchHome (writeCheck (wr s d (poisonImage (headerAt s e.home))) e.fmt d) id d)
      else if checkOk s e.fmt e.home then
        next (switchHome (wr s d (frondImage s e.fmt e.home)) id d)
      else
        let s := ftSet s id { e with inMove := true, dest := d }
        let s := countRead s .checkMismatch (dieOf e.home) 0 e.home id
        let s := readOutcome s id d true (passKey s k).isSome
        if (ftGet s id).poisoned then
          next (switchHome (writeCheck (wr s d (poisonImage (headerAt s e.home))) e.fmt d) id d)
        else if s.trn.fetches.any (fun j => j.frond == id) then s
        else ftSet s id { ftGet s id with inMove := false, dest := 0 }

/-- The move that an engine runs. -/
def runningMove (s : State) (u : Nat) : Option (Nat × MoveDesc) :=
  match (unitOf s u).running with
  | some k => match launchOf s k with | some l => (moveOf s l).map fun m => (k, m) | none => none
  | none => none

/-- Whether moves stand still: a stop or HOLD (R167, R386). -/
def movesHeld (s : State) : Bool := stopInForce s || inHold s

/-- MOVE_FROND (R165). -/
def moveStep (s : State) (stack : Nat) : State :=
  match runningMove s (768 + stack) with
  | some (k, m) => if m.isView || movesHeld s then s else moveOne s (768 + stack) k m
  | none => s

def execMoveFrond (stack : Nat) (s : State) : Host.Outcome State Fault Refusal := settle s (moveStep s stack)

/-- The image of a view of a frond: its content under a view header with its own check (R168, Table 6.6). -/
def writeView (s : State) (f : Fmt) (home d : Nat) (poisoned : Bool) : State :=
  let h := { headerAt s home with frondId := 0xFFFFFFFF, view := true, fmt := f }
  let s := breakSeal s d
  let s := if poisoned then wr s d (poisonImage h) else wr s d (frondImage s f home)
  sealAt (writeHeader s d h) d

/-- One frond copied into a view (R168): it waits while the frond is in_move, and makes no switch. An intake frond that cannot be
read gives a view of +0 and marks its samples (R302). -/
def viewOne (s : State) (u k : Nat) (m : MoveDesc) : State :=
  let i := (unitOf s u).progress
  if m.count ≤ i then s
  else
    let id := m.first + i
    let e := ftGet s id
    if !e.valid then rangeFault s (256 * id)
    else if e.inMove then s
    else
      let s := countFlashRead s e.home (flashKib e.fmt)
      if e.cls = 7 && (e.poisoned || !checkOk s e.fmt e.home) then
        let s := if e.poisoned then s
          else readOutcome (countRead s .checkMismatch (dieOf e.home) 0 e.home id) id e.home false (passKey s k).isSome
        let s := zeroView (markSamples s (runStep s k) e.home) e.fmt e.home (moveDest s m i) (runStep s k)
        setUnit s u { unitOf s u with progress := i + 1 }
      else if e.poisoned || checkOk s e.fmt e.home then
        setUnit (writeView s e.fmt e.home (moveDest s m i) e.poisoned) u { unitOf s u with progress := i + 1 }
      else readOutcome (countRead s .checkMismatch (dieOf e.home) 0 e.home id) id e.home false (passKey s k).isSome

/-- VIEW_COPY (R168). -/
def viewStep (s : State) (stack : Nat) : State :=
  match runningMove s (768 + stack) with
  | some (k, m) => if !m.isView || movesHeld s then s else viewOne s (768 + stack) k m
  | none => s

def execViewCopy (stack : Nat) (s : State) : Host.Outcome State Fault Refusal := settle s (viewStep s stack)

/-! ### SRAM and views, R162, R444 -/

/-- The sealed places in SRAM with the format of what stands there. -/
def sramPlaceOf (s : State) (addr : Nat) : Option Nat :=
  (s.lch.seals.find? fun e => decide (sramBase ≤ e.1) && decide (e.1 ≤ addr)
      && decide (addr < e.1 + (headerAt s e.1).fmt.footprint e.1)).map (·.1)

/-- An uncorrectable SRAM read (R162): the count and fault 0x0F; a read by a unit of a pass stops the pass; a view is discarded
and made again (R444); outside any pass, Table 6.11 applies. -/
def sramStep (s : State) (addr : Nat) (inPass : Bool) : State :=
  let s := countRead s .sramEcc (sramDie addr) 0 addr 0
  let s := if inPass then faultStop s ((knownPasses s).filter (passInFlight s)) else s
  match sramPlaceOf s addr with
  | some a =>
    let h := headerAt s a
    if h.view then
      let s := breakSeal s a
      { s with trn := { s.trn with remake := if s.trn.remake.contains a then s.trn.remake else s.trn.remake ++ [a] } }
    else if inPass then s
    else if homeOf s h.frondId = a then readOutcome s h.frondId a false false
    else holdFault s 0x10 7 (sramDie addr) 0 0
  | none => if inPass then s else holdFault s 0x10 7 (sramDie addr) 0 0

/-- SRAM_UNCORRECTABLE (R162). -/
def execSramUncorrectable (addr : Nat) (inPass : Bool) (s : State) : Host.Outcome State Fault Refusal :=
  settle s (sramStep s addr inPass)

/-- A discarded view made again (R444): one of op 0x1 is copied again from the frond's home; one of a gather comes out bit for
bit as it was; a fetch that fails on every owner takes the job into HOLD. -/
def remakeStep (s : State) (a : Nat) (fetchOk : Bool) : State :=
  if s.trn.remake.contains a then
    let s := { s with trn := { s.trn with remake := s.trn.remake.filter (· != a) } }
    if fetchOk then
      let src := match s.plan with
        | some p => p.moves.findSome? fun m =>
            if m.isView then
              ((List.range m.count).find? fun i => moveDest s m i == a).map fun i => m.first + i
            else none
        | none => none
      match src with
      | some id => writeView s (ftGet s id).fmt (homeOf s id) a (ftGet s id).poisoned
      | none => sealAt s a
    else holdFault s 0x10 7 (sramDie a) 0 0
  else s

/-- VIEW_REMAKE (R444). -/
def execViewRemake (a : Nat) (fetchOk : Bool) (s : State) : Host.Outcome State Fault Refusal :=
  settle s (remakeStep s a fetchOk)

/-! ### The flash tier, R180 to R187 -/

/-- The channel of a logical page (R181). -/
def pageChannel (p : Nat) : Nat := (p / 31 + 1 + p % 31) % 32

/-- Whether a channel is fenced (R186). -/
def channelFenced (s : State) (h : Nat) : Bool := (getF s F.FLS_CH_FENCED_fenced).testBit h

/-- FLS_LAST_FAIL written: outcome 0 reread, 1 rebuilt, 2 failed. -/
def lastFail (s : State) (p outcome : Nat) : State :=
  setReg s Off.FLS_LAST_FAIL (BitVec.ofNat 64 (p % 2 ^ 33 + 2 ^ 33 * pageChannel p + 2 ^ 38 * outcome))

/-- A page read (R182 step 1): a page that decodes changes nothing; one that does not is reread up to 3 times; a page on a
fenced channel goes straight to a rebuild (R186). -/
def pageStep (s : State) (p : Nat) (decodes : Bool) (rereads : Nat) (rereadOk : Bool) : State :=
  let toRebuild := fun (s : State) => { s with fls := { s.fls with failed := (s.fls.failed.filter (· != p)) ++ [p] } }
  if channelFenced s (pageChannel p) then toRebuild s
  else if decodes then s
  else
    let s := bumpF s F.FLS_RETRY_CNT_count (if rereadOk then min 3 rereads else 3)
    if rereadOk then lastFail s p 0 else toRebuild s

/-- FLASH_PAGE_READ (R182). -/
def execFlashPageRead (p : Nat) (decodes : Bool) (rereads : Nat) (rereadOk : Bool) (s : State) :
    Host.Outcome State Fault Refusal := settle s (pageStep s p decodes rereads rereadOk)

/-- A page rebuilt from the other pages of its stripe (R182 steps 2 and 3); the failing block is marked for retirement. -/
def rebuildStep (s : State) (p : Nat) (othersOk : Bool) : State :=
  if s.fls.failed.contains p then
    let s := bumpF s F.FLS_REBUILD_CNT_count 1
    let s := { s with fls := { s.fls with failed := s.fls.failed.filter (· != p), retire := s.fls.retire ++ [p] } }
    let s := requestActivity s ⟨2, 0, 0⟩
    if othersOk && !hasF s F.FLS_STATUS_flash_closed then lastFail s p 1
    else
      let s := lastFail s p 2
      runFault (flag s F.FLS_STATUS_flash_poison_seen 6) 0x11 (92 + pageChannel p / 8) (pageChannel p) 0
  else s

/-- PAGE_REBUILD (R182). -/
def execPageRebuild (p : Nat) (othersOk : Bool) (s : State) : Host.Outcome State Fault Refusal :=
  settle s (rebuildStep s p othersOk)

/-- A write of whole stripes (R183) with the footprint of the demotion or snapshot data in it; relocations debit nothing. It
waits while the credit does not cover it, and it does not run with a channel fenced or the tier closed (R184 to R186). -/
def stripeStep (s : State) (mib : Nat) : State :=
  if hasF s F.FLS_STATUS_flash_closed || getF s F.FLS_CH_FENCED_fenced != 0 then s
  else if getF s F.FLS_CREDIT_mib < mib then setF s F.FLS_STATUS_credit_wait 1
  else
    let s := setF s F.FLS_STATUS_credit_wait 0
    let s := setF s F.FLS_CREDIT_mib (getF s F.FLS_CREDIT_mib - mib)
    let s := bumpF s F.FLS_WRITTEN_mib mib
    { s with fls := { s.fls with granted := s.fls.granted + 1024 * mib, debited := s.fls.debited + mib,
                                 written := s.fls.written + 1 } }

/-- STRIPE_WRITE (R183). -/
def execStripeWrite (mib : Nat) (s : State) : Host.Outcome State Fault Refusal := settle s (stripeStep s mib)

/-- The ledger stores the credit every time 64 GiB are debited and at least every 10 minutes, 2,343,750,000 slots (R185). -/
def ledgerStep (s : State) : State :=
  if s.fls.debited ≥ 65536 || slot s ≥ s.fls.storedAt + 2343750000 then
    { s with fls := { s.fls with stored := getF s F.FLS_CREDIT_mib, debited := 0, storedAt := slot s } }
  else s

/-- LEDGER_STORE (R185). -/
def execLedgerStore (s : State) : Host.Outcome State Fault Refusal := settle s (ledgerStep s)

/-- An ONFI channel fails (R186): fenced, flash_degraded after the first; after a second the tier closes. Fault 0x12. -/
def channelStep (s : State) (h : Nat) : State :=
  if channelFenced s h || 32 ≤ h then s
  else
    let old := getF s F.FLS_CH_FENCED_fenced
    let s := setF s F.FLS_CH_FENCED_fenced (old ||| 2 ^ h)
    let s := requestActivity s ⟨0, 3, h⟩
    let s := flag s F.FLS_STATUS_flash_degraded 6
    let s := logFault s 0x12 1 (92 + h / 8) h 0
    if old = 0 then s else flag s F.FLS_STATUS_flash_closed 6

/-- ONFI_CHANNEL_FAIL (R186). -/
def execOnfiChannelFail (h : Nat) (s : State) : Host.Outcome State Fault Refusal := settle s (channelStep s h)

/-- A wear move (R182, R183): live pages move to fresh stripes under their home addresses, and blocks retire. -/
def wearStep (s : State) (blocks : Nat) : State :=
  if hasF s F.FLS_STATUS_flash_closed then s
  else
    let s := setFmax s F.FLS_WEAR_retired (getF s F.FLS_WEAR_retired + blocks)
    endActivity { s with fls := { s.fls with retire := [], written := s.fls.written + 1 } } ⟨2, 0, 0⟩

/-- FLASH_WEAR_MOVE (R183). -/
def execFlashWearMove (blocks : Nat) (s : State) : Host.Outcome State Fault Refusal := settle s (wearStep s blocks)

/-- Scrub of one codeword (R160): a corrected codeword is counted and written back; what it holds does not change, and a
write-back behind a newer write is dropped. An SCR activity of the stack ends with it. -/
def scrubStep (s : State) (addr : Nat) (corrected newerWrite : Bool) : State :=
  let x : Activity := ⟨1, 0, stackOf addr⟩
  let s := if s.maint.running.contains x then endActivity s x else s
  if corrected then
    let s := bumpF s F.MEM_ECC_CORR_CNT_count 1
    if newerWrite then s else wr s (addr / 64 * 64) (rd s (addr / 64 * 64) 64)
  else s

/-- DRAM_SCRUB (R160). -/
def execDramScrub (addr : Nat) (corrected newerWrite : Bool) (s : State) : Host.Outcome State Fault Refusal :=
  settle s (scrubStep s addr corrected newerWrite)

end Sys2Proof.Machine
end

