-- ==== Sys2Proof/Machine/Records.lean ====
section
/-!
DEFINITION. Telemetry records: op records into the record ring (R63 to R66) and phase records into the timestamp ring (R143).
Telemetry never delays a launch.
-/

namespace Sys2Proof.Machine

/-- Whether the selection of NUM_SELECT and NUM_RANGE admits an op (R66). -/
def admitted (s : State) (n tid fmt : Nat) : Bool :=
  (getF s F.NUM_SELECT_format_mask).testBit fmt &&
    match getF s F.NUM_SELECT_rec_mode with
    | 1 => true
    | 2 => getF s F.NUM_SELECT_step_interval != 0 && n % getF s F.NUM_SELECT_step_interval == 0
    | 3 => decide (getF s F.NUM_RANGE_tensor_lo ≤ tid) && decide (tid ≤ getF s F.NUM_RANGE_tensor_hi)
    | _ => false

/-- The 64 bytes of an op record (Table 2.11). -/
def opRecordBytes (s : State) (n opIndex : Nat) (o : OpCount) : List Byte :=
  wordBytes ([slot s % 2 ^ 56 + 2 ^ 56 * (o.fmt % 16) + 2 ^ 60, o.tensorId % 2 ^ 32 + 2 ^ 32 * (n % 2 ^ 32), opIndex % 2 ^ 32]
    ++ o.counts.map (· % 2 ^ 64))

/-- The ring_full bits follow head and tail (Table 2.17, Table 5.13). -/
def showRings (s : State) : State :=
  let full := fun (size : Nat) (h t : Field) => decide ((getF s h + 2 ^ 32 - getF s t) % 2 ^ 32 ≥ 2 ^ size)
  let s := setF s F.NUM_STATUS_ring_full (b2n (full (getF s F.NUM_RING_SIZE_size) F.NUM_RING_HEAD_head F.NUM_RING_TAIL_tail))
  setF s F.LCH_STATUS_ts_ring_full
    (b2n (full (getF s F.LCH_TS_RING_SIZE_size) F.LCH_TS_RING_HEAD_head F.LCH_TS_RING_TAIL_tail))

/-- An op that completes: its record when admitted; on a full ring it is dropped and counted (R63, R65). -/
def opDone (s : State) (n opIndex : Nat) (o : OpCount) : State :=
  if admitted s n o.tensorId o.fmt then
    let (s, ok) := ringPut s (2 ^ 12 * getF s F.NUM_RING_BASE_base) (getF s F.NUM_RING_SIZE_size) 64
      F.NUM_RING_HEAD_head F.NUM_RING_TAIL_tail (opRecordBytes s n opIndex o)
    if ok then showRings s
    else setF (bumpF s F.NUM_STATUS_drop_count 1) F.NUM_STATUS_records_dropped 1
  else s

/-- The op index of an op formed outside any launch. -/
def noLaunch : Nat := 0xFFFFFFFF

/-- The ops of a completed launch recorded. -/
def launchOps (s : State) (k : Nat) : State :=
  (runOf s k).ops.foldl (fun s o => opDone s (runStep s k) (keyIdx k) o) s

/-- The cause with the most own slip, the lowest at a tie; 0xF for none (Table 5.6). -/
def mainCause (r : LaunchRun) : Nat :=
  if r.ownSlip = 0 then 0xF
  else ((List.range 8).foldl (fun (b : Nat × Nat) c =>
    if r.causes.getD c 0 > b.2 then (c, r.causes.getD c 0) else b) (0, r.causes.getD 0 0)).1

/-- The 32 bytes of a phase record (Table 5.6). -/
def phaseBytes (k : Nat) (l : Launch) (r : LaunchRun) : List Byte :=
  wordBytes [r.issueSlot % 2 ^ 56 + 2 ^ 56 * mainCause r + 2 ^ 61, r.doneSlot % 2 ^ 56,
    l.phaseId % 2 ^ 32 + 2 ^ 32 * (keyIter k % 2 ^ 32),
    min 0xFFFFFF r.slip + 2 ^ 24 * min 0xFFFFFF r.ownSlip + 2 ^ 48 * (l.anchor % 2 ^ 16)]

/-- The phase record of a completed launch with phase_marker set (R143). -/
def phaseDone (s : State) (k : Nat) (l : Launch) : State :=
  if l.phaseMarker then
    let (s, ok) := ringPut s (2 ^ 12 * getF s F.LCH_TS_RING_BASE_base) (getF s F.LCH_TS_RING_SIZE_size) 32
      F.LCH_TS_RING_HEAD_head F.LCH_TS_RING_TAIL_tail (phaseBytes k l (runOf s k))
    if ok then showRings s else setF s F.LCH_STATUS_ts_records_dropped 1
  else s

end Sys2Proof.Machine
end

