-- ==== Sys2Proof/Machine/Results.lean ====
section
/-!
DEFINITION. Result slots and step reports: RELEASE (R327 to R331).
-/

namespace Sys2Proof.Machine

/-- The first byte of result slot k. -/
def resultAddr (k : Nat) : Nat := resultArea + 4096 * k

/-- READY of a result slot. -/
def slotReady (s : State) (k : Nat) : Bool := bit (getReg s (Off.HST_RESULT_READY (k / 64))) (k % 64)

/-- The header bytes before the check (Table 12.11). -/
def resultHeader (s : State) (seq kind status : Nat) (id : Word) (len : Nat) : List Byte :=
  wordBytes [seq % 2 ^ 48 + 2 ^ 48 * kind + 2 ^ 52 * status + 2 ^ 63, id.toNat, len, slot s % 2 ^ 56, 0, 0, 0]

/-- A result written (R328): payload and header, READY, the sequence counter, the READY bit and the result-ready event. -/
def writeResult (s : State) (k kind status : Nat) (id : Word) (payload : List Byte) : State :=
  let seq := getF s F.HST_RESULT_SEQ_next
  let h := resultHeader s seq kind status id payload.length
  let s := wr s (resultAddr k) (h ++ leBytes 8 (crc32c (h ++ payload)).toNat ++ payload)
  let s := setF s F.HST_RESULT_SEQ_next (seq + 1)
  let s := setReg s (Off.HST_RESULT_READY (k / 64)) (getReg s (Off.HST_RESULT_READY (k / 64)) ||| BitVec.ofNat 64 (2 ^ (k % 64)))
  raise s 1

/-- The slots that accepted requests hold: rows in a queue, row copies under way, rows of batches without results. -/
def requestSlots (s : State) : List Nat :=
  s.arr.queues.flatMap fun q =>
    (q.2.rows ++ q.2.copying ++ (q.2.batches.filter fun b => !b.resultDone).flatMap (·.rows)).map (·.slot)

/-- The slot of the step report of step n (R331). -/
def reportSlot (s : State) (n : Nat) : Nat :=
  match s.plan with | some p => p.header.reportFirst + n % p.header.reportCount | none => 0

/-- Whether a slot is free for a request (R325). -/
def slotFree (s : State) (k : Nat) : Bool :=
  !slotReady s k && !(requestSlots s).contains k && !(s.host.reports.any fun r => reportSlot s r.n == k)

/-- Step reports that wait are written in step order, as long as the slot of the oldest is free; `fuel` counts the reports. -/
def flushReports : Nat → State → State
  | 0, s => s
  | n + 1, s =>
    match s.host.reports with
    | [] => s
    | r :: rs =>
      let k := reportSlot s r.n
      if slotReady s k || (requestSlots s).contains k then s
      else flushReports n (writeResult { s with host := { s.host with reports := rs } } k 2 0 (BitVec.ofNat 64 r.n) r.payload)

/-- A step report (R331): written, left to wait among at most 64, or dropped. -/
def stepReport (s : State) (n : Nat) (payload : List Byte) : State :=
  if s.host.reports.length < 64 then
    flushReports 65 { s with host := { s.host with reports := s.host.reports ++ [⟨n, payload⟩] } }
  else hostErr (bumpF s F.HST_REPORT_DROP_count 1) F.HST_ERR_STATUS_report_dropped

/-- A slot released: READY = 0, and every byte of the slot reads zero (R329, R330). -/
def releaseSlot (s : State) (k : Nat) : State :=
  let s := wr s (resultAddr k) (List.replicate 4096 0)
  let off := Off.HST_RESULT_READY (k / 64)
  let s := setReg s off (getReg s off &&& ~~~(BitVec.ofNat 64 (2 ^ (k % 64))))
  flushReports 65 s

/-- The release doorbell (R330). -/
def releaseStep (s : State) (k seq : Nat) : State :=
  if decide (k < 2048) && slotReady s k && leNat (rd s (resultAddr k) 6) == seq then releaseSlot s k
  else hostErr s F.HST_ERR_STATUS_release_error

/-- RELEASE (R330). -/
def execRelease (k seq : Nat) (s : State) : Host.Outcome State Fault Refusal := settle s (hostStep s fun s => releaseStep s k seq)

end Sys2Proof.Machine
end

