-- ==== Sys2Proof/Machine/Training.lean ====
section
/-!
DEFINITION. Gradients and the norm check: REDUCE_ADD, REDUCE_ADDER_FAULT, FINAL_QUANTISATION, NORM_MESSAGE_SEND, NORM_DECISION
and NORM_TIMEOUT (R193 to R204, R214 to R216, R450).
-/

namespace Sys2Proof.Machine

/-- The die of a stack. -/
def stackDie (q : Nat) : Nat := 64 + q

/-! ### The accumulation ledger, R196 -/

/-- The address of the accumulation record of a target frond. -/
def ledgerAddr (s : State) (f : Nat) : Option Nat :=
  match s.plan with
  | some p =>
    match p.stackDescs[stackOf (homeOf s f)]? with
    | some d => if d.ledgerFirst ≤ f ∧ f < d.ledgerFirst + d.ledgerCount then some (d.ledgerBase + 16 * (f - d.ledgerFirst)) else none
    | none => none
  | none => none

/-- Count and mask of a record; a record of another step reads as empty. -/
def ledgerGet (s : State) (f n : Nat) : Nat × Nat :=
  match ledgerAddr s f with
  | some a =>
    let w := rdWord s a
    if bits w 31 0 = n % 2 ^ 32 then (bits w 38 32, (rdWord s (a + 8)).toNat) else (0, 0)
  | none => (0, 0)

/-- A record written. -/
def ledgerSet (s : State) (f n count mask : Nat) : State :=
  match ledgerAddr s f with
  | some a => wr s a (wordBytes [n % 2 ^ 32 + 2 ^ 32 * count, mask])
  | none => s

/-! ### Frond writes of the base-die engines and link units -/

/-- The output record of a whole frond whose draws count from a base in frond order (R450). -/
def wholeOut (addr : Nat) (f : Fmt) (stoch : Bool) (tid id cls base : Nat) : Output :=
  { addr := addr, fmt := f, stoch := stoch, tensorId := tid, frondId := id, tile := 0, cls := cls, row0 := 0, col0 := 0,
    tensorRow0 := 0, tensorCol0 := base, tensorCols := f.rowElems, lossWatched := false, acc := none }

/-- A whole frond written from values in frond order, with its header and check, and sealed; the answer carries the counts. -/
def writeFrond (s : State) (o : Output) (n : Nat) (v : Nat → Num) : State × List Nat :=
  let re := o.fmt.rowElems
  let (s, cs) := (List.range o.fmt.rows).foldl (fun (st : State × List Nat) r =>
    let (t, k) := writeOutRow st.1 o (jobSeed s) n r re (fun j => v (re * r + j))
    (t, addCounts st.2 k)) (breakSeal s o.addr, zeroCounts)
  let s := writeHeader s o.addr (outHeader o n)
  (bumpNum (sealAt s o.addr) o.fmt cs, cs)

/-! ### REDUCE_ADD, R197 -/

/-- The launches whose outputs the reduce adder has added and that wait for no other addition turn ready on their arrays. -/
def readyKeys (s : State) (ks : List Nat) : State :=
  ks.foldl (fun s k =>
    if (runOf s k).released && !(s.trn.adds.any fun j => j.keys.contains k) then
      match launchOf s k with
      | some l =>
        match tileArray s k l with
        | some a =>
          let r := arrayOf s a
          if r.ready.contains k || (runOf s k).completed then s else setArray s a { r with ready := r.ready ++ [k] }
        | none => s
      | none => s
    else s) s

/-- The addition itself: the first micro-batch is taken block for block, a later one is added element by element in FP32 and
rounded into G8 in mode 1. -/
def addInto (s : State) (j : AddJob) (fresh : Bool) : State :=
  let t := homeOf s j.target.frond
  let seed := { frondId := j.target.frond, fmt := .g8, cls := 3, view := false, step := BitVec.ofNat 64 j.step, fragment := 0,
                tensorId := j.target.tensorId, tile := j.out.tile, check := 0 : Header }
  if fresh then
    let s := breakSeal s t
    let s := wr s t (rd s j.addr payloadLen)
    let s := wr s (t + payloadLen + 64) (rd s (j.addr + payloadLen + 64) (Fmt.g8.sideLen - 64))
    let s := if poisonedAt s j.addr then wr s (t + payloadLen + 64) (List.replicate (Fmt.g8.sideLen - 64) 0xFE#8) else s
    sealAt (writeHeader s t seed) t
  else
    let o := { j.out with addr := t, fmt := .g8, stoch := true, tensorId := j.target.tensorId, frondId := j.target.frond, cls := 3,
                          row0 := 0, col0 := 0, tensorRow0 := j.out.tensorRow0 - j.out.row0,
                          tensorCol0 := j.out.tensorCol0 - j.out.col0 }
    let vals := fun e => ofF32 (f32Add (flatF32 s .g8 t e) (flatF32 s .g8 j.addr e))
    let (s, cs) := writeFrond s o j.step vals
    match j.keys.getLast? with
    | some k => noteOp s k j.target.tensorId .g8 cs
    | none => s

/-- One sealed incoming frond handled (R197); additions to one target keep their order (R166). -/
def reduceStep (s : State) (i : Nat) : State :=
  match s.trn.adds[i]? with
  | none => s
  | some j =>
    if (s.trn.adds.take i).any fun e => e.target.frond == j.target.frond then s
    else
      let (count, mask) := ledgerGet s j.target.frond j.step
      let s :=
        if mask.testBit j.target.mb then bumpF s F.UPD_ACC_DUP_CNT_count 1
        else ledgerSet (addInto s j (count == 0)) j.target.frond j.step (count + 1) (mask ||| 2 ^ j.target.mb)
      readyKeys { s with trn := { s.trn with adds := s.trn.adds.eraseIdx i } } j.keys

/-- REDUCE_ADD (R197). -/
def execReduceAdd (i : Nat) (s : State) : Host.Outcome State Fault Refusal := settle s (reduceStep s i)

/-- A reduce adder residue failure, or an uncorrectable record (Table 7.12): the target is poisoned and the step will be
abandoned. -/
def adderFault (s : State) (f : Nat) : State :=
  let s := runFault s 0x1A (stackDie (stackOf (homeOf s f))) 0 f
  let s := poisonFrond s f 1
  { s with trn := { s.trn with gradPoisoned := true } }

/-- REDUCE_ADDER_FAULT (R221). -/
def execReduceAdderFault (f : Nat) (s : State) : Host.Outcome State Fault Refusal := settle s (adderFault s f)

/-! ### Pending slots, R215 and R216 -/

/-- The slots of a stack in use. -/
def pendOf (s : State) (q : Nat) : List Nat := (s.trn.pend.filter fun e => e.1 / 65536 == q).map fun e => e.1 % 65536

/-- in_use and high_water of a stack follow the slots. -/
def showPend (s : State) (q : Nat) : State :=
  let n := (pendOf s q).length
  let s := setF s (F.UPD_PENDING_in_use q) n
  setF s (F.UPD_PENDING_high_water q) (max n (getF s (F.UPD_PENDING_high_water q)))

/-- A free slot of a stack taken for a gradient frond, whose entry names the slot; none when every slot is in use. -/
def takePending (s : State) (q id : Nat) : Option State :=
  match s.plan with
  | none => none
  | some p =>
    match p.stackDescs[q]? with
    | none => none
    | some d =>
      match (List.range d.slotCount).find? fun k => !(pendOf s q).contains k with
      | none => none
      | some k =>
        let s := { s with trn := { s.trn with pend := s.trn.pend ++ [(65536 * q + k, id)] } }
        let s := ftSet s id { ftGet s id with home := d.pendingBase + 67840 * k, valid := true, poisoned := false, fmt := .g8, cls := 4 }
        some (showPend s q)

/-- Every pending slot freed, and the reduced gradients of the step discarded: at the commit or the decision of an abandonment
(R212, R214). -/
def freePending (s : State) : State :=
  let s := s.trn.pend.foldl (fun s e => ftSet s e.2 { ftGet s e.2 with valid := false }) s
  let s := { s with trn := { s.trn with pend := [], pendWait := false, zeroShards := [] } }
  (List.range 16).foldl showPend s

/-! ### FINAL_QUANTISATION, R199, R200 -/

/-- The key of a gradient frond of a shard. -/
def gradKey (h : Shard) (i : Nat) : Nat := 2 ^ 20 * h.id + i

/-- The local gradient frond of a gradient frond of a shard. -/
def localOf (s : State) (h : Shard) (i : Nat) : Nat :=
  match layoutOf s with
  | some y => match y.grads.find? fun g => g.shard == h.id && g.idx == i with | some g => g.localId | none => h.gradFirst + i
  | none => h.gradFirst + i

/-- The residual value of element e of a shard in a buffer. -/
def resElem (s : State) (h : Shard) (b e : Nat) : Word32 :=
  flatF32 s .bf16 (homeOf s (h.resFrond b (e / 32768))) (e % 32768)

/-- The BF16 subnormals among the residual elements of gradient frond i (R62). -/
def noteResidual (s : State) (h : Shard) (i : Nat) : State :=
  if h.residual then
    (List.range 2).foldl (fun v x =>
      let r := 2 * i + x
      if r < h.resCount then
        noteReads v .bf16 (frondCodes s .bf16 (homeOf s (h.resFrond (resBuffer s) r)) 0 (min 32768 (16384 * h.paramCount - 32768 * r)))
      else v) s
  else s

/-- Whether the object that counts backward passes has reached M × (i + 1) (Table 7.3, row 3): every backward pass of the
iteration has completed its last launch. -/
def backwardDone (s : State) : Bool :=
  match s.plan with
  | some p =>
    let iter := s.trn.cur - p.header.startStep
    let last := (List.range p.launches.length).filter fun i =>
      match p.launches[i]? with | some l => l.backward && l.passLast | none => false
    let objs : List (List Nat) := last.map fun i =>
      match p.launches[i]? with
      | some l => (l.signals.filter fun (g : SyncOp) => g.value == 1).map fun (g : SyncOp) => g.object
      | none => []
    match objs with
    | [] => true
    | o :: os =>
      match o.find? fun x => os.all fun y => y.contains x with
      | some x => decide (syncValue s x ≥ last.length * (iter + 1))
      | none => last.all fun i => (runOf s (planKey iter i)).completed
  | none => false

/-- The values s of R200 for a gradient frond, with the first flat index of its draws and the launch; none while they are not
known. The residual is added last. -/
def quantSource (s : State) (h : Shard) (i : Nat) : Option (List Word32 × Nat × Option Nat) :=
  if jobSize s = 1 then
    if !backwardDone s || s.trn.adds.any (fun j => j.target.frond == localOf s h i) then none
    else
      let f := localOf s h i
      let zero := (ledgerGet s f s.trn.cur).1 == 0
      let vals := (List.range 65536).map fun e =>
        let x := if zero then 0 else flatF32 s .g8 (homeOf s f) e
        if h.residual && decide (65536 * i + e < 16384 * h.paramCount) then f32Add x (resElem s h (resBuffer s) (65536 * i + e)) else x
      some (vals, h.elemBase + 65536 * i, none)
  else
    match s.trn.sums.find? fun r => r.shard == h.id && r.idx == i with
    | some r => some (r.vals, r.base, some r.key)
    | none => none

/-- The partial of one gradient frond: squares summed in pairs over 16 levels (R200). -/
def frondPartial (qs : List Word32) : Word32 := f32PairSum 16 (qs.map fun v => f32Mul v v)

/-- Whether every block of a G8 frond is a zero block. -/
def allZeroBlocks (s : State) (a : Nat) : Bool := (rd s (a + payloadLen + 64) (Fmt.g8.sideLen - 64)).all fun b => b == 0xFF#8

/-- The counts of a final quantisation: to the launch of the reduce step, or to the op outside any launch (R63). -/
def noteQuant (s : State) (key : Option Nat) (tid : Nat) (f : Fmt) (cs : List Nat) : State :=
  match key with
  | some k => noteOp s k tid f cs
  | none =>
    let q := s.trn.qops
    let q' := if q.any fun o => o.tensorId == tid then
        q.map fun o => if o.tensorId == tid then { o with counts := addCounts o.counts cs } else o
      else q ++ [⟨tid, f.code, cs⟩]
    { s with trn := { s.trn with qops := q' } }

/-- The new residual of a gradient frond: bf16(s - decode(q)) in mode 1 into buffer 1 - (t mod 2). -/
def writeResidual (s : State) (h : Shard) (i base : Nat) (key : Option Nat) (vals qs : List Word32) : State :=
  (List.range 2).foldl (fun s x =>
    let r := 2 * i + x
    if r < h.resCount then
      let id := h.resFrond (1 - resBuffer s) r
      let o := wholeOut (homeOf s id) .bf16 true h.resTid id 2 (base + 32768 * x)
      let (s, cs) := writeFrond s o s.trn.cur fun e =>
        (ofF32 (vals.getD (32768 * x + e) 0)).add (ofF32 (qs.getD (32768 * x + e) 0)).neg
      noteQuant s key h.resTid .bf16 cs
    else s) s

/-- The zero frond of a gradient: every block a zero block. -/
def writeZeroGrad (s : State) (h : Shard) (i : Nat) : State :=
  let id := h.gradFirst + i
  (writeFrond s (wholeOut (homeOf s id) .g8 true h.gradTid id (if h.flashHomed then 4 else 3) 0) s.trn.cur fun _ => .fin 0).1

/-- A pending slot for a frond of a flash-homed shard; while none is free the write waits (R216). -/
def placeGrad (s : State) (h : Shard) (i : Nat) : State × Bool :=
  if h.flashHomed then
    match takePending s h.stack (h.gradFirst + i) with
    | some t => ({ t with trn := { t.trn with pendWait := false } }, true)
    | none => (flag { s with trn := { s.trn with pendWait := true } } F.UPD_STATUS_pending_stall 7, false)
  else (s, true)

/-- One gradient frond quantised: q, residual, frond partial. A frond of zero blocks of a skip_zero flash-homed shard takes no
slot until another frond of the shard needs one (R218). -/
def quantOne (s : State) (h : Shard) (i : Nat) : State :=
  let key := gradKey h i
  if s.trn.quant.contains key then s
  else if finalAtDrain s then
    -- the drain has written q and the residual
    let a := homeOf s (h.gradFirst + i)
    if !isSealed s a || !backwardDone s then s
    else
      let image := frondImage s .g8 a
      let (s, ok) := if h.flashHomed && !(h.skipZero && allZeroBlocks s a) then placeGrad s h i else (s, true)
      if !ok then s
      else
        let b := homeOf s (h.gradFirst + i)
        let s := if b = a then s else sealAt (wr s b image) b
        let qs := (List.range 65536).map (flatF32 s .g8 b)
        { s with trn := { s.trn with quant := s.trn.quant ++ [key], partials := FMap.set 0 s.trn.partials key (frondPartial qs),
                                     zeroFr := if allZeroBlocks s b then s.trn.zeroFr ++ [key] else s.trn.zeroFr } }
  else
    match quantSource s h i with
    | none => s
    | some (vals, base, launch) =>
      let zero := vals.all (· == 0)
      let (s, ok) := if h.skipZero && zero then (s, true) else placeGrad s h i
      if !ok then s
      else
        let id := h.gradFirst + i
        let s := noteResidual s h i
        let s := if h.flashHomed && h.skipZero && zero then s
          else
            let o := wholeOut (homeOf s id) .g8 true h.gradTid id (if h.flashHomed then 4 else 3) base
            let (s, cs) := writeFrond s o s.trn.cur fun e => ofF32 (vals.getD e 0)
            noteQuant s launch h.gradTid .g8 cs
        let qs := if h.flashHomed && h.skipZero && zero then List.replicate 65536 0
          else (List.range 65536).map (flatF32 s .g8 (homeOf s id))
        let s := if h.residual then writeResidual s h i base launch vals qs else s
        { s with trn := { s.trn with quant := s.trn.quant ++ [key], partials := FMap.set 0 s.trn.partials key (frondPartial qs),
                                     zeroFr := if zero then s.trn.zeroFr ++ [key] else s.trn.zeroFr,
                                     sums := s.trn.sums.filter fun r => !(r.shard == h.id && r.idx == i) } }

/-- The partial of a shard: its frond partials added in ascending frond id (R200). -/
def shardPartial (s : State) (h : Shard) : Word32 :=
  match (List.range h.gradCount).map fun i => FMap.get 0 s.trn.partials (gradKey h i) with
  | [] => 0
  | x :: xs => xs.foldl f32Add x

/-- The fronds of zero blocks of a shard that is no zero shard take their slots after all. -/
def placeZeros (s : State) (h : Shard) : State × Bool :=
  (List.range h.gradCount).foldl (fun (st : State × Bool) i =>
    if st.2 && (st.1.trn.zeroFr.contains (gradKey h i)) && !(st.1.trn.pend.any fun e => e.2 == h.gradFirst + i) then
      let (t, ok) := placeGrad st.1 h i
      if ok then (writeZeroGrad t h i, true) else (t, false)
    else st) (s, true)

/-- A shard whose fronds are all quantised has its partial; it is a zero shard when skip_zero is set and every block is a zero
block (R218). Ops outside any launch are recorded. -/
def finishShard (s : State) (h : Shard) : State :=
  let all := (List.range h.gradCount).all fun i => s.trn.quant.contains (gradKey h i)
  if !all || s.trn.haveParts.contains h.id then s
  else
    let zeros := (List.range h.gradCount).all fun i => s.trn.zeroFr.contains (gradKey h i)
    let (s, ok) := if h.skipZero && !zeros && h.flashHomed then placeZeros s h else (s, true)
    if !ok then s
    else
      let s := { s with trn := { s.trn with haveParts := s.trn.haveParts ++ [h.id],
                                            zeroShards := if h.skipZero && zeros then s.trn.zeroShards ++ [h.id] else s.trn.zeroShards,
                                            normFrom := slot s + 1 } }
      let mine := s.trn.qops.filter fun o => o.tensorId == h.gradTid || o.tensorId == h.resTid
      let s := mine.foldl (fun s o => opDone s s.trn.cur noLaunch o) s
      { s with trn := { s.trn with qops := s.trn.qops.filter fun o => !(o.tensorId == h.gradTid || o.tensorId == h.resTid) } }

/-- The final quantisation of a shard goes on with every frond whose contributions are known. -/
def quantShard (s : State) (id : Nat) : State :=
  match (ownShards s).find? fun h => h.id == id with
  | some h => finishShard ((List.range h.gradCount).foldl (fun s i => quantOne s h i) s) h
  | none => s

/-- FINAL_QUANTISATION (R199, R200). -/
def execFinalQuantisation (id : Nat) (s : State) : Host.Outcome State Fault Refusal := settle s (quantShard s id)

/-! ### The norm message, R202 -/

/-- The module partial: partials of the owned shards added in ascending shard id; +0 with none (R202). -/
def modulePartial (s : State) : Word32 :=
  match (ownShards s).map (shardPartial s) with
  | [] => 0
  | x :: xs => xs.foldl f32Add x

/-- The iteration of the step whose decision is open. -/
def curIter (s : State) : Nat := match s.plan with | some p => s.trn.cur - p.header.startStep | none => 0

/-- pass_aborted: a pass of the step has aborted. -/
def passAborted (s : State) : Bool :=
  (FMap.keys s.lch.passes).any fun p => p / 65536 == curIter s && (passOf s p).aborted

/-- The module's norm message for the open step. -/
def ownNorm (s : State) : NormRec :=
  { step := s.trn.cur, source := myAddr s, position := myPos s, loss := s.trn.lossBad, grad := s.trn.gradPoisoned,
    abort := passAborted s, part := modulePartial s, stale := false }

/-- The body of Table 7.4. -/
def NormRec.body (r : NormRec) : List Byte :=
  wordBytes [r.step % 2 ^ 32 + 2 ^ 32 * (r.source % 64) + 2 ^ 38 * (r.position % 64) + 2 ^ 44 * b2n r.loss + 2 ^ 45 * b2n r.grad
    + 2 ^ 46 * b2n r.abort, 2 ^ 32 * r.part.toNat]

/-- Whether every owned shard has its partial. -/
def partsReady (s : State) : Bool := (ownShards s).all fun h => s.trn.haveParts.contains h.id

/-- Whether the norm message of the open step can go out: every partial known, and in a job of more than one module the
reduction-complete signal in effect (R202, R259). -/
def normReady (s : State) : Bool :=
  match s.plan with
  | some p =>
    p.training && partsReady s && backwardDone s &&
      (jobSize s == 1 || decide (syncValue s p.header.reduceObj ≥ curIter s + 1))
  | none => false

/-- A received or own norm message kept; the latest of each source and step counts (R272). -/
def keepNorm (s : State) (r : NormRec) : State :=
  { s with trn := { s.trn with norms := (s.trn.norms.filter fun x => !(x.source == r.source && x.step == r.step)) ++ [r] } }

/-- The norm message sent to every other member. -/
def normSend (s : State) : State :=
  if s.trn.normSent || !normReady s then s
  else
    let r := ownNorm s
    let since := if s.trn.normFrom = 0 then slot s + 1 else s.trn.normFrom
    let s := keepNorm { s with trn := { s.trn with normSent := true, normFrom := since } } r
    postAll s 0x11 (others s) fun _ => r.body

/-- NORM_MESSAGE_SEND (R202). -/
def execNormMessageSend (s : State) : Host.Outcome State Fault Refusal := settle s (normSend s)

/-! ### The norm decision, R203, R204 -/

/-- The norm message of a source for a step; in a dropped step only one that was sent after the loss report of its source counts
(R272). -/
def normOf (s : State) (src n : Nat) : Option NormRec :=
  let dropped := match s.chn.loss with | some l => (match l.dropped with | some m => decide (m ≤ n) | none => false) | none => false
  s.trn.norms.find? fun r => r.source == src && r.step == n && !(dropped && r.stale)

/-- The members whose messages of step n the decision waits for: every member, a lost one only in a kept step (R274). -/
def awaited (s : State) (n : Nat) : List Nat :=
  let ms := if (members s).isEmpty then [myAddr s] else members s
  ms.filter fun a => !isLost s a || (normOf s a n).isSome

/-- The local count of a source for step n. -/
def countOf (s : State) (src n : Nat) : Option Nat := (s.trn.counts.find? fun c => c.1 == src && c.2.1 == n).map (·.2.2)

/-- The divisor D of a step, once every count is in (R304): a module alone takes its own count. -/
def divisorOf (s : State) (n : Nat) : Option Nat :=
  let cs := (awaited s n).map fun a => countOf s a n
  if cs.all Option.isSome then some (cs.foldl (fun t c => t + c.getD 0) 0 % 2 ^ 64) else none

/-- The member whose norm message stands for a shard position of the module's own group: its owner, or the stand-in of a lost
owner (R274). -/
def positionPart (s : State) (n p : Nat) : Word32 :=
  let own := (awaited s n).find? fun a => groupOf s a == myGroup s && posOf s a == p
  let any := (awaited s n).find? fun a => posOf s a == p
  let stand := match s.chn.loss with | some l => if isLost s l.lost && posOf s l.lost == p then some l.standIn else none | none => none
  match own with
  | some a => match normOf s a n with | some r => r.part | none => 0
  | none =>
    match stand.orElse (fun _ => any) with
    | some a => match normOf s a n with | some r => r.part | none => 0
    | none => 0

/-- g2: partials of positions 0 to S - 1 added in ascending position (R203). -/
def gTwo (s : State) (n : Nat) : Word32 :=
  let c := match layoutOf s with | some y => y.s | none => 1
  match (List.range c).map (positionPart s n) with
  | [] => 0
  | x :: xs => xs.foldl f32Add x

/-- 1 / d rounded once into FP32, d > 0. -/
def invDivisor (d : Nat) : Word32 := toF32 (.fin ((2 ^ 600 / (d * 2 ^ 300) : Nat) : Int)) (decide (2 ^ 600 % (d * 2 ^ 300) ≠ 0))

/-- Outcome, norm and gscale of R203. -/
structure Decision where
  outcome : Nat
  norm    : Word32
  gscale  : Word32
  deriving DecidableEq, Repr

/-- The decision rule of R203. -/
def decide7 (h : PlanHeader) (abort loss grad : Bool) (g2 : Word32) (d : Nat) : Decision :=
  if abort then ⟨7, 0, 0⟩
  else if loss then ⟨3, 0, 0⟩
  else if grad || !f32Finite g2 then ⟨4, 0, 0⟩
  else if d = 0 then ⟨6, 0, 0⟩
  else
    let inv := invDivisor d
    let norm := f32Mul (f32Sqrt g2) inv
    if (ofF32 norm).le (ofF32 h.ceiling) then ⟨1, norm, inv⟩
    else if !h.policyAbandon then ⟨2, norm, f32Mul (f32Div h.ceiling norm) inv⟩
    else ⟨5, norm, 0⟩

/-- Whether step n takes digests: it commits and n is a multiple of the interval (R219). -/
def digestStep (s : State) (n : Nat) : Bool :=
  getF s F.UPD_DIGEST_interval != 0 && n % getF s F.UPD_DIGEST_interval == 0

/-- Whether the iteration holds an update sweep on the module. -/
def hasSweep (s : State) : Bool := match s.plan with | some p => p.launches.any fun l => l.kind == .sweep | none => false

/-- A committed step completes (R212): t rises, clipping is counted, slots free, and the digests and the snapshot that the step
owes are noted. -/
def commitStep (s : State) (n outcome : Nat) : State :=
  let s := bumpF s F.UPD_COMMITS_t 1
  let s := setF s F.UPD_LAST_OUTCOME_res_buffer (getF s F.UPD_COMMITS_t % 2)
  let s := if outcome = 2 then bumpF (setF s F.UPD_STATUS_clip_seen 1) F.UPD_CLIP_CNT_count 1 else s
  let s := freePending s
  let owed := if digestStep s n then (ownShards s).map (·.id) else []
  let s := match s.plan with
    | some p => if digestStep s n && owed.isEmpty then signal s p.header.digestObj 1 else s
    | none => s
  let s := if owed.isEmpty then s else runActivity s ⟨5, 0, 0⟩
  let iv := getF s F.UPD_SNAP_CFG_interval
  { s with trn := { s.trn with owed := owed, committed := n + 1,
                               snapOwed := if (iv != 0 && n % iv == 0) = true then some n else s.trn.snapOwed } }

/-- Data position after a step: one more than the largest position filed for it (R304). -/
def notePosition (s : State) (n : Nat) : State :=
  match FMap.get 0 s.int.top n with
  | 0 => s
  | p => setF s F.INT_POSITION_position p

/-- The payload of the step report (Table 12.12). -/
def reportPayload (s : State) (h : PlanHeader) (n d : Nat) (x : Decision) : List Byte :=
  leBytes 8 n ++ leBytes 4 x.outcome ++ leBytes 4 x.norm.toNat ++ leBytes 4 x.gscale.toNat ++ leBytes 4 0 ++ leBytes 8 d
    ++ leBytes 8 (getF s F.UPD_COMMITS_t) ++ leBytes 8 (getF s F.INT_POSITION_position) ++ leBytes 16 0
    ++ rd s h.reportBase (8 * h.reportWords)

/-- What an abandoned step leaves (Table 7.11): the event, the count, gradients and pending slots freed, stash released. -/
def abandonStep (s : State) : State :=
  let it := curIter s
  let s := bumpF (flag s F.UPD_STATUS_abandon_seen 7) F.UPD_ABANDON_CNT_count 1
  freePending (releaseStash s fun p _ => p.iter == it)

/-- The samples of a decided step are freed (R292), and its gradient records start anew. -/
def closeStep (s : State) (n : Nat) : State :=
  { s with trn := { s.trn with cur := n + 1, partials := [], haveParts := [], lossBad := false, normSent := false, normFrom := 0,
                               gradPoisoned := false, quant := [], zeroFr := [], sums := [], qops := [],
                               norms := s.trn.norms.filter fun r => decide (n < r.step),
                               counts := s.trn.counts.filter fun c => decide (n < c.2.1) },
           int := { s.int with filed := s.int.filed.filter fun x => decide (n < x.step),
                               slots := s.int.slots.filter fun x => decide (n < x.step) } }

/-- The decision taken (R203, R204): registers, signals, report, and what an abandonment or a step without sweeps does at once. -/
def takeDecision (s : State) (h : PlanHeader) (d : Nat) : State :=
  let n := s.trn.cur
  let rs := (awaited s n).filterMap fun a => normOf s a n
  let g2 := gTwo s n
  let x := decide7 h (rs.any (·.abort)) (rs.any (·.loss)) (rs.any (·.grad)) g2 d
  let s := setF (setF s F.UPD_LAST_OUTCOME_step n) F.UPD_LAST_OUTCOME_outcome x.outcome
  let s := setF s F.HST_PLAN_PROGRESS_step n
  let s := setF s F.UPD_LAST_OUTCOME_res_buffer (resBuffer s)
  let s := setF s F.UPD_NORM_norm x.norm.toNat
  let s := if x.outcome ≤ 2 then setF s F.UPD_NORM_gscale x.gscale.toNat else s
  let s := setFmax (setF s F.UPD_G2_g2 g2.toNat) F.UPD_G2_divisor d
  let s := notePosition s n
  let s := if h.reportCount ≥ 1 then stepReport s n (reportPayload s h n d x) else s
  let s := signal s h.normObj 1
  let s := if x.outcome ≤ 2 && digestStep s n then s else signal s h.digestObj 1
  let s := if x.outcome > 2 then abandonStep s
    else if hasSweep s then s else commitStep s n x.outcome
  closeStep s n

/-- Whether the loss reports of a lost module are still to come: no step is yet known as kept or dropped (R271). -/
def lossOpen (s : State) : Bool := match s.chn.loss with | some l => l.open0 | none => false

/-- The decision waits for the partials, for every norm message and for the divisor (R203). -/
def normDecision (s : State) : State :=
  match s.plan with
  | some p =>
    let n := s.trn.cur
    if p.training && !lossOpen s && s.trn.normSent && partsReady s && (awaited s n).all fun a => (normOf s a n).isSome then
      match divisorOf s n with
      | some d => takeDecision s p.header d
      | none => s
    else s
  | none => s

/-- NORM_DECISION (R203). -/
def execNormDecision (s : State) : Host.Outcome State Fault Refusal := settle s (normDecision s)

/-- The norm timeout (R204): 390,625 slots when the plan gives 0, from the last reduction of the module. -/
def normTimeout (s : State) : State :=
  match s.plan with
  | some p =>
    let lim := if p.header.normTimeout = 0 then 390625 else p.header.normTimeout
    if !inHold s && s.trn.normFrom ≠ 0 && decide (s.trn.normFrom - 1 + lim ≤ slot s) then holdFault s 0x1B 0 0 0 0 else s
  | none => s

/-- NORM_TIMEOUT (R204). -/
def execNormTimeout (s : State) : Host.Outcome State Fault Refusal := settle s (normTimeout s)

end Sys2Proof.Machine
end

