-- ==== Sys2Proof/Machine/Update.lean ====
section
/-!
DEFINITION. The update engines, digests and snapshots: UPDATE_GROUP, SWEEP_TIMEOUT, UPDATE_ENGINE_FAULT, DIGEST_COMPUTE,
DIGEST_ENGINE_FAULT, DIGEST, DIGEST_REPAIR, GROUP_REPAIR and SNAPSHOT_WRITE (R205 to R212, R217 to R221, R280 to R285).
-/

namespace Sys2Proof.Machine

/-! ### The update program, R205 to R208 -/

/-- An instruction of Table 7.7. -/
structure UInstr where
  op  : Nat
  d   : Nat
  a   : Nat
  b   : Nat
  c   : Nat
  bk  : Bool
  ck  : Bool
  rnd : Nat
  deriving DecidableEq, Repr

/-- The fields of an instruction word. -/
def UInstr.ofWord (w : Word32) : UInstr :=
  let n := w.toNat
  ⟨n / 2 ^ 26 % 64, n / 2 ^ 21 % 32, n / 2 ^ 16 % 32, n / 2 ^ 11 % 32, n / 2 ^ 6 % 32, n.testBit 5, n.testBit 4, n / 4 % 4⟩

/-- The cost of an operation (Table 7.8). -/
def UInstr.cost (i : UInstr) : Nat :=
  match i.op with
  | 0x00 | 0x01 | 0x02 => 0
  | 0x0B | 0x0C | 0x0D | 0x0E => 4
  | 0x11 | 0x12 => 2
  | _ => 1

/-- One block under way: 32 registers of 32 lanes, and what the program has stored: stream, rounding mode, lanes. -/
structure UBlock where
  regs : List (List Word32)
  outs : List (Nat × Nat × List Word32)
  deriving DecidableEq, Repr

/-- Every lane of every register holds +0 at the start of a block. -/
def UBlock.start : UBlock := ⟨List.replicate 32 (List.replicate 32 0), []⟩

/-- One operation on 32 lanes; `ld` gives the lanes of a stream, `k` the scalars. -/
def uStep (ld : Nat → List Word32) (k : List Word32) (s : UBlock) (i : UInstr) : UBlock :=
  let reg := fun r => s.regs.getD r []
  let a := reg i.a
  let b := if i.bk then List.replicate 32 (k.getD i.b 0) else reg i.b
  let c := if i.ck then List.replicate 32 (k.getD i.c 0) else reg i.c
  let put := fun v => { s with regs := s.regs.set i.d v }
  let two := fun (f : Word32 → Word32 → Word32) => put (List.zipWith f a b)
  let three := fun (f : Word32 → Word32 → Word32 → Word32) => put (List.zipWith (fun p z => f p.1 p.2 z) (a.zip b) c)
  match i.op with
  | 0x01 => put (ld i.a)
  | 0x02 => { s with outs := s.outs ++ [(i.d, i.rnd, a)] }
  | 0x03 => two f32Add
  | 0x04 => two f32Sub
  | 0x05 => two f32Mul
  | 0x06 => three f32Fma
  | 0x07 => three f32Fnma
  | 0x08 => two f32Min
  | 0x09 => two f32Max
  | 0x0A => put (a.map f32Abs)
  | 0x0B => put (a.map f32Sqrt)
  | 0x0C => put (a.map (vfnBy Config.updFn .rsqrt))
  | 0x0D => put (a.map (vfnBy Config.updFn .recip))
  | 0x0E => two (vdivBy Config.updDiv)
  | 0x0F => two fun x y => if (ofF32 x).lt (ofF32 y) then f32One else 0
  | 0x10 => three fun x y z => if z ≠ 0 then x else y
  | 0x11 => put (List.replicate 32 (f32PairSum 5 a))
  | 0x12 => put (List.replicate 32 ((a.map f32Abs).foldl f32Max 0))
  | 0x13 => put b
  | _ => s

/-- A program run over one block, up to its end. -/
def uRun (ld : Nat → List Word32) (k : List Word32) : List Word32 → UBlock → UBlock
  | [], s => s
  | w :: ws, s => if (UInstr.ofWord w).op = 0 then s else uRun ld k ws (uStep ld k s (UInstr.ofWord w))

/-- The scalar registers of a sweep (R206); a row of the step scalar table is seven FP32 values. -/
def sweepScalars (s : State) (p : Plan) (prog : UpdateProgram) : List Word32 :=
  let row := min (getF s F.UPD_COMMITS_t) (p.header.scalarRows - 1)
  BitVec.ofNat 32 (getF s F.UPD_NORM_gscale)
    :: (List.range 7).map (fun i => rdWord32 s (p.header.scalarBase + 28 * row + 4 * i)) ++ prog.consts

/-! ### Streams of a shard, R194 -/

/-- Elements per frond of a stream: 0 master weight, 1 and 2 moments, 3 reduced gradient. -/
def Shard.perFrond (h : Shard) (st : Nat) : Nat :=
  match st with
  | 0 => 16384
  | 3 => 65536
  | _ => if h.bf16Moment then 32768 else 16384

/-- The format of a stream. -/
def Shard.fmtOf (h : Shard) (st : Nat) : Fmt :=
  match st with
  | 0 => .fp32
  | 3 => .g8
  | _ => if h.bf16Moment then .bf16 else .fp32

/-- The first frond of a stream. -/
def Shard.firstOf (h : Shard) (st : Nat) : Nat :=
  match st with
  | 0 => h.paramFirst
  | 1 => h.m1First
  | 2 => h.m2First
  | _ => h.gradFirst

/-- The fronds of a stream. -/
def Shard.countOf (h : Shard) (st : Nat) : Nat :=
  match st with
  | 0 => h.paramCount
  | 3 => h.gradCount
  | _ => h.momCount

/-- The fronds of a stream that hold the elements of group g. -/
def Shard.groupFronds (h : Shard) (st g : Nat) : List Nat :=
  let per := 65536 / h.perFrond st
  ((List.range per).map fun i => per * g + i).filter (fun i => decide (i < h.countOf st)) |>.map fun i => h.firstOf st + i

/-- The streams a shard holds beside the gradient. -/
def Shard.streams (h : Shard) : List Nat := (List.range (1 + min 2 h.moments))

/-- Every master weight and moment frond of a shard in frond id order, stream by stream. -/
def Shard.stateFronds (h : Shard) : List Nat := h.streams.flatMap fun st => (List.range (h.countOf st)).map fun i => h.firstOf st + i

/-- Element e of a stream. -/
def streamElem (s : State) (h : Shard) (st e : Nat) : Word32 :=
  let per := h.perFrond st
  flatF32 s (h.fmtOf st) (homeOf s (h.firstOf st + e / per)) (e % per)

/-! ### The sweep, R209 to R212 -/

/-- The work of a sweep: stack-homed shards in ascending shard id, then the flash-homed ones; each in frond groups. -/
def sweepWork (s : State) (l : Launch) : List (Shard × Nat) :=
  let hs := sweepShards s l
  ((hs.filter fun h => !h.flashHomed) ++ hs.filter fun h => h.flashHomed).flatMap fun h =>
    (List.range h.gradCount).map fun g => (h, g)

/-- The outcome of step n, 0 while it is not decided. -/
def outcomeOf (s : State) (n : Nat) : Nat :=
  if n < s.trn.cur && getF s F.UPD_LAST_OUTCOME_step == n % 2 ^ 32 then getF s F.UPD_LAST_OUTCOME_outcome else 0

/-- Whether a shard is ready for its update (R209, R284): homed in stack q, no frond in_move, no digest and no snapshot of it
owed. -/
def shardReady (s : State) (h : Shard) (q : Nat) : Bool :=
  h.stateFronds.all (fun id => let e := ftGet s id; e.valid && !e.inMove && decide (e.home < stackEnd) && stackOf e.home == q)
    && !s.trn.owed.contains h.id && s.trn.snapOwed.isNone

/-- A sweep waits: the slot from which it waits is noted, and UPD_SWEEP_WAIT counts while it does. -/
def sweepWaits (s : State) (q : Nat) : State :=
  if FMap.get 0 s.trn.sweepFrom q = 0 then
    { s with trn := { s.trn with sweepFrom := FMap.set 0 s.trn.sweepFrom q (slot s + 1) } }
  else s

/-- A sweep no longer waits. -/
def sweepGoes (s : State) (q : Nat) : State := { s with trn := { s.trn with sweepFrom := FMap.set 0 s.trn.sweepFrom q 0 } }

/-- The launch that an update engine runs. -/
def runningSweep (s : State) (q : Nat) : Option (Nat × Launch) :=
  match (unitOf s (784 + q)).running with
  | some k => (launchOf s k).map fun l => (k, l)
  | none => none

/-- The progress of a sweep moved on. -/
def sweepNext (s : State) (q n : Nat) : State :=
  setUnit s (784 + q) { unitOf s (784 + q) with progress := (unitOf s (784 + q)).progress + n }

/-- The lanes that a program writes over the elements of one group: stream, mode and values in order. -/
def groupOuts (s : State) (p : Plan) (prog : UpdateProgram) (h : Shard) (g : Nat) : List (Nat × Nat × List Word32) :=
  let ks := sweepScalars s p prog
  let elems := min 65536 (16384 * h.paramCount - 65536 * g)
  let blocks := (List.range (elems / 32)).map fun b =>
    (uRun (fun st => (List.range 32).map fun l => streamElem s h st (65536 * g + 32 * b + l)) ks prog.code UBlock.start).outs
  (List.range 3).filterMap fun st =>
    let mine := blocks.map fun o => o.find? fun x => x.1 == st
    match mine.head? with
    | some (some x) => some (st, x.2.1, mine.flatMap fun m => match m with | some y => y.2.2 | none => [])
    | _ => none

/-- The tensor id of a stream's output (R208). -/
def streamTid (s : State) (h : Shard) (st : Nat) : Nat :=
  match st with
  | 0 => (headerAt s (homeOf s h.paramFirst)).tensorId
  | 1 => h.m1Tid
  | _ => h.m2Tid

/-- One stream of a group written and sealed frond by frond, each carrying step n. -/
def writeStream (s : State) (key : Nat) (h : Shard) (g n : Nat) (o : Nat × Nat × List Word32) : State :=
  let (st, rnd, vals) := o
  let per := h.perFrond st
  let tid := streamTid s h st
  let f := h.fmtOf st
  (h.groupFronds st g).zipIdx.foldl (fun s x =>
    let a := homeOf s x.1
    let old := headerAt s a
    let out := wholeOut a f (rnd == 1 && st != 0) tid x.1 (if st = 0 then 0 else 1) (h.elemBase + 65536 * g + per * x.2)
    let (s, cs) := writeFrond s out n fun e => ofF32 (vals.getD (per * x.2 + e) 0)
    let s := writeHeader s a { old with step := BitVec.ofNat 64 n, tensorId := tid }
    noteOp s key tid f cs) s

/-- A group found inconsistent (R211): group_fault and HOLD cause 8. -/
def groupFault (s : State) (q : Nat) : State :=
  let s := flag s F.UPD_STATUS_group_fault 7
  let s := { s with trn := { s.trn with repair := if s.trn.repair.contains q then s.trn.repair else s.trn.repair ++ [q] } }
  holdFault s 0x1A 8 (stackDie q) 0 0

/-- The shard commits (R212): the digest fragment of the checks taken with header bytes 16 to 23 as zero, then the fragment and
the final check of every master weight frond. -/
def commitShard (s : State) (h : Shard) : State :=
  let ids := (List.range h.paramCount).map fun i => h.paramFirst + i
  let checks := ids.flatMap fun id =>
    let im := frondImage s .fp32 (homeOf s id)
    leBytes 4 (frondCheck (im.take (payloadLen + 16) ++ List.replicate 8 0 ++ im.drop (payloadLen + 24)))
  let frag := BitVec.ofNat 64 (leNat ((shake128 checks 8)))
  ids.foldl (fun s id =>
    let a := homeOf s id
    sealAt (writeHeader s a { headerAt s a with fragment := frag }) a) s

/-- The program that a shard names. -/
def programOf (p : Plan) (h : Shard) : UpdateProgram := p.updates.getD h.program ⟨[], []⟩

/-- The streams that a program stores. -/
def storedStreams (prog : UpdateProgram) : List Nat :=
  ((prog.code.map UInstr.ofWord).filter fun i => i.op == 2).map (·.d)

/-- The streams that a program loads, one entry for each load. -/
def loadedStreams (prog : UpdateProgram) : List Nat :=
  (((prog.code.map UInstr.ofWord).takeWhile fun i => i.op != 0).filter fun i => i.op == 1).map (·.a)

/-- The BF16 subnormals among the moments of a group that the program loads (R62). -/
def noteMoments (s : State) (prog : UpdateProgram) (h : Shard) (g : Nat) : State :=
  ((loadedStreams prog).filter fun st => h.streams.contains st).foldl (fun v st =>
    (h.groupFronds st g).foldl (fun v id => noteReads v (h.fmtOf st) (frondCodes s (h.fmtOf st) (homeOf s id) 0 (h.perFrond st))) v) s

/-- One frond group updated (R210): the steps and checks of its fronds are looked at first; moments are written first and
master weights last. -/
def updateGroup (s : State) (p : Plan) (k q n : Nat) (h : Shard) (g : Nat) : State :=
  let prog := programOf p h
  let all := h.streams.flatMap fun st => (h.groupFronds st g).map fun id => (st, id)
  let steps := (all.filter fun x => (storedStreams prog).contains x.1).map fun x => (headerAt s (homeOf s x.2)).step.toNat
  let okAll := all.all fun x => checkOk s (h.fmtOf x.1) (homeOf s x.2)
  let done := !steps.isEmpty && steps.all (· == n)
  let mixed := steps.any (· == n) && !done
  if !okAll || mixed then groupFault s q
  else
    let s := if done then s
      else
        let outs := groupOuts s p prog h g
        let s := noteMoments s prog h g
        let s := (outs.filter fun o => o.1 != 0).foldl (fun s o => writeStream s k h g n o) s
        (outs.filter fun o => o.1 == 0).foldl (fun s o => writeStream s k h g n o) s
    let s := sweepNext s q 1
    if g + 1 = h.gradCount then commitShard s h else s

/-- The update engine of a stack goes on by one group (R209, R210). A stop and HOLD let no further group begin. -/
def sweepStep (s : State) (q : Nat) : State :=
  match s.plan, runningSweep s q with
  | some p, some (k, l) =>
    let n := stepOf s (keyIter k)
    let work := sweepWork s l
    let done := (unitOf s (784 + q)).progress
    if stopInForce s || inHold s || FMap.get false s.trn.fencedUpd q then s
    else
      match outcomeOf s n with
      | 0 => sweepWaits s q
      | 1 | 2 =>
        match work[done]? with
        | none => sweepGoes s q
        | some (h, g) =>
          if s.trn.zeroShards.contains h.id then
            sweepNext (sweepGoes (bumpF s F.UPD_SKIP_ZERO_CNT_count 1) q) q h.gradCount
          else if g = 0 && !shardReady s h q then sweepWaits s q
          else if poisonedAt s (homeOf s (h.gradFirst + g)) then
            let s := { s with trn := { s.trn with hard8 := true } }
            holdFault s 0x1A 8 (stackDie q) 0 (h.gradFirst + g)
          else updateGroup (sweepGoes s q) p k q n h g
      | _ => setUnit (sweepGoes s q) (784 + q) { unitOf s (784 + q) with progress := work.length }
  | _, _ => s

/-- UPDATE_GROUP (R210). -/
def execUpdateGroup (q : Nat) (s : State) : Host.Outcome State Fault Refusal := settle s (sweepStep s q)

/-- The sweep timeout (R209): 390,625 slots when the plan gives 0. -/
def sweepTimeout (s : State) (q : Nat) : State :=
  match s.plan with
  | some p =>
    let lim := if p.header.sweepTimeout = 0 then 390625 else p.header.sweepTimeout
    let w := FMap.get 0 s.trn.sweepFrom q
    if !inHold s && w ≠ 0 && decide (w - 1 + lim < slot s) then holdFault s 0x1B 0 0 0 0 else s
  | none => s

/-- SWEEP_TIMEOUT (R209). -/
def execSweepTimeout (q : Nat) (s : State) : Host.Outcome State Fault Refusal := settle s (sweepTimeout s q)

/-- A frond that was being written at a fault: its first word is open, and its check fails. -/
def halfWritten (s : State) (f : Fmt) (a : Nat) : State :=
  let (w, s) := takeFree s
  let s := wr s a (leBytes 8 w.toNat)
  let c := frondCheck (frondImage s f a)
  wr s (a + payloadLen + 56) (leBytes 4 (2 ^ 32 - 1 - c))

/-- An update engine residue failure (Table 7.12): the engine is fenced, the frond being written of the group in progress fails
its check, the job enters HOLD. -/
def engineFault (s : State) (q : Nat) : State :=
  let s := match runningSweep s q with
    | some (k, l) =>
      if outcomeOf s (stepOf s (keyIter k)) = 1 || outcomeOf s (stepOf s (keyIter k)) = 2 then
        match (sweepWork s l)[(unitOf s (784 + q)).progress]? with
        | some (h, g) =>
          let st := if h.moments = 0 then 0 else 1
          match h.groupFronds st g with
          | id :: _ => halfWritten s (h.fmtOf st) (homeOf s id)
          | [] => s
        | none => s
      else s
    | none => s
  let s := { s with trn := { s.trn with fencedUpd := FMap.set false s.trn.fencedUpd q true, hard8 := true } }
  holdFault (flag s F.UPD_STATUS_engine_fault 7) 0x1A 8 (stackDie q) 0 0

/-- UPDATE_ENGINE_FAULT (R221). -/
def execUpdateEngineFault (q : Nat) (s : State) : Host.Outcome State Fault Refusal := settle s (engineFault s q)

/-! ### Replica digests, R219, R220 -/

/-- The digest of a shard: payload and side band of every master weight frond, then moment stream 1, then 2, in frond id order
(R219). -/
def shardDigest (s : State) (h : Shard) : List Byte :=
  shake128 (h.streams.flatMap fun st => (List.range (h.countOf st)).flatMap fun i =>
    frondImage s (h.fmtOf st) (homeOf s (h.firstOf st + i))) 32

/-- The other owners of the module's position that are not lost. -/
def otherOwners (s : State) : List Nat := (others s).filter fun a => posOf s a == myPos s

/-- The digest record of a shard and step. -/
def digestOf (s : State) (shard n : Nat) : DigestRec :=
  (s.trn.digests.find? fun d => d.shard == shard && d.step == n).getD ⟨shard, n, none, [], 0, 0, 0⟩

/-- A digest record replaced. -/
def setDigest (s : State) (d : DigestRec) : State :=
  { s with trn := { s.trn with digests := (s.trn.digests.filter fun x => !(x.shard == d.shard && x.step == d.step)) ++ [d] } }

/-- A digest that does not match after repair, or a repair that fails (R281): repair_hold and HOLD cause 8. -/
def repairHold (s : State) : State := holdFault (flag s F.UPD_SURVIVE_STATUS_repair_hold 7) 0x1F 8 0 0 0

/-- One pair compared (R220, R281). -/
def comparePair (s : State) (d : DigestRec) (got : List Byte) : State :=
  match d.own with
  | none => s
  | some own =>
    if own = got then bumpF s F.UPD_DIGEST_CMP_CNT_count 1
    else
      let s := flag (bumpF s F.UPD_DIGEST_MISMATCH_CNT_count 1) F.UPD_STATUS_digest_mismatch 7
      if d.round = 2 then repairHold s else runFault s 0x1F 0 0 d.shard

/-- The digest compare ends, and the digest-complete object is signalled, once every shard's digest has been compared with every
other owner's and every repair is sealed (R280). -/
def digestsDone (s : State) : State :=
  match s.plan with
  | none => s
  | some p =>
    let n := s.trn.committed - 1
    let full := fun (d : DigestRec) => d.round != 1 && (otherOwners s).all fun a =>
      d.got.any fun g => g.1 == a && some g.2 == d.own
    let mine := s.trn.digests.filter fun d => d.step == n && d.own.isSome
    if s.trn.owed.isEmpty && !mine.isEmpty && mine.all full then
      let s := endActivity s ⟨5, 0, 0⟩
      signal { s with trn := { s.trn with digests := s.trn.digests.filter fun d => d.step != n } } p.header.digestObj 1
    else s

/-- The body of a digest message (Table 9.5). -/
def digestBody (shard n : Nat) (d : List Byte) : List Byte := leBytes 8 (shard % 2 ^ 20 + 2 ^ 32 * (n % 2 ^ 32)) ++ d

/-- The digest of one shard taken and sent (R219, R220), and compared with those already received. -/
def digestStep1 (s : State) (id : Nat) : State :=
  match (ownShards s).find? fun h => h.id == id with
  | none => s
  | some h =>
    if s.trn.owed.contains id then
      let n := s.trn.committed - 1
      let dg := shardDigest s h
      let d := { digestOf s id n with own := some dg }
      let s := setDigest { s with trn := { s.trn with owed := s.trn.owed.filter (· != id) } } d
      let s := postAll s 0x12 (otherOwners s) fun _ => digestBody id n dg
      let s := d.got.foldl (fun s g => comparePair s d g.2) s
      digestsDone s
    else s

/-- DIGEST_COMPUTE (R219). -/
def execDigestCompute (id : Nat) (s : State) : Host.Outcome State Fault Refusal := settle s (digestStep1 s id)

/-- A digest engine residue failure: the digest is not sent, and the next interval digests the shard again. -/
def digestFault (s : State) (id : Nat) : State :=
  if s.trn.owed.contains id then
    let q := match (ownShards s).find? fun h => h.id == id with | some h => h.stack | none => 0
    let s := runFault s 0x1A (stackDie q) 0 id
    digestsDone { s with trn := { s.trn with owed := s.trn.owed.filter (· != id) } }
  else s

/-- DIGEST_ENGINE_FAULT (R221). -/
def execDigestEngineFault (id : Nat) (s : State) : Host.Outcome State Fault Refusal := settle s (digestFault s id)

/-- A received digest kept, the latest of its source, and compared (R220, R281). -/
def digestIn (s : State) (src shard n : Nat) (dg : List Byte) : State :=
  let d := digestOf s shard n
  let d := { d with got := (d.got.filter fun g => g.1 != src) ++ [(src, dg)] }
  let s := setDigest s d
  digestsDone (if d.round = 1 then s else comparePair s d dg)

/-- DIGEST (R220). -/
def execDigestMsg (src shard n : Nat) (dg : List Byte) (s : State) : Host.Outcome State Fault Refusal :=
  settle s (digestIn s src shard n dg)

/-! ### Repairs, R281 and R282 -/

/-- A partner request for the repair of a frond: expected step n, the copy goes to its home. -/
def repairFetch (s : State) (src why n id : Nat) : State :=
  let tag := s.trn.nextTag
  let s := { s with trn := { s.trn with
    fetches := s.trn.fetches ++ [⟨id, tag, homeOf s id, BitVec.ofNat 64 n, slot s, false, src, why⟩],
    nextTag := (tag + 1) % 2 ^ 32 } }
  postMsg s 0x13 src (wordBytes [id % 2 ^ 32 + 2 ^ 32 * tag, n])

/-- The majority value among digests, held by more than half of the owners, of at least three (R281). -/
def majorityOf (ds : List (List Byte)) : Option (List Byte) :=
  if ds.length < 3 then none else ds.find? fun d => decide (2 * (ds.filter (· == d)).length > ds.length)

/-- The owners of a shard's position by ascending group, the module left out. -/
def ownersByGroup (s : State) : List Nat :=
  (List.range 64).filterMap fun g => (otherOwners s).find? fun a => groupOf s a == g

/-- The format of a master weight or moment frond of a shard. -/
def stateFmt (h : Shard) (id : Nat) : Fmt :=
  if h.paramFirst ≤ id ∧ id < h.paramFirst + h.paramCount then .fp32 else h.fmtOf 1

/-- The second comparison starts: a module that fetched takes the digest again and sends it; digests that differed wait for
their second value. -/
def secondRound (s : State) (h : Shard) (d : DigestRec) : State :=
  let dg := shardDigest s h
  let again := d.count != 0
  let d := { d with own := some dg, round := 2, got := d.got.filter fun g => g.2 == dg }
  let s := setDigest s d
  let s := if again then postAll s 0x12 (otherOwners s) fun _ => digestBody d.shard d.step dg else s
  digestsDone s

/-- A mismatch resolved (R281). The first command fetches: from the majority owner of the lowest group when the module is in the
minority, else every frond whose check fails from the owner of the lowest group; where no owner finds a failing frond, HOLD. A
later command, with every fetch done, digests again. -/
def digestRepair (s : State) (id : Nat) (anyFailing : Bool) : State :=
  match (ownShards s).find? fun h => h.id == id with
  | none => s
  | some h =>
    let d := digestOf s id (s.trn.committed - 1)
    match d.own, d.round with
    | some own, 0 =>
      if d.got.all fun g => g.2 == own then s
      else
        let ask := fun (s : State) (src method : Nat) (ids : List Nat) =>
          let s := ids.foldl (fun s f => repairFetch s src 1 d.step f) s
          let s := setF (setF (setF s F.UPD_REPAIR_shard id) F.UPD_REPAIR_method method) F.UPD_REPAIR_fronds ids.length
          setDigest s { d with round := 1, count := ids.length, method := method }
        match majorityOf (own :: d.got.map (·.2)) with
        | some mj =>
          if own = mj then secondRound s h d
          else
            match (ownersByGroup s).find? fun a => d.got.any fun g => g.1 == a && g.2 == mj with
            | some src => ask s src 1 h.stateFronds
            | none => repairHold s
        | none =>
          if !anyFailing then repairHold s
          else
            match h.stateFronds.filter (fun f => !checkOk s (stateFmt h f) (homeOf s f)), ownersByGroup s with
            | [], _ => secondRound s h d
            | _, [] => repairHold s
            | ids, src :: _ => ask s src 2 ids
    | some _, 1 =>
      if s.trn.fetches.any fun j => j.why == 1 && h.stateFronds.contains j.frond then s
      else secondRound (setF s F.UPD_SURVIVE_STATUS_repair_done 1) h d
    | _, _ => s

/-- DIGEST_REPAIR (R281). -/
def execDigestRepair (id : Nat) (anyFailing : Bool) (s : State) : Host.Outcome State Fault Refusal :=
  settle s (digestRepair s id anyFailing)

/-- The group that a sweep stands at. -/
def groupAt (s : State) (q : Nat) : Option (Nat × Shard × Nat) :=
  match runningSweep s q with
  | some (k, l) => ((sweepWork s l)[(unitOf s (784 + q)).progress]?).map fun w => (stepOf s (keyIter k), w.1, w.2)
  | none => none

/-- An inconsistent group repaired from HOLD (R282): the first command asks the partner for every master weight and moment frond
of the group; a later one, with every fetch done, ends the repair, and the sweep goes on behind the group. -/
def groupRepair (s : State) (q : Nat) : State :=
  match groupAt s q with
  | some (n, h, g) =>
    if !(inHold s && s.trn.repair.contains q) then s
    else
      let ids := h.streams.flatMap fun st => h.groupFronds st g
      let stale := ids.filter fun id => !(checkOk s (stateFmt h id) (homeOf s id) && (headerAt s (homeOf s id)).step.toNat == n)
      if s.trn.fetches.any fun j => j.why == 2 && ids.contains j.frond then s
      else if stale.isEmpty then
        let s := { s with trn := { s.trn with repair := s.trn.repair.filter (· != q) } }
        let s := setF (setF (setF s F.UPD_REPAIR_shard h.id) F.UPD_REPAIR_method 3) F.UPD_REPAIR_fronds ids.length
        setF s F.UPD_SURVIVE_STATUS_repair_done 1
      else if hasPartner s then ids.foldl (fun s f => repairFetch s (getF s F.CHN_PARTNER_address) 2 n f) s
      else flag s F.UPD_SURVIVE_STATUS_repair_hold 7
  | none => s

/-- GROUP_REPAIR (R282). -/
def execGroupRepair (q : Nat) (s : State) : Host.Outcome State Fault Refusal := settle s (groupRepair s q)

/-! ### Snapshots, R283 to R285 -/

/-- The fronds of a snapshot: for each owned shard master weights, moments and residual buffer t mod 2, with their formats. -/
def snapFronds (s : State) : List (Nat × Fmt) :=
  (ownShards s).flatMap fun h =>
    (h.stateFronds.map fun id => (id, stateFmt h id))
      ++ (if h.residual then (List.range h.resCount).map fun x => (h.resFrond (resBuffer s) x, Fmt.bf16) else [])

/-- The address of a snapshot slot. -/
def snapAddr (s : State) (k : Nat) : Nat := 4096 * (getF s F.UPD_SNAP_CFG_base + k * getF s F.UPD_SNAP_SIZE_pages)

/-- The target slot: an invalid one, else the one of the lower step; slot 0 wins a tie (R284). -/
def snapTarget (s : State) : Nat :=
  if !hasF s (F.UPD_SNAP_valid 0) then 0
  else if !hasF s (F.UPD_SNAP_valid 1) then 1
  else if getF s (F.UPD_SNAP_step 1) < getF s (F.UPD_SNAP_step 0) then 1 else 0

/-- The restore record (Table 10.4). -/
def restoreRecord (s : State) (n fronds : Nat) : List Byte :=
  let r := wordBytes [n, getF s F.UPD_COMMITS_t, n + 1, getF s F.INT_POSITION_position,
    getF s F.CHN_JOB_job_tag + 2 ^ 16 * getF s F.CHN_ADOPTED_layout + 2 ^ 20 * myGroup s + 2 ^ 26 * myPos s
      + 2 ^ 32 * getF s F.CHN_ADOPTED_role_digest,
    (jobSeed s).toNat, (ownShards s).length + 2 ^ 32 * fronds]
  r ++ leBytes 8 (crc32c r).toNat

/-- One copy with class 0x8 and its own check. -/
def snapCopy (s : State) (id : Nat) (f : Fmt) (d : Nat) : State :=
  let a := homeOf s id
  writeHeader (wr s d (frondImage s f a)) d { headerAt s a with cls := 8, fmt := f }

/-- A snapshot written, or failed (R284). The copies take the write credit that stripe writes have granted. -/
def snapshotStep (s : State) (writeOk : Bool) : State :=
  match s.trn.snapOwed with
  | none => s
  | some n =>
    let k := snapTarget s
    let base := snapAddr s k
    let fs := snapFronds s
    let kib := fs.foldl (fun t x => t + flashKib x.2) 4
    if !writeOk || hasF s F.FLS_STATUS_flash_closed then
      let s := setF (wr s base (List.replicate 4096 0)) (F.UPD_SNAP_valid k) 0
      flag { s with trn := { s.trn with snapOwed := none } } F.UPD_SURVIVE_STATUS_snapshot_fail 7
    else if s.fls.granted < kib then s
    else
      let s := { s with fls := { s.fls with granted := s.fls.granted - kib }, trn := { s.trn with snapOwed := none } }
      let s := wr s base (List.replicate 4096 0)
      let (s, _) := fs.foldl (fun (st : State × Nat) x =>
        (snapCopy st.1 x.1 x.2 st.2, st.2 + 1024 * flashKib x.2)) (s, base + 4096)
      let s := wr s base (restoreRecord s n fs.length)
      let s := setF (setF s (F.UPD_SNAP_step k) n) (F.UPD_SNAP_valid k) 1
      setF s F.UPD_SURVIVE_STATUS_snapshot_done 1

/-- SNAPSHOT_WRITE (R284). -/
def execSnapshotWrite (writeOk : Bool) (s : State) : Host.Outcome State Fault Refusal := settle s (snapshotStep s writeOk)

end Sys2Proof.Machine
end

