-- ==== Sys2Proof/Machine/Serving.lean ====
section
/-!
DEFINITION. Serving: REQUEST_DESCRIPTOR, ROW_ACCEPTED, BATCH_LAUNCH and ARR_INJECT (R100 to R102, R107, R109, R323 to R326,
R451).
-/

namespace Sys2Proof.Machine

/-- The batch queue of a core in the loaded plan. -/
def queueDesc (s : State) (q : Nat) : Option BatchQueue :=
  match s.plan with | some p => p.queues.find? fun b => b.q == q | none => none

/-- The queue entries in use: rows that wait, rows being copied, rows of batches that run (R451). -/
def entriesUsed (s : State) (q : Nat) : List Nat :=
  let r := queueOf s q
  (r.rows ++ r.copying ++ r.batches.flatMap (·.rows)).map (·.entry)

/-- The lowest free entry of a queue area. -/
def freeEntry (s : State) (b : BatchQueue) : Option Nat :=
  let used := entriesUsed s b.q
  (List.range b.entries).find? fun e => !used.contains e

/-- Whether the plan state lets the module read request descriptors (R325); END stops it (R321). -/
def readsRequests (s : State) : Bool :=
  s.host.cmd.isNone && match planState s with
  | .loaded | .running | .stopped | .held => true
  | _ => false

/-- The head of a request ring moved on. -/
def nextRequest (s : State) (q : Nat) : State := setF s (F.HST_REQ_HEAD_head q) (getF s (F.HST_REQ_HEAD_head q) + 1)

/-- A descriptor that passes its check, with its three conditions met (R325): refused with a result, or its row copy begins. -/
def handleRequest (s : State) (b : BatchQueue) (d : List Byte) (entry : Nat) : State :=
  let id := wordAt d 0
  let row := 256 * bits (wordAt d 1) 39 0
  let k := bits (wordAt d 2) 10 0
  let n := bits (wordAt d 3) 31 0
  let s := nextRequest s b.q
  if !inStackTier row n || touchesResults row n || n != b.rowBytes then writeResult s k 1 2 id []
  else
    let bytes := rd s row n
    if (crc32c bytes).toNat != bits (wordAt d 3) 63 32 then writeResult s k 1 2 id []
    else
      let s := wr s (b.queueArea + entry * b.rowBytes) bytes
      let r := queueOf s b.q
      setQueue s b.q { r with copying := r.copying ++ [⟨entry, id, k, 0⟩] }

/-- The next descriptor of a request ring (R325). -/
def requestStep (s : State) (q : Nat) : State :=
  match queueDesc s q with
  | none => s
  | some b =>
    let h := getF s (F.HST_REQ_HEAD_head q)
    if !readsRequests s || h == getF s (F.HST_REQ_HEAD_tail q) then s
    else
      let d := rd s (b.ringBase + 64 * (h % 2 ^ b.ringSize)) 64
      if (crc32c (d.take 56)).toNat != bits (wordAt d 7) 31 0 then
        hostErr (bumpF (nextRequest s q) F.HST_REQ_DROP_count 1) F.HST_ERR_STATUS_req_dropped
      else
        let r := queueOf s q
        match freeEntry s b with
        | some e =>
          if r.rows.length + r.copying.length < 256 && slotFree s (bits (wordAt d 2) 10 0) then handleRequest s b d e else s
        | none => s

/-- REQUEST_DESCRIPTOR (R325). -/
def execRequestDescriptor (q : Nat) (s : State) : Host.Outcome State Fault Refusal := settle s (requestStep s q)

/-- A row at its place: in order of acceptance, rows of one slot in ascending request id (R101). -/
def insertRow (x : QueueRow) : List QueueRow → List QueueRow
  | [] => [x]
  | y :: ys => if y.accept < x.accept ∨ (y.accept = x.accept ∧ y.request.toNat ≤ x.request.toNat) then y :: insertRow x ys else x :: y :: ys

/-- The oldest row copy of a queue completes: the row is accepted during the slot (R325). -/
def acceptStep (s : State) (q : Nat) : State :=
  let r := queueOf s q
  match r.copying with
  | x :: xs => setQueue s q { r with copying := xs, rows := insertRow { x with accept := slot s } r.rows }
  | [] => s

/-- ROW_ACCEPTED (R325). -/
def execRowAccepted (q : Nat) (s : State) : Host.Outcome State Fault Refusal := settle s (acceptStep s q)

/-- The rows that a launch at the present boundary sees: those accepted in an earlier slot. -/
def seenRows (s : State) (q : Nat) : List QueueRow := (queueOf s q).rows.filter fun r => decide (r.accept < slot s)

/-- Whether a batch is due at the present boundary (R101). -/
def batchDue (s : State) (b : BatchQueue) : Bool :=
  match seenRows s b.q with
  | [] => false
  | r :: rs => decide (32 ≤ (r :: rs).length) || decide (r.accept + 1 + b.wait ≤ slot s)

/-- A batch that is due and held back counts one slot of own slip per boundary (R101, R102). -/
def batchSlip (s : State) (q cause : Nat) : State :=
  let r := queueOf s q
  if r.counted = slot s + 1 then s
  else setQueue (bumpF (bumpF s F.LCH_SLIP_TOTAL_count 1) (F.LCH_SLIP_CAUSE_count cause) 1) q { r with counted := slot s + 1 }

/-- A batch launched with its rows (R101, R102): its number counts the batches of the queue, its boundary stands as the anchor
of the launch list (R451). -/
def launchBatch (s : State) (q array : Nat) (rows : List QueueRow) : State :=
  let r := queueOf s q
  let s := bumpF s (if 32 ≤ (seenRows s q).length then F.ARR_BATCH_FULL_count else F.ARR_BATCH_TIMED_count) 1
  let s := bumpF s F.ARR_ROWS_MASKED_count (32 - rows.length)
  setQueue s q { r with rows := r.rows.filter (fun x => !rows.contains x), count := r.count + 1,
                        batches := r.batches ++ [⟨r.count, rows, array, slot s, false, false⟩] }

/-- BATCH_LAUNCH at the present boundary (R101, R102, R107). -/
def batchStep (s : State) (q : Nat) : State :=
  match queueDesc s q with
  | none => s
  | some b =>
    if planState s != .running || stopInForce s || inHold s || !batchDue s b then s
    else if s.lch.skipped then batchSlip s q 0
    else
      let rows := (seenRows s q).take 32
      match standIn s (if rows.length ≤ b.quiet then b.quietArray else b.holdArray) with
      | some a => if unitFree s a then launchBatch s q a rows else batchSlip s q 6
      | none => batchSlip s q 6

/-- BATCH_LAUNCH (R101). -/
def execBatchLaunch (q : Nat) (s : State) : Host.Outcome State Fault Refusal := settle s (batchStep s q)

/-- A write to ARR_INJECT (R109, Table 3.15): in MANUFACTURE, FIELD-DEBUG and RETURN the named array takes one forced mismatch at
its next comparison; in any other state inject_refused sets. -/
def injectStep (s : State) (v : Word) : State :=
  let st := getF s F.SEC_LIFECYCLE_state
  if st = 0 ∨ st = 3 ∨ st = 4 then
    let a := bits v 8 0
    setArray s a { arrayOf s a with inject := some (bit v 9) }
  else setF s F.ARR_STATUS_inject_refused 1

/-- ARR_INJECT (R109). -/
def execArrInject (v : Word) (s : State) : Host.Outcome State Fault Refusal := settle s (hostStep s fun s => injectStep s v)

end Sys2Proof.Machine
end

