-- ==== Sys2Proof/Machine/Collective.lean ====
section
/-!
DEFINITION. Collective steps (R252 to R262, R272 to R275): the start of a step with its issue, COLLECTIVE_DATA, CREDIT,
LAYOUT, PERMUTE_DECISION, PERMUTE_TRANSFER and RE_REDUCE.
-/

namespace Sys2Proof.Machine

/-! ### Partners and stand-ins, R264, R273 -/

/-- The feed of an address, where it is known (R265). -/
def feedOf (s : State) (a : Nat) : Option Nat :=
  if a = myAddr s then some (getF s F.CHN_PARTNER_own_feed)
  else
    let w := getReg s (Off.CHN_FEED (a / 8))
    let j := a % 8
    if bit w (8 * j + 7) then some (bits w (8 * j + 2) (8 * j)) else none

/-- Whether the feeds of two addresses are known to differ. -/
def feedsDiffer (s : State) (a b : Nat) : Bool :=
  match feedOf s a, feedOf s b with
  | some x, some y => x != y
  | _, _ => false

/-- The candidates for the partner of an address, in the order of R264, lost modules left out. -/
def candidates (s : State) (a : Nat) : List Nat :=
  let p := posOf s a
  let g := groupOf s a
  let n := match layoutOf s with | some y => y.p | none => 1
  let order := (List.range (n - 1)).map fun i => (g + 1 + i) % n
  let m := getReg s (Off.CHN_PARTNER_MAP a)
  let first := bits m 5 0
  let order := if bit m 6 then first :: order.filter (· != first) else order
  (order.filterMap fun h => addrOfRole s h p).filter fun x => x != a && !isLost s x

/-- The partner of an address (R264). -/
def partnerOf (s : State) (a : Nat) : Option Nat :=
  let cs := candidates s a
  match cs.find? fun x => feedsDiffer s a x with
  | some x => some x
  | none => cs.head?

/-- The module that performs the role of an address: itself, or the stand-in of a lost module (R273). -/
def performer (s : State) (a : Nat) : Option Nat := if isLost s a then partnerOf s a else some a

/-- CHN_PARTNER and the copies in CHN_SURVIVE follow R264 and R266. -/
def showPartner (s : State) : State :=
  match partnerOf s (myAddr s) with
  | some a =>
    let shared := !feedsDiffer s (myAddr s) a
    let s := setF (setF s F.CHN_PARTNER_address a) F.CHN_PARTNER_group (groupOf s a)
    let s := setF (setF s F.CHN_PARTNER_partner_feed ((feedOf s a).getD 0)) F.CHN_PARTNER_valid 1
    let s := setF (setF s F.CHN_PARTNER_feed_shared (b2n shared)) F.CHN_SURVIVE_feed_shared (b2n shared)
    setF s F.CHN_SURVIVE_no_partner 0
  | none =>
    let s := setF (setF s F.CHN_PARTNER_address 0) F.CHN_PARTNER_group 0
    let s := setF (setF s F.CHN_PARTNER_partner_feed 0) F.CHN_PARTNER_valid 0
    let s := setF (setF s F.CHN_PARTNER_feed_shared 0) F.CHN_SURVIVE_feed_shared 0
    setF s F.CHN_SURVIVE_no_partner (b2n (jobSize s != 1))

/-- The lost addresses that the module stands in for. -/
def standsFor (s : State) : List Nat := (List.range 64).filter fun a => (getF s F.CHN_STANDIN_lost).testBit a

/-! ### Runs, credit and data, R253 -/

/-- A collective descriptor of the plan. -/
def descOf (s : State) (d : Nat) : Option CollDesc := match s.plan with | some p => p.colls[d]? | none => none

/-- The run of a descriptor and iteration. -/
def collRun (s : State) (d iter : Nat) (redo : Bool) : Option CollRun :=
  s.chn.colls.find? fun r => r.desc == d && r.iter % 2 ^ 32 == iter && r.redo == redo

/-- A run replaced, or added. -/
def setColl (s : State) (r : CollRun) : State :=
  { s with chn := { s.chn with colls := (s.chn.colls.filter fun x => !(x.key == r.key && x.redo == r.redo)) ++ [r] } }

/-- The body of a collective data message (Table 9.7). -/
def dataBody (r : CollRun) (stage hop idx : Nat) (image : List Byte) : List Byte :=
  wordBytes [r.desc % 2 ^ 32 + 2 ^ 32 * (r.iter % 2 ^ 32), stage + 2 ^ 8 * hop + 2 ^ 32 * (idx % 2 ^ 32), r.step, 0] ++ image

/-- Data that waits goes out within the credit of its destination (R253). -/
def pump (s : State) (r : CollRun) : State :=
  let go := r.queue.foldl (fun (st : State × CollRun) o =>
    let (s, r) := st
    let c := FMap.get 0 r.credit o.dest
    if c = 0 then (s, { r with queue := r.queue ++ [o] })
    else (postMsg s 0x20 o.dest o.body, { r with credit := FMap.set 0 r.credit o.dest (c - 1) })) (s, { r with queue := [] })
  setColl go.1 go.2

/-- Data put in line for the module that performs a role. -/
def sendData (s : State) (r : CollRun) (g p stage hop idx : Nat) (image : List Byte) : CollRun :=
  match (addrOfRole s g p).bind (performer s) with
  | some a => { r with queue := r.queue ++ [⟨a, dataBody r stage hop idx image⟩] }
  | none => r

/-- A credit message (Table 9.5). -/
def sendCredit (s : State) (dest desc iter n : Nat) : State :=
  postMsg s 0x21 dest (wordBytes [desc % 2 ^ 32 + 2 ^ 32 * (iter % 2 ^ 32), n % 65536])

/-- The image of a frond built from values in frond order, with its counts; the memory stands. -/
def buildImage (s : State) (o : Output) (n : Nat) (v : Nat → Num) : List Byte × List Nat :=
  let (t, cs) := writeFrond { s with mem := [] } { o with addr := 0 } n v
  (rd t 0 o.fmt.imageLen, cs)

/-- A state in which an image stands at address 0, for reading its elements. -/
def onDesk (s : State) (image : List Byte) : State := { s with mem := writeBytes [] 0 image }

/-- The elements of an image in frond order, decoded into FP32. -/
def imageF32 (s : State) (f : Fmt) (image : List Byte) : List Word32 :=
  let t := onDesk s image
  (List.range f.elems).map (flatF32 t f 0)

/-! ### Gathers, R255, R234, R275 -/

/-- The address of the version list of stack 0 (Table 8.3). -/
def versionAddr (s : State) (i : Nat) : Nat :=
  match s.plan with
  | some p => match p.stackDescs[0]? with
    | some d => d.sphBase + 256 * (d.stashSize + d.ckptSize + d.recompSize) + 24 * i
    | none => 0
  | none => 0

/-- The B8 frond j of the module's own slice: the 65,536 elements of four master weight fronds in frond order, in mode 0, with
the version tag of the master weights. -/
def gatherB8 (s : State) (r : CollRun) (c : CollDesc) (j : Nat) : List Byte × List Nat :=
  let f0 := c.first + myPos s * c.f + 4 * j
  let n := (headerAt s (homeOf s f0)).step.toNat
  let o := wholeOut 0 .b8 false c.tid f0 6 0
  let (im, cs) := buildImage s o r.step fun e => ofF32 (flatF32 s .fp32 (homeOf s (f0 + e / 16384)) (e % 16384))
  let h := { outHeader o n with fragment := (headerAt s (homeOf s f0)).fragment }
  let t := writeHeader (onDesk s im) 0 h
  (rd t 0 Fmt.b8.imageLen, cs)

/-- The two BF16 views of a B8 frond written and sealed with its version tag (R255 step 3), or, where a re-gather meets another
version, left unsealed and the pass aborted with cause 3 (R234). -/
def makeViews (s : State) (r : CollRun) (c : CollDesc) (idx : Nat) (image : List Byte) : State :=
  let desk := onDesk s image
  let h := headerAt desk 0
  let mismatch := match c.regather with
    | some fd =>
      match (descOf s fd).bind (·.versionIdx) with
      | some i => rdWord s (versionAddr s i + 8) != h.step || rdWord s (versionAddr s i + 16) != h.fragment
      | none => false
    | none => false
  if mismatch then abortPass s r.iter c.passNo 3 c.shard 0
  else
    let s := (List.range 2).foldl (fun s k =>
      let a := c.dest + 65792 * (2 * idx + k)
      let (s, _) := writeFrond s (wholeOut a .bf16 false c.tid 0xFFFFFFFF 6 0) r.step fun e => elemAt desk .b8 0 (128 * k + e / 256) (e % 256)
      sealAt (writeHeader s a { outHeader (wholeOut a .bf16 false c.tid 0xFFFFFFFF 6 0) h.step.toNat with view := true, fragment := h.fragment }) a) s
    match c.regather, c.versionIdx with
    | none, some i => wr s (versionAddr s i) (wordBytes [c.shard % 2 ^ 20 + 2 ^ 20 * (c.passNo % 65536), h.step.toNat, h.fragment.toNat])
    | _, _ => s

/-- How far a frond travels east and west (R255 step 2). -/
def reach (c : CollDesc) (s0 : Nat) : Nat × Nat :=
  match c.dir with
  | 0 => (s0 - 1, 0)
  | 1 => (0, s0 - 1)
  | _ => (s0 / 2, (s0 - 1) / 2)

/-- Number of positions and of groups. -/
def jobShape (s : State) : Nat × Nat := match layoutOf s with | some y => (y.s, y.p) | none => (1, 1)

/-- Whether the module's own shard group has a lost member: gathers run in direct form (R275). -/
def groupLost (s : State) : Bool := (members s).any fun a => isLost s a && groupOf s a == myGroup s

/-- The positions that a gather sends an own frond to: in direct form every other one, else the neighbours. -/
def gatherTargets (s : State) (c : CollDesc) (direct : Bool) : List (Nat × Nat) :=
  let (n, _) := jobShape s
  let p := myPos s
  let g := myGroup s
  if direct then (((List.range n).filter (· != p)).filter fun q => match addrOfRole s g q with | some a => !isLost s a | none => false).map fun q => (g, q)
  else
    let (e, w) := reach c n
    (if e ≥ 1 then [(g, (p + 1) % n)] else []) ++ (if w ≥ 1 then [(g, (p + n - 1) % n)] else [])

/-- The members that a stand-in serves in a gather: those of the lost module's shard group (R273). -/
def standTargets (s : State) : List (Nat × Nat) :=
  (standsFor s).flatMap fun l =>
    ((members s).filter fun a => groupOf s a == groupOf s l && !isLost s a).map fun a => (groupOf s a, posOf s a)

/-- A gather starts: every B8 frond of the own slice is made, counted, widened and sent. -/
def startGather (s : State) (r : CollRun) (c : CollDesc) : State × CollRun :=
  let p := myPos s
  (List.range (c.f / 4)).foldl (fun (st : State × CollRun) j =>
    let (s, r) := st
    let (im, cs) := gatherB8 s r c j
    let s := noteOp (bumpNum s .b8 cs) r.key c.tid .b8 cs
    let idx := p * (c.f / 4) + j
    let s := makeViews s r c idx im
    let r := (gatherTargets s c r.direct ++ standTargets s).foldl (fun r t => sendData s r t.1 t.2 0 1 idx im) r
    (s, { r with sealed := r.sealed ++ [idx] })) (s, r)

/-- A gathered frond arrives (R255, R275). -/
def gatherIn (s : State) (r : CollRun) (c : CollDesc) (src hop idx : Nat) (image : List Byte) : State × CollRun :=
  if r.sealed.contains idx then (s, r)
  else
    let s := makeViews s r c idx image
    let (n, _) := jobShape s
    let p := myPos s
    let (e, w) := reach c n
    let east := posOf s src == (p + n - 1) % n && decide (hop ≤ e)
    let r := if r.direct then r
      else if east then (if hop < e then sendData s r (myGroup s) ((p + 1) % n) 0 (hop + 1) idx image else r)
      else (if hop < w then sendData s r (myGroup s) ((p + n - 1) % n) 0 (hop + 1) idx image else r)
    (s, { r with sealed := r.sealed ++ [idx] })

/-! ### Reduce-scatter, R256 to R258 -/

/-- The roles that the module performs: its own, and each lost role that it stands in for; for these the local slices are
zero (R273). -/
def rolesOf (s : State) : List (Nat × Nat × Bool) :=
  (myGroup s, myPos s, false) :: (standsFor s).map fun a => (groupOf s a, posOf s a, true)

/-- The key of a role. -/
def roleKey (g p : Nat) : Nat := 64 * g + p

/-- A G8 image of zero blocks. -/
def zeroG8 (s : State) (n : Nat) : List Byte := (buildImage s (wholeOut 0 .g8 true 0 0 3 0) n fun _ => .fin 0).1

/-- A local gradient frond as stored, or zero for a lost role. -/
def localImage (s : State) (r : CollRun) (c : CollDesc) (zero : Bool) (i : Nat) : List Byte :=
  if zero then zeroG8 s r.step
  else
    let a := homeOf s (c.first + i)
    if poisonedAt s a then poisonImage (headerAt s a) else frondImage s .g8 a

/-- Two lists of FP32 values added, the incoming one first. -/
def addLists (a b : List Word32) : List Word32 := List.zipWith f32Add a b

/-- A partial rounded into G8 in mode 1 under its tensor id; flat indices count from the start of the sorus (R450). -/
def roundG8 (s : State) (r : CollRun) (tid idx : Nat) (vals : List Word32) : State × List Byte :=
  let (im, cs) := buildImage s (wholeOut 0 .g8 true tid 0 3 (65536 * idx)) r.step fun e => ofF32 (vals.getD e 0)
  (noteOp (bumpNum s .g8 cs) r.key tid .g8 cs, im)

/-- The sum s of a frond kept for its final quantisation (R258). -/
def keepSum (s : State) (r : CollRun) (c : CollDesc) (idx : Nat) (vals : List Word32) : State :=
  match layoutOf s with
  | some y =>
    match y.grads.find? fun g => g.localId == c.first + idx with
    | some g =>
      if s.trn.sums.any (fun x => x.shard == g.shard && x.idx == g.idx) || s.trn.quant.contains (2 ^ 20 * g.shard + g.idx) then s
      else { s with trn := { s.trn with sums := s.trn.sums ++ [⟨g.shard, g.idx, 65536 * idx, r.key, vals⟩] } }
    | none => s
  | none => s

/-- v or u with the residual of the shard element added last (R200). -/
def withResidual (s : State) (c : CollDesc) (idx : Nat) (vals : List Word32) : List Word32 :=
  match layoutOf s with
  | some y =>
    match y.grads.find? fun g => g.localId == c.first + idx with
    | some g =>
      match (ownShards s).find? fun h => h.id == g.shard with
      | some h =>
        if h.residual then vals.zipIdx.map fun v =>
          let e := 65536 * g.idx + v.2
          if e < 16384 * h.paramCount then f32Add v.1 (resElem s h (resBuffer s) e) else v.1
        else vals
      | none => vals
    | none => vals
  | none => vals

/-- Stage numbers of a re-reduction are 4 higher (R272). -/
def stageOf (r : CollRun) (n : Nat) : Nat := if r.redo then n + 4 else n

/-- v of the piece that a role owns: s is formed, kept, and spread in four FP32 fronds (R258). -/
def formV (s : State) (r : CollRun) (c : CollDesc) (g j idx : Nat) (v : List Word32) : State × CollRun :=
  let (_, p) := jobShape s
  let vals := withResidual s c idx v
  let s := keepSum s r c idx vals
  let r := (List.range 4).foldl (fun r k =>
    let im := (buildImage s (wholeOut 0 .fp32 false 0 0 3 0) r.step fun e => ofF32 (vals.getD (16384 * k + e) 0)).1
    sendData s r ((g + 1) % p) j (stageOf r 3) 1 (4 * idx + k) im) r
  (s, r)

/-- A stage 2 partial meets the group partial w (R257). -/
def stageTwo (s : State) (r : CollRun) (c : CollDesc) (g j hop idx : Nat) (inIm w : List Byte) : State × CollRun :=
  let (n, p) := jobShape s
  let x := addLists (imageF32 s .g8 inIm) (imageF32 s .g8 w)
  if hop + 1 < p then
    let (s, im) := roundG8 s r (c.tid + n + hop - 1) idx x
    (s, sendData s r ((g + 1) % p) j (stageOf r 2) (hop + 1) idx im)
  else formV s r c g j idx x

/-- u of a frond of the own slice: with one group it is the contribution, else the group partial w is formed, sent on where its
piece leaves first, and met by stage 2 data that came early (R257). -/
def formU (s : State) (r : CollRun) (c : CollDesc) (g j idx : Nat) (u : List Word32) : State × CollRun :=
  let (n, p) := jobShape s
  if p = 1 then (keepSum s r c idx (withResidual s c idx u), r)
  else
    let (s, w) := roundG8 s r (c.tid + n - 1) idx u
    let r := { r with parts := r.parts ++ [⟨roleKey g j, idx, w⟩] }
    let piece := (idx - j * c.f) / (c.f / p)
    let r := if piece = (g + p - 1) % p then sendData s r ((g + 1) % p) j (stageOf r 2) 1 idx w else r
    let mine := r.early.filter fun e => e.idx == idx && e.role / 4096 == roleKey g j
    let r := { r with early := r.early.filter fun e => !(e.idx == idx && e.role / 4096 == roleKey g j) }
    mine.foldl (fun st e => stageTwo st.1 st.2 c g j (e.role % 4096) idx e.image w) (s, r)

/-- A reduce step starts (R257): hop 1 of stage 1 sends a local slice as stored; with S = 1 stage 1 is the local slice. -/
def startReduce (s : State) (r : CollRun) (c : CollDesc) : State × CollRun :=
  let (n, _) := jobShape s
  (rolesOf s).foldl (fun (st : State × CollRun) ρ =>
    let (g, j, zero) := ρ
    if n = 1 then
      (List.range c.f).foldl (fun st i => formU st.1 st.2 c g j i (imageF32 st.1 .g8 (localImage st.1 st.2 c zero i))) st
    else
      let sl := (j + n - 1) % n
      (List.range c.f).foldl (fun (st : State × CollRun) i =>
        (st.1, sendData st.1 st.2 g ((j + 1) % n) (stageOf st.2 1) 1 (sl * c.f + i) (localImage st.1 st.2 c zero (sl * c.f + i)))) st)
    (s, r)

/-- The role that a partial from a module is meant for: stage 1 comes from the position before, stages 2 and 3 from the group
before. -/
def targetRole (s : State) (src stage : Nat) : Nat × Nat × Bool :=
  let (n, p) := jobShape s
  let srcRoles := (groupOf s src, posOf s src) :: ((List.range 64).filter fun a => isLost s a && partnerOf s a == some src).map fun a => (groupOf s a, posOf s a)
  let next := srcRoles.map fun x => if stage % 4 = 1 then (x.1, (x.2 + 1) % n) else ((x.1 + 1) % p, x.2)
  ((rolesOf s).find? fun ρ => next.contains (ρ.1, ρ.2.1)).getD (myGroup s, myPos s, false)

/-- Reduce data arrives: stage 1, stage 2 or the spread. -/
def reduceIn (s : State) (r : CollRun) (c : CollDesc) (src stage hop idx : Nat) (image : List Byte) : State × CollRun :=
  let (n, p) := jobShape s
  let (g, j, zero) := targetRole s src stage
  match stage % 4 with
  | 1 =>
    let x := addLists (imageF32 s .g8 image) (imageF32 s .g8 (localImage s r c zero idx))
    if hop + 1 < n then
      let (s, im) := roundG8 s r (c.tid + hop) idx x
      (s, sendData s r g ((j + 1) % n) (stageOf r 1) (hop + 1) idx im)
    else formU s r c g j idx x
  | 2 =>
    match r.parts.find? fun w => w.role == roleKey g j && w.idx == idx with
    | some w => stageTwo s r c g j hop idx image w.image
    | none => (s, { r with early := r.early ++ [⟨4096 * roleKey g j + hop, idx, image⟩] })
  | _ =>
    let r := if hop + 1 < p then sendData s r ((g + 1) % p) j (stageOf r 3) (hop + 1) idx image else r
    let r := if r.spread.any fun x => x.idx == idx then r else { r with spread := r.spread ++ [⟨0, idx, image⟩] }
    let quarter := fun k => r.spread.find? fun x => x.idx == 4 * (idx / 4) + k
    match quarter 0, quarter 1, quarter 2, quarter 3 with
    | some a, some b, some d, some e =>
      (keepSum s r c (idx / 4) ([a, b, d, e].flatMap fun x => imageF32 s .fp32 x.image), r)
    | _, _, _, _ => (s, r)

/-! ### Permutes, R260 to R262 -/

/-- The role digest of a role table with S and P (R250). -/
def roleDigest (roles : FMap Nat) (n p : Nat) : Word32 :=
  crc32c ((List.range 64).flatMap (fun a => leBytes 2 (FMap.get 0 roles a % 2 ^ 13)) ++ leBytes 1 n ++ leBytes 1 p)

/-- The role table in effect. -/
def committedRoles (s : State) : FMap Nat :=
  (List.range 64).foldl (fun m a => FMap.set 0 m a (bits (getReg s (Off.CHN_ROLE a)) 12 0)) []

/-- The digest of the role table in effect. -/
def committedDigest (s : State) : Word32 := roleDigest (committedRoles s) (getF s F.CHN_JOB_s) (getF s F.CHN_JOB_p)

/-- A permute issues: the requested pair is read, and layout messages go to every other member (R261). -/
def startPermute (s : State) (k : Nat) : State :=
  let n := stepOf s (keyIter k)
  let lay := getF s F.CHN_JOB_layout
  let dig := committedDigest s
  let s := { s with chn := { s.chn with perm := some ⟨k, n, lay, committedRoles s, none, [], []⟩ } }
  postAll s 0x15 (others s) fun _ =>
    wordBytes [n % 2 ^ 32 + 2 ^ 32 * lay + 2 ^ 36 * getF s F.CHN_ADOPTED_layout, dig.toNat]

/-- The members of a role table with a role. -/
def roleIn (roles : FMap Nat) (g p : Nat) : Option Nat :=
  (List.range 64).find? fun a => let e := FMap.get 0 roles a; e.testBit 12 && e % 64 == g && e / 64 % 64 == p

/-- The moves of a permute: shard of the new layout, sender and receiver (R262). A lost old owner is replaced by its stand-in
(R278). A group that the old job lacks takes the copy of group g mod P of the old job. -/
def permMoves (s : State) (r : PermRun) : List (Shard × Nat × Nat) :=
  match s.plan with
  | none => []
  | some pl =>
    match pl.layouts[r.layout]?, layoutOf s with
    | some new, some old =>
      new.shards.flatMap fun h =>
        (List.range new.p).filterMap fun g =>
          let oldPos := match old.shards.find? fun x => x.id == h.id with | some x => x.position | none => h.position
          match (roleIn s.chn.roles (g % old.p) oldPos).bind (performer s), roleIn r.roles g h.position with
          | some a, some b => if a = b then none else some (h, a, b)
          | _, _ => none
    | _, _ => []

/-- Every frond that moves with a shard, in frond id order: master weights, moments and both residual buffers. -/
def permFronds (h : Shard) : List (Nat × Fmt × Nat) :=
  (h.streams.flatMap fun st => (List.range (h.countOf st)).map fun i => (h.firstOf st + i, h.fmtOf st, if st = 0 then 0 else 1))
    ++ (if h.residual then (List.range (2 * h.resCount)).map fun x => (h.resFirst + x, Fmt.bf16, 2) else [])

/-- The home that the placement of a shard gives a frond of it (R251). -/
def placedHome (h : Shard) (id : Nat) : Nat :=
  ((permFronds h).takeWhile fun x => x.1 != id).foldl (fun a x => a + x.2.1.footprint a) h.home

/-- The decision of R261, once a layout message of the step from every other member has arrived. -/
def permuteDecide (s : State) : State :=
  match s.chn.perm with
  | none => s
  | some r =>
    let dig := roleDigest r.roles (getF s F.CHN_JOB_s) (getF s F.CHN_JOB_p)
    let msgs := (others s).map fun a => s.chn.layouts.find? fun m => m.source == a && m.step == r.step % 2 ^ 32
    if r.go.isSome || !msgs.all Option.isSome then s
    else
      let same := msgs.all fun m => match m with | some m => m.layout == r.layout && m.digest == dig | none => false
      let change := r.layout != getF s F.CHN_ADOPTED_layout || dig.toNat != getF s F.CHN_ADOPTED_role_digest
      let s := { s with chn := { s.chn with perm := some { r with go := some (same && change) },
                                            layouts := s.chn.layouts.filter fun m => m.step != r.step % 2 ^ 32 } }
      if same && change then
        match (launchOf s r.key).bind (collOf s) with
        | some c =>
          match launchOf s r.key with
          | some l => (others s).foldl (fun s a => sendCredit s a l.body (keyIter r.key) c.recv) s
          | none => s
        | none => s
      else if change then setF s F.CHN_STATUS_permute_deferred 1 else s

/-- PERMUTE_DECISION (R261). -/
def execPermuteDecision (s : State) : Host.Outcome State Fault Refusal := settle s (permuteDecide s)

/-- A layout message kept, the latest of its source and step. -/
def layoutIn (s : State) (src n lay adopted : Nat) (dig : Word32) : State :=
  { s with chn := { s.chn with
    layouts := (s.chn.layouts.filter fun m => !(m.source == src && m.step == n)) ++ [⟨src, n, lay, adopted, dig⟩] } }

/-- LAYOUT (R261). -/
def execLayoutMsg (src n lay adopted : Nat) (dig : Word32) (s : State) : Host.Outcome State Fault Refusal :=
  settle s (layoutIn s src n lay adopted dig)

/-- The run of the permute launch. -/
def permRunOf (s : State) : Option (PermRun × CollRun) :=
  match s.chn.perm with
  | some r => (s.chn.colls.find? fun x => x.key == r.key).map fun c => (r, c)
  | none => none

/-- One frond of a shard sent to each new owner that the module serves as old owner; its check is verified first (R262). -/
def permuteSend (s : State) (shard i : Nat) : State :=
  match permRunOf s with
  | none => s
  | some (r, c) =>
    if r.go ≠ some true then s
    else
      (permMoves s r).foldl (fun s mv =>
        let (h, a, b) := mv
        match (permFronds h)[i]? with
        | none => s
        | some (id, f, _) =>
          if h.id ≠ shard || a ≠ myAddr s || r.sentF.contains (64 * id + b) then s
          else
            let home := homeOf s id
            if !checkOk s f home then readOutcome (countRead s .checkMismatch (dieOf home) 0 home id) id home false false
            else
              let s := match s.chn.perm with
                | some p => { s with chn := { s.chn with perm := some { p with sentF := p.sentF ++ [64 * id + b] } } }
                | none => s
              let c := (s.chn.colls.find? fun x => x.key == c.key).getD c
              pump s { c with queue := c.queue ++ [⟨b, dataBody c 4 0 id (frondImage s f home)⟩] }) s

/-- PERMUTE_TRANSFER (R262). -/
def execPermuteTransfer (shard i : Nat) (s : State) : Host.Outcome State Fault Refusal := settle s (permuteSend s shard i)

/-- A moved frond arrives at its new owner: written at the home of the new placement, sealed, its entry valid (R262 step 3). -/
def permuteIn (s : State) (id : Nat) (image : List Byte) : State :=
  match s.chn.perm with
  | none => s
  | some r =>
    match (permMoves s r).find? fun mv => mv.2.2 == myAddr s && (permFronds mv.1).any fun x => x.1 == id with
    | none => s
    | some (h, _, _) =>
      match (permFronds h).find? fun x => x.1 == id with
      | none => s
      | some (_, f, cls) =>
        let a := placedHome h id
        let s := sealAt (wr (breakSeal s a) a image) a
        let s := ftSet s id { ftGet s id with home := a, valid := true, poisoned := false, inMove := false, fmt := f, cls := cls }
        { s with chn := { s.chn with perm := some { r with gotF := r.gotF ++ [id] } } }

/-! ### Start of a step -/

/-- The modules that send to this one in a step: they are granted credit for recv fronds when the step issues (R253). -/
def feeders (s : State) (c : CollDesc) (direct : Bool) : List Nat :=
  let (n, p) := jobShape s
  let at0 := fun (x : Nat × Nat) => (addrOfRole s x.1 x.2).bind (performer s)
  match c.op with
  | .gather =>
    if direct then (((List.range n).filter (· != myPos s)).map fun q => (myGroup s, q)).filterMap at0
    else
      let (e, w) := reach c n
      ((if e ≥ 1 then [(myGroup s, (myPos s + n - 1) % n)] else []) ++ (if w ≥ 1 then [(myGroup s, (myPos s + 1) % n)] else [])).filterMap at0
  | .reduce =>
    ((rolesOf s).flatMap fun ρ =>
      (if n ≥ 2 then [(ρ.1, (ρ.2.1 + n - 1) % n)] else []) ++ (if p ≥ 2 then [((ρ.1 + p - 1) % p, ρ.2.1)] else [])).filterMap at0
  | .permute => []

/-- A run starts: credit is granted, credit that came early is taken, and the first data goes out. -/
def startRun (s : State) (k d : Nat) (c : CollDesc) (redo : Bool) : State :=
  let iter := keyIter k
  let direct := groupLost s
  let early := s.chn.credits.filter fun x => x.2.1 == d && x.2.2.1 == iter % 2 ^ 32
  let s := { s with chn := { s.chn with credits := s.chn.credits.filter fun x => !(x.2.1 == d && x.2.2.1 == iter % 2 ^ 32) } }
  let credit := early.foldl (fun m x => FMap.set 0 m x.1 (FMap.get 0 m x.1 + x.2.2.2)) []
  let r : CollRun := ⟨k, d, iter, stepOf s iter, redo, direct, [], credit, [], [], [], [], false⟩
  let s := (feeders s c direct).eraseDups.foldl (fun s a => sendCredit s a d iter c.recv) s
  match c.op with
  | .gather => let (s, r) := startGather s r c; pump s r
  | .reduce => let (s, r) := startReduce s r c; pump s r
  | .permute => startPermute (setColl s r) k

/-- A launch issues (R139); a collective step starts with its issue (R253). -/
def issueAndStart (s : State) (k : Nat) : State :=
  let t := issueStep s k
  if !(runOf s k).issued && (runOf t k).issued && !(runOf t k).completed then
    match launchOf t k with
    | some l =>
      if l.kind = .collective then
        match collOf t l with
        | some c => startRun t k l.body c false
        | none => t
      else t
    | none => t
  else t

/-! ### COLLECTIVE_DATA and CREDIT -/

/-- Data that matches no issued step (R253): counted, and collective_fault. -/
def strayData (s : State) : State :=
  flag (dropMsg s) F.CHN_STATUS_collective_fault 8

/-- Whether the loss of a module makes an unmatched message harmless (R272 action 2, R275). -/
def harmless (s : State) (d iter stage n : Nat) : Bool :=
  match s.chn.loss with
  | some l =>
    (stage == 0 && s.chn.doneColls.contains (d, iter))
      || (decide (1 ≤ stage) && decide (stage ≤ 3) && match l.dropped with | some m => decide (m ≤ n) | none => false)
  | none => false

/-- One collective data frond arrives (R253 to R262, R272): it goes to the step it names and frees a slot for its sender. -/
def dataIn (s : State) (src d iter stage hop idx n : Nat) (image : List Byte) : State :=
  let redo := decide (5 ≤ stage)
  if harmless s d iter stage n then dropMsg s
  else
    match collRun s d iter redo, descOf s d with
    | some r, some c =>
      let s := sendCredit s src d iter 1
      match stage with
      | 0 => let (s, r) := gatherIn s r c src hop idx image; pump s r
      | 4 => permuteIn s idx image
      | _ => let (s, r) := reduceIn s r c src stage hop idx image; pump s r
    | _, _ => strayData s

/-- COLLECTIVE_DATA (R253). -/
def execCollectiveData (src d iter stage hop idx : Nat) (n : Word) (image : List Byte) (s : State) :
    Host.Outcome State Fault Refusal := settle s (dataIn s src d iter stage hop idx n.toNat image)

/-- Credit granted by a peer (R253); credit that comes before the step issues is kept for it. -/
def creditIn (s : State) (src d iter n : Nat) : State :=
  match s.chn.colls.filter fun r => r.desc == d && r.iter % 2 ^ 32 == iter with
  | [] => { s with chn := { s.chn with credits := s.chn.credits ++ [(src, d, iter, n)] } }
  | rs =>
    let r := rs.getLast?.getD (rs.headD ⟨0, d, iter, 0, false, false, [], [], [], [], [], [], false⟩)
    pump s { r with credit := FMap.set 0 r.credit src (FMap.get 0 r.credit src + n) }

/-- CREDIT (R253). -/
def execCredit (src d iter n : Nat) (s : State) : Host.Outcome State Fault Refusal := settle s (creditIn s src d iter n)

/-! ### RE_REDUCE, R272 -/

/-- The reduce launches of an iteration that issued before the loss boundary. -/
def oldReduces (s : State) (iter at0 : Nat) : List (Nat × Nat × CollDesc) :=
  match s.plan with
  | none => []
  | some p =>
    (List.range p.launches.length).filterMap fun i =>
      match p.launches[i]? with
      | some l =>
        let k := planKey iter i
        match collOf s l with
        | some c =>
          if l.kind = .collective && c.op = .reduce && (runOf s k).issued && decide ((runOf s k).issueSlot < at0) then some (k, l.body, c)
          else none
        | none => none
      | none => none

/-- What a re-reduction makes anew: the quantised fronds of its slice, their shards' partials (R272 action 1). -/
def forgetSlice (s : State) (c : CollDesc) : State :=
  match layoutOf s with
  | some y =>
    let hit := y.grads.filter fun g => decide (c.first ≤ g.localId) && decide (g.localId < c.first + (jobShape s).1 * c.f)
    let keys := hit.map fun g => 2 ^ 20 * g.shard + g.idx
    let shards := hit.map (·.shard)
    { s with trn := { s.trn with quant := s.trn.quant.filter fun k => !keys.contains k,
                                 zeroFr := s.trn.zeroFr.filter fun k => !keys.contains k,
                                 haveParts := s.trn.haveParts.filter fun h => !shards.contains h,
                                 zeroShards := s.trn.zeroShards.filter fun h => !shards.contains h,
                                 sums := s.trn.sums.filter fun r => !(keys.contains (2 ^ 20 * r.shard + r.idx)) } }
  | none => s

/-- The re-reduction of a dropped step starts: every sorus whose step issued before the loss boundary, and the norm message goes
out again (R272). -/
def reReduce (s : State) (n : Nat) : State :=
  match s.chn.loss, s.plan with
  | some l, some p =>
    match l.dropped with
    | some m =>
      if m ≤ n then
        let rs := oldReduces s (n - p.header.startStep) l.at0
        let s := { s with trn := { s.trn with normSent := false, counts := s.trn.counts.filter fun c => !(isLost s c.1 && c.2.1 == n) },
                          chn := { s.chn with colls := s.chn.colls.filter fun r => r.redo || !(rs.any fun x => x.1 == r.key) } }
        rs.foldl (fun s x =>
          if s.chn.colls.any fun r => r.redo && r.key == x.1 then s else startRun (forgetSlice s x.2.2) x.1 x.2.1 x.2.2 true) s
      else s
    | none => s
  | _, _ => s

/-- RE_REDUCE (R272). -/
def execReReduce (n : Nat) (s : State) : Host.Outcome State Fault Refusal := settle s (reReduce s n)

end Sys2Proof.Machine
end

