-- ==== Sys2Proof/Machine/Complete.lean ====
section
/-!
DEFINITION. LAUNCH_COMPLETE and LAUNCH_ISSUE (R137, Table 5.2): when a launch of each kind is complete, and what its completion does: signals
(R137, R147), records (R63, R143), the stash of its pass (R232), batch results (R326) and the end of the plan (R320).
-/

namespace Sys2Proof.Machine

/-- The key of the launch that is ready to complete on a unit: for an array the first tile whose outputs are released and added
(R197), else the launch it runs. -/
def finishing (s : State) (u : Nat) : Option Nat :=
  if u < 512 then (arrayOf s u).ready.head? else (unitOf s u).running

/-- Whether every message of a collective step is acknowledged: no data of the descriptor and iteration waits or is
unacknowledged (R254). -/
def dataAcked (s : State) (r : CollRun) : Bool :=
  r.queue.isEmpty && !(s.chn.unacked.any fun u => u.msg.kind == 0x20
    && leNat (u.msg.body.take 4) == r.desc && leNat ((u.msg.body.drop 4).take 4) == r.iter % 2 ^ 32)

/-- The gradient fronds of the module's own slice of a sorus, as quantisation keys. -/
def sliceKeys (s : State) (c : CollDesc) : List Nat :=
  match layoutOf s with
  | some y => (List.range c.f).filterMap fun i =>
      (y.grads.find? fun g => g.localId == c.first + myPos s * c.f + i).map fun g => 2 ^ 20 * g.shard + g.idx
  | none => []

/-- Whether a permute is over: deferred, or every frond sent and acknowledged and every frond to come received (R262). -/
def permuteOver (s : State) (r : PermRun) : Bool :=
  match r.go with
  | none => false
  | some false => true
  | some true =>
    (permMoves s r).all fun mv =>
      (permFronds mv.1).all fun x =>
        (mv.2.1 != myAddr s || r.sentF.contains (64 * x.1 + mv.2.2)) && (mv.2.2 != myAddr s || r.gotF.contains x.1)

/-- Whether a collective step is complete (R254): what it sends is acknowledged and what it writes is sealed. -/
def collectiveOver (s : State) (k : Nat) (c : CollDesc) : Bool :=
  match (s.chn.colls.filter fun r => r.key == k).getLast? with
  | none => false
  | some r =>
    dataAcked s r &&
      match c.op with
      | .gather => (List.range ((jobShape s).1 * (c.f / 4))).all r.sealed.contains
      | .reduce => (sliceKeys s c).all s.trn.quant.contains || decide (r.step < s.trn.cur)
      | .permute => match s.chn.perm with | some p => permuteOver s p | none => false

/-- The batch descriptor of an intake launch. -/
def intakeOf (s : State) (l : Launch) : Option IntakeBatch :=
  match s.plan with | some p => p.intakes[l.body]? | none => none

/-- Whether every slot of an intake batch has been written or marked corrupt (R294); a text batch is packed as well (R300). -/
def intakeOver (s : State) (k : Nat) (b : IntakeBatch) : Bool :=
  (!b.text || s.int.packed.contains k) && (List.range b.count).all fun i =>
    s.int.slots.any fun d => d.step == stepOf s (keyIter k) && d.m == b.m && d.slot == b.first + i

/-- Whether the launch of a unit is complete (Table 5.2). -/
def launchOver (s : State) (u k : Nat) (l : Launch) : Bool :=
  match l.kind with
  | .tile => true
  | .vector => true
  | .move => match moveOf s l with | some m => decide (m.count ≤ (unitOf s u).progress) | none => true
  | .sweep =>
    outcomeOf s (stepOf s (keyIter k)) != 0 &&
      (decide ((sweepWork s l).length ≤ (unitOf s u).progress) || decide (outcomeOf s (stepOf s (keyIter k)) > 2))
  | .collective => match collOf s l with | some c => collectiveOver s k c | none => true
  | .intake => match intakeOf s l with | some b => intakeOver s k b | none => true

/-- A permute that proceeded is adopted (R262, R278): layout, roles, count, event, and a new partner; stand-ins end for roles
that the new table no longer leaves lost. -/
def adoptPermute (s : State) : State :=
  match s.chn.perm with
  | none => s
  | some r =>
    if r.go = some true then
      let dig := roleDigest r.roles (getF s F.CHN_JOB_s) (getF s F.CHN_JOB_p)
      let s := setF (setF s F.CHN_ADOPTED_layout r.layout) F.CHN_ADOPTED_role_digest dig.toNat
      let s := { s with chn := { s.chn with roles := r.roles, perm := none, gone := [], loss := none } }
      let s := bumpF s F.CHN_PERMUTE_CNT_count 1
      let s := flag s F.CHN_STATUS_permute_done 8
      let keep := (standsFor s).filter fun a => isLost s a && isMember s a
      let s := setF s F.CHN_STANDIN_lost (keep.foldl (fun m a => m ||| 2 ^ a) 0)
      showPartner (setF s F.CHN_SURVIVE_stand_in_active (b2n !keep.isEmpty))
    else { s with chn := { s.chn with perm := none } }

/-- The unit is left by its launch. -/
def leaveUnit (s : State) (u k : Nat) : State :=
  if u < 512 then setArray s u { arrayOf s u with ready := (arrayOf s u).ready.filter (· != k) }
  else setUnit s u { unitOf s u with running := none, progress := 0 }

/-- What the completion of a kind does beyond the common part. -/
def kindDone (s : State) (u k : Nat) (l : Launch) : State :=
  match l.kind with
  | .vector =>
    match vectorOf s l with
    | some v =>
      let s := setRun s k { runOf s k with released := true }
      v.writes.foldl (fun s o => sealOutput s k o) s
    | none => s
  | .sweep =>
    let n := stepOf s (keyIter k)
    let s := sweepGoes s (u - 784)
    match s.plan with
    | some p =>
      let rest := (List.range p.launches.length).any fun i =>
        match p.launches[i]? with
        | some m => m.kind == .sweep && planKey (keyIter k) i != k && !(runOf s (planKey (keyIter k) i)).completed
        | none => false
      let o := outcomeOf s n
      if !rest && (o == 1 || o == 2) then commitStep s n o else s
    | none => s
  | .collective =>
    match collOf s l with
    | some c =>
      let s := if c.op = .permute then adoptPermute s else s
      let s := { s with chn := { s.chn with colls := s.chn.colls.filter fun r => r.key != k } }
      match c.op with
      | .gather => { s with chn := { s.chn with doneColls := s.chn.doneColls ++ [(l.body, keyIter k % 2 ^ 32)] } }
      | .reduce => { s with trn := { s.trn with normFrom := slot s + 1 } }
      | .permute => s
    | none => s
  | _ => s

/-- The stash of the forward pass is released when the backward pass of its micro-batch completes its last launch (R232). -/
def stashDone (s : State) (k : Nat) (l : Launch) : State :=
  if l.passLast && l.backward then releaseStash s fun p y => p.iter == keyIter k && y.backPass == l.pass else s

/-- The results of a batch (R326, R190): the output bytes of each row, or status 0x1 with no payload when a launch of the batch
read a poisoned frond. -/
def batchResults (s : State) (q : Nat) (b : BatchQueue) (r : BatchRun) : State :=
  let bad := (List.range b.listCount).any fun j => (runOf s (batchKey q r.number (b.listFirst + j))).poisoned
  let s := r.rows.zipIdx.foldl (fun s x =>
    writeResult s x.1.slot 1 (b2n bad) x.1.request (if bad then [] else rd s (b.outRegion + x.2 * b.outLen) b.outLen)) s
  let qr := queueOf s q
  setQueue s q { qr with batches := qr.batches.map fun x => if x.number = r.number then { x with resultDone := true } else x }

/-- The completion of a launch of a batch: the result launch writes the results, and the last launch frees the entries. -/
def batchDone (s : State) (k : Nat) : State :=
  match keyQueue k with
  | none => s
  | some q =>
    match queueDesc s q, batchOf s k with
    | some b, some r =>
      let s := if keyIdx k = b.resultLaunch && !r.resultDone then batchResults s q b r else s
      let allDone := (List.range b.listCount).all fun j => (runOf s (batchKey q r.number (b.listFirst + j))).completed
      if allDone then
        let qr := queueOf s q
        setQueue s q { qr with batches := qr.batches.filter fun x => x.number != r.number }
      else s
    | _, _ => s

/-- The plan turns ENDED when its last iteration is complete: every anchor is set and every anchored launch has completed
(R320). -/
def planDone (s : State) : State :=
  match s.plan with
  | none => s
  | some p =>
    if planState s == .running && p.iterations != 0 && decide (p.iterations ≤ s.lch.iter)
        && (openLaunches s).all (fun k => (keyQueue k).isSome || (runOf s k).completed) then setPlanState s .ended
    else s

/-! ### END, R321 -/

/-- The end of a host command: HST_CMD_STATUS and event source 0 (R321, R322; Table 12.19). -/
def commandResult (s : State) (code tag result : Nat) : State :=
  raise (setReg { s with host := { s.host with cmd := none } } Off.HST_CMD_STATUS
    (BitVec.ofNat 64 (tag % 2 ^ 48 + 2 ^ 48 * (code % 16) + 2 ^ 52 * result))) 0

/-- Whether a collective step or an intake batch is in flight. -/
def stepsInFlight (s : State) : Bool :=
  s.lch.units.any fun u => decide (800 ≤ u.1) && decide (u.1 < 808) && u.2.running.isSome

/-- Every accepted request completed with status 0x3, queue by queue: rows that wait, row copies under way, rows of batches. -/
def cancelRequests (s : State) : State :=
  let rows := s.arr.queues.flatMap fun q =>
    q.2.rows ++ q.2.copying ++ (q.2.batches.filter fun b => !b.resultDone).flatMap (·.rows)
  let s := { s with arr := { s.arr with queues := [] } }
  rows.foldl (fun s r => writeResult s r.slot 1 3 r.request []) s

/-- HOLD causes cleared; the module leaves HOLD when none is left, with the slot noted for R148 (R387). -/
def clearCauses (s : State) (mask : Nat) : State :=
  let p := getF s F.SAF_HOLD_pending
  let q := p - (p &&& mask)
  if p = 0 then s
  else
    let s := setF s F.SAF_HOLD_pending q
    if q = 0 then { setF s F.SAF_HOLD_first 0 with lch := { s.lch with holdEnd := slot s } } else s

/-- END completes: requests, frond table, plan, stop and the plan-bound HOLD causes 5 and 6. -/
def finishEnd (s : State) : State :=
  let tag := getF s F.HST_CMD_STATUS_tag
  let s := cancelRequests s
  let n := 16 * ftCount s
  let s := clearBytes (clearBytes s (ftPrimary s 0) n) (ftMirror s 0) n
  let l := s.lch
  let s := { s with plan := none,
                    lch := { LchState.init with skipped := l.skipped, flags := l.flags, signals := l.signals, clearReq := l.clearReq,
                                                numClear := l.numClear, refFault := l.refFault, holdEnd := l.holdEnd, seals := l.seals },
                    arr := { s.arr with banks := [], restarts := [], arrays := s.arr.arrays.map fun a =>
                      (a.1, { a.2 with feeding := none, step := 0, drains := [], rerun := [], ready := [] }) },
                    chn := { s.chn with colls := [], perm := none, reqs := [] },
                    trn := { TrnState.init with fencedUpd := s.trn.fencedUpd },
                    int := IntState.init,
                    host := { s.host with reports := [], planHash := [] } }
  let s := setPlanState (setF (endActivity s ⟨5, 0, 0⟩) F.HST_STATUS_stop_in_force 0) .empty
  commandResult (clearCauses s 0x60) 5 tag 1

/-- A pending END completes once nothing that it waits for is in flight. -/
def endIfIdle (s : State) : State := if s.host.cmd = some 5 ∧ stepsInFlight s = false then finishEnd s else s

/-- The completion of a launch. -/
def complete (s : State) (u k : Nat) (l : Launch) : State :=
  let s := leaveUnit s u k
  let s := setRun s k { runOf s k with completed := true, doneSlot := slot s }
  let s := kindDone s u k l
  let s := scheduleSignals s k l
  let s := phaseDone (launchOps s k) k l
  endIfIdle (planDone (batchDone (stashDone s k l) k))

/-- The unit's launch completes when its work is done. -/
def completeStep (s : State) (u : Nat) : State :=
  match finishing s u with
  | none => s
  | some k =>
    match launchOf s k with
    | some l => if launchOver s u k l && !(runOf s k).completed then complete s u k l else s
    | none => s

/-- LAUNCH_COMPLETE (R137). -/
def execLaunchComplete (u : Nat) (s : State) : Host.Outcome State Fault Refusal := settle s (completeStep s u)

/-- A launch that issues; a void or passed-over launch completes at once (R230, R233). -/
def issueAll (s : State) (k : Nat) : State :=
  let t := issueAndStart s k
  match launchOf t k with
  | some l =>
    if (runOf t k).completed && !(runOf s k).completed then planDone (batchDone (stashDone (phaseDone t k l) k l) k) else t
  | none => t

/-- LAUNCH_ISSUE (R139). -/
def execLaunchIssue (k : Nat) (s : State) : Host.Outcome State Fault Refusal := settle s (issueAll s k)

end Sys2Proof.Machine
end

