-- ==== Sys2Proof/Machine/Link.lean ====
section
/-!
DEFINITION. Ports and the link layer (R237 to R239), chain addressing (R240 to R243), healing (R249, R395) and the loss of a
module (R269 to R277): FLIT_RECEIVE, REPLAY_REQUEST, IDLE_FLIT, PORT_DOWN, PORT_TRAINING, ADDRESS_TOKEN, CLOSURE, ERROR_NOTICE,
ADDRESSING_TIMEOUT, SKIP_PROBE, SKIP_PROBE_TIMEOUT, REJOIN_TOKEN, REJOIN_CHECK, HEAL_NOTICE, LINK_RETRAIN, LOSS_REPORT and
LOSS_REPORT_TIMEOUT. Ports: 0 W, 1 E, 2 W2, 3 E2. On a port the module shows one-hop messages by their kind of Table 9.5, flits
without message data as kind 0x100 plus their type, a replay as 0x103, and a rejoin check as 0x107.
-/

namespace Sys2Proof.Machine

/-! ### Losing a module, R269 to R277 -/

/-- A loss that the job does not survive (Table 10.1): fault 0x1E, HOLD cause 9. -/
def lossHold (s : State) : State := holdFault s 0x1E 9 0 0 0

/-- Loss reports missing or in disagreement (R270). -/
def reportFault (s : State) : State := lossHold (flag s F.CHN_SURVIVE_report_fault 8)

/-- A full step number from its low 32 bits, when it is the current step or the one after (R248). -/
def nearStep (s : State) (n : Nat) : Option Nat :=
  if n % 2 ^ 32 = s.trn.cur % 2 ^ 32 then some s.trn.cur
  else if n % 2 ^ 32 = (s.trn.cur + 1) % 2 ^ 32 then some (s.trn.cur + 1)
  else none

/-- A norm message kept (R248, R272): of step n or n + 1; one that its source sent before its loss report is marked. -/
def normIn (s : State) (src n pos : Nat) (loss grad abort : Bool) (part : Word32) : State :=
  match nearStep s n with
  | some m =>
    let stale := match s.chn.loss with | some l => src != l.lost && !l.heard.contains src && src != myAddr s | none => false
    keepNorm s ⟨m, src, pos, loss, grad, abort, part, stale⟩
  | none => s

/-- A norm message body (Table 7.4) taken in. -/
def normBodyIn (s : State) (b : List Byte) : State :=
  let w := wordAt b 0
  normIn s (bits w 37 32) (bits w 31 0) (bits w 43 38) (bit w 44) (bit w 45) (bit w 46) (BitVec.ofNat 32 (bits (wordAt b 1) 31 0))

/-- The stand-ins of the lost roles: the module's own duties in CHN_STANDIN (R273, R276). -/
def showStandIns (s : State) : State :=
  let mine := (List.range 64).filter fun a => isLost s a && isMember s a && partnerOf s a == some (myAddr s)
  let s := setF s F.CHN_STANDIN_lost (mine.foldl (fun m a => m ||| 2 ^ a) 0)
  setF s F.CHN_SURVIVE_stand_in_active (b2n !mine.isEmpty)

/-- The partner fetches that a lost module leaves open are sent again to the new partner, or fail (R276). -/
def reissueFetches (s : State) (lost : Nat) : State :=
  (s.trn.fetches.filter fun j => j.src == lost && j.why != 1).foldl (fun s j =>
    match partnerOf s (myAddr s) with
    | some a =>
      let s := { s with trn := { s.trn with fetches := s.trn.fetches.map fun x => if x.tag = j.tag then { x with src := a } else x } }
      postMsg s 0x13 a (wordBytes [j.frond % 2 ^ 32 + 2 ^ 32 * j.tag, j.step.toNat])
    | none => if j.why = 0 then fetchFailed s j.frond
      else flag { s with trn := { s.trn with fetches := s.trn.fetches.filter fun x => x.why != 2 } } F.UPD_SURVIVE_STATUS_repair_hold 7) s

/-- Gathers under way that turn to direct form, and those a stand-in serves (R273, R275): every B8 frond of the own slice goes
straight to every receiver. -/
def directGathers (s : State) : State :=
  (s.chn.colls.filter fun r => match descOf s r.desc with | some c => c.op == .gather | none => false).foldl (fun s r =>
    match descOf s r.desc with
    | some c =>
      let direct := groupLost s
      let dests := (if direct && !r.direct then gatherTargets s c true else []) ++ standTargets s
      if dests.isEmpty then s
      else
        let r := (List.range (c.f / 4)).foldl (fun (r : CollRun) j =>
          let im := (gatherB8 s r c j).1
          dests.foldl (fun r t => sendData s r t.1 t.2 0 1 (myPos s * (c.f / 4) + j) im) r) { r with direct := r.direct || direct }
        let s := dests.foldl (fun s t => match addrOfRole s t.1 t.2 with
          | some a => sendCredit s a r.desc r.iter c.recv
          | none => s) s
        pump s r
    | none => s) s

/-- The steps not yet decided that no survivor holds the lost module's norm message for are dropped (R271, R272), once every loss
report is in. -/
def classify (s : State) : State :=
  match s.chn.loss with
  | none => s
  | some l =>
    if !l.open0 || !(others s).all l.heard.contains then s
    else
      let holds := fun n => s.trn.norms.any fun r => r.source == l.lost && r.step == n
      let n := s.trn.cur
      let last := getF s F.UPD_STEP_step
      let dropped := if !holds n then some n else if n + 1 ≤ last && !holds (n + 1) then some (n + 1) else none
      let s := { s with chn := { s.chn with loss := some { l with open0 := false, dropped := dropped } } }
      match dropped with
      | some m =>
        if isTraining s then
          setF (setF (setF s F.CHN_LOSS_dropped 1) F.CHN_LOSS_step m) F.CHN_SURVIVE_step_dropped 1
        else s
      | none => s

/-- One loss report taken in (R270): the norm messages it carries, and its stand-in; norm messages that its reporter sent before it
count no longer in a dropped step. -/
def reportIn (s : State) (reporter lost standIn : Nat) (norms : List (List Byte)) : State :=
  match s.chn.loss with
  | some l =>
    if l.lost = lost && !l.heard.contains reporter then
      let s := norms.foldl (fun s b =>
        let w := wordAt b 0
        if s.trn.norms.any fun r => r.source == lost && r.step % 2 ^ 32 == bits w 31 0 then s else normBodyIn s b) s
      let s := { s with trn := { s.trn with norms := s.trn.norms.map fun r => if r.source = reporter then { r with stale := true } else r },
                        chn := { s.chn with loss := some { l with heard := l.heard ++ [reporter] } } }
      classify (if standIn = l.standIn then s else reportFault s)
    else s
  | none => s

/-- The body of the module's own loss report (R270). -/
def reportBody (s : State) (lost standIn : Nat) : List Byte :=
  let ns := [s.trn.cur, s.trn.cur + 1].filterMap fun n => s.trn.norms.find? fun r => r.source == lost && r.step == n
  wordBytes [lost + 2 ^ 6 * myAddr s + 2 ^ 12 * standIn + 2 ^ 18 * ns.length, s.trn.cur % 2 ^ 32] ++ ns.flatMap NormRec.body

/-- The loss boundary of a survivor (R269, R276, R277). -/
def lossBoundary (s : State) (lost : Nat) : State :=
  let second := match s.chn.loss with | some l => l.open0 && l.lost != lost | none => false
  let wasPartner := hasF s F.CHN_PARTNER_valid && getF s F.CHN_PARTNER_address == lost
  let s := { s with chn := { s.chn with unacked := s.chn.unacked.filter (·.dest != lost), gone := FMap.set false s.chn.gone lost true } }
  let s := flag s F.CHN_SURVIVE_loss_seen 8
  let stand := partnerOf s lost
  let s := setF (setF (setF (setF s F.CHN_LOSS_lost lost) F.CHN_LOSS_stand_in (stand.getD 0)) F.CHN_LOSS_dropped 0) F.CHN_LOSS_step 0
  let s := showStandIns (showPartner s)
  let s := if wasPartner && hasF s F.CHN_PARTNER_valid then flag s F.CHN_SURVIVE_repartnered 8 else s
  let s := reissueFetches s lost
  let s := { s with
    chn := { s.chn with loss := some ⟨lost, slot s, stand.getD 0, [], none, true⟩ },
    trn := { s.trn with norms := s.trn.norms.map fun r => if r.source = myAddr s then { r with stale := true } else r } }
  let s := postAll s 0x17 (others s) fun _ => reportBody s lost (stand.getD 0)
  let s := directGathers s
  let early := s.chn.reports.filter fun r => r.2.1 == lost
  let s := { s with chn := { s.chn with reports := s.chn.reports.filter fun r => r.2.1 != lost } }
  let s := early.foldl (fun s r => reportIn s r.1 r.2.1 r.2.2.1 r.2.2.2) (classify s)
  let s := if stand.isNone then lossHold s else s
  let s := if second then reportFault s else s
  match s.chn.perm with
  | some p => if p.go = some true then lossHold s else s
  | none => s

/-- LOSS_REPORT (R270); a report that comes before the module's own loss boundary waits for it. -/
def lossReport (s : State) (reporter lost standIn : Nat) (norms : List (List Byte)) : State :=
  let known := match s.chn.loss with | some l => l.lost == lost | none => false
  if known then reportIn s reporter lost standIn norms
  else { s with chn := { s.chn with reports := s.chn.reports ++ [(reporter, lost, standIn, norms)] } }

def execLossReport (reporter lost standIn _step : Nat) (norms : List (List Byte)) (s : State) : Host.Outcome State Fault Refusal :=
  settle s (lossReport s reporter lost standIn norms)

/-- LOSS_REPORT_TIMEOUT (R270): a report is missing 1 ms after the loss boundary. -/
def reportTimeout (s : State) : State :=
  match s.chn.loss with
  | some l => if l.open0 && decide (l.at0 + 3907 ≤ slot s) then reportFault s else s
  | none => s

def execLossReportTimeout (s : State) : Host.Outcome State Fault Refusal := settle s (reportTimeout s)

/-! ### Healing, R249 -/

/-- Every message not acknowledged whose route changed is resent and counted (R247). -/
def resendChanged (old s : State) : State :=
  s.chn.unacked.foldl (fun s u =>
    let sk := skips s u.msg.kind u.msg.body
    if route old u.dest sk == route s u.dest sk then s
    else
      let s := { s with chn := { s.chn with unacked := s.chn.unacked.map fun x =>
        if x.dest = u.dest ∧ x.seq = u.seq then { x with sent := slot s } else x } }
      transmit (bumpF s F.CHN_RESEND_CNT_count 1) u.msg) s

/-- The lost modules follow the lost links: a module whose links on both sides are lost (R249). The module itself is left out. -/
def showLost (s : State) : State × List Nat :=
  let n := chainLen s
  let lost := (List.range n).filter fun a => a != myAddr s && linkLost s a && linkLost s ((a + n - 1) % n)
  let fresh := lost.filter fun a => !(getF s F.CHN_LOST_lost).testBit a
  (setF s F.CHN_LOST_lost (lost.foldl (fun m a => m ||| 2 ^ a) 0), fresh)

/-- A link marked lost or restored (R249): the registers, the routes, and the modules that are lost with it. -/
def markLink (s : State) (link reporter : Nat) (restored : Bool) : State :=
  let old := s
  let s := { s with chn := { s.chn with lost := FMap.set false s.chn.lost link (!restored) } }
  let s := setF (setF (setF s F.CHN_HEAL_link link) F.CHN_HEAL_restored (b2n restored)) F.CHN_HEAL_reporter reporter
  let s := setF (setF s F.CHN_HEAL_SLOT_slot (slot s)) F.CHN_STATUS_heal_seen 1
  let (s, fresh) := showLost s
  let s := if fresh.isEmpty then s else flag s F.CHN_STATUS_module_lost 8
  let s := fresh.foldl (fun s a => if isMember s a && isMember s (myAddr s) then lossBoundary s a else s) s
  resendChanged old s

/-- A heal notice on every port that carries (R249). -/
def sendHeal (s : State) (link reporter : Nat) (restored : Bool) : State :=
  (List.range 4).foldl (fun s k =>
    if portUp s k then postHop s k 0x06 (link + 64 * b2n restored + 128 * reporter) 0 else s) s

/-- A heal notice received (R249): a change that the module has not seen is marked and passed on. -/
def healIn (s : State) (link reporter : Nat) (restored : Bool) : State :=
  let s := bumpF s F.CHN_MSG_RX_count 1
  if chainLen s ≤ link || linkLost s link == !restored then s
  else sendHeal (markLink s link reporter restored) link reporter restored

/-- HEAL_NOTICE (R249). -/
def execHealNotice (link reporter : Nat) (restored : Bool) (s : State) : Host.Outcome State Fault Refusal :=
  settle s (healIn s link reporter restored)

/-! ### Addressing, R240 to R243 -/

/-- The strap CHAIN_HEAD as latched. -/
def isHead (s : State) : Bool := hasF s F.CHN_ADDR_head

/-- Whether addressing is still open: no closure seen and no error recorded. -/
def addressing (s : State) : Bool := !s.chn.closed && getF s F.CHN_ADDR_error == 0

/-- An addressing error (R241): the code, chain_error, no chain address, and the notice on port E. -/
def addrError (s : State) (code : Nat) : State :=
  if getF s F.CHN_ADDR_error = 0 then
    let sender := myAddr s
    let s := setF (setF s F.CHN_ADDR_error code) F.CHN_STATUS_addressed 0
    postHop (flag s F.CHN_STATUS_chain_error 8) 1 0x03 (code + 16 * sender) 0
  else s

/-- ERROR_NOTICE (R241): recorded unless another code is, and forwarded until it is back at its sender. -/
def errorIn (s : State) (code sender : Nat) : State :=
  let s := bumpF s F.CHN_MSG_RX_count 1
  if code = 0 ∨ 6 < code then s
  else
    let had := getF s F.CHN_ADDR_error
    let s := if had = 0 then
        flag (setF (setF s F.CHN_ADDR_error code) F.CHN_STATUS_addressed 0) F.CHN_STATUS_chain_error 8
      else s
    if had = code && sender == myAddr s then s else postHop s 1 0x03 (code + 16 * sender) 0

def execErrorNotice (code sender : Nat) (s : State) : Host.Outcome State Fault Refusal := settle s (errorIn s code sender)

/-- The feed of the module goes to every address below N (R265). -/
def announceFeed (s : State) : State :=
  let me := myAddr s
  let f := getF s F.CHN_PARTNER_own_feed
  let s := setReg s (Off.CHN_FEED (me / 8)) (setBits (setBits (getReg s (Off.CHN_FEED (me / 8))) (8 * (me % 8) + 2) (8 * (me % 8)) f)
    (8 * (me % 8) + 7) (8 * (me % 8) + 7) 1)
  postAll s 0x16 ((List.range (chainLen s)).filter (· != me)) fun _ => wordBytes [f + 8 * me]

/-- Skip probes go out when N is 3 or more, else W2 and E2 are unused (R242). -/
def sendProbes (s : State) : State :=
  if 3 ≤ chainLen s then
    (List.range 2).foldl (fun s k => if portUp s (2 + k) then postHop s (2 + k) 0x04 (myAddr s) 0 else s) s
  else setPort (setPort s 2 3) 3 3

/-- The address and N stand (R240 step 5): addressed, probes, feed announces. -/
def closeChain (s : State) (n : Nat) : State :=
  let s := setF (setF s F.CHN_ADDR_length n) F.CHN_STATUS_addressed 1
  let s := { s with chn := { s.chn with closed := true, closedAt := slot s } }
  announceFeed (sendProbes s)

/-- The serial number that the head sends as its origin. -/
def mySerial (s : State) : Word := getReg s Off.SEC_SERIAL

/-- ADDRESS_TOKEN (R240, R241). -/
def tokenIn (s : State) (port value : Nat) (origin : Word) : State :=
  let s := bumpF s F.CHN_MSG_RX_count 1
  if !addressing s then s
  else if port = 1 then addrError s 4
  else if port ≠ 0 then s
  else if isHead s then
    if origin ≠ mySerial s then addrError s 2
    else if s.chn.tokenAt.isNone || value = 0 || 64 < value then s
    else closeChain (postHop (setF s F.CHN_ADDR_address 0) 1 0x02 value origin) value
  else
    match s.chn.origin with
    | some o => if o = origin then s else addrError s 2
    | none =>
      if 64 ≤ value then addrError s 3
      else
        let s := { s with chn := { s.chn with origin := some origin, tokenAt := some (slot s) } }
        postHop (setF s F.CHN_ADDR_address value) 1 0x01 (value + 1) origin

def execAddressToken (port value : Nat) (origin : Word) (s : State) : Host.Outcome State Fault Refusal :=
  settle s (tokenIn s port value origin)

/-- CLOSURE (R240 step 5, R241). -/
def closureIn (s : State) (port n : Nat) (origin : Word) : State :=
  let s := bumpF s F.CHN_MSG_RX_count 1
  if getF s F.CHN_ADDR_error ≠ 0 then s
  else if port = 1 then addrError s 4
  else if port ≠ 0 then s
  else if isHead s then (if s.chn.closed && n = chainLen s then s else addrError s 4)
  else if s.chn.closed then (if n = chainLen s then s else addrError s 4)
  else if s.chn.origin ≠ some origin || n ≤ myAddr s then addrError s 4
  else closeChain (postHop s 1 0x02 n origin) n

def execClosure (port n : Nat) (origin : Word) (s : State) : Host.Outcome State Fault Refusal := settle s (closureIn s port n origin)

/-- 2 s in slots of 256 ns. -/
def twoSeconds : Nat := 7812500

/-- ADDRESSING_TIMEOUT (Table 9.3): no_head or no_closure. -/
def addressingTimeout (s : State) : State :=
  if !addressing s then s
  else if isHead s then
    match s.chn.tokenAt with
    | some t => if t + twoSeconds ≤ slot s then addrError s 6 else s
    | none => s
  else
    match s.chn.trainAt with
    | some t => if s.chn.origin.isNone && decide (t + twoSeconds ≤ slot s) then addrError s 1 else s
    | none => s

def execAddressingTimeout (s : State) : Host.Outcome State Fault Refusal := settle s (addressingTimeout s)

/-- A skip port marked unused (R242). -/
def skipFault (s : State) (port : Nat) : State := setPort (setF s F.CHN_STATUS_skip_fault 1) port 3

/-- The address two places away on a skip port. -/
def skipNeighbour (s : State) (port : Nat) : Nat :=
  let n := chainLen s
  if port = 2 then (myAddr s + 2 * n - 2) % n else (myAddr s + 2) % n

/-- SKIP_PROBE (R242). -/
def probeIn (s : State) (port sender : Nat) : State :=
  let s := bumpF s F.CHN_MSG_RX_count 1
  if !s.chn.closed || chainLen s < 3 || (port ≠ 2 ∧ port ≠ 3) then s
  else if sender = skipNeighbour s port then
    { s with chn := { s.chn with probed := if s.chn.probed.contains port then s.chn.probed else s.chn.probed ++ [port] } }
  else skipFault s port

def execSkipProbe (port sender : Nat) (s : State) : Host.Outcome State Fault Refusal := settle s (probeIn s port sender)

/-- SKIP_PROBE_TIMEOUT (R242): 100 ms, 390,625 slots, after the closure. -/
def probeTimeout (s : State) (port : Nat) : State :=
  if s.chn.closed && decide (3 ≤ chainLen s) && (port == 2 || port == 3) && !s.chn.probed.contains port
      && decide (s.chn.closedAt + 390625 ≤ slot s) && getF s (F.CHN_PORT_state port) != 3 then skipFault s port
  else s

def execSkipProbeTimeout (port : Nat) (s : State) : Host.Outcome State Fault Refusal := settle s (probeTimeout s port)

/-- REJOIN_TOKEN (R243): a module without an address takes it, sends skip probes and a rejoin check. -/
def rejoinIn (s : State) (addr n : Nat) (origin : Word) : State :=
  let s := bumpF s F.CHN_MSG_RX_count 1
  if s.chn.closed || n = 0 || 64 < n || n ≤ addr then s
  else
    let s := setF (setF (setF s F.CHN_ADDR_address addr) F.CHN_ADDR_length n) F.CHN_ADDR_error 0
    let s := setF s F.CHN_STATUS_addressed 1
    let s := { s with chn := { s.chn with closed := true, closedAt := slot s, origin := some origin, rejoined := false } }
    postHop (sendProbes s) 1 0x107 addr 0

def execRejoinToken (addr n : Nat) (origin : Word) (s : State) : Host.Outcome State Fault Refusal := settle s (rejoinIn s addr n origin)

/-- REJOIN_CHECK (R243): the E neighbour's own address is the rejoining address + 1 mod N, or the module declares a wiring error. -/
def rejoinCheck (s : State) (e : Nat) : State :=
  if !s.chn.closed || s.chn.rejoined then s
  else if e = (myAddr s + 1) % chainLen s then announceFeed { s with chn := { s.chn with rejoined := true } }
  else addrError s 4

def execRejoinCheck (e : Nat) (s : State) : Host.Outcome State Fault Refusal := settle s (rejoinCheck s e)

/-! ### Ports, R237 to R240, R395 -/

/-- The link die of a port. -/
def portDie (k : Nat) : Nat := 88 + k

/-- Whether the ports stand in their order of training: the head's token goes out once port E has trained (R240 step 2). -/
def headToken (s : State) : State :=
  if isHead s && addressing s && s.chn.tokenAt.isNone && portUp s 1 then
    postHop { s with chn := { s.chn with tokenAt := some (slot s) } } 1 0x01 1 (mySerial s)
  else s

/-- PORT_TRAINING (R240): a port that has not trained is down; a head whose ports W and E both fail takes N = 1. -/
def trainPort (s : State) (k : Nat) (trained : Bool) : State :=
  if 4 ≤ k || portUp s k || getF s (F.CHN_PORT_state k) = 3 || (portRun s k).failed then s
  else if trained then
    let s := setPortRun (setPort s k 2) k { PortRun.fresh with lastGood := slot s }
    let s := if k = 0 then { s with chn := { s.chn with trainAt := some (slot s) } } else s
    if (k = 0 ∨ k = 1) ∧ (portRun s (1 - k)).failed = true ∧ addressing s = true then addrError s 5 else headToken s
  else
    let s := setPortRun (setPort s k 0) k { PortRun.fresh with failed := true }
    let s := runFault s 0x1D (portDie k) 0 0
    if k ≤ 1 && addressing s then
      if isHead s then
        if (portRun s (1 - k)).failed then closeChain (setF s F.CHN_ADDR_address 0) 1
        else if portUp s (1 - k) then addrError s 5 else s
      else addrError s 5
    else s

/-- PORT_TRAINING (R240). Ports train once their link dies have passed phase 5 (R337). -/
def execPortTraining (k : Nat) (trained : Bool) (s : State) : Host.Outcome State Fault Refusal :=
  settle s (if phaseEnded s 5 then trainPort s k trained else s)

/-- The link that a primary port joins: E the module's own, W that of its W neighbour. -/
def linkOf (s : State) (k : Nat) : Nat :=
  if k = 1 then myAddr s else (myAddr s + chainLen s - 1) % chainLen s

/-- A port goes down (R239, R241, R249): fault 0x1D, the retrain request, and the healing of its link. -/
def portDown (s : State) (k : Nat) : State :=
  if 4 ≤ k || !(portUp s k || getF s (F.CHN_PORT_state k) == 1) then s
  else
    let s := runFault (setPort s k 0) 0x1D (portDie k) 0 0
    let s := if hasF s F.SAF_POLICY_auto_retrain then requestActivity s ⟨3, 0, k⟩ else s
    if k ≤ 1 then
      if s.chn.closed then
        if chainLen s ≤ 1 || linkLost s (linkOf s k) then s
        else sendHeal (markLink s (linkOf s k) (myAddr s) false) (linkOf s k) (myAddr s) false
      else if addressing s then addrError s 5 else s
    else s

/-- PORT_DOWN (R239). -/
def execPortDown (k : Nat) (s : State) : Host.Outcome State Fault Refusal := settle s (portDown s k)

/-- LINK_RETRAIN (R395, R249, R243): the activity ends; a port that trained is up, its link is restored, and a neighbour that
comes back without an address gets a rejoin token. -/
def linkRetrain (s : State) (k : Nat) (trained : Bool) : State :=
  if s.maint.running.contains ⟨3, 0, k⟩ then
    let s := bumpF (endActivity s ⟨3, 0, k⟩) (F.CHN_PORT_retrains k) 1
    if trained then
      let s := setPortRun (setPort s k 2) k { PortRun.fresh with lastGood := slot s }
      if s.chn.closed && decide (k ≤ 1) && linkLost s (linkOf s k) then
        let e := (myAddr s + 1) % chainLen s
        let s := if k = 1 && (getF s F.CHN_LOST_lost).testBit e then
            postHop s 1 0x05 (e + 64 * chainLen s) (if isHead s then mySerial s else s.chn.origin.getD 0)
          else s
        sendHeal (markLink s (linkOf s k) (myAddr s) true) (linkOf s k) (myAddr s) true
      else s
    else setPort s k 0
  else s

def execLinkRetrain (k : Nat) (trained : Bool) (s : State) : Host.Outcome State Fault Refusal := settle s (linkRetrain s k trained)

/-- REPLAY_REQUEST (R239): counted; the flits behind the one named in ack go out again, and the 64th replay of one flit takes the
port down. -/
def replayIn (s : State) (k ack : Nat) : State :=
  if 4 ≤ k || !portUp s k then s
  else
    let s := bumpF s (F.CHN_PORT_replays k) 1
    let r := portRun s k
    let first := (ack + 1) % 2 ^ 24
    if first = r.txSeq || 512 < (r.txSeq + 2 ^ 24 - first) % 2 ^ 24 then s
    else
      let n := if r.replayOf = first + 1 then r.replays + 1 else 1
      let s := send (setPortRun s k { r with replayOf := first + 1, replays := n }) (.link k 0x103 first 0)
      if 64 ≤ n then portDown s k else s

def execReplayRequest (k ack : Nat) (s : State) : Host.Outcome State Fault Refusal := settle s (replayIn s k ack)

/-- FLIT_RECEIVE (R239): a flit that fails its CRC is dropped and a replay requested; a good one in order is delivered once. -/
def flitIn (s : State) (k : Nat) (crcOk : Bool) (ftype seq ack : Nat) : State :=
  if 4 ≤ k || !portUp s k then s
  else
    let r := portRun s k
    if !crcOk then
      send (bumpF s (F.CHN_PORT_crc_fail k) 1) (.link k 0x102 ((r.rxNext + 2 ^ 24 - 1) % 2 ^ 24) 0)
    else
      let s := setPortRun s k { r with lastGood := slot s, rxNext := if seq = r.rxNext then (seq + 1) % 2 ^ 24 else r.rxNext }
      if seq = r.rxNext && ftype = 2 then replayIn s k ack else s

def execFlitReceive (k : Nat) (crcOk : Bool) (ftype seq ack : Nat) (s : State) : Host.Outcome State Fault Refusal :=
  settle s (flitIn s k crcOk ftype seq ack)

/-- IDLE_FLIT (R239). -/
def idleFlit (s : State) (k : Nat) : State :=
  if 4 ≤ k || !portUp s k then s
  else
    let r := portRun s k
    send (setPortRun s k { r with txSeq := (r.txSeq + 1) % 2 ^ 24 }) (.link k 0x100 r.txSeq 0)

def execIdleFlit (k : Nat) (s : State) : Host.Outcome State Fault Refusal := settle s (idleFlit s k)

end Sys2Proof.Machine
end

