-- ==== Sys2Proof/Machine/Chain.lean ====
section
/-!
DEFINITION. Chain messages (R244 to R248): ACKNOWLEDGEMENT, ACK_SEND, MESSAGE_RESEND, MESSAGE_DELIVER, MESSAGE_FORWARD, SYNC, NORM,
PARTNER_REQUEST, PARTNER_REPLY, FEED_ANNOUNCE and COUNT. MESSAGE_DELIVER is a message with its frame; the commands named after
a kind are the effect of a message of that kind that has passed the transport (log entry 22).
-/

namespace Sys2Proof.Machine

/-! ### Content of a message -/

/-- SYNC (R151): the amount is added at the effect boundary, or the message is dropped. -/
def syncIn (s : State) (obj amount : Nat) : State :=
  if (syncFlags s obj).imp then signal s obj amount
  else setF (bumpF s F.LCH_IMPORT_DROP_count 1) F.LCH_STATUS_import_dropped 1

def execSyncMsg (_src obj : Nat) (amount : Word) (s : State) : Host.Outcome State Fault Refusal := settle s (syncIn s obj amount.toNat)

/-- NORM (R248). -/
def execNormMsg (src n pos : Nat) (loss grad abort : Bool) (part : Word32) (s : State) : Host.Outcome State Fault Refusal :=
  settle s (normIn s src n pos loss grad abort part)

/-- PARTNER_REQUEST (R248): answered, or left to wait while the frond is in move. -/
def requestIn (s : State) (src id tag : Nat) : State :=
  if (ftGet s id).valid && (ftGet s id).inMove then
    { s with chn := { s.chn with reqs := s.chn.reqs ++ [(src, id, tag)] } }
  else answerRequest s src id tag

def execPartnerRequest (src id tag : Nat) (_step : Word) (s : State) : Host.Outcome State Fault Refusal :=
  settle s (requestIn s src id tag)

/-- A fetch job taken off the list. -/
def dropFetch (s : State) (tag : Nat) : State :=
  { s with trn := { s.trn with fetches := s.trn.fetches.filter fun j => j.tag != tag } }

/-- The owner that a repair asks after one whose copy did not serve, in ascending group order (R281 step 2); for a majority repair
only owners of the same digest. -/
def nextOwner (s : State) (j : FetchJob) : Option Nat :=
  let rest := ((ownersByGroup s).dropWhile (· != j.src)).drop 1
  match (ownShards s).find? fun h => h.stateFronds.contains j.frond with
  | some h =>
    let d := digestOf s h.id (s.trn.committed - 1)
    if d.method = 1 then
      let want := (d.got.find? fun g => g.1 == j.src).map (·.2)
      rest.find? fun a => (d.got.find? fun g => g.1 == a).map (·.2) == want
    else rest.head?
  | none => rest.head?

/-- A copy that does not serve: a partner fetch fails (R189); a digest repair asks the next owner and fails after the last (R281); a
group repair fails (R282). -/
def replyBad (s : State) (j : FetchJob) : State :=
  match j.why with
  | 0 => fetchFailed s j.frond
  | 1 =>
    match nextOwner s j with
    | some a => repairFetch (dropFetch s j.tag) a 1 j.step.toNat j.frond
    | none => repairHold (dropFetch s j.tag)
  | _ => flag { s with trn := { s.trn with fetches := s.trn.fetches.filter fun x => x.why != 2 } } F.UPD_SURVIVE_STATUS_repair_hold 7

/-- A good copy: written where it was wanted and sealed (R189, R281, R282); a move that waited switches there. -/
def replyGood (s : State) (j : FetchJob) (image : List Byte) : State :=
  let s := dropFetch s j.tag
  let a := if j.why = 0 then j.place else homeOf s j.frond
  let s := sealAt (wr (breakSeal s a) a image) a
  let s := if j.why = 0 then bumpF s F.MEM_PARTNER_FETCH_CNT_count 1 else ftSet s j.frond { ftGet s j.frond with poisoned := false }
  if j.why = 0 && j.move then switchHome s j.frond a else s

/-- PARTNER_REPLY (R189): step and check verified. -/
def replyIn (s : State) (id tag status : Nat) (data : List Byte) : State :=
  match s.trn.fetches.find? fun j => j.tag == tag && j.frond == id with
  | none => s
  | some j =>
    let f := (ftGet s id).fmt
    let h := Header.ofBytes ((data.drop payloadLen).take 64)
    let good := status == 0 && data.length == f.imageLen && h.step == j.step && frondCheck data == h.check
    answerWaiting (if good then replyGood s j data else replyBad s j)

def execPartnerReply (id tag status : Nat) (data : List Byte) (s : State) : Host.Outcome State Fault Refusal :=
  settle s (replyIn s id tag status data)

/-- FEED_ANNOUNCE (R265): recorded; the partner follows the feeds (R264). -/
def feedIn (s : State) (sender feed : Nat) : State :=
  let a := sender % 64
  let o := Off.CHN_FEED (a / 8)
  let j := a % 8
  let s := setReg s o (setBits (setBits (getReg s o) (8 * j + 2) (8 * j) feed) (8 * j + 7) (8 * j + 7) 1)
  showPartner s

def execFeedAnnounce (sender feed : Nat) (s : State) : Host.Outcome State Fault Refusal := settle s (feedIn s sender feed)

/-- COUNT (R304): the local count of a member for the current step or the next. -/
def countIn (s : State) (src n c : Nat) : State :=
  match nearStep s n with
  | some m => { s with trn := { s.trn with counts := (s.trn.counts.filter fun x => !(x.1 == src && x.2.1 == m)) ++ [(src, m, c)] } }
  | none => s

def execCountMsg (src n : Nat) (c : Word) (s : State) : Host.Outcome State Fault Refusal := settle s (countIn s src n c.toNat)

/-! ### Acknowledgements and resends, R247 -/

/-- Whether the module stays an owner of a shard that a permute moves. -/
def staysOwner (s : State) (id : Nat) : Bool :=
  match s.chn.perm with
  | some r =>
    match s.plan with
    | some p => match p.layouts[r.layout]? with
      | some y => y.shards.any fun h => (permFronds h).any (fun x => x.1 == id) &&
          (let e := FMap.get 0 r.roles (myAddr s); e.testBit 12 && e / 64 % 64 == h.position)
      | none => true
    | none => true
  | none => true

/-- The old owner clears the entry of a moved frond once every new owner has acknowledged it (R262 step 4). -/
def clearMoved (s : State) (id : Nat) : State :=
  let waits := s.chn.unacked.any fun u => u.msg.kind == 0x20 && bits (wordAt u.msg.body 1) 2 0 == 4 && bits (wordAt u.msg.body 1) 63 32 == id
  let unsent := match s.chn.perm with
    | some r => (permMoves s r).any fun mv => mv.2.1 == myAddr s && (permFronds mv.1).any (fun x => x.1 == id) && !r.sentF.contains (64 * id + mv.2.2)
    | none => true
  if waits || unsent || staysOwner s id then s else ftSet s id { ftGet s id with valid := false }

/-- ACKNOWLEDGEMENT (R247): every held message up to seq is released. -/
def ackIn (s : State) (src seq : Nat) : State :=
  let hit := fun (u : Unacked) => u.dest == src && decide ((seq + 2 ^ 32 - u.seq) % 2 ^ 32 < 2 ^ 31)
  let gone := s.chn.unacked.filter hit
  let s := { s with chn := { s.chn with unacked := s.chn.unacked.filter fun u => !hit u } }
  gone.foldl (fun s u =>
    if u.msg.kind = 0x20 ∧ bits (wordAt u.msg.body 1) 2 0 = 4 then clearMoved s (bits (wordAt u.msg.body 1) 63 32) else s) s

def execAcknowledgement (src seq : Nat) (s : State) : Host.Outcome State Fault Refusal := settle s (ackIn s src seq)

/-- ACK_SEND (R247): the highest seq received in order from a source goes back to it. -/
def ackSend (s : State) (src : Nat) : State :=
  if FMap.get 0 s.chn.ackDue src = 0 then s
  else
    let last := (FMap.get 0 s.chn.rxNext src + 2 ^ 32 - 1) % 2 ^ 32
    let s := { s with chn := { s.chn with ackDue := FMap.set 0 s.chn.ackDue src 0, rxCount := FMap.set 0 s.chn.rxCount src 0 } }
    transmit (bumpF s F.CHN_MSG_TX_count 1) ⟨0x07, myAddr s, src, 0, 0, true, leBytes 8 last⟩

def execAckSend (src : Nat) (s : State) : Host.Outcome State Fault Refusal := settle s (ackSend s src)

/-- MESSAGE_RESEND (R247): the messages to a destination that stand unacknowledged 1 ms after sending. -/
def resendDue (s : State) (dest : Nat) : State :=
  (s.chn.unacked.filter fun u => u.dest == dest && decide (u.sent + 3907 ≤ slot s)).foldl (fun s u =>
    let s := { s with chn := { s.chn with unacked := s.chn.unacked.map fun x =>
      if x.dest = u.dest ∧ x.seq = u.seq then { x with sent := slot s } else x } }
    transmit (bumpF s F.CHN_RESEND_CNT_count 1) u.msg) s

def execMessageResend (dest : Nat) (s : State) : Host.Outcome State Fault Refusal := settle s (resendDue s dest)

/-! ### Delivery, R245 to R247 -/

/-- The kinds of Table 9.5 that carry a seq. -/
def knownKind (k : Nat) : Bool := (0x10 ≤ k && k ≤ 0x18) || k == 0x20 || k == 0x21

/-- The effect of a message by its kind (Table 9.5). -/
def kindEffect (s : State) (m : ChainMsg) : State :=
  let w := wordAt m.body
  let w0 := w 0
  let w1 := w 1
  match m.kind with
  | 0x10 => syncIn s (bits w0 24 12) w1.toNat
  | 0x11 => normBodyIn s m.body
  | 0x12 => digestIn s m.source (bits w0 19 0) (bits w0 63 32) ((m.body.drop 8).take 32)
  | 0x13 => requestIn s m.source (bits w0 31 0) (bits w0 63 32)
  | 0x14 => replyIn s (bits w0 31 0) (bits w0 63 32) (bits w1 1 0) (m.body.drop 16)
  | 0x15 => layoutIn s m.source (bits w0 31 0) (bits w0 35 32) (bits w0 39 36) (BitVec.ofNat 32 (bits w1 31 0))
  | 0x16 => feedIn s (bits w0 8 3) (bits w0 2 0)
  | 0x17 => lossReport s (bits w0 11 6) (bits w0 5 0) (bits w0 17 12)
      ((List.range (bits w0 19 18)).map fun i => (m.body.drop (16 + 16 * i)).take 16)
  | 0x18 => countIn s (bits w0 37 32) (bits w0 31 0) w1.toNat
  | 0x20 => dataIn s m.source (bits w0 31 0) (bits w0 63 32) (bits w1 2 0) (bits w1 15 8) (bits w1 63 32) (w 2).toNat (m.body.drop 32)
  | 0x21 => creditIn s m.source (bits w0 31 0) (bits w0 63 32) (bits w1 15 0)
  | _ => s

/-- An acknowledgement is due to a source; the 16th message since the last one is acknowledged at once. -/
def oweAck (s : State) (src count : Nat) : State :=
  let n := FMap.get 0 s.chn.rxCount src + count
  let s := { s with chn := { s.chn with ackDue := FMap.set 0 s.chn.ackDue src 1, rxCount := FMap.set 0 s.chn.rxCount src n } }
  if 16 ≤ n then ackSend s src else s

/-- A message in its turn: discarded for its kind or its job tag, or delivered. -/
def takeMsg (s : State) (m : ChainMsg) : State :=
  let s := { s with chn := { s.chn with rxNext := FMap.set 0 s.chn.rxNext m.source ((m.seq + 1) % 2 ^ 32) } }
  let tag := if isManagement m.kind then 0 else getF s F.CHN_JOB_job_tag
  let s := if !knownKind m.kind || m.jobTag ≠ tag then dropMsg s else kindEffect (bumpF s F.CHN_MSG_RX_count 1) m
  oweAck s m.source 1

/-- The messages held behind a gap that the last delivery has closed; `fuel` counts them. -/
def takeHeld : Nat → State → Nat → State
  | 0, s, _ => s
  | n + 1, s, src =>
    let next := FMap.get 0 s.chn.rxNext src
    match s.chn.held.find? fun m => m.source == src && m.seq == next with
    | none => s
    | some m => takeHeld n (takeMsg { s with chn := { s.chn with held := s.chn.held.filter (· != m) } } m) src

/-- One message received for the module (R247): a failed head check, a source not below N, an acknowledgement, a message already
delivered, one behind a gap, one in its turn. -/
def deliver (s : State) (m : ChainMsg) : State :=
  if !s.chn.closed || m.dest ≠ myAddr s || (1 ≤ m.kind && m.kind ≤ 6) then s
  else if !m.headOk then dropMsg s
  else if chainLen s ≤ m.source then oweAck (dropMsg s) m.source 0
  else if m.kind = 0x07 then ackIn (bumpF s F.CHN_MSG_RX_count 1) m.source (leNat (m.body.take 4))
  else
    let next := FMap.get 0 s.chn.rxNext m.source
    let ahead := (m.seq + 2 ^ 32 - next) % 2 ^ 32
    if ahead = 0 then takeHeld (s.chn.held.length + 1) (takeMsg s m) m.source
    else if 2 ^ 31 ≤ ahead then oweAck s m.source 0
    else if s.chn.held.any fun x => x.source == m.source && x.seq == m.seq then s
    else { s with chn := { s.chn with held := s.chn.held ++ [m] } }

/-- MESSAGE_DELIVER (R247). -/
def execMessageDeliver (m : ChainMsg) (s : State) : Host.Outcome State Fault Refusal := settle s (deliver s m)

/-- MESSAGE_FORWARD (R246): a message for another module goes on along its route, unchanged. -/
def forward (s : State) (m : ChainMsg) : State :=
  if !s.chn.closed || m.dest = myAddr s || chainLen s ≤ m.dest then s else transmit s m

def execMessageForward (m : ChainMsg) (s : State) : Host.Outcome State Fault Refusal := settle s (forward s m)

end Sys2Proof.Machine
end

