-- ==== Sys2Proof/Machine/Intake.lean ====
section
/-!
DEFINITION. The intake pipeline (R290 to R307): SAMPLE_DESCRIPTOR, SAMPLE_TIMEOUT, IMAGE_SAMPLE, TEXT_PACK, PRESSURE_WINDOW,
COUNT_MESSAGE_SEND, INT_SUB_TAIL and INT_EV_TAIL.
-/

namespace Sys2Proof.Machine

/-! ### The submission ring, R291, R292 -/

/-- Output pixels of all scales of an image. -/
def outPixels (b : IntakeBatch) : Nat := (List.range b.scales).foldl (fun n t => n + (scaleDims b t).1 * (scaleDims b t).2) 0

/-- The cost of a sample in 80ths of a ns: the largest stage time of Table 11.5 at the nominal corner. -/
def costOf (b : IntakeBatch) (d : List Byte) : Nat :=
  match descKind d with
  | 0 => max (32 * descBytes d) (max (25 * (descWidth d * descHeight d)) (20 * outPixels b))
  | 1 => 20 * outPixels b
  | _ => 10 * descTokens d

/-- The batch that covers a slot of a micro-batch. -/
def batchFor (s : State) (m slot0 : Nat) : Option IntakeBatch :=
  match s.plan with
  | some p => p.intakes.find? fun b => b.m == m && decide (b.first ≤ slot0) && decide (slot0 < b.first + b.count)
  | none => none

/-- INT_PAYLOAD_DONE follows the descriptors whose payload has been read (R291); `fuel` counts them. -/
def showPayloadDone : Nat → State → State
  | 0, s => s
  | n + 1, s =>
    let d := getF s F.INT_PAYLOAD_DONE_done
    if s.int.read.contains d then
      showPayloadDone n (setF { s with int := { s.int with read := s.int.read.filter (· != d) } } F.INT_PAYLOAD_DONE_done (d + 1))
    else s

/-- The payload of a descriptor has been read, or never will be. -/
def payloadRead (s : State) (num : Nat) : State :=
  showPayloadDone (s.int.read.length + 1) { s with int := { s.int with read := s.int.read ++ [num % 2 ^ 32] } }

/-- A descriptor discarded (R292). -/
def dropDesc (s : State) (num : Nat) : State :=
  payloadRead (flag (bumpF s F.INT_DESC_DROP_count 1) F.INT_STATUS_desc_dropped 9) num

/-- SAMPLE_DESCRIPTOR (R292): the next descriptor is filed, discarded, or left while it belongs to a step too far ahead. -/
def descriptorStep (s : State) : State :=
  let head := getF s F.INT_SUB_HEAD_head
  if s.plan.isNone || head = getF s F.INT_SUB_TAIL_tail then s
  else
    let d := rd s (2 ^ 12 * getF s F.INT_SUB_BASE_base + 128 * (head % 2 ^ getF s F.INT_SUB_SIZE_size)) 128
    let ahead := (descStep d + 2 ^ 32 - s.trn.cur % 2 ^ 32) % 2 ^ 32
    let next := setF s F.INT_SUB_HEAD_head (head + 1)
    if !descOk d then dropDesc next head
    else if 2 ^ 31 ≤ ahead then dropDesc next head
    else if 2 ≤ ahead then s
    else
      let n := s.trn.cur + ahead
      match batchFor s (descM d) (descSlot d) with
      | none => dropDesc next head
      | some b =>
        if (filedOf s n (descM d) (descSlot d)).isSome || (doneOf s n (descM d) (descSlot d)).isSome then dropDesc next head
        else
          let c := costOf b d
          let top := FMap.set 0 next.int.top n (max (FMap.get 0 next.int.top n) (descPos d + 1))
          { next with int := { next.int with filed := next.int.filed ++ [⟨n, descM d, descSlot d, head, d, c, false⟩],
                                             window := next.int.window + c, top := top } }

def execSampleDescriptor (s : State) : Host.Outcome State Fault Refusal := settle s (descriptorStep s)

/-- INT_SUB_TAIL (R291): an accepted tail moves forward and stays within the ring. -/
def subTail (s : State) (t : Nat) : State :=
  let head := getF s F.INT_SUB_HEAD_head
  let size := getF s F.INT_SUB_SIZE_size
  let cap := if size = 0 then 0 else 2 ^ size
  let fill := fun x => (x % 2 ^ 32 + 2 ^ 32 - head) % 2 ^ 32
  if cap < fill t || fill t < fill (getF s F.INT_SUB_TAIL_tail) then flag s F.INT_STATUS_sub_error 9
  else setF s F.INT_SUB_TAIL_tail t

def execIntSubTail (t : Nat) (s : State) : Host.Outcome State Fault Refusal := settle s (hostStep s fun s => subTail s t)

/-- INT_EV_TAIL (R305, R69). -/
def evTail (s : State) (t : Nat) : State :=
  let tail := getF s F.INT_EV_TAIL_tail
  if (getF s F.INT_EV_HEAD_head + 2 ^ 32 - tail) % 2 ^ 32 < (t % 2 ^ 32 + 2 ^ 32 - tail) % 2 ^ 32 then
    setF s F.INT_STATUS_ev_tail_error 1
  else showEvRing (setF s F.INT_EV_TAIL_tail t)

def execIntEvTail (t : Nat) (s : State) : Host.Outcome State Fault Refusal := settle s (hostStep s fun s => evTail s t)

/-! ### Batches, R293 to R295 -/

/-- The intake batch that runs from a batch descriptor: launch key and descriptor. -/
def runningIntake (s : State) (batch : Nat) : Option (Nat × IntakeBatch) :=
  match s.plan with
  | none => none
  | some p =>
    (List.range 4).findSome? fun u =>
      match (unitOf s (804 + u)).running with
      | some k =>
        match launchOf s k with
        | some l => if l.kind = .intake ∧ l.body = batch then (p.intakes[batch]?).map fun b => (k, b) else none
        | none => none
      | none => none

/-- The frond id whose home is an address of an intake batch. -/
def intakeId (s : State) (a : Nat) : Nat :=
  match s.plan with
  | some p => match p.fronds.find? fun f => f.cls == 7 && f.home == a with | some f => f.id | none => 0xFFFFFFFF
  | none => 0xFFFFFFFF

/-- An intake frond is written anew: its entry is no longer poisoned. -/
def freshEntry (s : State) (id : Nat) : State :=
  let e := ftGet s id
  if e.valid && e.poisoned then ftSet s id { e with poisoned := false } else s

/-- The fronds of one image at every scale, from its FP32 pixels by scale, column, row and component (R299). -/
def writeImage (s : State) (k : Nat) (b : IntakeBatch) (i n : Nat) (px : Nat → Nat → Nat → Nat → Word32) : State :=
  (List.range b.scales).foldl (fun s sc =>
    let (w, h) := scaleDims b sc
    let (gx, _) := scaleGrid b sc
    (List.range (perImage b sc)).foldl (fun s j =>
      let (t, a) := imageFrond b sc i j
      let id := intakeId s a
      let o := { wholeOut a b.fmt false (b.tensorId + sc) id 7 0 with tile := t }
      let (s, cs) := writeFrond (freshEntry s id) o n fun e =>
        let row := j / gx * b.fmt.rows + e / b.fmt.rowElems
        let col := j % gx * b.fmt.rowElems + e % b.fmt.rowElems
        if row < h ∧ col < 3 * w then ofF32 (px sc (col / 3) row (col % 3)) else .fin 0
      noteOp s k (b.tensorId + sc) b.fmt cs) s) s

/-! ### Images, R297 to R299 -/

/-- A number in FP32. -/
def natF32 (n : Nat) : Word32 := toF32 (Num.ofInt n)

/-- One half and one quarter in FP32. -/
def halfF32 : Word32 := 0x3F000000#32
def quarterF32 : Word32 := 0x3E800000#32

/-- The whole part of a non-negative FP32 value. -/
def floorF32 (x : Word32) : Nat := match ofF32 x with | .fin n => (n / pow2 0).toNat | _ => 0

/-- Component k of a decoded pixel, clamped to 0 .. 255 (R297). -/
def rgbOf (gray : Bool) (p : Nat × Nat × Nat) (k : Nat) : Word32 :=
  if gray then natF32 p.1
  else
    let (r, g, b) := Config.yccToRgb p
    let v := if k = 0 then r else if k = 1 then g else b
    f32Min (f32Max v 0) (natF32 255)

/-- A source coordinate of output index i: scale, clamp to the crop, offset by its origin (R298). -/
def srcCoord (i out cropO cropN : Nat) : Word32 :=
  let v := f32Sub (f32Mul (f32Add (natF32 i) halfF32) (f32Div (natF32 cropN) (natF32 out))) halfF32
  f32Add (natF32 cropO) (f32Min (f32Max v 0) (natF32 (cropN - 1)))

/-- r(i, j, k) of R298 for a decoded image of a descriptor. -/
def resampled (b : IntakeBatch) (d : List Byte) (gray : Bool) (pxs : List (Nat × Nat × Nat)) (i j k : Nat) : Word32 :=
  let x := srcCoord i b.w0 (descCropX d) (descCropW d)
  let y := srcCoord j b.h0 (descCropY d) (descCropH d)
  let x0 := floorF32 x
  let y0 := floorF32 y
  let x1 := min (x0 + 1) (descCropX d + descCropW d - 1)
  let y1 := min (y0 + 1) (descCropY d + descCropH d - 1)
  let src := fun x y => rgbOf gray (pxs.getD (y * descWidth d + x) (0, 0, 0)) k
  Config.bilinear (src x0 y0) (src x1 y0) (src x0 y1) (src x1 y1) (f32Sub x (natF32 x0)) (f32Sub y (natF32 y0))

/-- y0(i, j, c) of R298: flip, then the colour matrix. -/
def coloured (b : IntakeBatch) (d : List Byte) (gray : Bool) (pxs : List (Nat × Nat × Nat)) (i j c : Nat) : Word32 :=
  let r := fun k => resampled b d gray pxs (if descFlip d then b.w0 - 1 - i else i) j k
  let m := fun k => descColour d (3 * c + k)
  f32Fma (m 2) (r 2) (f32Fma (m 1) (r 1) (f32Fma (m 0) (r 0) (descColour d (9 + c))))

/-- The pixels of a scale from those of scale 0 (R299). -/
def pyramid (base : Nat → Nat → Nat → Word32) : Nat → Nat → Nat → Nat → Word32
  | 0, i, j, c => base i j c
  | n + 1, i, j, c =>
    let p := fun x y => pyramid base n (2 * i + x) (2 * j + y) c
    f32Mul (f32Add (f32Add (p 0 0) (p 1 0)) (f32Add (p 0 1) (p 1 1))) quarterF32

/-- A pixel of a prepared image (R298, R299). -/
def prepared (s : State) (b : IntakeBatch) (d : List Byte) (i j c : Nat) : Word32 :=
  let e := b.fmt.elemBits / 8
  toF32 (decodePlain b.fmt (leNat (rd s (descPayload d + e * (3 * (j * b.w0 + i) + c)) e)))

/-- IMAGE_SAMPLE (R296 to R299): a filed sample is checked, decoded and written, or its pixels are written as +0. -/
def imageStep (s : State) (batch slot0 : Nat) : State :=
  match runningIntake s batch with
  | none => s
  | some (k, b) =>
    let n := stepOf s (keyIter k)
    match filedOf s n b.m slot0 with
    | none => s
    | some x =>
      if b.text || x.done || slot0 < b.first || b.first + b.count ≤ slot0 then s
      else
        let d := x.desc
        let r0 := boundsReason s b d
        let r1 := if r0 = 0 && !payloadOk s d then 5 else r0
        let (jr, jw, jh, gray, pxs) := Config.jpegDecode (payloadOf s d)
        let reason := if r1 ≠ 0 then r1
          else if descKind d = 0 then (if jr = 6 then 6 else if jr ≠ 0 ∨ jw ≠ descWidth d ∨ jh ≠ descHeight d then 7 else 0)
          else 0
        let base := if descKind d = 0 then coloured b d gray pxs else prepared s b d
        let px := fun sc i j c => if reason = 0 then pyramid base sc i j c else 0
        let s := writeImage s k b (slot0 - b.first) n px
        finishSlot (payloadRead s x.num) b ⟨n, b.m, slot0, descId d, reason, if reason = 0 then 1 else 0⟩ (descPos d)

def execImageSample (batch slot0 : Nat) (s : State) : Host.Outcome State Fault Refusal := settle s (imageStep s batch slot0)

/-- SAMPLE_TIMEOUT (R294): 390,625 slots from the issue slot when the plan gives 0. -/
def sampleTimeout (s : State) (batch slot0 : Nat) : State :=
  match runningIntake s batch, s.plan with
  | some (k, b), some p =>
    let n := stepOf s (keyIter k)
    let lim := if p.header.sampleTimeout = 0 then 390625 else p.header.sampleTimeout
    if slot0 < b.first || b.first + b.count ≤ slot0 || (filedOf s n b.m slot0).isSome || (doneOf s n b.m slot0).isSome
        || slot s < (runOf s k).issueSlot + lim then s
    else
      let s := if b.text then s else writeImage s k b (slot0 - b.first) n fun _ _ _ _ => 0
      finishSlot s b ⟨n, b.m, slot0, 0, 10, 0⟩ 0
  | _, _ => s

def execSampleTimeout (batch slot0 : Nat) (s : State) : Host.Outcome State Fault Refusal := settle s (sampleTimeout s batch slot0)

/-! ### Text, R300 -/

/-- The token ids of a payload. -/
def tokenAt (pay : List Byte) (j : Nat) : Nat := leNat ((pay.drop (4 * j)).take 4)

/-- The reason of a text sample: bounds, room, payload, token range (Tables 11.3 and 11.4). -/
def textReason (s : State) (b : IntakeBatch) (p : Placement) (d : List Byte) : Nat :=
  let r := boundsReason s b d
  if r ≠ 0 then r
  else if !p.room then 9
  else if !payloadOk s d then 5
  else if (List.range (descTokens d)).any fun j => decide (b.vocab ≤ tokenAt (payloadOf s d) j) then 8
  else 0

/-- The token record of an unplaced position: token 0, segment 0x7fff, loss bit 0. -/
def emptyRecord : Nat := 0x7FFF * 2 ^ 48

/-- The record at a position of the rows. -/
def recordAt (s : State) (b : IntakeBatch) (ps : List (Placement × Nat × List Byte)) (x : Nat) : Nat :=
  match ps.find? fun p => decide (p.1.start ≤ x) && decide (x < p.1.start + p.1.c) with
  | some (p, reason, d) =>
    let j := x - p.start
    tokenRecord b p j (if reason = 0 then tokenAt (payloadOf s d) j else 0) (reason == 0)
  | none => emptyRecord

/-- TEXT_PACK (R300): with every slot filed or timed out, the rows are laid out, written and sealed, and every slot completes. -/
def packStep (s : State) (batch : Nat) : State :=
  match runningIntake s batch with
  | none => s
  | some (k, b) =>
    let n := stepOf s (keyIter k)
    let all := (List.range b.count).all fun i =>
      (filedOf s n b.m (b.first + i)).isSome || (doneOf s n b.m (b.first + i)).isSome
    if !b.text || !all || s.int.packed.contains k then s
    else
      let ps := (packSlots s b n).filterMap fun p =>
        (filedOf s n b.m p.slot).map fun x => (p, textReason s b p x.desc, x.desc)
      let bytes := (List.range (b.rows * b.rowLen)).flatMap fun x => leBytes 8 (recordAt s b ps x)
      let s := (List.range (textFronds b)).foldl (fun s i =>
        let a := textFrond b i
        let id := intakeId s a
        let part := (bytes.drop (payloadLen * i)).take payloadLen
        let s := wr (breakSeal (freshEntry s id) a) a (part ++ List.replicate (payloadLen - part.length) 0)
        sealAt (writeHeader s a ⟨id, .fp32, 7, false, BitVec.ofNat 64 n, 0, b.tensorId, i, 0⟩) a) s
      let s := { s with int := { s.int with packed := s.int.packed ++ [k] } }
      ps.foldl (fun s x =>
        match filedOf s n b.m x.1.slot with
        | some f =>
          let w := if x.2.1 ≠ 0 then 0 else if b.weightMode then x.1.c else 1
          finishSlot (payloadRead s f.num) b ⟨n, b.m, x.1.slot, descId f.desc, x.2.1, w⟩ (descPos f.desc)
        | none => s) s

def execTextPack (batch : Nat) (s : State) : Host.Outcome State Fault Refusal := settle s (packStep s batch)

/-! ### Pressure and the count message, R304, R307 -/

/-- PRESSURE_WINDOW (R307): costs are in 80ths of a ns, the window 1 ms, four units. -/
def pressureStep (s : State) : State :=
  let s := setFmax s F.INT_PRESSURE_pressure (65536 * s.int.window / (4 * 80000000))
  let back := (s.int.filed.filter fun x => !x.done).foldl (fun t x => t + x.cost) 0
  let s := setFmax s F.INT_PRESSURE_backlog_us (back / 80000)
  { s with int := { s.int with window := 0 } }

def execPressureWindow (s : State) : Host.Outcome State Fault Refusal := settle s (pressureStep s)

/-- Whether a launch is a batch fetch: a move of op 0x1 that names an intake frond (R302, R304). -/
def isBatchFetch (s : State) (p : Plan) (l : Launch) : Bool :=
  l.kind == .move && match moveOf s l with
    | some m => m.isView && p.fronds.any fun f => f.cls == 7 && decide (m.first ≤ f.id) && decide (f.id < m.first + m.count)
    | none => false

/-- Whether the local count of a step is fixed: its batch fetches have completed, or, with no intake batch, anchor 0 is set. -/
def countReady (s : State) (p : Plan) (it : Nat) : Bool :=
  if p.intakes.isEmpty then FMap.get 0 s.lch.anchors (65536 * it) != 0
  else
    (List.range p.launches.length).all fun i =>
      match p.launches[i]? with
      | some l => !(l.kind == .intake || isBatchFetch s p l) || (runOf s (planKey it i)).completed
      | none => true

/-- COUNT_MESSAGE_SEND (R304). -/
def countSend (s : State) : State :=
  match s.plan with
  | none => s
  | some p =>
    let n := max s.int.sent s.trn.cur
    let it := n - p.header.startStep
    if !p.training || s.trn.cur + 1 < n || (p.iterations ≠ 0 && p.iterations ≤ it) || !countReady s p it then s
    else
      let c := (s.int.slots.filter fun x => x.step == n).foldl (fun t x => t + x.weight) 0
      let s := setFmax (setF s F.INT_COUNT_step n) F.INT_COUNT_count c
      let s := { s with int := { s.int with sent := n + 1 } }
      let s := countIn s (myAddr s) n c
      postAll s 0x18 (others s) fun _ => wordBytes [n % 2 ^ 32 + 2 ^ 32 * myAddr s, c]

def execCountMessageSend (s : State) : Host.Outcome State Fault Refusal := settle s (countSend s)

end Sys2Proof.Machine
end

