-- ==== Sys2Proof/Machine/PlanImage.lean ====
section
/-!
DEFINITION. Reading a plan image (R317, R318): the container header and directory (Table 12.5), the sections (Table 12.6), and the
records of the sections whose layout the spec gives. A failure is a code of Table 12.8 with the section type and the item index.
-/

namespace Sys2Proof.Machine

/-- A plan load failure: code, section, item (HST_PLAN_FAIL). -/
structure PlanFail where
  code    : Nat
  section0 : Nat
  item    : Nat
  deriving DecidableEq, Repr

/-! ### Container, Table 12.5 -/

/-- The directory entries of an image: type, length in bytes, offset. -/
def imageDir (im : List Byte) : List (Nat × Nat × Nat) :=
  let n := bits (wordAt im 2) 15 0
  (List.range n).map fun i =>
    let e0 := wordAt im (8 + 2 * i)
    (bits e0 7 0, 8 * bits e0 63 32, bits (wordAt im (9 + 2 * i)) 39 0)

/-- The bytes of the section of a type; empty when the image has none. -/
def sectionOf (im : List Byte) (t : Nat) : List Byte :=
  match (imageDir im).find? fun e => e.1 == t with
  | some (_, len, off) => (im.drop off).take len
  | none => []

/-- Whether the image has a section of a type. -/
def hasSection (im : List Byte) (t : Nat) : Bool := (imageDir im).any fun e => e.1 == t

/-- Code 0x1: magic, version, kind, length or directory. -/
def containerBad (s : State) (im : List Byte) : Bool :=
  let w0 := wordAt im 0
  let n := bits (wordAt im 2) 15 0
  bits w0 31 0 != 0x4E504C57 || bits w0 47 32 != 1 || decide (1 < bits w0 51 48)
    || (wordAt im 1).toNat != getF s F.HST_PLAN_LEN_bytes || im.length != getF s F.HST_PLAN_LEN_bytes
    || n == 0 || decide (64 < n) || decide (im.length < 64 + 16 * n)

/-- Code 0x2: the image check, with bytes 56 to 59 taken as zero. -/
def imageCheckBad (im : List Byte) : Bool :=
  (crc32c (im.take 56 ++ List.replicate 4 0 ++ im.drop 60)).toNat != bits (wordAt im 7) 31 0

/-- Code 0x3: sections (R317). -/
def sectionsFail (im : List Byte) : Option PlanFail :=
  let d := imageDir im
  if !hasSection im 0x01 then some ⟨3, 0x01, 0⟩
  else if !hasSection im 0x03 then some ⟨3, 0x03, 0⟩
  else
    match d.find? fun e => e.1 == 0 || decide (0x13 < e.1) || decide (im.length < e.2.2 + e.2.1) || e.2.2 % 8 != 0
        || decide (1 < (d.filter fun x => x.1 == e.1).length) with
    | some e => some ⟨3, e.1, 0⟩
    | none => none

/-- Reserved bits of the container and its directory, which read 0. -/
def containerReserved (im : List Byte) : Bool :=
  let w := wordAt im
  bits (w 0) 63 52 == 0 && bits (w 2) 31 16 == 0 && bits (w 3) 63 0 == 0 && bits (w 4) 63 0 == 0 && bits (w 5) 63 0 == 0
    && bits (w 6) 63 0 == 0 && bits (w 7) 63 32 == 0
    && (List.range (bits (w 2) 15 0)).all fun i => bits (w (8 + 2 * i)) 31 8 == 0 && bits (w (9 + 2 * i)) 63 40 == 0

/-! ### Records -/

/-- A section cut into records of n bytes. -/
def recordsOf (n : Nat) (bs : List Byte) : List (List Byte) := (List.range (bs.length / n)).map fun i => (bs.drop (n * i)).take n

/-- Records read one by one: the first that does not read fails with code 0x4. -/
def readRecords {α : Type} (t : Nat) (f : Nat → List Byte → Option α) (rs : List (List Byte)) : Except PlanFail (List α) :=
  let xs := rs.zipIdx.map fun r => f r.2 r.1
  match xs.findIdx? Option.isNone with
  | some i => .error ⟨4, t, i⟩
  | none => .ok (xs.filterMap id)

/-- A section that the spec leaves to the emitter. -/
def readOpaque {α : Type} (t : Nat) (im : List Byte) (f : List Byte → Option (List α)) : Except PlanFail (List α) :=
  if hasSection im t then match f (sectionOf im t) with | some x => .ok x | none => .error ⟨4, t, 0⟩ else .ok []

/-- The plan header (Table 12.7). -/
def readHeader (bs : List Byte) : Option PlanHeader :=
  let w := wordAt bs
  let zero := fun i hi lo => bits (w i) hi lo == 0
  let ok := decide (144 ≤ bs.length) && zero 3 63 53 && zero 4 63 56 && zero 5 63 48 && zero 6 63 26 && bits (w 6) 25 24 != 2
    && zero 7 63 45 && zero 8 63 40 && zero 9 47 36 && zero 10 63 32 && zero 11 63 41 && zero 12 63 40 && zero 13 63 32
    && zero 14 63 41 && zero 16 63 49 && zero 17 63 23
    && decide (16 ≤ bits (w 7) 44 40) && decide (bits (w 16) 48 40 ≤ 496) && decide (bits (w 17) 22 11 ≤ 2048)
    && decide (bits (w 17) 10 0 + bits (w 17) 22 11 ≤ 2048)
  if ok then some {
    seed := w 0, startStep := (w 1).toNat, startT := (w 2).toNat,
    normObj := bits (w 3) 12 0, reduceObj := bits (w 3) 25 13, digestObj := bits (w 3) 38 26, orderObj := bits (w 3) 51 39,
    policyAbandon := bit (w 3) 52, ceiling := BitVec.ofNat 32 (bits (w 4) 31 0), normTimeout := bits (w 4) 55 32,
    sweepTimeout := bits (w 5) 23 0, partnerTimeout := bits (w 5) 47 24, sampleTimeout := bits (w 6) 23 0, restore := bits (w 6) 25 24,
    ftPrimary := 256 * bits (w 7) 39 0, ftSize := bits (w 7) 44 40, ftMirror := 256 * bits (w 8) 39 0,
    snapBase := 4096 * bits (w 9) 35 0, snapInterval := bits (w 9) 63 48, snapPages := bits (w 10) 31 0,
    subBase := 4096 * bits (w 11) 35 0, subSize := bits (w 11) 40 36, payloadBase := 256 * bits (w 12) 39 0,
    payloadGranules := bits (w 13) 31 0, evBase := 4096 * bits (w 14) 35 0, evSize := bits (w 14) 40 36,
    scalarBase := 256 * bits (w 15) 39 0, scalarRows := bits (w 15) 63 40, reportBase := 256 * bits (w 16) 39 0,
    reportWords := bits (w 16) 48 40, reportFirst := bits (w 17) 10 0, reportCount := bits (w 17) 22 11 }
  else none

/-- A sync op (Table 5.5). -/
def readSyncOp (_ : Nat) (bs : List Byte) : Option SyncOp :=
  let w := wordAt bs 0
  let mk := fun k => some (⟨bits w 12 0, k, bits w 31 16, bits w 55 32, wordAt bs 1⟩ : SyncOp)
  if bits w 63 56 ≠ 0 then none
  else match bits w 15 13 with
    | 1 => if bits w 55 32 = 0 then mk .signal else none
    | 2 => mk .waitGe
    | 3 => mk .waitEq
    | _ => none

/-- The kinds of Table 5.1. -/
def LaunchKind.ofCode : Nat → Option LaunchKind
  | 0 => some .tile | 1 => some .vector | 2 => some .move | 3 => some .collective | 4 => some .sweep | 5 => some .intake
  | _ => none

/-- The launcher range that runs a kind (R136). -/
def LaunchKind.runsOn (k : LaunchKind) (u : Nat) : Bool :=
  match k with
  | .tile | .vector => decide (u ≤ 255)
  | .move => decide (256 ≤ u) && decide (u ≤ 271)
  | .sweep => decide (272 ≤ u) && decide (u ≤ 287)
  | .collective => decide (288 ≤ u) && decide (u ≤ 291)
  | .intake => decide (292 ≤ u) && decide (u ≤ 295)

/-- A launch descriptor (Table 5.1) with its sync ops and predecessors. -/
def readLaunch (sync : List SyncOp) (preds : List Nat) (i : Nat) (bs : List Byte) : Option Launch :=
  let w0 := wordAt bs 0
  let w1 := wordAt bs 1
  let w2 := wordAt bs 2
  let sf := bits w2 15 0
  let nw := bits w2 19 16
  let ns := bits w2 23 20
  let np := bits w2 47 40
  let waits := (sync.drop sf).take nw
  let sigs := (sync.drop (sf + nw)).take ns
  let ps := (preds.drop (bits w2 39 24)).take np
  match LaunchKind.ofCode (bits w0 43 40) with
  | none => none
  | some k =>
    let ok := !bit w0 47 && k.runsOn (bits w0 63 48) && decide (nw ≤ 8) && decide (ns ≤ 8)
      && waits.length == nw && sigs.length == ns && ps.length == np
      && waits.all (fun o => o.kind != .signal && !(o.kind == .waitEq && o.timeout == 0))
      && sigs.all (fun o => o.kind == .signal) && ps.all (fun p => decide (p < i))
    if ok then some ⟨bits w0 23 0, bits w0 39 24, k, bit w0 44, bit w0 45, bit w0 46, bits w0 63 48, bits w1 31 0, bits w1 63 32,
      waits, sigs, ps, bits w2 63 48⟩
    else none

/-- An export table entry (R150). -/
def readExport (_ : Nat) (bs : List Byte) : Option ExportEntry :=
  let w := wordAt bs 0
  if bits w 63 26 = 0 then some ⟨bits w 12 0, bits w 25 13, wordAt bs 1⟩ else none

/-- A move descriptor (Table 6.3). -/
def readMove (_ : Nat) (bs : List Byte) : Option MoveDesc :=
  let w := wordAt bs 0
  let d := wordAt bs 1
  if bits w 63 52 = 0 ∧ bits w 51 48 ≤ 1 ∧ bits w 47 32 ≠ 0 ∧ bits d 63 40 = 0 then
    some ⟨bits w 31 0, bits w 47 32, bits w 51 48 == 1, 256 * bits d 39 0⟩
  else none

/-- The ops of Table 9.6. -/
def CollOp.ofCode : Nat → Option CollOp
  | 0 => some .gather | 1 => some .reduce | 2 => some .permute | _ => none

/-- A collective descriptor (Table 9.6). -/
def readColl (all : List Byte) (i : Nat) (bs : List Byte) : Option CollDesc :=
  let w := wordAt bs
  let (v, r, sh, p) := Config.gatherMarks all i
  match CollOp.ofCode (bits (w 0) 3 0) with
  | none => none
  | some op =>
    if bits (w 0) 15 7 = 0 ∧ bits (w 0) 5 4 ≤ 2 ∧ bits (w 0) 31 16 ≠ 0 ∧ bits (w 1) 63 48 = 0 ∧ bits (w 2) 63 40 = 0
        ∧ bits (w 3) 63 40 = 0 then
      some { op := op, dir := bits (w 0) 5 4, skip := bit (w 0) 6, f := bits (w 0) 31 16, first := bits (w 0) 63 32,
             tid := bits (w 1) 31 0, recv := bits (w 1) 47 32, area := 256 * bits (w 2) 39 0, dest := 256 * bits (w 3) 39 0,
             versionIdx := v, regather := r, shard := sh, passNo := p }
    else none

/-- A per-stack descriptor (Tables 7.19 and 8.3). -/
def readStack (_ : Nat) (bs : List Byte) : Option StackDesc :=
  let w := wordAt bs
  if bits (w 0) 63 40 = 0 ∧ bits (w 3) 63 56 = 0 ∧ bits (w 4) 63 40 = 0 then
    some { sphBase := 256 * bits (w 0) 39 0, stashSize := bits (w 1) 31 0, ckptSize := bits (w 1) 63 32, recompSize := bits (w 2) 31 0,
           vlistSize := bits (w 2) 63 32, pendingBase := 256 * bits (w 3) 39 0, slotCount := bits (w 3) 55 40,
           ledgerBase := 256 * bits (w 4) 39 0, ledgerFirst := bits (w 5) 31 0, ledgerCount := bits (w 5) 63 32 }
  else none

/-- An intake batch descriptor (Table 11.2, R293). -/
def readIntake (all : List Byte) (i : Nat) (bs : List Byte) : Option IntakeBatch :=
  let w := wordAt bs
  let text := bit (w 0) 6
  let sc := bits (w 0) 13 11
  let w0 := bits (w 1) 15 0
  let h0 := bits (w 1) 31 16
  let side := fun x => decide (1 ≤ x) && decide (x ≤ 16384) && x % 2 ^ (sc - 1) == 0
  let rl := bits (w 2) 31 0
  let fmt := (Fmt.ofCode (bits (w 0) 10 7)).getD .fp32
  let ok := !bit (w 0) 15 && bits (w 0) 63 48 == 0 && bits (w 3) 63 40 == 0 && bits (w 4) 63 40 == 0
    && decide (1 ≤ bits (w 0) 47 32)
    && (if text then decide (64 ≤ rl) && decide (rl ≤ 65536)
        else decide (1 ≤ sc) && decide (sc ≤ 5) && (fmt == .bf16 || fmt == .e4m3) && side w0 && side h0)
  if ok then
    some { m := bits (w 0) 5 0, text := text, fmt := if text then .fp32 else fmt, scales := if text then 0 else sc,
           weightMode := bit (w 0) 14, first := bits (w 0) 31 16, count := bits (w 0) 47 32, w0 := w0, h0 := h0,
           rows := bits (w 1) 63 32, rowLen := rl, vocab := bits (w 2) 63 32, out := 256 * bits (w 3) 39 0,
           table := 256 * bits (w 4) 39 0, tensorId := Config.intakeTid all i }
  else none

end Sys2Proof.Machine
end

