-- ==== Sys2Proof/Machine/PlanCheck.lean ====
section
/-!
DEFINITION. The rules of plan load over a plan that has been read (R319, Table 12.8): encodings that span records (code 0x4),
limits (0x5), addresses (0x6), orderings (0x7), the chain (0x8), the flash tier (0x9) and lost clusters (0xB). Which orderings are
decided here and which are left to the plan's emitter is in log entry 24.
-/

namespace Sys2Proof.Machine

/-- The first item of a section that breaks a rule. -/
def firstBad {α : Type} (code sec : Nat) (xs : List α) (bad : α → Bool) : Option PlanFail :=
  (xs.findIdx? bad).map fun i => ⟨code, sec, i⟩

/-- A rule over the whole plan. -/
def requireOk (code sec : Nat) (ok : Bool) : Option PlanFail := if ok then none else some ⟨code, sec, 0⟩

/-- The first failure of a list of checks in order. -/
def firstFail (xs : List (Option PlanFail)) : Option PlanFail := xs.findSome? id

/-! ### Code 0x4, encodings across records -/

/-- Whether a launch belongs to a batch launch list (R451). -/
def inBatchList (p : Plan) (i : Nat) : Bool := p.queues.any fun b => decide (b.listFirst ≤ i) && decide (i < b.listFirst + b.listCount)

/-- A launch whose body, anchor, predecessors or array do not fit (R135, R136). -/
def launchBad (p : Plan) (x : Launch × Nat) : Bool :=
  let (l, i) := x
  let bodies := match l.kind with
    | .tile => p.tiles.length | .vector => p.vectors.length | .move => p.moves.length | .collective => p.colls.length
    | .sweep => p.updates.length | .intake => p.intakes.length
  decide (bodies ≤ l.body) || (!inBatchList p i && decide (p.anchors.length ≤ l.anchor))
    || l.preds.any (fun q => match p.launches[q]? with | some m => m.anchor != l.anchor | none => true)
    || (l.kind == .tile && !inBatchList p i && match p.tiles[l.body]? with | some t => t.array / 2 != l.launcher | none => true)
    || (l.kind == .vector && match p.vectors[l.body]? with | some v => v.core != l.launcher | none => true)

/-- A gate whose wait ops break R138. -/
def gateBad (a : Anchor) : Bool :=
  a.gate.any fun o => o.kind == .signal || o.timeout != 0 || (o.kind == .waitEq && a.gateTimeout == 0)

/-- A tile program outside R56, R72, R78, R122 or the array's shape. -/
def tileBad (t : TileProgram) : Bool :=
  t.a.deliver != t.b.deliver || !t.a.deliver.isArrayOperand || t.k == 0 || t.k % t.a.deliver.group != 0 || decide (4 ≤ t.bank)
    || decide (128 < t.cols) || decide (512 ≤ t.array)
    || match t.drain with
      | some d => match d.fn with | some f => decide (0xA < f.code) || (f.form != .forward && d.s1.isNone) | none => false
      | none => false

/-- An instruction word outside Tables 7.7 and 7.8 for a shard with a number of moment streams: a reserved opcode or field, a stream
the shard lacks, a store to stream 3 (R207). -/
def updateWordBad (moments : Nat) (w : Word32) : Bool :=
  let i := UInstr.ofWord w
  let lacks := fun st => decide (3 < st) || ((st == 1 || st == 2) && decide (moments < st))
  decide (0x12 < i.op) || w.toNat % 4 != 0 || (i.op == 1 && lacks i.a) || (i.op == 2 && (lacks i.d || i.d == 3))

/-- The code of a program up to its end; none when the end is missing within 512 instructions. -/
def upToEnd (u : UpdateProgram) : Option (List Word32) :=
  match (u.code.take 512).findIdx? fun w => (UInstr.ofWord w).op == 0 with
  | some i => some (u.code.take i)
  | none => none

/-- A program that some shard runs, or whose encoding is bad for any shard. -/
def updateBad (p : Plan) (x : UpdateProgram × Nat) : Bool :=
  match upToEnd x.1 with
  | none => true
  | some code =>
    code.any (updateWordBad 2) || p.layouts.any fun y => y.shards.any fun h => h.program == x.2 && code.any (updateWordBad h.moments)

/-- The entry that the plan gives a frond. -/
def frondOf (p : Plan) (id : Nat) : Option FrondInit := p.fronds.find? fun f => f.id == id

/-- The fronds of the streams of a shard with their class and format (Table 7.1). -/
def shardFronds (h : Shard) : List (Nat × Nat × Fmt) :=
  (List.range h.paramCount).map (fun i => (h.paramFirst + i, 0, Fmt.fp32))
    ++ (List.range h.moments).flatMap (fun k => (List.range h.momCount).map fun i =>
        ((if k = 0 then h.m1First else h.m2First) + i, 1, if h.bf16Moment then Fmt.bf16 else Fmt.fp32))
    ++ (if h.residual then (List.range (2 * h.resCount)).map (fun i => (h.resFirst + i, 2, Fmt.bf16)) else [])

/-- A shard that breaks R195 in class, format, flash-homed residual or a frond shared with another shard. -/
def shardBad (p : Plan) (y : Layout) (h : Shard) : Bool :=
  (h.flashHomed && h.residual) || decide (2 < h.moments) || decide (y.s ≤ h.position) || decide (p.updates.length ≤ h.program)
    || (shardFronds h).any (fun x => match frondOf p x.1 with | some f => f.cls != x.2.1 || f.fmt != x.2.2 | none => false)
    || y.shards.any (fun g => g.id != h.id && (shardFronds g).any fun x => (shardFronds h).any fun z => z.1 == x.1)

/-- A collective descriptor whose f does not divide, or whose sorus lies outside 4 to 64 MiB (R252, R255, R256). -/
def collBad (p : Plan) (c : CollDesc) : Bool :=
  match c.op with
  | .gather => c.f % 4 != 0
  | .reduce => p.layouts.any fun y => (decide (1 < y.p) && c.f % y.p != 0) || decide (65536 * y.s * c.f < 4 * 2 ^ 20)
      || decide (64 * 2 ^ 20 < 65536 * y.s * c.f)
  | .permute => false

/-- A re-gather that names no forward gather, or one of another shard (R234). -/
def regatherBad (p : Plan) (c : CollDesc) : Bool :=
  match c.regather with
  | some i => match p.colls[i]? with
    | some g => g.op != .gather || g.versionIdx.isNone || g.regather.isSome || g.shard != c.shard
    | none => true
  | none => false

/-- Two batches of one micro-batch that cover a slot (R293). -/
def intakeBad (p : Plan) (x : IntakeBatch × Nat) : Bool :=
  p.intakes.zipIdx.any fun z => z.2 != x.2 && z.1.m == x.1.m && decide (z.1.first < x.1.first + x.1.count)
    && decide (x.1.first < z.1.first + z.1.count)

/-- A batch queue outside R100, R323 or R451 in its settings. -/
def queueBad (p : Plan) (b : BatchQueue) : Bool :=
  decide (256 ≤ b.q) || decide (1023 < b.wait) || decide (32 < b.quiet) || !isQuiet b.quietArray || isQuiet b.holdArray
    || b.holdArray / 4 != b.quietArray / 4 || b.ringBase % 4096 != 0 || decide (b.ringSize < 6) || decide (16 < b.ringSize)
    || decide (65535 < b.entries) || b.resultLaunch < b.listFirst || b.listFirst + b.listCount ≤ b.resultLaunch
    || decide (p.launches.length < b.listFirst + b.listCount)
    || (List.range b.listCount).any fun j =>
        match p.launches[b.listFirst + j]? with
        | some l => l.kind == .tile && match p.tiles[l.body]? with
          | some t => t.a.fronds.isEmpty && rowLayoutLen t.a.deliver t.k != b.rowBytes
          | none => true
        | none => true

/-- Code 0x4 over the whole plan. -/
def encodingFail (p : Plan) : Option PlanFail :=
  firstFail [
    firstBad 4 0x02 p.anchors gateBad,
    firstBad 4 0x03 p.launches.zipIdx (launchBad p),
    firstBad 4 0x07 p.exports.zipIdx (fun x => p.exports.zipIdx.any fun z => z.2 != x.2 && z.1.localObj == x.1.localObj),
    firstBad 4 0x08 p.tiles tileBad,
    firstBad 4 0x0A p.moves (fun m => !m.isView && (List.range m.count).any fun i => (frondOf p (m.first + i)).isNone),
    firstBad 4 0x0B p.colls (fun c => collBad p c || regatherBad p c),
    firstBad 4 0x0C p.updates.zipIdx (updateBad p),
    firstBad 4 0x0D p.layouts (fun y => y.s == 0 || y.p == 0 || y.shards.any (shardBad p y)),
    requireOk 4 0x0D (!p.training || (decide (1 ≤ p.layouts.length) && decide (p.layouts.length ≤ 16))),
    firstBad 4 0x0E p.fronds (fun f => decide (8 < f.cls) || decide (2 ^ p.header.ftSize ≤ f.id)),
    requireOk 4 0x0F (p.stackDescs.isEmpty || p.stackDescs.length == 16),
    firstBad 4 0x12 p.intakes.zipIdx (intakeBad p),
    requireOk 4 0x01 (p.intakes.isEmpty || (decide (5 ≤ p.header.subSize) && decide (p.header.subSize ≤ 20)
      && decide (7 ≤ p.header.evSize) && decide (p.header.evSize ≤ 20))),
    firstBad 4 0x13 p.queues (queueBad p)]

/-! ### Code 0x5, limits -/

/-- The groups that a bank collects between two clears, over the tiles of the plan in order (R81). -/
def groupsExceed (p : Plan) : Bool :=
  let ts := p.launches.filterMap fun l => if l.kind = .tile then p.tiles[l.body]? else none
  (ts.foldl (fun (st : FMap Nat × Bool) t =>
    let k := 4 * t.array + t.bank
    let n := (if t.clear then 0 else FMap.get 0 st.1 k) + t.k / t.a.deliver.group
    let left := match t.drain with | some d => if d.clear then 0 else n | none => n
    (FMap.set 0 st.1 k left, st.2 || decide (4096 < n))) ([], false)).2

/-- The vector registers that an instruction names. -/
def vregsOf : VInstr → List Nat
  | .add _ d a b | .sub _ d a b | .mul _ d a b | .min _ d a b | .max _ d a b | .cmpLt _ d a b | .div _ d a b => [d, a, b]
  | .fma _ d a b c | .sel _ d a b c => [d, a, b, c]
  | .abs _ d a | .neg _ d a | .copy d a | .sqrt _ d a | .fn _ _ d a | .reduce _ d a => [d, a]
  | .perm d a i => [d, a, i]
  | .load d _ _ _ _ | .loadRaw d _ => [d]
  | .store a _ _ _ | .storeRaw a _ => [a]

/-- Code 0x5 (Tables 4.1, 5.9, 7.6, R323, R451). -/
def limitFail (p : Plan) : Option PlanFail :=
  let cores := (p.vectors.map (·.core)).eraseDups
  firstFail [
    requireOk 5 0x02 (decide (p.anchors.length ≤ 65536)),
    firstBad 5 0x02 p.anchors (fun a => decide (255 < a.gate.length)),
    firstBad 5 0x03 p.launches (fun l => (l.waits ++ l.signals).any fun o => decide (8064 ≤ o.object)),
    firstBad 5 0x06 p.syncInit (fun x => decide (8064 ≤ x.object)),
    firstBad 5 0x02 p.anchors (fun a => a.gate.any fun o => decide (8064 ≤ o.object)),
    requireOk 5 0x07 (decide (p.exports.length ≤ 2048)),
    firstBad 5 0x07 p.exports (fun e => decide (8064 ≤ e.localObj)),
    requireOk 5 0x08 (!groupsExceed p),
    firstBad 5 0x09 p.vectors (fun v => v.code.any fun i => (vregsOf i).any fun r => decide (64 ≤ r)),
    firstBad 5 0x09 cores (fun c => let vs := p.vectors.filter (·.core == c)
      decide (16 < vs.length) || decide (16384 < (vs.foldl (fun (n : Nat) (v : VectorProgram) => n + v.code.length) 0))),
    requireOk 5 0x0C (decide (p.updates.length ≤ 8)),
    firstBad 5 0x13 p.queues (fun b => decide (4032 < b.outLen) || decide (b.entries < 288))]

/-! ### Code 0x6, addresses -/

/-- Whether a run of bytes is a good place for data: in one tier, outside the result area. -/
def placeOk (a n : Nat) : Bool := inOneTier a n && !touchesResults a n

/-- Whether an address is aligned for a frond home (R173). -/
def homeAligned (a : Nat) : Bool := if flashBase ≤ a then a % 4096 == 0 else a % 256 == 0

/-- Whether n bytes from a lie in stack q and outside the result area; an empty region lies anywhere. -/
def inStack (q a n : Nat) : Bool := n == 0 || (decide (q * 2 ^ 37 ≤ a) && decide (a + n ≤ (q + 1) * 2 ^ 37) && !touchesResults a n)

/-- The regions of a per-stack descriptor (R227, R449): stash, checkpoint, recompute, version list, pending area, ledger. -/
def stackRegions (d : StackDesc) : List (Nat × Nat) :=
  let b := d.sphBase
  [(b, 256 * (d.stashSize + d.ckptSize + d.recompSize + d.vlistSize)), (d.pendingBase, 67840 * d.slotCount), (d.ledgerBase, 16 * d.ledgerCount)]

/-- Whether two runs of bytes overlap. -/
def overlaps (x y : Nat × Nat) : Bool := decide (x.1 < y.1 + y.2) && decide (y.1 < x.1 + x.2) && x.2 != 0 && y.2 != 0

/-- A per-stack descriptor outside its stack, or with regions that overlap. -/
def stackBad (p : Plan) (x : StackDesc × Nat) : Bool :=
  let rs := stackRegions x.1
  rs.any (fun r => !inStack x.2 r.1 r.2) || rs.zipIdx.any (fun r => rs.zipIdx.any fun z => z.2 != r.2 && overlaps r.1 z.1)
    || p.layers.any (fun y => y.recompute.isSome && decide (x.1.recompSize < y.maxCount * stashGranules y.fmt))

/-- The outputs of a tile program. -/
def tileOutputs (t : TileProgram) : List Output :=
  match t.drain with | some d => d.primary :: (d.stash.toList ++ d.residual.toList) | none => []

/-- The length of an output record's frond. -/
def outRange (o : Output) : Nat × Nat := (o.addr, o.fmt.footprint o.addr)

/-- A tile whose in-place target the ledger of its stack does not cover (R449). -/
def targetBad (p : Plan) (t : TileProgram) : Bool :=
  (tileOutputs t).any fun o => match o.acc with
    | some a => match frondOf p a.frond with
      | some f => match p.stackDescs[stackOf f.home]? with
        | some d => decide (a.frond < d.ledgerFirst) || decide (d.ledgerFirst + d.ledgerCount ≤ a.frond)
        | none => true
      | none => true
    | none => false

/-- A shard whose fronds lie in two tiers or outside its stack (R195). -/
def shardPlaceBad (p : Plan) (h : Shard) : Bool :=
  (shardFronds h).any fun x => match frondOf p x.1 with
    | some f => if h.flashHomed then decide (f.home < flashBase)
        else tierOf f.home != some .stack || stackOf f.home != h.stack
    | none => false

/-- Code 0x6. -/
def addressFail (p : Plan) : Option PlanFail :=
  let h := p.header
  let ft := 16 * 2 ^ h.ftSize
  firstFail [
    requireOk 6 0x01 (inStackTier h.ftPrimary ft && inStackTier h.ftMirror ft && !touchesResults h.ftPrimary ft
      && !touchesResults h.ftMirror ft && stackOf h.ftPrimary != stackOf h.ftMirror),
    requireOk 6 0x01 (p.intakes.isEmpty || (inStackTier h.subBase (128 * 2 ^ h.subSize) && !touchesResults h.subBase (128 * 2 ^ h.subSize)
      && inStackTier h.evBase (32 * 2 ^ h.evSize) && !touchesResults h.evBase (32 * 2 ^ h.evSize)
      && inStackTier h.payloadBase (256 * h.payloadGranules) && !touchesResults h.payloadBase (256 * h.payloadGranules))),
    requireOk 6 0x01 (h.reportCount == 0 || (inStackTier h.reportBase (8 * h.reportWords) && !touchesResults h.reportBase (8 * h.reportWords))),
    requireOk 6 0x01 (h.scalarRows == 0 || (inStackTier h.scalarBase (28 * h.scalarRows) && !touchesResults h.scalarBase (28 * h.scalarRows))),
    firstBad 6 0x08 p.tiles (fun t => (tileOutputs t).any fun o => !placeOk o.addr (o.fmt.footprint o.addr) || decide (flashBase ≤ o.addr)),
    firstBad 6 0x08 p.tiles (fun t => (t.a.fronds ++ t.b.fronds).any fun a => decide (tierOf a ≠ some .sram)),
    firstBad 6 0x08 p.tiles (targetBad p),
    firstBad 6 0x09 p.vectors (fun v => (v.reads ++ v.writes.map (·.addr)).any fun a => decide (tierOf a ≠ some .sram)),
    firstBad 6 0x0A p.moves (fun m => !homeAligned m.dest || (tierOf m.dest).isNone || touchesResults m.dest 1
      || (m.isView && decide (tierOf m.dest ≠ some .sram))),
    firstBad 6 0x0B p.colls (fun c => (c.op == .gather && decide (tierOf c.dest ≠ some .sram)) || !placeOk c.area (73728 * c.recv)),
    firstBad 6 0x0D p.layouts (fun y => y.shards.any (shardPlaceBad p)),
    firstBad 6 0x0E p.fronds (fun f => !homeAligned f.home || !placeOk f.home (f.fmt.footprint f.home)),
    firstBad 6 0x0F p.stackDescs.zipIdx (stackBad p),
    firstBad 6 0x12 p.intakes (fun b => !inStackTier b.out 1 || touchesResults b.out 1 || !inStackTier b.table (16 * b.count)
      || touchesResults b.table (16 * b.count)),
    firstBad 6 0x13 p.queues (fun b => !inStackTier b.ringBase (64 * 2 ^ b.ringSize) || touchesResults b.ringBase (64 * 2 ^ b.ringSize)
      || !placeOk b.queueArea (b.entries * b.rowBytes) || !placeOk b.outRegion (32 * b.outLen))]

/-! ### Code 0x7, orderings -/

/-- What the launches of the anchored plan add to an object in one iteration. -/
def signalSum (p : Plan) (o : Nat) : Nat :=
  p.launches.zipIdx.foldl (fun n x => if inBatchList p x.2 then n
    else x.1.signals.foldl (fun n g => if g.object = o then n + g.value.toNat else n) n) 0

/-- What one launch adds to an object. -/
def signalsOf (l : Launch) (o : Nat) : Nat := l.signals.foldl (fun n g => if g.object = o then n + g.value.toNat else n) 0

/-- The initial value of an object. -/
def initValue (p : Plan) (o : Nat) : Nat := match p.syncInit.find? fun x => x.object == o with | some x => x.value.toNat | none => 0

/-- Whether a wait op of an iteration cannot be met before a launch of that iteration has completed: without the launch's signals the
count stays below the threshold. -/
def forces (p : Plan) (w : SyncOp) (l : Launch) : Bool :=
  let a := signalsOf l w.object
  let t := signalSum p w.object
  a != 0 && decide (initValue p w.object + t - a < w.value.toNat) && (w.stride == t || p.iterations == 1)

/-- The wait ops that hold a launch back: its own and those of the gates of its anchor and of the anchors before it. -/
def holdingOps (p : Plan) (l : Launch) : List SyncOp := l.waits ++ (p.anchors.take (l.anchor + 1)).flatMap (·.gate)

/-- The launches whose completion a launch waits for directly. -/
def waitsFor (p : Plan) (j : Nat) : List Nat :=
  match p.launches[j]? with
  | some l => (List.range p.launches.length).filter fun i => match p.launches[i]? with
    | some m => (holdingOps p l).any fun w => forces p w m
    | none => false
  | none => []

/-- The predecessors of a launch. -/
def predsOf (p : Plan) (j : Nat) : List Nat := match p.launches[j]? with | some l => l.preds | none => []

/-- A list of launches with every launch that must issue before one of them; `fuel` bounds the rounds. -/
def issueClosure (p : Plan) : Nat → List Nat → List Nat
  | 0, xs => xs
  | n + 1, xs =>
    let ys := (xs ++ xs.flatMap fun x => predsOf p x ++ waitsFor p x).eraseDups
    if ys.length = xs.length then xs else issueClosure p n ys

/-- Whether launch i completes before launch j issues, by sync dependencies (R130). -/
def syncBefore (p : Plan) (i j : Nat) : Bool := ((issueClosure p p.launches.length [j]).flatMap (waitsFor p)).contains i

/-- Whether the plan orders launch i before launch j by predecessors or sync waits (R226, R259). -/
def planBefore (p : Plan) (i j : Nat) : Bool := i != j && (issueClosure p p.launches.length [j]).contains i

/-- Whether two launches are ordered as R130 asks: by a sync dependency, or by launch order on one core sequencer. -/
def orderedPair (p : Plan) (i j : Nat) : Bool :=
  syncBefore p i j || syncBefore p j i || match p.launches[i]?, p.launches[j]? with
    | some a, some b => decide (a.launcher ≤ 255) && a.launcher == b.launcher
    | _, _ => false

/-- The runs of bytes that a launch reads in the places the plan fixes. -/
def readsOf (p : Plan) (l : Launch) : List (Nat × Nat) :=
  match l.kind with
  | .tile => match p.tiles[l.body]? with
    | some t => (t.a.fronds.map fun a => (a, t.a.stored.footprint a)) ++ (t.b.fronds.map fun a => (a, t.b.stored.footprint a))
        ++ (match t.drain with
          | some d => (d.s0.toList ++ d.s1.toList).map fun x => (x.addr, x.fmt.footprint x.addr)
          | none => [])
    | none => []
  | .vector => match p.vectors[l.body]? with | some v => v.reads.map fun a => (a, payloadLen) | none => []
  | _ => []

/-- The runs of bytes that a launch writes. -/
def writesOf (p : Plan) (l : Launch) : List (Nat × Nat) :=
  match l.kind with
  | .tile => match p.tiles[l.body]? with | some t => (tileOutputs t).map outRange | none => []
  | .vector => match p.vectors[l.body]? with | some v => v.writes.map outRange | none => []
  | .move => match p.moves[l.body]? with
    | some m => [(m.dest, (List.range m.count).foldl (fun n i => n + (match frondOf p (m.first + i) with | some f => f.fmt | none => .fp32).footprint m.dest) 0)]
    | none => []
  | .collective => match p.colls[l.body]? with
    | some c => if c.op = .gather then match p.layouts.head? with | some y => [(c.dest, 65792 * 2 * y.s * c.f / 4)] | none => [] else []
    | none => []
  | .intake => match p.intakes[l.body]? with
    | some b => if b.text then [(b.out, textFronds b * Fmt.fp32.footprint b.out)]
        else [(b.out, (imageFrond b b.scales 0 0).2 - b.out)]
    | none => []
  | .sweep => []

/-- Whether two lists of runs overlap. -/
def anyOverlap (xs ys : List (Nat × Nat)) : Bool := xs.any fun x => ys.any (overlaps x)

/-- Two launches that touch the same bytes, one of them writing, without an order (R130, R166). -/
def racePair (p : Plan) (i j : Nat) : Bool :=
  match p.launches[i]?, p.launches[j]? with
  | some a, some b =>
    (anyOverlap (writesOf p a) (writesOf p b ++ readsOf p b) || anyOverlap (readsOf p a) (writesOf p b)) && !orderedPair p i j
  | _, _ => false

/-- R130 and R166 over the launches of one iteration. -/
def raceFail (p : Plan) : Option PlanFail :=
  ((List.range p.launches.length).find? fun j => !inBatchList p j &&
    (List.range j).any fun i => !inBatchList p i && racePair p i j).map fun j => ⟨7, 0x03, j⟩

/-- R152: a reader of a weight frond without a gate that waits on the transfer which brings it. -/
def lateWeightBad (p : Plan) (x : Launch × Nat) : Bool :=
  let (l, _) := x
  (l.kind == .tile || l.kind == .vector) && p.launches.any fun m =>
    let weights := match m.kind with
      | .move => match p.moves[m.body]? with
        | some d => (match frondOf p d.first with | some f => f.cls == 0 | none => false)
        | none => false
      | .collective => match p.colls[m.body]? with | some c => c.op == .gather | none => false
      | _ => false
    weights && anyOverlap (writesOf p m) (readsOf p l)
      && !((p.anchors.take (l.anchor + 1)).flatMap (·.gate)).any fun w => forces p w m

/-- R162: data homed in SRAM by one pass and read in another. -/
def laterPassBad (p : Plan) (x : Launch × Nat) : Bool :=
  let (l, _) := x
  l.pass != 0xFFFF && p.launches.any fun m =>
    m.pass != 0xFFFF && m.pass != l.pass && (m.kind == .tile || m.kind == .vector)
      && anyOverlap ((writesOf p m).filter fun r => tierOf r.1 == some .sram) (readsOf p l)
      && !p.launches.any fun k => k.pass == l.pass && (k.kind == .tile || k.kind == .vector) && anyOverlap (writesOf p k) (readsOf p l)

/-- R302: an intake frond named by anything but a batch fetch. -/
def intakeReadBad (p : Plan) (x : Launch × Nat) : Bool :=
  let (l, _) := x
  let regions := p.launches.flatMap fun m => if m.kind = .intake then writesOf p m else []
  anyOverlap (readsOf p l) regions
    || (l.kind == .move && match p.moves[l.body]? with
      | some m => !m.isView && (List.range m.count).any fun i => match frondOf p (m.first + i) with | some f => f.cls == 7 | none => false
      | none => false)

/-- The launches of a pass number, with their indices. -/
def passList (p : Plan) (n : Nat) : List (Launch × Nat) := p.launches.zipIdx.filter fun x => x.1.pass == n && !inBatchList p x.2

/-- The number of passes of an iteration. -/
def passCount (p : Plan) : Nat :=
  ((p.launches.zipIdx.filter fun x => x.1.pass != 0xFFFF && !inBatchList p x.2).map (·.1.pass)).eraseDups.length

/-- R226: pass numbers, the backward and pass_last marks, the order inside a pass and between passes. -/
def passBad (p : Plan) (n : Nat) : Bool :=
  let ls := passList p n
  let lasts := ls.filter (·.1.passLast)
  match ls, lasts with
  | first :: _, [last] =>
    !(ls.all fun x => x.1.backward == first.1.backward) || !(ls.all fun x => x.2 == last.2 || planBefore p x.2 last.2)
      || signalsOf last.1 p.header.orderObj != 1
      || !(first.1.waits.any fun w => w.kind == .waitGe && w.object == p.header.orderObj && w.value.toNat == n && w.stride == passCount p)
      || (n != 0 && ls.any fun x => match (passList p (n - 1)).find? (·.1.passLast) with
        | some y => !syncBefore p y.2 x.2 | none => true)
  | _, _ => true

/-- R213: the two wait ops of every update sweep. -/
def sweepBad (p : Plan) (l : Launch) : Bool :=
  let backs := ((p.launches.filter fun m => m.backward && m.pass != 0xFFFF).map (·.pass)).eraseDups
  let m := backs.length
  let lasts := p.launches.filter fun x => x.backward && x.passLast
  l.kind == .sweep &&
    !(l.waits.any (fun w => w.kind == .waitGe && w.object == p.header.normObj && w.value.toNat == 1 && w.stride == 1)
      && l.waits.any fun w => w.kind == .waitGe && w.value.toNat == m && w.stride == m && lasts.all (fun x => signalsOf x w.object == 1)
        && p.syncInit.any fun i => i.object == w.object && i.passFlag)

/-- The launches of a collective op. -/
def collLaunches (p : Plan) (op : CollOp) : List (Launch × Nat) :=
  p.launches.zipIdx.filter fun x => x.1.kind == .collective && match p.colls[x.1.body]? with | some c => c.op == op | none => false

/-- R259: one reduce step signals the reduction-complete object by 1, behind every other. -/
def reduceBad (p : Plan) : Bool :=
  let rs := collLaunches p .reduce
  !rs.isEmpty && match rs.filter fun x => signalsOf x.1 p.header.reduceObj != 0 with
    | [x] => signalsOf x.1 p.header.reduceObj != 1 || !rs.all fun y => y.2 == x.2 || planBefore p y.2 x.2
    | _ => true

/-- R260 and R280: what the permute and the first gather wait on. -/
def permuteBad (p : Plan) : Bool :=
  let first := (collLaunches p .gather).head?
  match collLaunches p .permute with
  | [] => match first with
    | some g => !g.1.waits.any fun w => w.kind == .waitGe && w.object == p.header.digestObj && w.value.toNat == 1 && w.stride == 1
    | none => false
  | [x] =>
    !(x.1.waits.any fun w => w.kind == .waitGe && w.object == p.header.reduceObj && w.value.toNat == 1 && w.stride == 1)
      || (p.launches.zipIdx.any fun y => y.1.kind == .sweep && !syncBefore p y.2 x.2)
      || match first with
        | some g => !(g.1.waits.any fun w => w.kind == .waitGe && x.1.signals.any (·.object == w.object))
            || !(g.1.waits.any fun w => w.kind == .waitGe && w.object == p.header.digestObj && w.value.toNat == 1 && w.stride == 1)
        | none => false
  | _ => true

/-- R331: a writer of the report region that is not ordered before the launch which signals the reduction-complete object. -/
def reportBad (p : Plan) (x : Launch × Nat) : Bool :=
  let region := (p.header.reportBase, 8 * p.header.reportWords)
  p.header.reportCount != 0 && (writesOf p x.1).any (overlaps region)
    && !p.launches.zipIdx.any fun y => signalsOf y.1 p.header.reduceObj != 0 && planBefore p x.2 y.2

/-- Code 0x7. -/
def orderFail (p : Plan) : Option PlanFail :=
  firstFail [
    raceFail p,
    firstBad 7 0x03 p.launches.zipIdx (lateWeightBad p),
    firstBad 7 0x03 p.launches.zipIdx (laterPassBad p),
    firstBad 7 0x03 p.launches.zipIdx (intakeReadBad p),
    if p.training then firstBad 7 0x03 (List.range (passCount p)) (passBad p) else none,
    if p.training then firstBad 7 0x03 p.launches (sweepBad p) else none,
    if p.training then requireOk 7 0x0B (!reduceBad p && !permuteBad p) else none,
    if p.training then firstBad 7 0x03 p.launches.zipIdx (reportBad p) else none]

/-! ### Codes 0x8, 0x9 and 0xB -/

/-- Code 0x8: R241, R251, R150. -/
def chainFail (s : State) (p : Plan) : Option PlanFail :=
  let bad := getF s F.CHN_ADDR_error != 0
  let lay := p.layouts[getF s F.CHN_JOB_layout]?
  let big := decide (1 < getF s F.CHN_JOB_s * getF s F.CHN_JOB_p)
  firstFail [
    requireOk 8 0x07 (!(bad && !p.exports.isEmpty)),
    requireOk 8 0x0D (!(bad && big)),
    firstBad 8 0x07 p.exports (fun e => (List.range 64).any fun a => e.dests.getLsbD a && decide (chainLen s ≤ a)),
    requireOk 8 0x0D (!p.training || match lay with
      | some y => y.s == getF s F.CHN_JOB_s && y.p == getF s F.CHN_JOB_p
      | none => false)]

/-- Whether the plan names a flash-tier address. -/
def namesFlash (p : Plan) : Bool :=
  p.fronds.any (fun f => decide (flashBase ≤ f.home)) || p.moves.any (fun m => decide (flashBase ≤ m.dest))

/-- The flash footprints of what a snapshot of the module's shards holds, in bytes (R283, R284). -/
def snapBytes (p : Plan) (lay pos : Nat) : Nat :=
  match p.layouts[lay]? with
  | some y => (y.shards.filter (·.position == pos)).foldl (fun n h =>
      n + (shardFronds h).foldl (fun m x => m + roundUp x.2.2.imageLen 4096) 0
        - (if h.residual then h.resCount * roundUp Fmt.bf16.imageLen 4096 else 0)) 0
  | none => 0

/-- Code 0x9: R184, R283. -/
def flashFail (s : State) (p : Plan) : Option PlanFail :=
  let h := p.header
  let closed := hasF s F.FLS_STATUS_flash_closed
  let pos := bits (getReg s (Off.CHN_ROLE (myAddr s))) 11 6
  let need := 4096 + snapBytes p (getF s F.CHN_JOB_layout) pos
  firstFail [
    requireOk 9 0x0E (!(closed && namesFlash p)),
    requireOk 9 0x01 (h.snapInterval == 0 || (!closed && decide (flashBase ≤ h.snapBase) && decide (h.snapBase + 2 * 4096 * h.snapPages ≤ flashEnd)
      && decide (need ≤ 4096 * h.snapPages)))]

/-- Whether a cluster is lost (R90, R119): its four arrays are fenced, or both its vector engines. -/
def clusterGone (s : State) (c : Nat) : Bool :=
  ((List.range 4).all fun a => (getReg s (Off.ARR_FENCED ((4 * c + a) / 64))).getLsbD ((4 * c + a) % 64))
    || (veFenced s (2 * c) && veFenced s (2 * c + 1))

/-- Code 0xB: a launch or a queue that names a unit of a lost cluster. -/
def clusterFail (s : State) (p : Plan) : Option PlanFail :=
  firstFail [
    firstBad 0xB 0x03 p.launches (fun l => decide (l.launcher ≤ 255) && clusterGone s (l.launcher / 2)),
    firstBad 0xB 0x13 p.queues (fun b => clusterGone s (b.holdArray / 4) || clusterGone s (b.q / 2))]

end Sys2Proof.Machine
end

