-- ==== Sys2Proof/Machine/Load.lean ====
section
/-!
DEFINITION. Plan load (R319): permission, the checks in the order of Table 12.8, the restore of R286 and R287, and what a load that
passes places. The host command that starts it stands in Host.lean.
-/

namespace Sys2Proof.Machine

/-! ### Reading a plan -/

/-- A section of records of n bytes, read one by one; a length that is not whole records fails with code 0x4. -/
def readSection {α : Type} (im : List Byte) (t n : Nat) (f : Nat → List Byte → Option α) : Except PlanFail (List α) :=
  let bs := sectionOf im t
  if bs.length % n = 0 then readRecords t f (recordsOf n bs) else .error ⟨4, t, bs.length / n⟩

/-- The plan of an image whose container and sections stand (code 0x4 where a field does not read). -/
def readPlan (im : List Byte) : Except PlanFail Plan := do
  if !containerReserved im then .error ⟨4, 0, 0⟩
  let h ← match readHeader (sectionOf im 0x01) with | some h => .ok h | none => .error ⟨4, 0x01, 0⟩
  let anchors ← readOpaque 0x02 im Config.parseAnchors
  let sync ← readSection im 0x04 16 readSyncOp
  let preds ← readOpaque 0x05 im Config.parsePreds
  let launches ← readSection im 0x03 24 (readLaunch sync preds)
  let syncInit ← readOpaque 0x06 im Config.parseSyncInit
  let exports ← readSection im 0x07 16 readExport
  let tiles ← readOpaque 0x08 im Config.parseTiles
  let vectors ← readOpaque 0x09 im Config.parseVectors
  let moves ← readSection im 0x0A 16 readMove
  let colls ← readSection im 0x0B 32 (readColl (sectionOf im 0x0B))
  let updates ← readOpaque 0x0C im Config.parseUpdates
  let layouts ← readOpaque 0x0D im Config.parseLayouts
  let fronds ← readOpaque 0x0E im Config.parseFronds
  let stackDescs ← readSection im 0x0F 48 readStack
  let layers ← readOpaque 0x11 im Config.parseLayers
  let intakes ← readSection im 0x12 40 (readIntake (sectionOf im 0x12))
  let queues ← readOpaque 0x13 im Config.parseQueues
  .ok { training := bits (wordAt im 0) 51 48 == 0, iterations := bits (wordAt im 2) 63 32, header := h, anchors := anchors,
        launches := launches, syncInit := syncInit, exports := exports, tiles := tiles, vectors := vectors, moves := moves,
        colls := colls, updates := updates, layouts := layouts, fronds := fronds, stackDescs := stackDescs, layers := layers,
        intakes := intakes, queues := queues }

/-! ### Permission -/

/-- Whether plan load is permitted (R319, Table 16.3). -/
def loadPermitted (s : State) : Bool :=
  let lc := getF s F.SEC_LIFECYCLE_state
  !hasF s F.SEC_STATUS_lock && (lc == 0 || lc == 2 || lc == 3 || lc == 4) && getF s F.CTL_STATUS_config_source != 0
    && !hasF s F.CTL_STATUS_bringup_fail && !inHold s

/-- Whether DEVICE_READY is set and chain addressing has ended, with an address or with an error (R240, R241, R321). -/
def loadReady (s : State) : Bool :=
  hasF s F.HST_STATUS_device_ready && (hasF s F.CHN_STATUS_addressed || getF s F.CHN_ADDR_error != 0)

/-! ### Placing a plan -/

/-- The frond table in its place with the plan's entries valid and their fronds sealed (R176, R443). -/
def placeFronds (s : State) (p : Plan) : State :=
  let h := p.header
  let s := setF (setF s F.MEM_FT_BASE_base (h.ftPrimary / 256)) F.MEM_FT_MIRROR_base (h.ftMirror / 256)
  let s := setF s F.MEM_FT_SIZE_ft_size h.ftSize
  let s := clearBytes (clearBytes s h.ftPrimary (16 * 2 ^ h.ftSize)) h.ftMirror (16 * 2 ^ h.ftSize)
  p.fronds.foldl (fun s f =>
    let s := ftSet s f.id { home := f.home, valid := true, poisoned := false, inMove := false, fmt := f.fmt, cls := f.cls, seq := 0,
                            dest := 0 }
    { s with lch := { s.lch with seals := FMap.set 0 s.lch.seals f.home (slot s + 1) } }) s

/-- Sync objects (R144, R446): every flag cleared, then the plan's values and flags; an object given a value has not failed. -/
def placeSync (s : State) (p : Plan) : State :=
  let kept := (s.lch.flags.filter fun f => f.2.failed).map fun f => (f.1, (⟨false, false, false, true⟩ : SyncFlags))
  let s := { s with lch := { s.lch with flags := kept } }
  p.syncInit.foldl (fun s x =>
    let s := setReg s (Off.LCH_SYNC x.object) x.value
    { s with lch := { s.lch with flags := FMap.set ⟨false, false, false, false⟩ s.lch.flags x.object ⟨x.host, x.importFlag, x.passFlag, false⟩ } }) s

/-- Rings at their start (R291, R305, R324). -/
def placeRings (s : State) (h : PlanHeader) : State :=
  let s := setF (setF s F.INT_SUB_BASE_base (h.subBase / 4096)) F.INT_SUB_SIZE_size h.subSize
  let s := setF (setF s F.INT_EV_BASE_base (h.evBase / 4096)) F.INT_EV_SIZE_size h.evSize
  let s := [F.INT_SUB_HEAD_head, F.INT_SUB_TAIL_tail, F.INT_PAYLOAD_DONE_done, F.INT_EV_HEAD_head, F.INT_EV_TAIL_tail,
    F.INT_STATUS_ev_ring_full].foldl (fun s f => setF s f 0) s
  (List.range 256).foldl (fun s q => setReg s (Off.HST_REQ_HEAD q) 0) s

/-- The registers of the training side (Tables 7.15, 8.7, 10.12). -/
def placeTraining (s : State) (p : Plan) : State :=
  let h := p.header
  let s := setF (setF s F.UPD_STEP_step h.startStep) F.UPD_COMMITS_t h.startT
  let s := setF (setF s F.UPD_SNAP_CFG_base (h.snapBase / 4096)) F.UPD_SNAP_CFG_interval h.snapInterval
  let s := setF s F.UPD_SNAP_SIZE_pages h.snapPages
  (List.range 16).foldl (fun s q =>
    let n := match p.stackDescs[q]? with | some d => d.slotCount | none => 0
    setReg (setReg s (Off.UPD_PENDING q) (BitVec.ofNat 64 n)) (Off.UPD_STASH q) 0) s

/-- Adoption of the layout and role table in effect (R251). -/
def adoptRoles (s : State) : State :=
  let s := setF (setF s F.CHN_ADOPTED_layout (getF s F.CHN_JOB_layout)) F.CHN_ADOPTED_role_digest (committedDigest s).toNat
  let s := setF s F.CHN_ADOPTED_valid 1
  showPartner { s with chn := { s.chn with roles := committedRoles s, colls := [], doneColls := [], layouts := [], perm := none,
                                           credits := [], reqs := [] } }

/-- The valid bits and steps of the two snapshot records (Table 10.12); a closed tier shows none. -/
def showSnapshots (s : State) : State :=
  if getF s F.UPD_SNAP_SIZE_pages = 0 ∨ hasF s F.FLS_STATUS_flash_closed then setReg (setReg s (Off.UPD_SNAP 0) 0) (Off.UPD_SNAP 1) 0
  else (List.range 2).foldl (fun s k =>
    let r := rd s (snapAddr s k) 64
    let ok := (crc32c (r.take 56)).toNat == bits (wordAt r 7) 31 0
    setReg s (Off.UPD_SNAP k) (if ok then BitVec.ofNat 64 ((wordAt r 0).toNat % 2 ^ 32 + 2 ^ 32) else 0)) s

/-- A plan placed: everything that a load sets but for a restore. -/
def placePlan (s : State) (p : Plan) (im : List Byte) : State :=
  let l := s.lch
  let s := { s with plan := some p,
                    lch := { LchState.init with skipped := l.skipped, flags := l.flags, signals := l.signals, clearReq := l.clearReq,
                                                numClear := l.numClear, refFault := l.refFault, holdEnd := l.holdEnd },
                    arr := { s.arr with restarts := [], queues := [] },
                    trn := { TrnState.init with cur := p.header.startStep, fencedUpd := s.trn.fencedUpd },
                    int := IntState.init,
                    host := { s.host with reports := [], planHash := shake256 im 32 } }
  let s := placeTraining (placeRings (placeSync (placeFronds s p) p) p.header) p
  let s := if hasSection im 0x10 then wr s p.header.scalarBase (sectionOf im 0x10) else s
  showSnapshots (adoptRoles s)

/-! ### Restore, R286 and R287 -/

/-- UPD_RESTORE (Table 10.12). -/
def noteRestore (s : State) (n k fixed refusal stored : Nat) : State :=
  setReg s Off.UPD_RESTORE (BitVec.ofNat 64 (n % 2 ^ 32 + 2 ^ 32 * k + 2 ^ 33 * fixed + 2 ^ 34 * refusal + 2 ^ 38 * (stored % 2 ^ 26)))

/-- One snapshot frond checked at its address: its check, and the step of its header. -/
def snapFrondOk (s : State) (f : Fmt) (d n : Nat) : Bool := checkOk s f d && (headerAt s d).step.toNat == n

/-- The snapshot fronds with the addresses of their copies. -/
def snapPlaces (s : State) (k : Nat) : List (Nat × Fmt × Nat) :=
  ((snapFronds s).foldl (fun (a : List (Nat × Fmt × Nat) × Nat) x => (a.1 ++ [(x.1, x.2, a.2)], a.2 + 1024 * flashKib x.2))
    ([], snapAddr s k + 4096)).1

/-- One frond copied home, with the class of its entry, and its entry valid. -/
def restoreFrond (s : State) (x : Nat × Fmt × Nat) : State :=
  let (id, f, d) := x
  let e := ftGet s id
  let home := if e.home = 0 then
      match (ownShards s).find? fun h => (permFronds h).any fun y => y.1 == id with | some h => placedHome h id | none => 0
    else e.home
  let s := writeHeader (wr s home (frondImage s f d)) home { headerAt s d with cls := e.cls, fmt := f }
  let s := ftSet s id { e with home := home, valid := true, fmt := f }
  { s with lch := { s.lch with seals := FMap.set 0 s.lch.seals home (slot s + 1) } }

/-- The restore of a placed plan from slot k: a refusal reason, or the state restored. -/
def restore (s : State) (p : Plan) (k : Nat) : Nat × State :=
  let r := rd s (snapAddr s k) 64
  let w := wordAt r
  let n := (w 0).toNat
  let job := getF s F.CHN_JOB_job_tag + 2 ^ 16 * getF s F.CHN_ADOPTED_layout + 2 ^ 20 * myGroup s + 2 ^ 26 * myPos s
    + 2 ^ 32 * getF s F.CHN_ADOPTED_role_digest
  let s1 := setF s F.UPD_COMMITS_t (w 1).toNat
  let places := snapPlaces s1 k
  let refuse := fun (c : Nat) => (c, noteRestore s n k 0 c 0)
  if (crc32c (r.take 56)).toNat != bits (w 7) 31 0 || hasF s F.FLS_STATUS_flash_closed then refuse 1
  else if (w 4).toNat != job then refuse 2
  else if w 5 != p.header.seed then refuse 3
  else if bits (w 6) 31 0 != (ownShards s1).length || bits (w 6) 63 32 != places.length then refuse 4
  else if !places.all (fun x => snapFrondOk s1 x.2.1 x.2.2 n) then refuse 5
  else
    let fixed := (w 2).toNat != n + 1
    let s1 := places.foldl restoreFrond s1
    let p1 := { p with header := { p.header with startStep := n + 1, startT := (w 1).toNat } }
    let s1 := setF { s1 with plan := some p1, trn := { s1.trn with cur := n + 1 } } F.UPD_STEP_step (n + 1)
    let s1 := setF (noteRestore s1 n k (b2n fixed) 0 (if fixed then (w 2).toNat else 0)) F.UPD_SURVIVE_STATUS_restore_done 1
    (0, if fixed then flag s1 F.UPD_SURVIVE_STATUS_counter_fixed 7 else s1)

/-! ### The load -/

/-- The checks of codes 0x4 to 0x9 over a plan that has been read. -/
def planFail (s : State) (p : Plan) : Option PlanFail :=
  firstFail [encodingFail p, limitFail p, addressFail p, orderFail p, chainFail s p, flashFail s p]

/-- The load of the image at HST_PLAN_ADDR: the failure, with what a refused restore reports, or the state with the plan placed. -/
def loadImage (s : State) : Except (PlanFail × State) State :=
  let a := 4096 * getF s F.HST_PLAN_ADDR_addr
  let n := getF s F.HST_PLAN_LEN_bytes
  if !inStackTier a n || touchesResults a n then .error (⟨6, 0, 0⟩, s)
  else
    let im := rd s a n
    if containerBad s im then .error (⟨1, 0, 0⟩, s)
    else if imageCheckBad im then .error (⟨2, 0, 0⟩, s)
    else
      match sectionsFail im with
      | some e => .error (e, s)
      | none =>
        match readPlan im with
        | .error e => .error (e, s)
        | .ok p =>
          match planFail s p with
          | some e => .error (e, s)
          | none =>
            let t := placePlan s p im
            let (c, t) := if p.header.restore = 3 then (0, t) else restore t p p.header.restore
            if c ≠ 0 then .error (⟨0xA, 0x01, 0⟩, setReg s Off.UPD_RESTORE (getReg t Off.UPD_RESTORE))
            else
              match clusterFail s p with
              | some e => .error (e, s)
              | none => .ok t

end Sys2Proof.Machine
end

