-- ==== Sys2Proof/Machine/Host.lean ====
section
/-!
DEFINITION. The host's commands and doorbells (R314, R316, R320 to R324, R332) and the host writes with an effect of their own in the
NUM and LCH blocks (R68, R69, R143, R149, R155). A command takes effect as it is executed; the two boundaries between its write and
its effect (R134) are the sender's (log entry 10).
-/

namespace Sys2Proof.Machine

/-! ### Commands, R320 to R322 -/

/-- A command doorbell while a command is pending is discarded; cmd_overrun sets (R322). -/
def overrun (s : State) : State := hostErr s F.HST_ERR_STATUS_cmd_overrun

/-- A command: discarded while another is pending, refused with result 2 where the plan state does not accept it. -/
def command (s : State) (code tag : Nat) (ok : Bool) (act : State → State) : State :=
  if s.host.cmd.isSome then overrun s
  else if ok then act s
  else commandResult s code tag 2

/-- A command that stays pending: tag and code show, result 0. -/
def commandPending (s : State) (code tag : Nat) : State :=
  setReg { s with host := { s.host with cmd := some code } } Off.HST_CMD_STATUS (BitVec.ofNat 64 (tag % 2 ^ 48 + 2 ^ 48 * code))

/-- A load that fails: HST_PLAN_FAIL, result 3, and the plan state EMPTY (R319, R321). -/
def loadFailed (s : State) (e : PlanFail) (tag : Nat) : State :=
  let s := setReg s Off.HST_PLAN_FAIL (BitVec.ofNat 64 (e.code % 16 + 2 ^ 4 * (e.section0 % 256) + 2 ^ 12 * (e.item % 2 ^ 32)))
  commandResult (setPlanState s .empty) 1 tag 3

/-- A permitted load of a module that is ready: the plan placed and LOADED, or the failure. -/
def loadNow (s : State) (tag : Nat) : State :=
  match loadImage s with
  | .error (e, s) => loadFailed s e tag
  | .ok t => commandResult (setPlanState (setReg t Off.HST_PLAN_FAIL 0) .loaded) 1 tag 1

/-- LOAD in state EMPTY: LOADING, the permission test, and the load itself once DEVICE_READY is set and chain addressing has ended
(R321, R337). -/
def beginLoad (s : State) (tag : Nat) : State :=
  let s := setPlanState s .loading
  if !loadPermitted s then loadFailed s ⟨0xC, 0, 0⟩ tag
  else if loadReady s then loadNow s tag
  else commandPending s 1 tag

/-- A load that waits is tried again at a boundary. -/
def resumeLoad (s : State) : State :=
  if s.host.cmd = some 1 ∧ loadReady s = true then loadNow s (getF s F.HST_CMD_STATUS_tag) else s

/-- LOAD (R321). -/
def execLoad (tag : Nat) (s : State) : Host.Outcome State Fault Refusal :=
  settle s (hostStep s fun s => command s 1 tag (planState s == .empty) fun s => beginLoad s tag)

/-- START in state LOADED: RUNNING, with anchor 0 planned from the doorbell boundary + 16 (R138, R321). A module in HOLD goes to
HELD. -/
def startPlan (s : State) (tag : Nat) : State :=
  let s := { s with lch := { s.lch with base := slot s + 1 + 16 } }
  commandResult (setPlanState s (if inHold s then .held else .running)) 2 tag 1

/-- START (R321). -/
def execStart (tag : Nat) (s : State) : Host.Outcome State Fault Refusal :=
  settle s (hostStep s fun s => command s 2 tag (planState s == .loaded) fun s => startPlan s tag)

/-- The tile and vector launches outside any pass that are in flight (R104). -/
def looseLaunches (s : State) : List Nat :=
  (FMap.keys s.lch.runs).filter fun k =>
    (runOf s k).issued && !(runOf s k).completed && (passKey s k).isNone
      && match launchOf s k with | some l => l.kind == .tile || l.kind == .vector | none => false

/-- STOP in state RUNNING: the hard pre-emption of R104 over every pass in flight and every loose tile or vector program. -/
def stopPlan (s : State) (tag : Nat) : State :=
  let ps := (knownPasses s).filter (passInFlight s)
  let s := setF s F.HST_STATUS_stop_in_force 1
  let s := discard (ps.foldl stopPass s) (looseLaunches s)
  let s := abandonMoves (noteStop s 1 ps.length)
  let s := { s with lch := { s.lch with stopFrom := slot s } }
  commandResult (setPlanState s .stopped) 3 tag 1

/-- STOP (R321). -/
def execStop (tag : Nat) (s : State) : Host.Outcome State Fault Refusal :=
  settle s (hostStep s fun s => command s 3 tag (planState s == .running) fun s => stopPlan s tag)

/-- RESUME in state STOPPED: the stop ends, its time leaves every timeout (R148), and the passes restart. -/
def resumePlan (s : State) (tag : Nat) : State :=
  let s := setF s F.HST_STATUS_stop_in_force 0
  let s := { s with lch := { s.lch with pauses := s.lch.pauses ++ [(s.lch.stopFrom, slot s)] } }
  commandResult (restartAll (setPlanState s .running)) 4 tag 1

/-- RESUME (R321). -/
def execResume (tag : Nat) (s : State) : Host.Outcome State Fault Refusal :=
  settle s (hostStep s fun s => command s 4 tag (planState s == .stopped) fun s => resumePlan s tag)

/-- END: it completes at once when nothing that it waits for is in flight, and stays pending otherwise. -/
def endPlan (s : State) (tag : Nat) : State := endIfIdle (commandPending s 5 tag)

/-- END (R321). -/
def execEndPlan (tag : Nat) (s : State) : Host.Outcome State Fault Refusal :=
  settle s (hostStep s fun s => command s 5 tag
    (match planState s with | .loaded | .stopped | .held | .ended => true | _ => false) fun s => endPlan s tag)

/-- COMMAND_RESERVED (R321): a reserved code is one that no state accepts. A code of Table 12.9 is none and does nothing here. -/
def execCommandReserved (code tag : Nat) (s : State) : Host.Outcome State Fault Refusal :=
  settle s (hostStep s fun s =>
    if 1 ≤ code % 16 ∧ code % 16 ≤ 5 then s else command s code tag false id)

/-- COMMAND_OVERRUN (R322). -/
def execCommandOverrun (s : State) : Host.Outcome State Fault Refusal := settle s (hostStep s overrun)

/-- SLOT_BOUNDARY (R140). Slots begin with phase 4 of bring-up (R337); a load that waits is tried again. -/
def execSlotBoundary (s : State) : Host.Outcome State Fault Refusal :=
  settle s (if phaseEnded s 4 then resumeLoad (advanceSlot s) else s)

/-! ### Doorbells and apertures -/

/-- REQUEST_TAIL (R324, R291): an accepted tail moves forward and stays within the ring; a queue that the plan does not define
makes a doorbell error. -/
def requestTail (s : State) (q t : Nat) : State :=
  match queueDesc s q with
  | none => recordAccess (hostErr s F.HST_ERR_STATUS_doorbell_error) 1 true 8 (0x1000 + 8 * q)
  | some b =>
    let head := getF s (F.HST_REQ_HEAD_head q)
    let fill := fun (x : Nat) => (x % 2 ^ 32 + 2 ^ 32 - head) % 2 ^ 32
    if 2 ^ b.ringSize < fill t || fill t < fill (getF s (F.HST_REQ_HEAD_tail q)) then hostErr s F.HST_ERR_STATUS_req_tail_error
    else setF s (F.HST_REQ_HEAD_tail q) t

/-- REQUEST_TAIL (R324). -/
def execRequestTail (q t : Nat) (s : State) : Host.Outcome State Fault Refusal := settle s (hostStep s fun s => requestTail s q t)

/-- Whether an aligned 64-bit write at a BAR2 offset is a doorbell (Table 12.4). -/
def isDoorbell (off : Nat) : Bool :=
  off == 0 || off == 8 || (decide (0x1000 ≤ off) && decide (off < 0x1800) && off % 8 == 0)

/-- BAR2_INVALID_WRITE (R316): discarded, with doorbell_error and a record. A write that is a doorbell does nothing here. -/
def execBar2InvalidWrite (off size : Nat) (s : State) : Host.Outcome State Fault Refusal :=
  settle s (hostStep s fun s =>
    if isDoorbell off && size == 8 then s else recordAccess (hostErr s F.HST_ERR_STATUS_doorbell_error) 1 true size off)

/-- Whether a BAR0 access has a size and alignment of R14, and of R15 for a write to a register that holds a WO field. -/
def bar0Ok (off size : Nat) (wo : Bool) : Bool := (size == 8 && off % 8 == 0) || (size == 4 && off % 4 == 0 && !wo)

/-- A BAR0 access refused under R14: zero data on a read, a discarded write, and a record. -/
def bar0Refused (s : State) (off size : Nat) (write : Bool) : State :=
  let s := recordAccess (hostErr s F.HST_ERR_STATUS_access_error) 0 write size off
  if write then s else send s (.hostRead (List.replicate size 0))

/-- The row of the register map that holds an offset, with the offset of the register's first member. -/
def rowAt (off : Nat) : Option RegRow :=
  regTable.find? fun r =>
    decide (r.off ≤ off) &&
      (List.range r.count2).any fun j =>
        let d := off - r.off - r.stride2 * j
        decide (r.off + r.stride2 * j ≤ off) && (if r.stride = 0 then d == 0 else d % r.stride == 0 && decide (d / r.stride < r.count))

/-- Whether the register at an offset holds a WO field (R15). -/
def holdsWo (off : Nat) : Bool := match rowAt (off / 8 * 8) with | some r => r.fields.any (·.acc == .wo) | none => false

/-- BAR0_BAD_ACCESS (R14, R15). An access of a good size and alignment does nothing here. -/
def execBar0BadAccess (off size : Nat) (write : Bool) (s : State) : Host.Outcome State Fault Refusal :=
  settle s (hostStep s fun s => if bar0Ok off size (write && holdsWo off) then s else bar0Refused s off size write)

/-- The stack-tier address of a BAR4 offset (R314): the aperture base with its bits below the BAR4 size forced to zero. -/
def apertureAddr (s : State) (ep : Endpoint) (off : Nat) : Nat :=
  let b := 2 ^ 30 * (match ep with | .a => getF s F.HST_APERTURE_base | .b => getF s F.HST_APERTURE_B_base)
  b / 2 ^ s.host.bar4 * 2 ^ s.host.bar4 + off

/-- A BAR4 access (R314): refused whole when any byte lies at or above the stack tier's end or in the result area. Endpoint B exists
in pcie_mode 1 only (R311). -/
def apertureAccess (s : State) (ep : Endpoint) (off size : Nat) (write : Option (List Byte)) : State :=
  let a := apertureAddr s ep off
  if ep = .b ∧ getF s F.HST_STATUS_pcie_mode = 0 then s
  else if decide (stackEnd < a + size) || touchesResults a size then
    let s := recordAccess (hostErr s F.HST_ERR_STATUS_aperture_error) (match ep with | .a => 2 | .b => 3) write.isSome size off
    match write with
    | some _ => s
    | none => send s (.hostRead (List.replicate size 0))
  else
    match write with
    | some bs => wr s a (bs.take size)
    | none => send s (.hostRead (rd s a size))

/-- APERTURE_ACCESS (R314). -/
def execApertureAccess (ep : Endpoint) (off size : Nat) (write : Option (List Byte)) (s : State) : Host.Outcome State Fault Refusal :=
  settle s (hostStep s fun s => apertureAccess s ep off size write)

/-! ### Interrupt spacing -/

/-- IRQ_COALESCE_EXPIRY (R332): the interval of a vector ends; a message that waits goes out and begins the next interval. -/
def irqExpiry (s : State) (v : Nat) : State :=
  if FMap.get false s.host.irqWait v then
    send { s with host := { s.host with irqWait := FMap.set false s.host.irqWait v false,
                                        irqOpen := FMap.set false s.host.irqOpen v true } } (.msix v)
  else { s with host := { s.host with irqOpen := FMap.set false s.host.irqOpen v false } }

/-- IRQ_COALESCE_EXPIRY (R332). -/
def execIrqCoalesceExpiry (v : Nat) (s : State) : Host.Outcome State Fault Refusal := settle s (irqExpiry s v)

/-! ### NUM and LCH writes -/

/-- NUM_CLEAR (R68): a write of 1 acts at the next boundary. -/
def numClear (s : State) (v : Word) : State := if bit v 0 then { s with lch := { s.lch with numClear := true } } else s

/-- NUM_CLEAR (R68). -/
def execNumClear (v : Word) (s : State) : Host.Outcome State Fault Refusal := settle s (hostStep s fun s => numClear s v)

/-- A tail write under R69: kept when it would pass the head. -/
def ringTail (s : State) (head tail err : Field) (t : Nat) : State :=
  let h := getF s head
  let o := getF s tail
  if (h + 2 ^ 32 - o) % 2 ^ 32 < (t % 2 ^ 32 + 2 ^ 32 - o) % 2 ^ 32 then setF s err 1 else showRings (setF s tail t)

/-- NUM_RING_TAIL (R69). -/
def execNumRingTail (t : Nat) (s : State) : Host.Outcome State Fault Refusal :=
  settle s (hostStep s fun s => ringTail s F.NUM_RING_HEAD_head F.NUM_RING_TAIL_tail F.NUM_STATUS_tail_error t)

/-- LCH_TS_RING_TAIL (R143). -/
def execLchTsRingTail (t : Nat) (s : State) : Host.Outcome State Fault Refusal :=
  settle s (hostStep s fun s => ringTail s F.LCH_TS_RING_HEAD_head F.LCH_TS_RING_TAIL_tail F.LCH_STATUS_ts_tail_error t)

/-- A host signal (R149): accepted only for an object whose host flag is set. -/
def hostSignal (s : State) (o amount : Nat) : State :=
  if (syncFlags s o).host then signal s o (amount % 2 ^ 48) else setF s F.LCH_STATUS_host_signal_refused 1

/-- LCH_SYNC_SIGNAL (R149). -/
def execLchSyncSignal (o : Nat) (amount : Word) (s : State) : Host.Outcome State Fault Refusal :=
  settle s (hostStep s fun s => hostSignal s (o % 8192) amount.toNat)

/-- LCH_CLEAR (R155): a write of 1 acts at the next boundary. -/
def lchClear (s : State) (v : Word) : State := if bit v 0 then { s with lch := { s.lch with clearReq := true } } else s

/-- LCH_CLEAR (R155). -/
def execLchClear (v : Word) (s : State) : Host.Outcome State Fault Refusal := settle s (hostStep s fun s => lchClear s v)

end Sys2Proof.Machine
end

