-- ==== Sys2Proof/Machine/Envelope.lean ====
section
/-!
DEFINITION. The power envelope: ceilings (R364 to R370), the governor's setpoint and depth (R359 to R363), metering (R356, R357),
breaches (R371), and energy records with their journal and signatures (R376 to R380).
-/

namespace Sys2Proof.Machine

/-- The record in progress changed. -/
def onRecord (s : State) (f : RecordAcc → RecordAcc) : State := { s with pwr := { s.pwr with acc := f s.pwr.acc } }

/-- A flag of the record in progress (Table 14.11). -/
def recordFlag (s : State) (b : Nat) : State := onRecord s fun r => { r with flags := r.flags ||| 2 ^ b }

/-- A status bit of PWR_STATUS set, with the power event (R383) and the in-band interrupt of R373. -/
def powerFlag (s : State) (f : Field) : State := send (flag s f 10) .ibi

/-! ### Ceilings, R365 to R370 -/

/-- Entry e of the schedule (R382). -/
def schedEntry (s : State) (e : Nat) : Nat := bits (getReg s (Off.PWR_SCHED (e / 4))) (16 * (e % 4) + 15) (16 * (e % 4))

/-- The scheduled ceiling of a grid minute (R365). -/
def scheduled (s : State) (m : Nat) : Nat :=
  let first := getF s F.PWR_SCHED_CTL_first_minute
  if first ≤ m ∧ m < first + getF s F.PWR_SCHED_CTL_count then schedEntry s (m - first)
  else if getF s F.PWR_SCHED_CTL_tail_w = 0 then 3200 else getF s F.PWR_SCHED_CTL_tail_w

/-- The ceiling in force: the scheduled ceiling of the minute in progress, or a lower throttle cap (R365). -/
def ceiling (s : State) : Nat :=
  let c := getF s F.PWR_THROTTLE_cap_w
  if c ≠ 0 ∧ c < s.pwr.minuteW then c else s.pwr.minuteW

/-- The draw: the power of the last block, on the higher meter once the meters have differed (R356, R357). -/
def inputDraw (s : State) : Nat :=
  if s.pwr.meterBad then max (getF s F.PWR_DRAW_block_w) (getF s F.PWR_INPUT_check_w) else getF s F.PWR_DRAW_block_w

/-- The enforcement ceiling (R368, R370): during a late cut at slot T from draw P, the larger of the ceiling and P less 200 W/ms,
32 / 625 W a slot. -/
def enforcement (s : State) : Nat :=
  match s.pwr.cut with
  | some (t, p) => max (ceiling s) ((625 * p - 32 * (slot s - t)) / 625)
  | none => ceiling s

/-- The ceiling in force shown; one below the draw is a late cut (R370). -/
def newCeiling (s : State) (old : Nat) : State :=
  let c := ceiling s
  let s := setF s F.PWR_DRAW_ceiling_w c
  if c < old && decide (c < inputDraw s) then
    recordFlag (powerFlag { s with pwr := { s.pwr with cut := some (slot s, inputDraw s) } } F.PWR_STATUS_late_cut) 6
  else s

/-! ### The governor, R359 to R363 -/

/-- A die whose sensors have not been read. -/
def noTemp : Int × Int := (-10000, -10000)

/-- The junction of a die in tenths of a degree (R391): the higher of its two readings, or the sensor that it runs on alone. -/
def dieTemp (s : State) (d : Nat) : Int :=
  let t := FMap.get noTemp s.saf.temps d
  match FMap.get none s.saf.alone d with
  | some false => t.1
  | some true => t.2
  | none => max t.1 t.2

/-- The hottest junction of the dies that have been read, with its die. -/
def hottest (s : State) : Nat × Int :=
  (FMap.keys s.saf.temps).foldl (fun (m : Nat × Int) d => if m.2 < dieTemp s d then (d, dieTemp s d) else m) (0, -10000)

/-- The voltage limit in mV (R361, Table 15.2). -/
def voltageLimit (s : State) : Nat :=
  let v := getF s F.PWR_THROTTLE_vmax
  let v := if v = 0 then 700 else v
  let near := decide (ceiling s ≤ inputDraw s + 200)
  let v := if !hasF s F.PWR_THROTTLE_sprint_en || decide ((hottest s).2 > 750) || near then min v 700 else v
  if hasF s F.SAF_STATUS_thermal_warn then min v 600 else v

/-- Whether the setpoint is in the sprint range, above 700 mV. -/
def sprinting (s : State) : Bool := decide (700 < getF s F.PWR_GOV_setpoint_mv)

/-- Whether the module runs at the floor, at a depth above 0. -/
def atFloor (s : State) : Bool := getF s F.PWR_GOV_depth != 0

/-- What PWR_GOV and PWR_STATUS show of the limit, the setpoint and the depth. -/
def showLimit (s : State) : State :=
  let t := setF s F.PWR_GOV_limit_mv (voltageLimit s)
  setF (setF t F.PWR_STATUS_sprint_active (b2n (sprinting s))) F.PWR_STATUS_at_floor (b2n (atFloor s))

/-- A flag of the record in progress set where a condition holds. -/
def noteIf (s : State) (c : Bool) (b : Nat) : State := if c then recordFlag s b else s

/-- What PWR_GOV, PWR_STATUS and the record show of setpoint, depth and limit. -/
def showGovernor (s : State) : State := noteIf (noteIf (showLimit s) (sprinting s) 9) (atFloor s) 10

/-- ramp_step for a draw at full issue level (R362); halved while the setpoint changes. -/
def rampStep (pFull : Nat) (slewing : Bool) : Nat :=
  let r := if pFull = 0 then 65535 else max 1 (min 65535 (190 * 65536 * 100 / (pFull * 390625)))
  if slewing then max 1 (r / 2) else r

/-- The envelope activity (ENV, Table 15.4) runs while the setpoint changes. -/
def runSlew (s : State) (more : Bool) : State :=
  let x : Activity := ⟨7, 0, 0⟩
  let run := s.maint.running.filter (· != x)
  showMaint { s with maint := { s.maint with running := if more then run ++ [x] else run } }

/-- The setpoint at a new value in the present slot, with the ramp step that the arrays keep meanwhile (R359, R362). -/
def moveSetpoint (s : State) (v pFull : Nat) (more : Bool) : State :=
  let s := { s with pwr := { s.pwr with stepAt := slot s } }
  setF (setF (setF s F.PWR_GOV_setpoint_mv v) F.PWR_GOV_slewing (b2n more)) F.ARR_ENVELOPE_ramp_step (rampStep pFull more)

/-- Whether a step is due: up only at depth 0 and within the limit, down to the floor, 4,883 slots (1.25 ms) after the last (R359, R361). -/
def stepAllowed (s : State) (up : Bool) : Bool :=
  let v := getF s F.PWR_GOV_setpoint_mv
  hasF s F.HST_STATUS_device_ready && decide (s.pwr.stepAt + 4883 ≤ slot s)
    && (if up then getF s F.PWR_GOV_depth == 0 && decide (v + 5 ≤ voltageLimit s) else decide (555 ≤ v))

/-- SETPOINT_STEP (R359): one 5 mV step; `more` says that the change goes on. -/
def setpointStep (s : State) (up : Bool) (pFull : Nat) (more : Bool) : State :=
  let v := getF s F.PWR_GOV_setpoint_mv
  if stepAllowed s up then showGovernor (runSlew (moveSetpoint s (if up then v + 5 else v - 5) pFull more) more) else s

/-- SETPOINT_STEP (R359). -/
def execSetpointStep (up : Bool) (pFull : Nat) (more : Bool) (s : State) : Host.Outcome State Fault Refusal :=
  settle s (setpointStep s up pFull more)

/-- Whether the cap has reached the target of the present depth (R363). -/
def capReached (s : State) : Bool := getF s F.PWR_GOV_cap == 1024 * (64 - getF s F.PWR_GOV_depth)

/-- DEPTH_CHANGE (R363): at the floor, by one, once the cap has reached its target. -/
def depthChange (s : State) (up : Bool) : State :=
  let k := getF s F.PWR_GOV_depth
  if getF s F.PWR_GOV_setpoint_mv = 550 && capReached s && (if up then decide (k < 63) else decide (0 < k)) then
    showGovernor (setF s F.PWR_GOV_depth (if up then k + 1 else k - 1))
  else s

/-- DEPTH_CHANGE (R363). -/
def execDepthChange (up : Bool) (s : State) : Host.Outcome State Fault Refusal := settle s (depthChange s up)

/-! ### Metering, R356, R357, R371 -/

/-- The mean of a quantity over the blocks of the last second. -/
def meanOf (f : MeterBlock → Nat) (bs : List MeterBlock) : Nat := if bs.length = 0 then 0 else (bs.map f).sum / bs.length

/-- Whether the 1 s averages of the meters differ by more than 2 % of the primary plus 20 W (R357); a whole second is needed. -/
def metersDiffer (bs : List MeterBlock) : Bool :=
  let p : Nat := (bs.map (·.w)).sum
  let c : Nat := (bs.map (·.check)).sum
  bs.length == 10000 && decide (p * 2 + 20 * 100 * 10000 < 100 * (p - c) ∨ p * 2 + 20 * 100 * 10000 < 100 * (c - p))

/-- The power that the governor enforces on for a block. -/
def enforcedW (s : State) (b : MeterBlock) : Nat := if s.pwr.meterBad then max b.w b.check else b.w

/-- The meters compared at the end of a block. -/
def compareMeters (s : State) : State :=
  if metersDiffer s.pwr.blocks && !hasF s F.PWR_STATUS_meter_fault && hasF s F.HST_STATUS_device_ready then
    let s := recordFlag (powerFlag { s with pwr := { s.pwr with meterBad := true } } F.PWR_STATUS_meter_fault) 8
    runFault s 0x20 96 0 0
  else s

/-- The run of blocks above 1.10 × the enforcement ceiling, with a block (R371). -/
def nextPeakRun (s : State) (b : MeterBlock) : Nat := if 11 * b.ceiling < 10 * enforcedW s b then s.pwr.peakRun + 1 else 0

/-- The peak rule: a run of blocks above 1.10 × the enforcement ceiling longer than 20 ms, once per run (R371). -/
def judgePeak (s : State) (b : MeterBlock) : State :=
  let run := nextPeakRun s b
  let s := { s with pwr := { s.pwr with peakRun := run } }
  if run = 201 then recordFlag (bumpF (powerFlag s F.PWR_STATUS_over_peak) F.PWR_BREACH_CNT_peak 1) 5 else s

/-- The average rule over the second that ends with the block, for windows that begin at or after DEVICE_READY (R371). -/
def judgeAverage (s : State) : State :=
  let bad := decide (10000 ≤ s.pwr.ready)
    && decide ((s.pwr.blocks.map (·.ceiling)).sum < (s.pwr.blocks.map (enforcedW s)).sum)
  let s := { s with pwr := { s.pwr with avgBroken := bad } }
  if bad then recordFlag (bumpF (powerFlag s F.PWR_STATUS_over_ceiling) F.PWR_BREACH_CNT_avg 1) 4 else s

/-- What a block adds to the record in progress. -/
def recordBlock (s : State) (vin : Nat) (b : MeterBlock) : State :=
  let avg := meanOf (·.w) s.pwr.blocks
  onRecord s fun r => { r with allowed := r.allowed + ceiling s, maxAvg := max r.maxAvg avg, peak := max r.peak b.w,
                               vinMin := min r.vinMin vin, vinMax := max r.vinMax vin }

/-- What PWR_INPUT, PWR_DRAW and PWR_ENERGY show after a block (R356, R383). -/
def showDraw (s : State) (vin iin w check : Nat) : State :=
  let s := setF (setF (setF s F.PWR_INPUT_vin vin) F.PWR_INPUT_iin iin) F.PWR_INPUT_check_w check
  let s := setF (setF s F.PWR_DRAW_block_w w) F.PWR_DRAW_avg_w (meanOf (·.w) s.pwr.blocks)
  setF (setF s F.PWR_DRAW_ceiling_avg_w (meanOf (·.ceiling) s.pwr.blocks)) F.PWR_ENERGY_mj (s.pwr.energy / 10)

/-- The run of blocks at depth 63 with the cap reached (R371). -/
def countFloor (s : State) : State :=
  let held := getF s F.PWR_GOV_depth == 63 && capReached s
  { s with pwr := { s.pwr with floorRun := if held then s.pwr.floorRun + 1 else 0 } }

/-- A block taken into the last second, the energy, the run of blocks with the input in range, and the blocks since DEVICE_READY. -/
def takeBlock (s : State) (vin : Nat) (b : MeterBlock) : State :=
  { s with pwr := { s.pwr with blocks := (b :: s.pwr.blocks).take 10000, energy := s.pwr.energy + b.w,
                               vinOk := if 5500 ≤ vin ∧ vin ≤ 6500 then s.pwr.vinOk + 1 else 0,
                               ready := s.pwr.ready + b2n (hasF s F.HST_STATUS_device_ready) } }

/-- What a module that is up makes of a block: the registers, the record in progress, the rules of R371, the governor's display. -/
def judgeBlock (s : State) (vin iin : Nat) (b : MeterBlock) : State :=
  showGovernor (countFloor (judgeAverage (judgePeak (compareMeters (recordBlock (showDraw s vin iin b.w b.check) vin b)) b)))

/-- METER_BLOCK (R356): input voltage in 10 mV, current in 10 mA, block power of the two meters in W. -/
def meterBlock (s : State) (vin iin w check : Nat) : State :=
  if s.pwr.mode = .unpowered ∨ s.pwr.mode = .off then s
  else
    let b : MeterBlock := ⟨w, check, enforcement s⟩
    if s.pwr.mode = .up then judgeBlock (takeBlock s vin b) vin iin b else takeBlock s vin b

/-- METER_BLOCK (R356). Blocks follow from PWR_EN rise, in reset too. -/
def execMeterBlock (vin iin w check : Nat) (s : State) : Host.Outcome State Fault Refusal := settleAny s (meterBlock s vin iin w check)

/-- ENVELOPE_HOLD (R371): a whole second at depth 63 with the cap reached, and the average rule still broken. -/
def envelopeHold (s : State) : State :=
  if decide (10000 ≤ s.pwr.floorRun) && s.pwr.avgBroken then
    holdFault (powerFlag s F.PWR_STATUS_envelope_hold) 0x21 4 96 0 0
  else s

/-- ENVELOPE_HOLD (R371). -/
def execEnvelopeHold (s : State) : Host.Outcome State Fault Refusal := settle s (envelopeHold s)

/-- INPUT_RANGE (R358): the input outside 55 to 65 V for more than 1 ms; vin in 10 mV. -/
def inputRange (s : State) (vin : Nat) : State :=
  if 5500 ≤ vin ∧ vin ≤ 6500 then s
  else holdFault (powerFlag { s with pwr := { s.pwr with vinOk := 0 } } F.PWR_STATUS_input_range) 0x03 3 96 0 0

/-- INPUT_RANGE (R358). -/
def execInputRange (vin : Nat) (s : State) : Host.Outcome State Fault Refusal := settle s (inputRange s vin)

/-! ### Energy records, R376 to R380 -/

/-- A byte list written into a window of BAR0, in words; a missing byte is 0. -/
def setWindow (s : State) (off : Nat) (bs : List Byte) : State :=
  (List.range ((bs.length + 7) / 8)).foldl (fun s i => setReg s (off + 8 * i) (wordAt bs i)) s

/-- The bytes of a window of BAR0. -/
def getWindow (s : State) (off words : Nat) : List Byte := (List.range words).flatMap fun i => leBytes 8 (getReg s (off + 8 * i)).toNat

/-- The window offset of energy record i. -/
def recordOff (i : Nat) : Nat := 0x210000 + 0x80 * (i % 2048)

/-- The bytes of energy record i as the window holds it. -/
def recordBytes (s : State) (i : Nat) : List Byte := getWindow s (recordOff i) 16

/-- The chain hash of record i (R377). -/
def recordHash (s : State) (i : Nat) : List Byte := shake256 (recordBytes s i) 32

/-- The 128 bytes of the record that closes (Table 14.10). -/
def closingBytes (s : State) (i minute w flags : Nat) : List Byte :=
  let r := s.pwr.acc
  let chained := i != 0 && !(flags.testBit 3)
  wordBytes [i, r.start % 2 ^ 56, slot s % 2 ^ 56, (s.pwr.energy - r.energy0) / 10, r.allowed / 10,
    w % 2 ^ 16 + 2 ^ 16 * (r.cap % 2 ^ 16) + 2 ^ 32 * (min r.maxAvg 65535) + 2 ^ 48 * (min r.peak 65535),
    (if r.vinMin = 0xFFFF then 0 else r.vinMin) % 2 ^ 16 + 2 ^ 16 * (r.vinMax % 2 ^ 16) + 2 ^ 48 * (flags % 2 ^ 11),
    minute % 2 ^ 32 + 2 ^ 32 * getF s F.CTL_CROZIER_CNT_committed, r.skipped % 2 ^ 32 + 2 ^ 32 * getF s F.PWR_BOOT_boot, 0, 0, 0]
    ++ (if chained then recordHash s (i - 1) else List.replicate 32 0)

/-- The next record opened: flags of conditions that last (R357, Table 14.11). -/
def openRecord (s : State) : State :=
  let flags := 128 * b2n (inHold s) + 256 * b2n s.pwr.meterBad + 512 * b2n (hasF s F.PWR_STATUS_sprint_active)
    + 1024 * b2n (hasF s F.PWR_STATUS_at_floor)
  { s with pwr := { s.pwr with acc := { RecordAcc.start0 with start := slot s, energy0 := s.pwr.energy,
                                                              cap := getF s F.PWR_THROTTLE_cap_w, flags := flags } } }

/-- Record i due for the journal and, with i mod 10 = 9, for a signature (R378, R379). -/
def queueRecord (s : State) (i : Nat) : State :=
  { s with pwr := { s.pwr with unstored := s.pwr.unstored ++ [i], sigWait := if i % 10 = 9 then s.pwr.sigWait ++ [i] else s.pwr.sigWait } }

/-- An energy record closed (R376): written into the window, chained, queued, and the next one opened. -/
def closeRecord (s : State) (minute w extra : Nat) : State :=
  let i := getF s F.PWR_REC_HEAD_next
  let s := setWindow s (recordOff i) (closingBytes s i minute w (s.pwr.acc.flags ||| extra))
  openRecord (queueRecord (setF s F.PWR_REC_HEAD_next (i + 1)) i)

/-- The slots of a grid minute (R364). -/
def minuteSlots : Nat := 234375000

/-- The grid minute and its slot advance, and the record of the minute closes (R364, R376). -/
def nextMinute (s : State) : State :=
  let m := getF s F.PWR_MINUTE_minute
  let at0 := getF s F.PWR_MINUTE_SLOT_slot
  setF (setF (closeRecord s m s.pwr.minuteW 0) F.PWR_MINUTE_minute (m + 1)) F.PWR_MINUTE_SLOT_slot (at0 + minuteSlots)

/-- The scheduled ceiling of a minute taken up (R365). -/
def takeCeiling (s : State) (m : Nat) : State := newCeiling { s with pwr := { s.pwr with minuteW := scheduled s m } } (ceiling s)

/-- MINUTE_BOUNDARY (R364): the record of the minute closes, and the scheduled ceiling of the next takes effect. -/
def minuteBoundary (s : State) : State :=
  if hasF s F.HST_STATUS_device_ready && decide (getF s F.PWR_MINUTE_SLOT_slot + minuteSlots ≤ slot s) then
    takeCeiling (nextMinute s) (getF s F.PWR_MINUTE_minute + 1)
  else s

/-- MINUTE_BOUNDARY (R364). -/
def execMinuteBoundary (s : State) : Host.Outcome State Fault Refusal := settle s (minuteBoundary s)

/-- The journal with every record that waits, the last 2,048 kept (R379). -/
def storeRecords (s : State) : State :=
  let new := s.pwr.unstored.map fun i => (i, recordBytes s i)
  let all := s.nv.records ++ new
  let next := match new.getLast? with | some x => x.1 + 1 | none => s.nv.next
  { s with nv := { s.nv with records := all.drop (all.length - 2048), next := next }, pwr := { s.pwr with unstored := [] } }

/-- JOURNAL_WRITE (R379). -/
def execJournalWrite (s : State) : Host.Outcome State Fault Refusal := settle s (storeRecords s)

/-- Whether the identity seed stands: programmed and not erased (R406). -/
def seedPresent (f : OneTime) : Bool := f.seed != List.replicate 96 0 && f.seed != List.replicate 96 0xFF

/-- The lifecycle state of a count and the debug flag (R407, codes of Table 16.3). -/
def lifecycleOf (t : Nat) (debug : Bool) : Nat :=
  if t = 0 then 0 else if 13 ≤ t then 5 else if t % 3 = 1 then 1 else if t % 3 = 0 then 4 else if debug then 3 else 2

/-- The lifecycle state. -/
def lifecycle (s : State) : Nat := lifecycleOf s.fuse.t s.sec.debug

/-- The signing statement of a record (Table 14.12). -/
def signingStatement (s : State) (i : Nat) : List Byte :=
  wordBytes [0x000152454E57, i, (getReg s Off.SEC_SERIAL).toNat, getF s F.PWR_BOOT_boot] ++ recordHash s i

/-- Record i signed into its slot (R378). -/
def signRecord (s : State) (i : Nat) : State :=
  let st := signingStatement s i
  let bytes := st ++ (Config.slhSign s.fuse.seed st).take 49856
  let t := setF (setWindow s (0x2C0000 + 0x10000 * (i / 10 % 4)) bytes) F.PWR_SIG_HEAD_index i
  { t with nv := { s.nv with sig := some (i, bytes) } }

/-- Whether the module can sign: an identity key stands, the module is not DECOMMISSIONED, and no key rotation has the Keccak core
(R396, R406, R422). -/
def canSign (s : State) : Bool := seedPresent s.fuse && lifecycle s != 5 && !s.maint.running.contains ⟨8, 0, 0⟩

/-- ENERGY_SIGNING (R378): the oldest record that waits is signed. -/
def energySigning (s : State) : State :=
  match s.pwr.sigWait with
  | [] => s
  | i :: rest =>
    if canSign s then powerFlag (signRecord { s with pwr := { s.pwr with sigWait := rest } } i) F.PWR_STATUS_sig_ready else s

/-- ENERGY_SIGNING (R378). -/
def execEnergySigning (s : State) : Host.Outcome State Fault Refusal := settle s (energySigning s)

end Sys2Proof.Machine
end

