-- ==== Sys2Proof/Machine/Crozier.lean ====
section
/-!
DEFINITION. Croziers (R347 to R354): the staging set and its claim, the freeze and the check of Table 13.8, distribution, commit
and abort.
-/

namespace Sys2Proof.Machine

/-! ### Staged values -/

/-- The mask of the fields of a register with an access code. -/
def accMask (r : RegRow) (a : Access) : Word := (r.fields.filter (·.acc == a)).foldl (fun m f => m ||| bitMask f.hi f.lo) 0

/-- Whether a row holds ST fields. -/
def RegRow.isStaged (r : RegRow) : Bool := r.fields.any (·.acc == .st)

/-- The offsets of the ST registers, rising. -/
def stagedOffs : List Nat :=
  (regTable.filter (·.isStaged)).flatMap fun r => (List.range r.count).map fun i => r.off + r.stride * i

/-- The live setting of an ST register, by its bit of Table 13.6. -/
def settingOf (off : Nat) : Nat :=
  if off = Off.PWR_THROTTLE then 1
  else if 0x0200000 ≤ off ∧ off < 0x0300000 then 0
  else if Off.CHN_PARTNER_MAP 0 ≤ off ∧ off ≤ Off.CHN_PARTNER_MAP 63 then 2
  else if off = Off.MEM_SCRUB ∨ off = Off.UPD_DIGEST ∨ off = Off.SAF_POLICY then 3
  else if 0x0900000 ≤ off then 4
  else 5

/-- The staged value of an ST register: written since the last freeze, else of the frozen set, else in effect (R348, R349). -/
def stagedWord (s : State) (off : Nat) : Word :=
  match FMap.get none s.ctl.staged off with
  | some w => w
  | none =>
    match s.ctl.frozen with
    | some z =>
      match FMap.get none z.values off with
      | some w => if s.ctl.dropped.contains off then getReg s off else w
      | none => getReg s off
    | none => getReg s off

/-- Stage_refused (R348). -/
def stageRefused (s : State) : State := setF s F.CTL_STATUS_stage_refused 1

/-- Whether a source (1 host, 2 rack controller) may stage: it holds the claim and DEVICE_READY is set. -/
def mayStage (s : State) (src : Nat) : Bool := getF s F.CTL_CLAIM_owner == src && hasF s F.CTL_STATUS_device_ready

/-- A staging write of the bits of a mask (R348, R19). -/
def stageWrite (s : State) (src off : Nat) (v reach : Word) : State :=
  if !mayStage s src then stageRefused s
  else
    match rowAt off with
    | some r =>
      let m := accMask r .st &&& reach
      let w := (stagedWord s off &&& ~~~m) ||| (v &&& m)
      { s with ctl := { s.ctl with staged := FMap.set none s.ctl.staged off (some w), wroteAt := slot s } }
    | none => s

/-! ### The claim -/

/-- The claim ends: values written since the last freeze return to those in effect (R348, Table 13.10). -/
def endClaim (s : State) : State :=
  let s := setF (setF s F.CTL_CLAIM_owner 0) F.CTL_CLAIM_host_claim 0
  { s with ctl := { s.ctl with staged := [], dropped := if s.ctl.frozen.isSome then s.ctl.dropped ++ FMap.keys s.ctl.staged else [] } }

/-- A source takes the claim. -/
def takeClaim (s : State) (src : Nat) : State :=
  let s := setF (setF s F.CTL_CLAIM_owner src) F.CTL_CLAIM_host_claim (b2n (src == 1))
  { s with ctl := { s.ctl with wroteAt := slot s } }

/-- host_claim = 1: succeeds when no source holds the claim. -/
def hostClaim (s : State) : State := if getF s F.CTL_CLAIM_owner = 0 then takeClaim s 1 else s

/-- host_claim = 0: the host's claim ends. -/
def hostRelease (s : State) : State := if getF s F.CTL_CLAIM_owner = 1 then endClaim s else s

/-- HOST_CLAIM (R348). -/
def execHostClaim (s : State) : Host.Outcome State Fault Refusal := settle s (hostStep s hostClaim)

/-- HOST_RELEASE (R348). -/
def execHostRelease (s : State) : Host.Outcome State Fault Refusal := settle s (hostStep s hostRelease)

/-- CLAIM_TIMEOUT (R348): 1 s, 3,906,250 slots, after the holder's last write. -/
def claimTimeout (s : State) : State :=
  if getF s F.CTL_CLAIM_owner ≠ 0 ∧ s.ctl.wroteAt + 3906250 ≤ slot s then endClaim s else s

/-- CLAIM_TIMEOUT (R348). -/
def execClaimTimeout (s : State) : Host.Outcome State Fault Refusal := settle s (claimTimeout s)

/-! ### The rules of Table 13.8 -/

/-- A field in a view of the registers. -/
def inView (v : Nat → Word) (f : Field) : Nat := bits (v f.off) f.hi f.lo

/-- 0, or 800 to 3,600 W (Table 14.5). -/
def wattsOk (w : Nat) : Bool := w == 0 || (decide (800 ≤ w) && decide (w ≤ 3600))

/-- The rules of the power settings (Table 14.5), by register. -/
def powerRules (v : Nat → Word) : List (Nat × Bool) :=
  let n := inView v F.PWR_SCHED_CTL_count
  let vm := inView v F.PWR_THROTTLE_vmax
  let entry := fun (e : Nat) => bits (v (Off.PWR_SCHED (e / 4))) (16 * (e % 4) + 15) (16 * (e % 4))
  [(Off.PWR_SCHED_CTL, decide (n ≤ 1440) && decide (inView v F.PWR_SCHED_CTL_first_minute + n ≤ 2 ^ 32)
      && wattsOk (inView v F.PWR_SCHED_CTL_tail_w)),
   (Off.PWR_THROTTLE, wattsOk (inView v F.PWR_THROTTLE_cap_w) && (vm == 0 || (decide (550 ≤ vm) && decide (vm ≤ 780) && vm % 5 == 0)))]
  ++ (List.range (min n 1440)).map fun e => (Off.PWR_SCHED (e / 4), decide (800 ≤ entry e) && decide (entry e ≤ 3600))

/-- The byte range of a ring in a view. -/
def ringRange (v : Nat → Word) (base size : Field) (len : Nat) : Nat × Nat :=
  (4096 * inView v base, len * 2 ^ inView v size)

/-- The rules of the telemetry selection (R67, R143) and of ring overlap (Table 13.8), by register. -/
def ringRules (s : State) (v : Nat → Word) : List (Nat × Bool) :=
  let num := ringRange v F.NUM_RING_BASE_base F.NUM_RING_SIZE_size 64
  let ts := ringRange v F.LCH_TS_RING_BASE_base F.LCH_TS_RING_SIZE_size 32
  let tables := if getF s F.MEM_FT_SIZE_ft_size = 0 then [] else
    [(ftPrimary s 0, 16 * ftCount s), (ftMirror s 0, 16 * ftCount s)]
  let apart := fun (r : Nat × Nat) => inStackTier r.1 r.2 && !touchesResults r.1 r.2 && tables.all fun t => !overlaps r t
  let mode := inView v F.NUM_SELECT_rec_mode
  [(Off.LCH_TS_RING_BASE, apart ts && !overlaps num ts),
   (Off.LCH_TS_RING_SIZE, decide (7 ≤ inView v F.LCH_TS_RING_SIZE_size) && decide (inView v F.LCH_TS_RING_SIZE_size ≤ 20)),
   (Off.NUM_SELECT, mode != 2 || inView v F.NUM_SELECT_step_interval != 0),
   (Off.NUM_RANGE, mode != 3 || decide (inView v F.NUM_RANGE_tensor_lo ≤ inView v F.NUM_RANGE_tensor_hi)),
   (Off.NUM_RING_BASE, apart num),
   (Off.NUM_RING_SIZE, decide (6 ≤ inView v F.NUM_RING_SIZE_size) && decide (inView v F.NUM_RING_SIZE_size ≤ 20))]

/-- The rules of the maintenance policy (R160, R222, R400), by register. -/
def policyRules (v : Nat → Word) : List (Nat × Bool) :=
  let within := fun (f : Field) (lo hi : Nat) => decide (lo ≤ inView v f) && decide (inView v f ≤ hi)
  [(Off.SAF_POLICY, within F.SAF_POLICY_bist_period_h 24 720 && within F.SAF_POLICY_lzc_interval_s 1 3600
      && within F.SAF_POLICY_scal_interval_h 1 168 && within F.SAF_POLICY_key_rotate_h 0 8760 && within F.SAF_POLICY_flow_min 5 40),
   (Off.MEM_SCRUB, within F.MEM_SCRUB_scrub_hours 1 168),
   (Off.UPD_DIGEST, within F.UPD_DIGEST_interval 1 65535)]

/-- The rules of chain roles and partner map (R250, R267), by register. A table without a member and S = P = 1 stages no job (log
entry 11). -/
def chainRules (s : State) (v : Nat → Word) : List (Nat × Bool) :=
  let ss := inView v F.CHN_JOB_s
  let pp := inView v F.CHN_JOB_p
  let n := max 1 (chainLen s)
  let mem := (List.range 64).filter fun a => inView v (F.CHN_ROLE_member a) != 0
  let role := fun (a : Nat) => (inView v (F.CHN_ROLE_group a), inView v (F.CHN_ROLE_position a))
  let layoutOk := match s.plan with
    | some p => match p.layouts[inView v F.CHN_JOB_layout]? with | some y => y.s == ss && y.p == pp | none => !p.training
    | none => true
  (Off.CHN_JOB, decide (1 ≤ ss) && decide (1 ≤ pp) && decide (ss * pp ≤ n) && layoutOk
      && (mem.length == ss * pp || (mem.isEmpty && ss * pp == 1)))
  :: (mem.map fun a => (Off.CHN_ROLE a, decide (a < n) && decide ((role a).1 < pp) && decide ((role a).2 < ss)
      && mem.all fun b => b == a || role b != role a))
  ++ (List.range 64).map fun a => (Off.CHN_PARTNER_MAP a, inView v (F.CHN_PARTNER_MAP_override a) == 0
      || (decide (inView v (F.CHN_PARTNER_MAP_group a) < pp) && inView v (F.CHN_PARTNER_MAP_group a) != inView v (F.CHN_ROLE_group a)))

/-- The lowest register offset whose rule fails. -/
def firstBroken (rules : List (Nat × Bool)) : Option Nat :=
  (rules.filter fun r => !r.2).foldl (fun (m : Option Nat) r => some (match m with | some x => min x r.1 | none => r.1)) none

/-! ### Freeze, check, distribution -/

/-- The registers that a set of staged values changes. -/
def changedOffs (s : State) (values : FMap (Option Word)) : List Nat :=
  (FMap.keys values).filter fun off => match FMap.get none values off with | some w => w != getReg s off | none => false

/-- The changed mask of a list of registers (Table 13.6). -/
def changedMask (offs : List Nat) : Nat := offs.foldl (fun m o => m ||| 2 ^ settingOf o) 0

/-- A set discarded with a result (Table 13.9): the following set's unwritten registers return to the values in effect, which they
do as the frozen set leaves. -/
def discardSet (s : State) (result offset : Nat) : State :=
  match s.ctl.frozen with
  | none => s
  | some z =>
    let s := { s with ctl := { s.ctl with frozen := none, dropped := [] } }
    let s := setReg s Off.CTL_CROZIER (BitVec.ofNat 64 (2 ^ 4 * result + 2 ^ 8 * z.changed + 2 ^ 16 * offset))
    let s := setF s F.CTL_CROZIER_SLOT_slot s.ctl.lastC
    flag (bumpF s F.CTL_CROZIER_CNT_discarded 1) F.CTL_STATUS_crozier_discarded 13

/-- The check of a frozen set (R350, R351): 6 not permitted, 4 target too far, 1 a rule, with the register; 0 when it passes. The
order among results is log entry 11. -/
def checkSet (s : State) (z : Crozier) : Nat × Nat :=
  let v := fun (off : Nat) => match FMap.get none z.values off with | some w => w | none => getReg s off
  let offs := changedOffs s z.values
  let chain := offs.find? fun o => settingOf o == 2 || settingOf o == 4
  let noImage := getF s F.CTL_STATUS_config_source == 0
  if lifecycle s = 5 || (hasF s F.SEC_STATUS_lock && chain.isSome) || (noImage && offs.any fun o => decide (2 ≤ settingOf o)) then (6, 0)
  else if z.atSlot && decide (z.asked + 268435455 < z.target) then (4, 0)
  else
    let rules := if noImage then powerRules v
      else powerRules v ++ policyRules v ++ ringRules s v ++ chainRules s v
    let unaddressed := match chain with | some o => [(o, hasF s F.CHN_STATUS_addressed)] | none => []
    match firstBroken (rules ++ unaddressed) with
    | some o => (1, o)
    | none => (0, 0)

/-- A commit request of the claim holder (R349): busy while a set is frozen; else the staged values freeze and are checked. -/
def commitRequest (s : State) (src : Nat) (atSlot : Bool) (target : Nat) : State :=
  if !mayStage s src then stageRefused s
  else if s.ctl.frozen.isSome then
    setF { s with ctl := { s.ctl with wroteAt := slot s } } F.CTL_STATUS_commit_busy 1
  else
    let z : Crozier := ⟨s.ctl.staged, atSlot, target % 2 ^ 56, slot s + 2, changedMask (changedOffs s s.ctl.staged), none⟩
    let s := { s with ctl := { s.ctl with staged := [], dropped := [], frozen := some z, wroteAt := slot s } }
    let (r, off) := checkSet s z
    if r = 0 then setF s F.CTL_CROZIER_state 1 else discardSet s r off

/-- COMMIT_REQUEST (R349), written by the host. -/
def execCommitRequest (atSlot : Bool) (target : Nat) (s : State) : Host.Outcome State Fault Refusal :=
  settle s (hostStep s fun s => commitRequest s 1 atSlot target)

/-- An abort (R353): with its effect boundary before c, or c not set, the set is withdrawn with result 5; else abort_late. -/
def commitAbort (s : State) (src : Nat) : State :=
  if !mayStage s src then stageRefused s
  else
    let s := { s with ctl := { s.ctl with wroteAt := slot s } }
    match s.ctl.frozen with
    | some z =>
      match z.commit with
      | some c => if slot s + 2 < c then discardSet s 5 0 else setF s F.CTL_STATUS_abort_late 1
      | none => discardSet s 5 0
    | none => setF s F.CTL_STATUS_abort_late 1

/-- COMMIT_ABORT (R353), written by the host. -/
def execCommitAbort (s : State) : Host.Outcome State Fault Refusal := settle s (hostStep s fun s => commitAbort s 1)

/-- The last die's acknowledgement (R352): c is b_ack + 4, or the target when it lies there or later. -/
def crozierAck (s : State) : State :=
  match s.ctl.frozen with
  | none => s
  | some z =>
    if z.commit.isSome then s
    else
      let least := slot s + 2 + 4
      let c := if z.atSlot then z.target else least
      if c < least then discardSet s 3 0
      else
        let s := { s with ctl := { s.ctl with frozen := some { z with commit := some c } } }
        setF (setF s F.CTL_CROZIER_state 2) F.CTL_CROZIER_SLOT_slot c

/-- CROZIER_ACK (R352). -/
def execCrozierAck (s : State) : Host.Outcome State Fault Refusal := settle s (crozierAck s)

/-- CROZIER_ACK_TIMEOUT (R352). -/
def ackTimeout (s : State) : State :=
  match s.ctl.frozen with
  | some z => if z.commit.isNone then discardSet s 7 0 else s
  | none => s

/-- CROZIER_ACK_TIMEOUT (R352). -/
def execCrozierAckTimeout (s : State) : Host.Outcome State Fault Refusal := settle s (ackTimeout s)

/-! ### Commit -/

/-- A changed base or size of a ring sets its head and tail to 0 (R67, R143). -/
def resetRings (s : State) (offs : List Nat) : State :=
  let s := if offs.contains Off.NUM_RING_BASE || offs.contains Off.NUM_RING_SIZE then
      setF (setF s F.NUM_RING_HEAD_head 0) F.NUM_RING_TAIL_tail 0 else s
  let s := if offs.contains Off.LCH_TS_RING_BASE || offs.contains Off.LCH_TS_RING_SIZE then
      setF (setF s F.LCH_TS_RING_HEAD_head 0) F.LCH_TS_RING_TAIL_tail 0 else s
  showRings s

/-- Role tables and partner maps that commit: without a plan the roles are adopted at once, with one they wait for a permute
(R260); the partner is computed again (R267). -/
def commitRoles (s : State) (mask : Nat) : State :=
  if mask.testBit 2 || mask.testBit 4 then
    showPartner (if s.plan.isNone then { s with chn := { s.chn with roles := committedRoles s } } else s)
  else s

/-- A throttle that commits acts at c (R367): the cap of the record, the ceiling and the limit. -/
def commitThrottle (s : State) (old : Nat) : State :=
  let c := getF s F.PWR_THROTTLE_cap_w
  let s := onRecord s fun r => { r with cap := if c = 0 then r.cap else if r.cap = 0 then c else min r.cap c }
  showGovernor (newCeiling s old)

/-- The set takes effect on every die (R352). -/
def applySet (s : State) (z : Crozier) (c : Nat) : State :=
  let offs := changedOffs s z.values
  let old := ceiling s
  let s := offs.foldl (fun s o => match FMap.get none z.values o with | some w => setReg s o w | none => s) s
  let s := { s with ctl := { s.ctl with frozen := none, dropped := [], lastC := c } }
  let s := commitRoles (resetRings s offs) (changedMask offs)
  let s := if (changedMask offs).testBit 1 then commitThrottle s old else s
  let s := setReg s Off.CTL_CROZIER (BitVec.ofNat 64 (2 ^ 8 * z.changed))
  let s := setF s F.CTL_CROZIER_SLOT_slot c
  flag (bumpF s F.CTL_CROZIER_CNT_committed 1) F.CTL_STATUS_crozier_done 13

/-- CROZIER_COMMIT (R352), at boundary c. -/
def crozierCommit (s : State) : State :=
  match s.ctl.frozen with
  | some z =>
    match z.commit with
    | some c => if c ≤ slot s + 1 then applySet s z c else s
    | none => s
  | none => s

/-- CROZIER_COMMIT (R352). -/
def execCrozierCommit (s : State) : Host.Outcome State Fault Refusal := settle s (crozierCommit s)

end Sys2Proof.Machine
end

