-- ==== Sys2Proof/Machine/Power.lean ====
section
/-!
DEFINITION. Power and reset (R336, R340, R388 to R390, R433, R437): what outlives a reset, the entry into reset and OFF, and the
pins PWR_EN and PERST_N. FAULT_N, ALERT_N, PWR_OK and the safety state are computed from the state (Tables 13.1, 15.1, 17.6).
-/

namespace Sys2Proof.Machine

/-! ### The safety state and the pins -/

/-- The safety state (R384): 0 RUN, 1 DEGRADED, 2 HOLD, 3 OFF. -/
def safetyState (s : State) : Nat :=
  if s.pwr.mode = .off then 3 else if inHold s then 2 else if degraded s then 1 else 0

/-- Whether FAULT_N is asserted, low (Tables 15.1 and 17.6). -/
def faultAsserted (s : State) : Bool := s.pwr.mode == .off || (s.pwr.mode == .up && inHold s)

/-- Whether ALERT_N is asserted, low (Tables 15.1 and 17.6). -/
def alertAsserted (s : State) : Bool := s.pwr.mode == .up && (inHold s || degraded s || hasF s F.SAF_STATUS_thermal_warn)

/-- Whether PWR_OK is high: driven at the end of phase 1, low on bring-up failure 0x2 (Tables 13.2, 13.3, 17.6). -/
def pwrOk (s : State) : Bool := s.pwr.mode == .up && phaseEnded s 1 && !s.pwr.pairBad

/-! ### What outlives a reset -/

/-- The module with every volatile part lost, in a power mode: the one-time store, the flash tier, the configuration flash, the
ledger, the journal, the trip latch, the metered energy and the pins stand (R340, R379, R388, R404). -/
def coldState (s : State) (m : PowerMode) : State :=
  let f := { FlsState.init with stored := s.fls.stored, retire := s.fls.retire,
                                wear := if phaseEnded s 7 then getReg s Off.FLS_WEAR else s.fls.wear }
  let p := { PwrState.init with mode := m, pwrEn := s.pwr.pwrEn, perstN := s.pwr.perstN, trip := s.pwr.trip,
                                tripBoth := s.pwr.tripBoth, tripped := s.pwr.tripped, energy := s.pwr.energy,
                                blocks := s.pwr.blocks, vinOk := s.pwr.vinOk }
  { State.reset with pending := s.pending, fuse := s.fuse, flash := s.flash, nv := s.nv, fls := f, pwr := p, sent := s.sent,
                     freeCtr := s.freeCtr }

/-- The partial record (R376): the record of the minute in progress closes and is stored; before DEVICE_READY no minute runs. -/
def partialRecord (s : State) : State :=
  if hasF s F.HST_STATUS_device_ready then storeRecords (closeRecord s (getF s F.PWR_MINUTE_minute) s.pwr.minuteW 2) else s

/-- PERST_N asserts (R340). The ramp down takes no step of its own. -/
def perstAssert (s : State) : State :=
  let s := { s with pwr := { s.pwr with perstN := false } }
  if s.pwr.mode = .up then coldState (partialRecord s) .inReset else s

/-- PERST_N_ASSERT (R340). -/
def execPerstNAssert (s : State) : Host.Outcome State Fault Refusal := settleAny s (perstAssert s)

/-! ### OFF -/

/-- A trip (R388, R389): both disconnects open, the cause latched. -/
def tripOff (s : State) (code : Nat) (both : Bool) : State :=
  if s.pwr.mode = .unpowered ∨ s.pwr.mode = .off then s
  else
    let s := coldState s .off
    { s with pwr := { s.pwr with trip := code, tripBoth := both, tripped := true } }

/-- PWR_EN rises (R336, R388, R390): after a trip it must have been low for 1 s; a failed test keeps the module in OFF with fault
0x04 latched. -/
def pwrRise (s : State) (disconnectsOk detectorsOk : Bool) (lowMs : Nat) : State :=
  if s.pwr.pwrEn then s
  else
    let s := coldState s .off
    let p := { s.pwr with pwrEn := true, energy := 0, blocks := [], vinOk := 0 }
    if p.tripped && decide (lowMs < 1000) then { s with pwr := p }
    else if disconnectsOk && detectorsOk then { s with pwr := { p with mode := .inReset, tripped := false } }
    else { s with pwr := { p with trip := 4, tripBoth := false, tripped := true } }

/-- PWR_EN_RISE (R390). -/
def execPwrEnRise (disconnectsOk detectorsOk : Bool) (lowMs : Nat) (s : State) : Host.Outcome State Fault Refusal :=
  settleAny s (pwrRise s disconnectsOk detectorsOk lowMs)

/-- PWR_EN falls (R358, R433): the conversion stages switch off at once, with no partial record; a latched trip stands. -/
def pwrFall (s : State) : State :=
  let s := coldState s .unpowered
  { s with pwr := { s.pwr with pwrEn := false } }

/-- PWR_EN_FALL (R433). -/
def execPwrEnFall (s : State) : Host.Outcome State Fault Refusal := settleAny s (pwrFall s)

/-- INPUT_POWER_LOSS (R376, R421): the record in progress is lost. The next start is a rise of PWR_EN with the input back. -/
def execInputPowerLoss (s : State) : Host.Outcome State Fault Refusal := settleAny s (pwrFall s)

/-! ### Leaving reset -/

/-- The level that a strap latches; a floating one gives a free bit (R434). -/
def latchStrap (s : State) (x : Strap) : Bool × State :=
  match x with
  | .low => (false, s)
  | .high => (true, s)
  | .floating => let (w, s) := takeFree s; (bit w 0, s)

/-- The number that a list of straps latches, bit 0 first. -/
def latchStraps (s : State) : List Strap → Nat × State
  | [] => (0, s)
  | x :: xs =>
    let (b, s) := latchStrap s x
    let (n, s) := latchStraps s xs
    (b2n b + 2 * n, s)

/-- The straps in their registers (R335). -/
def showStraps (s : State) (head feed slotId : Nat) : State :=
  let s := setF (setF (setF s F.CTL_STRAPS_chain_head head) F.CTL_STRAPS_feed_id feed) F.CTL_STRAPS_slot_id slotId
  setF (setF s F.CHN_ADDR_head head) F.CHN_PARTNER_own_feed feed

/-- The straps latch at PERST_N deassertion (R335, R434). -/
def latchAll (s : State) (x : Straps) : State :=
  let (h, s) := latchStrap s x.chainHead
  let (f, s) := latchStraps s (x.feedId.take 3)
  let (n, s) := latchStraps s (x.slotId.take 6)
  showStraps s (b2n h) f n

/-- The latched trip cause in SAF_LAST_TRIP (R388). -/
def showTrip (s : State) : State :=
  setF (setF s F.SAF_LAST_TRIP_code s.pwr.trip) F.SAF_LAST_TRIP_both_detectors (b2n s.pwr.tripBoth)

/-- PERST_N deasserts (R336, R20): the Reset values, the straps, the latched trip; bring-up begins. -/
def perstDeassert (s : State) (x : Straps) : State :=
  let s := { s with pwr := { s.pwr with perstN := true } }
  if s.pwr.mode = .inReset then showTrip (latchAll (coldState s .up) x) else s

/-- PERST_N_DEASSERT (R336). -/
def execPerstNDeassert (x : Straps) (s : State) : Host.Outcome State Fault Refusal := settleAny s (perstDeassert s x)

/-- The module resets itself (R421): as R340, and bring-up begins again with the straps as latched. -/
def selfReset (s : State) : State :=
  if s.pwr.mode = .up then
    let st := getReg s Off.CTL_STRAPS
    showTrip (showStraps (coldState (partialRecord s) .up) (bits st 0 0) (bits st 3 1) (bits st 9 4))
  else s

end Sys2Proof.Machine
end

