-- ==== Sys2Proof/Machine/Security.lean ====
section
/-!
DEFINITION. Security and lifecycle (chapter 16 of the spec): the key store, alarms and their classes, the lifecycle, the SEC commands,
key rotation and the tamper mesh.
-/

namespace Sys2Proof.Machine

/-! ### The one-time store in registers -/

/-- The owner life (R407): none in MANUFACTURE and DECOMMISSIONED. -/
def ownerLife (f : OneTime) : Option Nat := if 1 ≤ f.t ∧ f.t ≤ 12 then some ((f.t - 1) / 3) else none

/-- The floor slots of the owner life as written so far. -/
def floorSlots (f : OneTime) : List Nat := match ownerLife f with | some l => f.floors.getD l [] | none => []

/-- The rollback floor (R418). -/
def rollbackFloor (f : OneTime) : Nat := (floorSlots f).getLastD 0

/-- The registers that show the one-time store and the keys. -/
def showStore (s : State) : State :=
  let f := s.fuse
  let s := setF (setF s F.SEC_LIFECYCLE_state (lifecycle s)) F.SEC_LIFECYCLE_t f.t
  let s := setF s F.SEC_LIFECYCLE_owner_life ((ownerLife f).getD 0)
  let s := setF (setF s F.SEC_ROLLBACK_floor (rollbackFloor f)) F.SEC_ROLLBACK_used (floorSlots f).length
  let s := setF (setF s F.SEC_STATUS_mesh_breach (b2n f.breach)) F.SEC_STATUS_identity_present (b2n (seedPresent f))
  let s := setF (setF s F.SEC_KEY_key_loaded (b2n s.sec.tenant.isSome)) F.SEC_KEY_session_valid (b2n s.sec.session.isSome)
  setReg s Off.SEC_KEY_COMMIT (s.nv.commitment.getD 0)

/-! ### Erasure, R404, R416 -/

/-- The flash tier closes (R184, R192). -/
def closeTier (s : State) : State :=
  if hasF s F.FLS_STATUS_flash_closed then s else flag s F.FLS_STATUS_flash_closed 6

/-- The tenant data key zeroed in the key store and in the flash dies. -/
def dropTenant (s : State) : State :=
  closeTier (setReg { s with sec := { s.sec with tenant := none } } Off.SEC_KEY_ID 0)

/-- The session key removed, with the window of its encapsulation key. -/
def dropSession (s : State) : State :=
  setWindow { s with sec := { s.sec with session := none, sessionId := 0 } } 0x420000 (List.replicate 1568 0)

/-- The commitment and the stripe map discarded: what the tier held is never mapped again (R404, R416). -/
def dropMap (s : State) : State := { s with flash := [], nv := { s.nv with commitment := none } }

/-- The first flash-tier address that a running move uses (R416). -/
def movingFlash (s : State) : Option Nat :=
  (List.range 16).findSome? fun q =>
    match (unitOf s (768 + q)).running with
    | some k =>
      match launchOf s k with
      | some l =>
        match moveOf s l with
        | some m =>
          if flashBase ≤ m.dest then some m.dest
          else
            ((List.range m.count).map fun i => homeOf s (m.first + i)).find? fun a => decide (flashBase ≤ a)
        | none => none
      | none => none
    | none => none

/-- Crypto-erase (R416): a move that is using the tier stops and the job enters HOLD as R156 provides; the key, the commitment and
the stripe map go. -/
def cryptoErase (s : State) : State :=
  let had := s.sec.tenant.isSome
  let use := movingFlash s
  let s := dropMap (dropTenant s)
  let s := if had then flag s F.SEC_STATUS_erased_seen 12 else s
  showStore (match use with | some a => rangeFault s a | none => s)

/-! ### Alarms, R419 and R420 -/

/-- An alarm logged (class 1). -/
def logAlarm (s : State) (code cls : Nat) : State :=
  let s := setReg s Off.SEC_ALARM (BitVec.ofNat 64 (cls + 4 * code))
  let s := setF s F.SEC_ALARM_SLOT_slot (slot s)
  let cnt := if cls = 1 then F.SEC_ALARM_CNT_class1 else if cls = 2 then F.SEC_ALARM_CNT_class2 else F.SEC_ALARM_CNT_class3
  flag (bumpF s cnt 1) F.SEC_STATUS_alarm_seen 12

/-- A frozen set that changes chain roles or the partner map, withdrawn by a lock before c (R354). -/
def lockWithdraw (s : State) : State :=
  match s.ctl.frozen with
  | some z =>
    let early := match z.commit with | some c => decide (slot s + 2 < c) | none => true
    if early && (z.changed.testBit 2 || z.changed.testBit 4) then discardSet s 6 0 else s
  | none => s

/-- A class 2 alarm: the lock. -/
def alarmLock (s : State) (code : Nat) : State :=
  let s := logAlarm s code 2
  lockWithdraw (if hasF s F.SEC_STATUS_lock then s else flag s F.SEC_STATUS_lock 12)

/-- Class 1: logged; the eighth within 3,600 s, 14,062,500,000 slots, raises a class 2 alarm (Table 16.8, code 0x04). -/
def alarm1 (s : State) (code : Nat) : State :=
  let s := logAlarm s code 1
  let recent := (slot s :: s.sec.class1.filter fun t => decide (slot s < t + 14062500000)).take 8
  let s := { s with sec := { s.sec with class1 := recent } }
  if recent.length = 8 then alarmLock s 4 else s

/-- Class 3: the lock of class 2, and both volatile keys and the flash tier erased. -/
def alarm3 (s : State) (code : Nat) : State :=
  let s := logAlarm s code 3
  let s := lockWithdraw (if hasF s F.SEC_STATUS_lock then s else flag s F.SEC_STATUS_lock 12)
  cryptoErase (dropSession s)

/-- GLITCH_DETECTOR (R419): class 1, or class 3 within 1 s, 3,906,250 slots, of the event before. -/
def glitch (s : State) : State :=
  let again := match s.sec.glitch with | some t => decide (slot s < t + 3906250) | none => false
  let s := { s with sec := { s.sec with glitch := some (slot s) } }
  if again then alarm3 s 6 else alarm1 s 3

/-- GLITCH_DETECTOR (R419). -/
def execGlitchDetector (s : State) : Host.Outcome State Fault Refusal := settle s (glitch s)

/-- KEY_STORE_INTEGRITY_FAIL (Table 16.8, code 0x07). -/
def execKeyStoreIntegrityFail (s : State) : Host.Outcome State Fault Refusal := settle s (alarm3 s 7)

/-! ### Commands -/

/-- A SEC command ends: status, cmd_done, and the alarm of results 5, 6, 8, 9 and 10 (R423, Table 16.8 code 0x02). -/
def secDone (s : State) (op tag result : Nat) : State :=
  let s := setReg s Off.SEC_CMD_STATUS (BitVec.ofNat 64 (tag % 2 ^ 48 + 2 ^ 48 * op + 2 ^ 52 * 2 + 2 ^ 54 * result))
  let s := flag s F.SEC_STATUS_cmd_done 12
  if [5, 6, 8, 9, 10].contains result then alarm1 s 2 else s

/-- The command block at SEC_CMD_ADDR; one that leaves the stack tier gives nothing. -/
def secBlock (s : State) (n : Nat) : List Byte :=
  let a := 4096 * getF s F.SEC_CMD_ADDR_addr
  if inStackTier a n then rd s a n else []

/-- Magic and version of a block with the bits of word 0 above them. -/
def blockHead (bs : List Byte) (n magic : Nat) : Bool :=
  bs.length == n && bits (wordAt bs 0) 31 0 == magic && bits (wordAt bs 0) 47 32 == 1

/-- Whether words lo to hi - 1 of a block are 0. -/
def wordsZero (bs : List Byte) (lo hi : Nat) : Bool := (bs.take (8 * hi)).drop (8 * lo) |>.all (· == 0)

/-- The first 256 bits of the SHAKE256 digest of a public key (R405). -/
def keyHash (pk : List Byte) : List Byte := shake256 pk 32

/-! ### Attestation, R413 -/

/-- The bytes of the selected image copy. -/
def selectedCopy (s : State) : List Byte :=
  match getF s F.CTL_STATUS_config_source with | 1 => s.nv.copyA | 2 => s.nv.copyB | _ => []

/-- The sequence of the selected copy. -/
def selectedSeq (s : State) : Nat := if selectedCopy s = [] then 0 else bits (wordAt (selectedCopy s) 1) 31 0

/-- The device's serial number as 8 bytes. -/
def serialBytes (s : State) : List Byte := leBytes 8 (getReg s Off.SEC_SERIAL).toNat

/-- Flags and numbers of words 6, 7 and 16 (Table 16.6). -/
def attestFlags (s : State) : Nat :=
  lifecycle s + 2 ^ 4 * s.fuse.t + 2 ^ 8 * getF s F.CTL_STATUS_config_source + 2 ^ 10 * getF s F.SAF_STATUS_single_control
    + 2 ^ 11 * getF s F.SEC_STATUS_lock + 2 ^ 12 * b2n s.sec.tenant.isSome + 2 ^ 13 * getF s F.FLS_STATUS_flash_closed
    + 2 ^ 14 * safetyState s + 2 ^ 32 * getF s F.PWR_BOOT_boot

/-- Word 16: the chain. -/
def attestChain (s : State) : Nat :=
  getF s F.CHN_ADDR_address + 2 ^ 6 * getF s F.CHN_ADDR_length + 2 ^ 13 * getF s F.CHN_STATUS_addressed
    + 2 ^ 14 * getF s F.CHN_ADDR_error + 2 ^ 18 * getF s F.CHN_PARTNER_feed_shared + 2 ^ 19 * getF s F.CTL_STRAPS_feed_id
    + 2 ^ 22 * getF s F.CHN_PARTNER_address + 2 ^ 28 * getF s F.CHN_PARTNER_valid

/-- A digest, or 32 zero bytes. -/
def orZero (present : Bool) (bs : List Byte) : List Byte := if present then bs else List.replicate 32 0

/-- The attestation statement (Table 16.6). -/
def attestation (s : State) (nonce : List Byte) : List Byte :=
  let copy := selectedCopy s
  let len := bits (wordAt copy 1) 63 32
  let next := getF s F.PWR_REC_HEAD_next
  wordBytes [0x000154414E57] ++ nonce ++ serialBytes s
    ++ wordBytes [attestFlags s, Config.romVersion % 2 ^ 32 + 2 ^ 32 * selectedSeq s]
    ++ orZero (!copy.isEmpty) (shake256 (copy.take len) 32) ++ orZero (planState s != .empty) (s.host.planHash.take 32)
    ++ wordBytes [attestChain s] ++ wordBytes [(getReg s Off.SEC_KEY_ID).toNat, (s.nv.commitment.getD 0).toNat, s.sec.sessionId.toNat]
    ++ orZero s.sec.session.isSome (shake256 (getWindow s 0x420000 196) 32)
    ++ wordBytes [getF s F.PWR_SIG_HEAD_index, next] ++ orZero (next != 0) (recordHash s (next - 1))
    ++ wordBytes [rollbackFloor s.fuse, 0] ++ (Config.publicKey s.fuse.seed).take 64

/-- ATTEST (R413, R422): result 14 without an identity key or in DECOMMISSIONED. -/
def attest (s : State) (tag : Nat) : State :=
  let bs := secBlock s 32
  if lifecycle s = 5 || !seedPresent s.fuse then secDone s 1 tag 14
  else if bs.length ≠ 32 then secDone s 1 tag 7
  else
    let st := attestation s bs
    secDone (setWindow s 0x430000 (st ++ (Config.slhSign s.fuse.seed st).take 49856)) 1 tag 1

/-- ATTEST (R413). -/
def execAttest (tag : Nat) (s : State) : Host.Outcome State Fault Refusal := settle s (hostStep s fun s => attest s tag)

/-! ### Key load, R415 -/

/-- The magic number, version and reserved bits of a key load block. -/
def keyBlockOk (bs : List Byte) : Bool :=
  blockHead bs 1704 0x594B4E57 && bits (wordAt bs 0) 63 49 == 0 && wordsZero bs 3 8

/-- The key that a block carries, by decapsulation and unwrapping. -/
def blockKey (s : State) (bs : List Byte) : Option (List Byte) :=
  match s.sec.session with
  | none => none
  | some dk =>
    let ss := Config.mlKemDecaps dk ((bs.drop 64).take 1568)
    let kw := shake256 (ss ++ serialBytes s ++ leBytes 8 s.sec.sessionId.toNat) 32
    Config.aesUnwrap kw ((bs.drop 1632).take 72)

/-- The commitment of a key. -/
def commitmentOf (s : State) (k : List Byte) : Word := wordAt (shake256 (k ++ serialBytes s) 8) 0

/-- Whether the flash tier can take a key: it has mounted, and has not closed over two failed channels (R186, R339). -/
def tierUsable (s : State) : Bool :=
  !s.pwr.flashBad && decide (((List.range 32).filter (channelFenced s)).length < 2)

/-- The last step of a key load. -/
def installKey (s : State) (k : List Byte) (id c : Word) (fresh : Bool) : State :=
  let s := if fresh then { dropMap s with nv := { s.nv with commitment := some c } } else s
  let s := setReg { s with sec := { s.sec with tenant := some k } } Off.SEC_KEY_ID id
  showStore (setF s F.FLS_STATUS_flash_closed 0)

/-- KEY_LOAD (R415), with the permission of Table 16.3 and the lock of R420 before it. -/
def keyLoad (s : State) (tag : Nat) : State :=
  let bs := secBlock s 1704
  let force := bit (wordAt bs 0) 48
  let lc := lifecycle s
  if lc = 1 || lc = 5 then secDone s 2 tag 3
  else if hasF s F.SEC_STATUS_lock then secDone s 2 tag 4
  else if s.sec.tenant.isSome then secDone s 2 tag 2
  else if !tierUsable s then secDone s 2 tag 11
  else if !keyBlockOk bs then secDone s 2 tag 7
  else if s.sec.session.isNone || wordAt bs 1 != s.sec.sessionId then secDone s 2 tag 9
  else
    match blockKey s bs with
    | none => secDone s 2 tag 8
    | some k =>
      let c := commitmentOf s k
      let differs := match s.nv.commitment with | some d => c != d | none => false
      if k.take 32 = k.drop 32 then secDone s 2 tag 7
      else if differs && !force then secDone s 2 tag 10
      else secDone (installKey s k (wordAt bs 2) c (force || s.nv.commitment.isNone)) 2 tag 1

/-- KEY_LOAD (R415). -/
def execKeyLoad (tag : Nat) (s : State) : Host.Outcome State Fault Refusal := settle s (hostStep s fun s => keyLoad s tag)

/-- ERASE (R416). -/
def execErase (tag : Nat) (s : State) : Host.Outcome State Fault Refusal :=
  settle s (hostStep s fun s => secDone (cryptoErase s) 3 tag 1)

/-! ### Lifecycle tokens, R409 to R411 -/

/-- The body fields of a lifecycle token (Table 16.5). -/
structure Token where
  kind   : Nat
  nutos  : Bool
  serial : Word
  nonce  : Word
  src    : Nat
  dst    : Nat
  owner  : List Byte
  deriving DecidableEq, Repr

/-- The token of a block, none when its layout or a reserved field is wrong (step 1 of R411). -/
def readToken (bs : List Byte) : Option Token :=
  let w := wordAt bs
  let t : Token := ⟨bits (w 0) 51 48, bits (w 0) 55 52 == 1, w 1, w 2, bits (w 3) 3 0, bits (w 3) 7 4, (bs.drop 32).take 32⟩
  let toOwner := t.kind == 1 && t.dst == 1
  if blockHead bs 29984 0x4B544E57 && (t.kind == 1 || t.kind == 2) && decide (bits (w 0) 55 52 ≤ 1) && bits (w 0) 63 56 == 0
      && bits (w 3) 63 8 == 0 && (t.kind == 1 || t.src == t.dst) && (toOwner || wordsZero bs 4 8) && wordsZero bs 8 16
  then some t else none

/-- Whether Table 16.4 names the signer for the change, or R420 for the unlock. -/
def signerNamed (t : Token) : Bool :=
  if t.kind = 2 then !t.nutos || t.src == 0 || t.src == 4
  else
    match t.src, t.dst with
    | 0, 1 => t.nutos
    | 1, 2 => !t.nutos
    | 2, 3 => !t.nutos
    | 2, 4 => !t.nutos
    | 3, 4 => !t.nutos
    | 4, 1 => t.nutos
    | 0, 5 => t.nutos
    | 1, 5 => !t.nutos
    | 2, 5 => !t.nutos
    | 3, 5 => !t.nutos
    | 4, 5 => t.nutos
    | _, _ => false

/-- The trusted hash of a signer (R405): the owner's slot of the current owner life, or the hash in ROM. -/
def trustedHash (f : OneTime) (nutos : Bool) : Option (List Byte) :=
  if nutos then some (keyHash Config.nutosKey) else (ownerLife f).map fun l => f.owners.getD l []

/-- The result of steps 1 to 5 of R411 for a token; 1 when it is accepted. A change to PROVISIONED that needs a certificate is not
permitted without one (log entry 47). -/
def tokenResult (s : State) (bs : List Byte) (t : Token) : Nat :=
  let pk := (bs.drop 29920).take 64
  if hasF s F.SEC_STATUS_lock && t.kind == 1 && t.dst != 5 then 4
  else if !signerNamed t || (t.kind == 1 && t.src == 0 && t.dst == 1 && !hasF s F.SEC_STATUS_cert_valid) then 3
  else if trustedHash s.fuse t.nutos != some (keyHash pk) then 5
  else if !Config.slhVerify pk (bs.take 128) ((bs.drop 128).take 29792) then 5
  else if t.serial != getReg s Off.SEC_SERIAL || t.nonce != getReg s Off.SEC_TOKEN_NONCE || t.src != lifecycle s then 6
  else if planState s ≠ .empty then 2
  else if t.kind == 1 && t.src == 4 && t.dst == 1 && s.fuse.t == 12 then 12
  else 1

/-- Step 6 of R411: what Table 16.4 erases before the change. -/
def tokenErase (s : State) (t : Token) : State :=
  let keys := t.dst == 5 || (t.src, t.dst) != (1, 2)
  let map := keys && t.dst != 3
  let s := if keys then dropTenant (dropSession s) else s
  if map then dropMap s else s

/-- The count t written in both copies (R406). -/
def writeCount (f : OneTime) (t : Nat) : OneTime := { f with t := t, tCopy := t }

/-- An owner slot written. -/
def writeOwner (f : OneTime) (l : Nat) (h : List Byte) : OneTime := { f with owners := f.owners.set l h }

/-- Step 7 of R411: the one-time store, the commit point. -/
def tokenWrite (s : State) (t : Token) : State :=
  let f := s.fuse
  match t.dst with
  | 1 =>
    let g := writeCount f (f.t + 1)
    { s with fuse := writeOwner g ((ownerLife g).getD 0) t.owner }
  | 3 => { s with sec := { s.sec with debug := true } }
  | 5 => { s with fuse := { writeCount f 13 with seed := List.replicate 96 0xFF } }
  | _ => { s with fuse := writeCount f (f.t + 1) }

/-- LIFECYCLE_TOKEN (R411): the nonce is replaced whatever the result. -/
def lifecycleToken (s : State) (tag : Nat) : State :=
  let bs := secBlock s 29984
  let (r, s) := match readToken bs with
    | none => (7, s)
    | some t =>
      let r := tokenResult s bs t
      if r ≠ 1 then (r, s)
      else if t.kind = 2 then (r, setF s F.SEC_STATUS_lock 0)
      else (r, showStore (tokenWrite (tokenErase s t) t))
  let (w, s) := takeFree s
  secDone (setReg s Off.SEC_TOKEN_NONCE w) 4 tag r

/-- LIFECYCLE_TOKEN (R411). -/
def execLifecycleToken (tag : Nat) (s : State) : Host.Outcome State Fault Refusal :=
  settleFuse s (if s.pwr.mode = .up then hostStep s fun s => lifecycleToken s tag else s)

/-! ### The rollback floor and the certificate -/

/-- A floor slot of an owner life written. -/
def writeFloor (f : OneTime) (l v : Nat) : OneTime := { f with floors := f.floors.set l (f.floors.getD l [] ++ [v]) }

/-- RAISE_FLOOR (R418). -/
def raiseFloor (s : State) (tag : Nat) : State :=
  let bs := secBlock s 8
  let v := bits (wordAt bs 0) 31 0
  if hasF s F.SEC_STATUS_lock then secDone s 5 tag 4
  else if bs.length ≠ 8 then secDone s 5 tag 7
  else if getF s F.CTL_STATUS_config_source = 0 || decide (v ≤ rollbackFloor s.fuse) || decide (selectedSeq s < v) then secDone s 5 tag 6
  else
    match ownerLife s.fuse with
    | some l =>
      if 16 ≤ (floorSlots s.fuse).length then secDone s 5 tag 12
      else secDone (showStore { s with fuse := writeFloor s.fuse l v }) 5 tag 1
    | none => secDone s 5 tag 12

/-- RAISE_FLOOR (R418). -/
def execRaiseFloor (tag : Nat) (s : State) : Host.Outcome State Fault Refusal :=
  settleFuse s (if s.pwr.mode = .up then hostStep s fun s => raiseFloor s tag else s)

/-- The result of R412 for a certificate; 1 when it passes. -/
def certResult (s : State) (bs : List Byte) : Nat :=
  if !blockHead bs 29920 0x54434E57 || bits (wordAt bs 0) 63 48 != 0 || !wordsZero bs 11 16 then 7
  else if !seedPresent s.fuse then 14
  else if wordAt bs 1 != getReg s Off.SEC_SERIAL || (bs.drop 24).take 64 != (Config.publicKey s.fuse.seed).take 64 then 6
  else if !Config.slhVerify Config.nutosKey (bs.take 128) (bs.drop 128) then 5
  else 1

/-- STORE_CERTIFICATE (R412), in MANUFACTURE or RETURN. -/
def storeCertificate (s : State) (tag : Nat) : State :=
  let bs := secBlock s 29920
  let lc := lifecycle s
  if lc ≠ 0 ∧ lc ≠ 4 then secDone s 7 tag 3
  else
    let r := certResult s bs
    if r ≠ 1 then secDone s 7 tag r
    else
      let s := setWindow { s with nv := { s.nv with cert := bs } } 0x410000 bs
      secDone (setF s F.SEC_STATUS_cert_valid 1) 7 tag 1

/-- STORE_CERTIFICATE (R412). -/
def execStoreCertificate (tag : Nat) (s : State) : Host.Outcome State Fault Refusal :=
  settle s (hostStep s fun s => storeCertificate s tag)

/-- SEC_COMMAND_RESERVED (Table 16.11): discarded, whatever op and tag say. -/
def secReserved (s : State) (_op _tag : Nat) : State := s

/-- SEC_COMMAND_RESERVED (R423). -/
def execSecCommandReserved (op tag : Nat) (s : State) : Host.Outcome State Fault Refusal :=
  settle s (hostStep s fun s => secReserved s op tag)

/-- SEC_COMMAND_OVERRUN (R423). -/
def execSecCommandOverrun (s : State) : Host.Outcome State Fault Refusal :=
  settle s (hostStep s fun s => setF s F.SEC_STATUS_cmd_overrun 1)

/-! ### The session key, R417 -/

/-- A session key created, with its id and the window of its encapsulation key. -/
def newSession (s : State) (id : Nat) : State :=
  let (dk, ek) := Config.freshSession s.freeCtr
  let s := { s with freeCtr := s.freeCtr + 1, sec := { s.sec with session := some dk, sessionId := BitVec.ofNat 64 id } }
  setF (setWindow s 0x420000 (ek.take 1568)) F.SEC_KEY_session_valid 1

/-- KEY_ROTATION (R417): the KEY activity that runs ends with a new session key; one that an erasure has removed is not made again
before the next DEVICE_READY. -/
def keyRotation (s : State) : State :=
  let x : Activity := ⟨8, 0, 0⟩
  if !s.maint.running.contains x then s
  else
    let s := endActivity s x
    if s.sec.session.isNone then s
    else newSession s (2 ^ 32 * (s.sec.sessionId.toNat / 2 ^ 32) + (s.sec.sessionId.toNat + 1) % 2 ^ 32)

/-- KEY_ROTATION (R417). -/
def execKeyRotation (s : State) : Host.Outcome State Fault Refusal := settle s (keyRotation s)

/-! ### The tamper mesh, R421 -/

/-- Whether a measurement is a breach: a short, or a resistance outside 20 % of the recorded value, an open trace among them. -/
def meshBroken (trace0 trace1 : Nat) (shorted : Bool) : Bool :=
  let off := fun (i v : Nat) => decide (5 * v < 4 * Config.meshRef i) || decide (6 * Config.meshRef i < 5 * v)
  shorted || off 0 trace0 || off 1 trace1

/-- The steps of R421 on a breach: class 3, the seed erased, t := 13, reset. -/
def breach (s : State) : State :=
  let early := !phaseEnded s 1
  let s := alarm3 s 9
  let s := selfReset { s with fuse := { writeCount s.fuse 13 with seed := List.replicate 96 0xFF, breach := true } }
  if s.pwr.mode = .up then setF s F.SEC_MESH_found_at_power_up (b2n early) else s

/-- MESH_MEASURE (R421), in every power mode with input; a breach acts once. -/
def meshMeasure (s : State) (trace0 trace1 : Nat) (shorted : Bool) : State :=
  let s := if s.pwr.mode = .up then setF (setF s F.SEC_MESH_trace0 trace0) F.SEC_MESH_trace1 trace1 else s
  if meshBroken trace0 trace1 shorted && !s.fuse.breach then breach s else s

/-- MESH_MEASURE (R421). -/
def execMeshMeasure (trace0 trace1 : Nat) (shorted : Bool) (s : State) : Host.Outcome State Fault Refusal :=
  settleFuse s (meshMeasure s trace0 trace1 shorted)

end Sys2Proof.Machine
end

