-- ==== Sys2Proof/Machine/Bringup.lean ====
section
/-!
DEFINITION. Bring-up (R337 to R339), the configuration images (R341 to R346) and their programming.
-/

namespace Sys2Proof.Machine

/-! ### Image copies, R342 to R344 -/

/-- The length field of an image header. -/
def imageLen (bs : List Byte) : Nat := bits (wordAt bs 1) 63 32

/-- The setting entries of an image: offset and value (R343). -/
def imageEntries (bs : List Byte) : List (Nat × Word) :=
  (List.range ((imageLen bs - 64) / 16)).map fun i => (bits (wordAt bs (8 + 2 * i)) 25 0, wordAt bs (9 + 2 * i))

/-- Check 2 of Table 13.5. -/
def imageHeaderOk (bs : List Byte) : Bool :=
  let w := wordAt bs
  let n := imageLen bs
  bits (w 0) 31 0 == 0x47434E57 && bits (w 0) 47 32 == 1 && bits (w 0) 63 48 == 0 && decide (64 ≤ n) && decide (n ≤ 1048576)
    && n % 16 == 0 && bits (w 2) 15 0 == (n - 64) / 16 && bits (w 2) 31 17 == 0 && w 7 == 0

/-- The public key stored behind an image's signature. -/
def imageKey (bs : List Byte) : List Byte := (bs.drop (imageLen bs + 29792)).take 64

/-- The trusted hash of the configuration key in the present lifecycle state (Table 16.3). -/
def configHash (s : State) : Option (List Byte) :=
  match lifecycle s with
  | 0 => trustedHash s.fuse true
  | 4 => trustedHash s.fuse true
  | 5 => none
  | _ => trustedHash s.fuse false

/-- Check 3. -/
def imageKeyOk (s : State) (bs : List Byte) : Bool :=
  let h := (bs.drop 24).take 32
  configHash s == some h && h == keyHash (imageKey bs)

/-- Check 4. -/
def imageSigned (bs : List Byte) : Bool :=
  Config.slhVerify (imageKey bs) (bs.take (imageLen bs)) ((bs.drop (imageLen bs)).take 29792)

/-- The mask of the fields of a register that hold image values; pcie_mode comes from the header (R342). -/
def imageMask (off : Nat) : Word :=
  match rowAt off with
  | some r => (r.fields.filter fun f => f.reset == .image && f.acc == .st).foldl (fun m f => m ||| bitMask f.hi f.lo) 0
  | none => 0

/-- Whether a register has an image field (R343). -/
def hasImage (off : Nat) : Bool := match rowAt off with | some r => r.fields.any (·.reset == .image) | none => false

/-- Whether numbers rise strictly. -/
def risesStrictly : List Nat → Bool
  | [] => true
  | [_] => true
  | a :: b :: l => decide (a < b) && risesStrictly (b :: l)

/-- Check 6. -/
def imageEntriesOk (bs : List Byte) : Bool :=
  let offs := (imageEntries bs).map (·.1)
  offs.all hasImage && risesStrictly offs

/-- The image value of a register: an entry, or the image default, which only UPD_DIGEST states (R343, R345). -/
def imageValue (entries : List (Nat × Word)) (off : Nat) : Word :=
  match entries.find? fun e => e.1 == off with
  | some e => e.2 &&& imageMask off
  | none => if off = Off.UPD_DIGEST then 50 else 0

/-- Check 7: the rules that need no chain address, over the values that the image gives and no plan (log entry 42). -/
def imageRulesOk (bs : List Byte) : Bool :=
  let v := imageValue (imageEntries bs)
  (firstBroken (powerRules v ++ policyRules v ++ ringRules State.reset v)).isNone

/-- The first failing check of Table 13.5; 0 for a valid copy. -/
def imageReason (s : State) (readOk : Bool) (bs : List Byte) : Nat :=
  if !readOk then 1
  else if !imageHeaderOk bs then 2
  else if !imageKeyOk s bs then 3
  else if !imageSigned bs then 4
  else if bits (wordAt bs 1) 31 0 < rollbackFloor s.fuse then 5
  else if !imageEntriesOk bs then 6
  else if !imageRulesOk bs then 7
  else 0

/-- What CTL_IMAGE_A or CTL_IMAGE_B shows of a copy. -/
def showImage (s : State) (off : Nat) (bs : List Byte) (reason : Nat) (selected : Bool) : State :=
  setReg s off (BitVec.ofNat 64 (bits (wordAt bs 1) 31 0 + 2 ^ 32 * b2n (reason == 0) + 2 ^ 33 * reason + 2 ^ 36 * b2n selected))

/-- An image copy that fails check 3, 4 or 5 raises alarm 0x01 (Table 16.8). -/
def imageAlarm (s : State) (reason : Nat) : State := if 3 ≤ reason ∧ reason ≤ 5 then alarm1 s 1 else s

/-- The copy chosen among two: 0 none, 1 A, 2 B; the higher sequence, A when equal (R344). -/
def chooseCopy (ra rb qa qb : Nat) : Nat :=
  if ra = 0 then (if rb = 0 ∧ qa < qb then 2 else 1) else if rb = 0 then 2 else 0

/-- Phase 2: both copies checked, one selected, pcie_mode applied. -/
def selectImage (s : State) (readA readB : Bool) : State :=
  let a := s.nv.copyA
  let b := s.nv.copyB
  let ra := imageReason s readA a
  let rb := imageReason s readB b
  let sel := chooseCopy ra rb (bits (wordAt a 1) 31 0) (bits (wordAt b 1) 31 0)
  let s := imageAlarm (imageAlarm s ra) rb
  let s := showImage (showImage s Off.CTL_IMAGE_A a ra (sel == 1)) Off.CTL_IMAGE_B b rb (sel == 2)
  let s := setF s F.CTL_STATUS_config_source sel
  setF s F.HST_STATUS_pcie_mode (if sel = 0 then 0 else bits (wordAt (selectedCopy s) 2) 16 16)

/-- The PCIe subsystem vendor ID and subsystem ID that the selected copy gives (Table 13.4); 0 without one. -/
def subsystemIds (s : State) : Nat × Nat := (bits (wordAt (selectedCopy s) 2) 47 32, bits (wordAt (selectedCopy s) 2) 63 48)

/-! ### Failures, R339 -/

/-- A failure recorded in CTL_BRINGUP. -/
def noteFail (s : State) (code die : Nat) : State := setF (setF s F.CTL_BRINGUP_fail code) F.CTL_BRINGUP_die die

/-- A failure that stops bring-up: bringup_fail. -/
def stopBringup (s : State) : State := flag s F.CTL_STATUS_bringup_fail 13

/-- A control die fenced (R339 code 0x1, R393): single-control mode. -/
def fenceControl (s : State) (die : Nat) : State :=
  let s := setF (setF s F.SAF_CONTROL_fenced_die die) F.SAF_STATUS_single_control 1
  flag s F.SAF_STATUS_single_control_seen 11

/-- A unit that fails its start test is fenced (R339 code 0x4): below 512 an array, below 1,024 the vector engine of a core, else a
whole core with both of its arrays. -/
def fenceUnit (s : State) (u : Nat) : State :=
  if u < 512 then fenceArray s u
  else if u < 1024 then fenceVe s (u - 512)
  else fenceVe (fenceArray (fenceArray s (2 * (u - 1024))) (2 * (u - 1024) + 1)) (u - 1024)

/-- A failure that a phase can have, with its outcome (Table 13.3). -/
def phaseFail (s : State) (phase : Nat) (r : PhaseReport) : State :=
  match phase, r.failCode with
  | 1, 1 => fenceControl (noteFail s 1 r.die) r.die
  | 1, 2 => let s := noteFail s 2 r.die; { s with pwr := { s.pwr with pairBad := true } }
  | 4, 3 =>
    let s := stopBringup (noteFail s 3 r.die)
    holdFault (flag { s with lch := { s.lch with refFault := true } } F.LCH_STATUS_ref_fault 5) 0x14 10 r.die 0 0
  | 5, 4 => fenceUnit (noteFail s 4 r.die) r.unit
  | 5, 5 => holdCause (stopBringup (noteFail s 5 r.die)) 12 0
  | 6, 5 => holdCause (stopBringup (noteFail s 5 r.die)) 12 0
  | 7, 6 => let s := noteFail s 6 r.die; { s with pwr := { s.pwr with flashBad := true } }
  | _, _ => s

/-! ### The work of the phases -/

/-- The store at phase 1 (R406): the higher count where the copies differ, with a class 2 alarm; the identity seed made at the first
bring-up in MANUFACTURE (Table 16.1). -/
def checkStore (s : State) : State :=
  let f := s.fuse
  let s := if f.t ≠ f.tCopy then
      alarmLock (flag { s with fuse := writeCount f (max f.t f.tCopy) } F.SEC_STATUS_store_mismatch 12) 5
    else s
  let s := if s.fuse.t = 0 ∧ s.fuse.seed = List.replicate 96 0 then
      { s with fuse := { s.fuse with seed := (Config.freshSeed s.freeCtr).take 96 }, freeCtr := s.freeCtr + 1 }
    else s
  showStore s

/-- A new chain of records (R379): index and boot count from 0. -/
def newChain (s : State) : State :=
  let s := { s with nv := { s.nv with boot := 0, next := 0, records := [], sig := none } }
  powerFlag (recordFlag s 3) F.PWR_STATUS_journal_fault

/-- The journal restored (R376, R379): the record window, the newest signature, signatures still due, and unclosed_gap when the last
record stored is no partial record. -/
def restoreJournal (s : State) : State :=
  let n := s.nv
  let s := { s with nv := { n with boot := n.boot + 1 } }
  let s := n.records.foldl (fun s r => setWindow s (recordOff r.1) r.2) s
  let s := match n.sig with
    | some (i, bs) => setF (setWindow s (0x2C0000 + 0x10000 * (i / 10 % 4)) bs) F.PWR_SIG_HEAD_index i
    | none => s
  let signed := match n.sig with | some (i, _) => i + 1 | none => 0
  let due := (n.records.map (·.1)).filter fun i => i % 10 == 9 && decide (signed ≤ i)
  let s := { s with pwr := { s.pwr with sigWait := due } }
  match n.records.getLast? with
  | some r => if (bits (wordAt r.2 6) 63 48).testBit 1 then s else recordFlag s 2
  | none => s

/-- Phase 7 (R337, R379, R185, R412): journal and boot count, certificate, and the flash tier's ledger where it mounts. -/
def mountFlash (s : State) (journalOk : Bool) : State :=
  let s := if journalOk && !s.pwr.flashBad then restoreJournal s else newChain s
  let s := setF (setF s F.PWR_BOOT_boot s.nv.boot) F.PWR_REC_HEAD_next s.nv.next
  let s := if !s.pwr.flashBad && certResult s s.nv.cert == 1 then
      setF (setWindow s 0x410000 s.nv.cert) F.SEC_STATUS_cert_valid 1 else s
  if s.pwr.flashBad then s
  else
    let s := setF s F.FLS_CREDIT_mib (s.fls.stored - 65536)
    let s := { s with fls := { s.fls with storedAt := slot s } }
    showStore (if s.fls.wear = 0 then s else setReg s Off.FLS_WEAR s.fls.wear)

/-- The work of a phase that ends. -/
def phaseWork (s : State) (phase : Nat) (r : PhaseReport) : State :=
  match phase with
  | 1 => checkStore s
  | 2 => selectImage s r.flashReadA r.flashReadB
  | 6 => clearBytes s 0 stackEnd
  | 7 => mountFlash s r.journalOk
  | _ => s

/-- Whether a phase may end: 1, then 2, then 3 to 7 in any order (R337). -/
def phaseDue (s : State) (n : Nat) : Bool :=
  !phaseEnded s n && !s.pwr.pairBad
    && (n == 1 || (n == 2 && phaseEnded s 1) || (decide (3 ≤ n) && decide (n ≤ 7) && phaseEnded s 2))

/-- BRINGUP_PHASE_END (R337, R339): the failure that the phase has found, its work, and the phase noted. -/
def bringupPhase (s : State) (n : Nat) (r : PhaseReport) : State :=
  if !phaseDue s n then s
  else
    let s := { s with pwr := { s.pwr with phases := s.pwr.phases ++ [n] } }
    setF (phaseWork (phaseFail s n r) n r) F.CTL_BRINGUP_phase n

/-- BRINGUP_PHASE_END (R337). -/
def execBringupPhaseEnd (n : Nat) (r : PhaseReport) (s : State) : Host.Outcome State Fault Refusal :=
  settleFuse s (if s.pwr.mode = .up then bringupPhase s n r else s)

/-! ### DEVICE_READY, R338 -/

/-- The image values take effect (R338, R345). -/
def applyImage (s : State) : State :=
  let entries := if getF s F.CTL_STATUS_config_source = 0 then [] else imageEntries (selectedCopy s)
  stagedOffs.foldl (fun s off =>
    let m := imageMask off
    if m = 0 then s else setReg s off ((getReg s off &&& ~~~m) ||| imageValue entries off)) s

/-- The setpoint with which the governor starts: a multiple of 5 mV from the floor to the voltage limit (R359, R361). -/
def startSetpoint (s : State) (mv : Nat) : Nat := max 550 (min (mv / 5 * 5) (voltageLimit s))

/-- The governor and the metering grid start (R362, R364). -/
def startGovernor (s : State) (mv pFull : Nat) : State :=
  let s := { s with pwr := { s.pwr with minuteW := scheduled s 0, ready := 0 } }
  let s := setF (setF s F.PWR_MINUTE_minute 0) F.PWR_MINUTE_SLOT_slot (slot s)
  let s := setF s F.PWR_DRAW_ceiling_w (ceiling s)
  let s := setF s F.PWR_GOV_setpoint_mv (startSetpoint s mv)
  showGovernor (setF s F.ARR_ENVELOPE_ramp_step (rampStep pFull false))

/-- The session key and the token nonce of this boot (Table 16.1, R417); none after a class 3 alarm before the next reset (R420). -/
def startKeys (s : State) : State :=
  let s := if getF s F.SEC_ALARM_CNT_class3 = 0 then newSession s (2 ^ 32 * getF s F.PWR_BOOT_boot) else s
  let (w, s) := takeFree s
  setReg s Off.SEC_TOKEN_NONCE w

/-- The chain roles in effect and the partner, with no plan loaded (R251, R267). -/
def startRoles (s : State) : State := showPartner { s with chn := { s.chn with roles := committedRoles s } }

/-- DEVICE_READY (R338): image values, boot record, governor, keys, and the two ready bits. -/
def deviceReady (s : State) (ms mv pFull : Nat) : State :=
  let ok := [1, 2, 3, 4, 5, 6, 7].all (phaseEnded s) && !hasF s F.CTL_STATUS_bringup_fail && !s.pwr.pairBad
    && !hasF s F.CTL_STATUS_device_ready
  if !ok then s
  else
    let s := closeRecord (applyImage s) 0xFFFFFFFF 0 1
    let s := startRoles (startKeys (startGovernor s mv pFull))
    let s := setF (setF s F.CTL_BRINGUP_phase 8) F.CTL_BRINGUP_ready_ms ms
    let s := { s with pwr := { s.pwr with phases := s.pwr.phases ++ [8] } }
    setF (setF s F.CTL_STATUS_device_ready 1) F.HST_STATUS_device_ready 1

/-- DEVICE_READY (R338). -/
def execDeviceReady (ms mv pFull : Nat) (s : State) : Host.Outcome State Fault Refusal := settle s (deviceReady s ms mv pFull)

/-- BRINGUP_TIMEOUT (Table 13.3, code 0x7): DEVICE_READY not set by 20 s. -/
def bringupTimeout (s : State) : State :=
  if hasF s F.CTL_STATUS_device_ready || hasF s F.CTL_STATUS_bringup_fail || s.pwr.pairBad then s
  else holdCause (stopBringup (noteFail s 7 0)) 12 0

/-- BRINGUP_TIMEOUT (R339). -/
def execBringupTimeout (s : State) : Host.Outcome State Fault Refusal := settle s (bringupTimeout s)

/-! ### Programming an image copy, R346 -/

/-- A request that fails or is refused (Table 13.17). -/
def cfgFailed (s : State) (result reason : Nat) : State :=
  flag (setF (setF s F.CTL_CFG_STATUS_result result) F.CTL_CFG_STATUS_reason reason) F.CTL_STATUS_cfg_fail 13

/-- The bytes of a copy in the configuration flash. -/
def setCopy (s : State) (copyB : Bool) (bs : List Byte) : State :=
  { s with nv := if copyB then { s.nv with copyB := bs } else { s.nv with copyA := bs } }

/-- CFG_PROGRAM (R346): refused when a request is in progress, in DECOMMISSIONED, or for the selected copy; else the new copy is
checked, and the target is erased while it is programmed. -/
def cfgProgram (s : State) (bytes : Nat) : State :=
  let n := bytes % 2 ^ 25
  let s := setF s F.CTL_CFG_LEN_bytes n
  let a := 4096 * getF s F.CTL_CFG_PROG_addr
  let toB := hasF s F.CTL_CFG_PROG_copy
  let len := min n 16777216
  let src := getF s F.CTL_STATUS_config_source
  if s.ctl.prog.isSome then cfgFailed s 6 0
  else if lifecycle s = 5 then cfgFailed s 4 0
  else if src = (if toB then 2 else 1) then cfgFailed s 3 0
  else
    let ok := inStackTier a len
    let bs := if ok then rd s a len else []
    let r := imageReason s ok bs
    if r ≠ 0 then imageAlarm (cfgFailed s 2 r) r
    else
      let s := setReg (setCopy s toB []) Off.CTL_CFG_STATUS 2
      { s with ctl := { s.ctl with prog := some ⟨toB, bs⟩ } }

/-- CFG_PROGRAM (R346), written by the host. -/
def execCfgProgram (bytes : Nat) (s : State) : Host.Outcome State Fault Refusal := settle s (hostStep s fun s => cfgProgram s bytes)

/-- CFG_PROGRAM_DONE (R346): a flash error, a read-back that fails Table 13.5, or the copy in place. -/
def cfgDone (s : State) (flashOk : Bool) : State :=
  match s.ctl.prog with
  | none => s
  | some j =>
    let s := setF { s with ctl := { s.ctl with prog := none } } F.CTL_CFG_STATUS_state 0
    if !flashOk then cfgFailed s 5 0
    else
      let s := setF (setCopy s j.copyB j.bytes) F.CTL_CFG_STATUS_done_bytes j.bytes.length
      let r := imageReason s true j.bytes
      if r ≠ 0 then imageAlarm (cfgFailed s 2 r) r
      else flag (setF (setF s F.CTL_CFG_STATUS_result 1) F.CTL_CFG_STATUS_reason 0) F.CTL_STATUS_cfg_done 13

/-- CFG_PROGRAM_DONE (R346). -/
def execCfgProgramDone (flashOk : Bool) (s : State) : Host.Outcome State Fault Refusal := settle s (cfgDone s flashOk)

end Sys2Proof.Machine
end

