-- ==== Sys2Proof/Machine/Supervision.lean ====
section
/-!
DEFINITION. Supervision (R384 to R394, R435, R439, R446): trips, rails, junctions, coolant, the launch reference, the lichen pair, the
single faults that no other file raises, and the release of HOLD.
-/

namespace Sys2Proof.Machine

/-! ### Trips, R388 and R389 -/

/-- OVERCURRENT_TRIP (Table 15.2). -/
def execOvercurrentTrip (both : Bool) (s : State) : Host.Outcome State Fault Refusal := settleAny s (tripOff s 1 both)

/-- OVERVOLTAGE_TRIP (Table 15.2). -/
def execOvervoltageTrip (both : Bool) (s : State) : Host.Outcome State Fault Refusal := settleAny s (tripOff s 2 both)

/-- RAIL_TRIP (Table 15.2). -/
def execRailTrip (s : State) : Host.Outcome State Fault Refusal := settleAny s (tripOff s 5 false)

/-- JUNCTION_TRIP (Table 15.2): a comparator on a sensor of any logic die; no other part of the module takes part. -/
def junctionTrip (s : State) (_die : Nat) : State := tripOff s 8 false

/-- JUNCTION_TRIP (R389). -/
def execJunctionTrip (die : Nat) (s : State) : Host.Outcome State Fault Refusal := settleAny s (junctionTrip s die)

/-- CORE_RAIL_UNDER (Table 15.2). -/
def execCoreRailUnder (s : State) : Host.Outcome State Fault Refusal := settle s (holdFault s 0x06 12 0 0 0)

/-! ### Junctions, R389 and R391 -/

/-- Whether a reading in tenths of a degree lies outside -40 to 150 °C. -/
def outOfRange (t : Int) : Bool := decide (t < -400) || decide (1500 < t)

/-- Whether the sensors of a die differ by more than 6 °C. -/
def apart (t : Int × Int) : Bool := decide (t.1 - t.2 > 60) || decide (t.2 - t.1 > 60)

/-- Whether a sensor of the die is implausible (R391); a die on one sensor is judged on that one. -/
def implausible (s : State) (d : Nat) (t : Int × Int) : Bool :=
  match FMap.get none s.saf.alone d with
  | some false => outOfRange t.1
  | some true => outOfRange t.2
  | none => outOfRange t.1 || outOfRange t.2 || apart t

/-- An integer as the low bits of a field. -/
def lowBits (v : Int) (n : Nat) : Nat := (v % (2 ^ n : Int)).toNat

/-- What SAF_THERMAL shows, and the warning with its hysteresis (Table 15.2). -/
def showThermal (s : State) : State :=
  let (d, t) := hottest s
  let s := setF (setF s F.SAF_THERMAL_hottest_c (lowBits (Int.fdiv t 10) 8)) F.SAF_THERMAL_die d
  let warn := hasF s F.SAF_STATUS_thermal_warn
  let s := if !warn && decide (950 < t) then flag s F.SAF_STATUS_thermal_warn 11
    else if warn && decide (t < 900) then setF s F.SAF_STATUS_thermal_warn 0
    else s
  setF s F.PWR_GOV_limit_mv (voltageLimit s)

/-- Both sensors of a die have failed: HOLD cause 13 (R391). -/
def sensorsLost (s : State) (d : Nat) (t : Int) : State := holdFault s 0x09 13 d 0 (lowBits t 32)

/-- An implausible reading: sensor_fault, a log entry as it begins, and HOLD when the die's last sensor has failed. -/
def judgeSensors (s : State) (d : Nat) (old new : Int × Int) : State :=
  if !implausible s d new then s
  else
    let s := flag s F.SAF_STATUS_sensor_fault 11
    if implausible s d old && old != noTemp then s
    else if (FMap.get none s.saf.alone d).isSome then sensorsLost s d (dieTemp s d)
    else logFault s 0x09 1 d 0 (lowBits (dieTemp s d) 32)

/-- SENSOR_READ (R391): both sensors of a die, in tenths of a degree; during SCAL they report their last readings (R396). A
junction that falls below -20 °C raises alarm 0x08. -/
def sensorRead (s : State) (d : Nat) (t0 t1 : Int) : State :=
  if s.maint.running.contains ⟨6, 0, d⟩ || !phaseEnded s 1 then s
  else
    let old := FMap.get noTemp s.saf.temps d
    let cold := old != noTemp && decide (dieTemp s d < -200)
    let s := { s with saf := { s.saf with temps := FMap.set noTemp s.saf.temps d (t0, t1) } }
    let s := judgeSensors (showThermal s) d old (t0, t1)
    if !cold && decide (dieTemp s d < -200) then alarm3 s 8 else s

/-- SENSOR_READ (R391). -/
def execSensorRead (d : Nat) (t0 t1 : Int) (s : State) : Host.Outcome State Fault Refusal := settle s (sensorRead s d t0 t1)

/-- JUNCTION_HOLD (Table 15.2): a junction above 105 °C for 1 ms. -/
def junctionHold (s : State) (d : Nat) (c : Int) : State := if c ≤ 105 then s else holdFault s 0x07 1 d 0 (lowBits (10 * c) 32)

/-- JUNCTION_HOLD (R389). -/
def execJunctionHold (d : Nat) (c : Int) (s : State) : Host.Outcome State Fault Refusal := settle s (junctionHold s d c)

/-! ### Coolant, R389 and R439 -/

/-- flow_min in 0.01 L/min. -/
def flowMin (s : State) : Nat := 10 * getF s F.SAF_POLICY_flow_min

/-- FLOW_READ (R439): a reading in 0.01 L/min, below 0.5 L/min read as 0, or none. -/
def flowRead (s : State) (r : Option Nat) : State :=
  let v := match r with | some x => if x < 50 then 0 else min x 65535 | none => 0
  let s := if r.isSome then setF s F.SAF_THERMAL_flow v else s
  if r.isSome && decide (flowMin s ≤ v) then { s with saf := { s.saf with flowOk := s.saf.flowOk + 1, flowLow := 0 } }
  else { s with saf := { s.saf with flowOk := 0, flowLow := s.saf.flowLow + 1 } }

/-- FLOW_READ (R439). -/
def execFlowRead (r : Option Nat) (s : State) : Host.Outcome State Fault Refusal := settle s (flowRead s r)

/-- COOLANT_FLOW_LOW (Table 15.2): ten reads of 100 ms below flow_min or without a signal, from DEVICE_READY. -/
def coolantLow (s : State) : State :=
  if hasF s F.HST_STATUS_device_ready && decide (10 ≤ s.saf.flowLow) then holdFault s 0x0A 2 0 0 0 else s

/-- COOLANT_FLOW_LOW (R389). -/
def execCoolantFlowLow (s : State) : Host.Outcome State Fault Refusal := settle s (coolantLow s)

/-! ### The launch reference, R133 and R435 -/

/-- A reference fault (R133). -/
def refFault (s : State) : State :=
  let s := flag { s with lch := { s.lch with refFault := true } } F.LCH_STATUS_ref_fault 5
  holdFault s 0x14 10 96 0 0

/-- REF_DEVIATION_WINDOW (R133): measured while REFCLK is present. -/
def refWindow (s : State) (ppm : Int) : State :=
  if hasF s F.LCH_REF_STATUS_refclk_absent || !phaseEnded s 4 then s
  else
    let s := setF s F.LCH_REF_STATUS_deviation_ppm (lowBits (max (-32768) (min 32767 ppm)) 16)
    if 1000 < ppm ∨ ppm < -1000 then refFault s else s

/-- REF_DEVIATION_WINDOW (R133). -/
def execRefDeviationWindow (ppm : Int) (s : State) : Host.Outcome State Fault Refusal := settle s (refWindow s ppm)

/-- MISSING_EDGE (R133): in single-control mode the slot number comparison lapses (R132). -/
def missingEdge (s : State) (mismatch : Bool) : State :=
  if !phaseEnded s 4 || (mismatch && hasF s F.SAF_STATUS_single_control) then s else refFault s

/-- MISSING_EDGE (R133). -/
def execMissingEdge (mismatch : Bool) (s : State) : Host.Outcome State Fault Refusal := settle s (missingEdge s mismatch)

/-- REFCLK_LOSS (R435). -/
def execRefclkLoss (s : State) : Host.Outcome State Fault Refusal := settle s (setF s F.LCH_REF_STATUS_refclk_absent 1)

/-- REFCLK_RETURN (R435). -/
def execRefclkReturn (s : State) : Host.Outcome State Fault Refusal := settle s (setF s F.LCH_REF_STATUS_refclk_absent 0)

/-! ### The lichen pair, R393 and R394 -/

/-- CONTROL_DISAGREE (R393): both dies run, and the decision waits on their self-check. -/
def controlDisagree (s : State) : State :=
  if hasF s F.SAF_STATUS_single_control || !phaseEnded s 1 then s
  else bumpF { s with saf := { s.saf with checking := true } } F.SAF_CONTROL_disagreements 1

/-- CONTROL_DISAGREE (R393). -/
def execControlDisagree (s : State) : Host.Outcome State Fault Refusal := settle s (controlDisagree s)

/-- The pair falls to one control die: fault 0x15, and a set under check is discarded with result 2 (R393, Table 13.10). -/
def loseControl (s : State) (die : Nat) : State :=
  let s := logFault (fenceControl s die) 0x15 1 die 0 0
  if getF s F.CTL_CROZIER_state = 1 then discardSet s 2 0 else s

/-- Every control die has stopped its heartbeat (R393, R394). -/
def muteControl (s : State) : State := { s with saf := { s.saf with muted := true } }

/-- SELF_CHECK_END (R393). -/
def selfCheckEnd (s : State) (ok96 ok97 equal : Bool) : State :=
  if !s.saf.checking then s
  else
    let s := { s with saf := { s.saf with checking := false } }
    match ok96, ok97 with
    | true, true => if equal then bumpF s F.SAF_CONTROL_transients 1 else holdFault s 0x22 11 96 0 0
    | true, false => loseControl s 97
    | false, true => loseControl s 96
    | false, false => muteControl s

/-- SELF_CHECK_END (R393). -/
def execSelfCheckEnd (ok96 ok97 equal : Bool) (s : State) : Host.Outcome State Fault Refusal :=
  settle s (selfCheckEnd s ok96 ok97 equal)

/-- SINGLE_CONTROL_CHECK (R394): a survivor that fails its self-check stops its heartbeat. -/
def singleCheck (s : State) (pass : Bool) : State :=
  if hasF s F.SAF_STATUS_single_control && !pass then muteControl s else s

/-- SINGLE_CONTROL_CHECK (R394). -/
def execSingleControlCheck (pass : Bool) (s : State) : Host.Outcome State Fault Refusal := settle s (singleCheck s pass)

/-- HEARTBEAT (R394) of an unfenced control die. -/
def heartbeat (s : State) (die : Nat) : State :=
  if (die = 96 ∨ die = 97) ∧ getF s F.SAF_CONTROL_fenced_die ≠ die ∧ s.saf.muted = false then
    { s with saf := { s.saf with beatAt := slot s } }
  else s

/-- HEARTBEAT (R394). -/
def execHeartbeat (die : Nat) (s : State) : Host.Outcome State Fault Refusal := settle s (heartbeat s die)

/-- WATCHDOG_EXPIRY (R394): no heartbeat for 100 µs, 390.625 slots. -/
def watchdog (s : State) : State :=
  if s.pwr.mode = .up ∧ (s.saf.muted = true ∨ s.saf.beatAt + 391 ≤ slot s) then tripOff s 0x16 false else s

/-- WATCHDOG_EXPIRY (R394). -/
def execWatchdogExpiry (s : State) : Host.Outcome State Fault Refusal := settleAny s (watchdog s)

/-! ### Other single faults, Table 15.3 -/

/-- DIE_SILENT (Table 15.3, 0x19). -/
def execDieSilent (die : Nat) (s : State) : Host.Outcome State Fault Refusal := settle s (holdFault s 0x19 12 die 0 0)

/-- PACKAGE_LINK_ERROR (Table 15.3, 0x18). -/
def execPackageLinkError (die : Nat) (s : State) : Host.Outcome State Fault Refusal := settle s (holdFault s 0x18 12 die 0 0)

/-- SYNC_OBJECT_FAILED (R446): from the access on, the object reads 0 and is failed. -/
def syncFailed (s : State) (o : Nat) : State :=
  let f := { syncFlags s o with failed := true }
  let s := { s with lch := { s.lch with flags := FMap.set ⟨false, false, false, false⟩ s.lch.flags o f } }
  holdFault (setReg s (Off.LCH_SYNC o) 0) 0x17 12 (80 + o / 1024 % 8) 0 0

/-- SYNC_OBJECT_FAILED (R446). -/
def execSyncObjectFailed (o : Nat) (s : State) : Host.Outcome State Fault Refusal := settle s (syncFailed s (o % 8192))

/-! ### Release of HOLD, R387 -/

/-- Whether a cause is releasable and its release condition holds (Table 15.3). -/
def releaseOk (s : State) (c : Nat) : Bool :=
  match c with
  | 0 => true
  | 1 => (FMap.keys s.saf.temps).all fun d => decide (dieTemp s d < 850)
  | 2 => decide (100 ≤ s.saf.flowOk)
  | 3 => decide (10000 ≤ s.pwr.vinOk)
  | 4 => true
  | 8 => !s.trn.hard8 && s.trn.repair.isEmpty && hasF s F.UPD_SURVIVE_STATUS_repair_done
  | 9 => !hasF s F.CHN_STATUS_chain_broken && !hasF s F.CHN_SURVIVE_report_fault
  | _ => false

/-- The module leaves HOLD once its last cause has cleared: the plan goes on, or stays stopped (R387). -/
def leaveHold (s : State) : State :=
  if inHold s || planState s != .held then s
  else if stopInForce s then setPlanState s .stopped
  else restartAll (setPlanState s .running)

/-- SAF_RESUME (R387): a write that names a cause that cannot be released has no effect beyond resume_refused. -/
def safResume (s : State) (v : Word) : State :=
  let named := (List.range 14).filter fun c => bit v c
  if named.all fun c => (getF s F.SAF_HOLD_pending).testBit c && releaseOk s c then
    leaveHold (clearCauses s (bits v 13 0))
  else flag s F.SAF_STATUS_resume_refused 11

/-- SAF_RESUME (R387). -/
def execSafResume (v : Word) (s : State) : Host.Outcome State Fault Refusal := settle s (hostStep s fun s => safResume s v)

end Sys2Proof.Machine
end

