-- ==== Sys2Proof/Machine/Maintenance.lean ====
section
/-!
DEFINITION. Maintenance (R395 to R401): the scheduler with its compatibility matrix, BIST slices and their verdicts, sensor and link
impedance calibration.
-/

namespace Sys2Proof.Machine

/-! ### The compatibility matrix, Table 15.5 -/

/-- The die that holds the unit of a BIST slice (Table 15.13). -/
def sliceDie (x : Activity) : Nat :=
  match x.kind with
  | 0 => x.unit / 8
  | 1 => x.unit / 4
  | 2 => stackDie (stackOf (Config.regionBase x.unit))
  | 3 => 92 + x.unit / 8
  | _ => portDie (x.unit / 4)

/-- Whether Table 15.5 forbids two activities together, in table order. -/
def conflictsUp (x y : Activity) : Bool :=
  match x.act, y.act with
  | 0, 0 => true
  | 0, 1 => x.kind == 2 && stackOf (Config.regionBase x.unit) == y.unit
  | 0, 2 => x.kind == 3
  | 0, 3 => x.kind == 4 && x.unit / 4 == y.unit
  | 0, 4 => x.kind == 4 && x.unit / 4 == y.unit
  | 0, 6 => sliceDie x == y.unit
  | 1, 1 => x.unit == y.unit
  | 2, 2 => true
  | 3, 3 => x.unit == y.unit
  | 3, 4 => x.unit == y.unit
  | 4, 4 => x.unit == y.unit
  | 5, 5 => true
  | 6, 6 => true
  | 7, 7 => true
  | 8, 8 => true
  | _, _ => false

/-- Whether Table 15.5 forbids two activities together. -/
def conflicts (x y : Activity) : Bool := if x.act ≤ y.act then conflictsUp x y else conflictsUp y x

/-! ### Starting -/

/-- Whether the unit of a slice is fault-fenced. -/
def unitFenced (s : State) (x : Activity) : Bool :=
  match x.kind with
  | 0 => fenced s x.unit
  | 1 => veFenced s x.unit
  | 3 => channelFenced s x.unit
  | _ => false

/-- The conditions of R397 and of Table 15.6. -/
def sliceReady (s : State) (x : Activity) : Bool :=
  let mv := getF s F.PWR_GOV_setpoint_mv
  let t := FMap.get noTemp s.saf.temps (sliceDie x)
  let inBand := fun (v : Int) => decide (200 ≤ v) && decide (v ≤ 950)
  let dev := getF s F.LCH_REF_STATUS_deviation_ppm
  let lc := lifecycle s
  let port := getF s (F.CHN_PORT_state (x.unit / 4))
  decide (650 ≤ mv) && decide (mv ≤ 750) && inBand t.1 && inBand t.2 && !hasF s F.LCH_REF_STATUS_refclk_absent
    && (decide (dev ≤ 100) || decide (65436 ≤ dev)) && (lc == 0 || lc == 2 || lc == 4)
    && (hasF s F.SAF_POLICY_bist_en || unitFenced s x) && (x.kind != 4 || port == 0 || port == 3)
    && (x.kind != 1 || ((unitOf s (512 + x.unit)).running.isNone && (unitOf s (512 + x.unit)).waiting.isNone))

/-- Whether an activity may start beside those that run (R396, R397, R414). -/
def mayStart (s : State) (x : Activity) : Bool :=
  !s.maint.running.any (conflicts x)
    && (x.act != 0 || sliceReady s x)
    && (x.act != 8 || s.pwr.sigWait.isEmpty || !seedPresent s.fuse)

/-- Whether the scheduler asks for an activity by its period or its wear rule (Table 15.4); the time of the request is the
sender's. The others start on a request made by an event. -/
def periodic (s : State) (x : Activity) : Bool :=
  hasF s F.HST_STATUS_device_ready &&
    match x.act with
    | 0 => lifecycle s == 2 && hasF s F.SAF_POLICY_bist_en && decide (x.kind ≤ 3)
    | 1 => decide (x.unit < 16) && x.kind == 0
    | 2 => x == ⟨2, 0, 0⟩
    | 4 => decide (x.unit < 4) && x.kind == 0
    | 6 => decide (x.unit < 98) && x.kind == 0
    | 8 => x == ⟨8, 0, 0⟩ && getF s F.SAF_POLICY_key_rotate_h != 0
    | _ => false

/-- An activity begins; an array under test is held (R398). -/
def beginActivity (s : State) (x : Activity) : State :=
  let s := runActivity s x
  if x.act = 0 ∧ x.kind = 0 then setArray s x.unit { arrayOf s x.unit with heldTest := true } else s

/-- MAINTENANCE_START (R396): a request that waits, or one that its period makes now, starts once Table 15.5 allows it and no older
request that could start waits. -/
def maintenanceStart (s : State) (x : Activity) : State :=
  let s := if periodic s x then requestActivity s x else s
  let older := s.maint.waiting.takeWhile (· != x)
  if s.maint.waiting.contains x && mayStart s x && !older.any (mayStart s) then beginActivity s x else s

/-- MAINTENANCE_START (R396). -/
def execMaintenanceStart (act kind unit : Nat) (s : State) : Host.Outcome State Fault Refusal :=
  settle s (maintenanceStart s ⟨act, kind, unit⟩)

/-- A host request for a slice (R401): outside MANUFACTURE and RETURN discarded with bist_refused; a reserved kind is discarded. -/
def bistCmd (s : State) (kind unit : Nat) : State :=
  let lc := lifecycle s
  if lc ≠ 0 ∧ lc ≠ 4 then setF s F.SAF_STATUS_bist_refused 1
  else if 5 ≤ kind % 8 then s
  else requestActivity s ⟨0, kind % 8, unit % 2 ^ 21⟩

/-- SAF_BIST_CMD (R401). -/
def execSafBistCmd (kind unit : Nat) (s : State) : Host.Outcome State Fault Refusal :=
  settle s (hostStep s fun s => bistCmd s kind unit)

/-! ### Verdicts, R399 -/

/-- The fence of a unit cleared after a slice that passes (R92, R399). -/
def clearFence (s : State) (x : Activity) : State :=
  if !unitFenced s x then s
  else
    match x.kind with
    | 0 =>
      let off := Off.ARR_FENCED (x.unit / 64)
      setF (setReg s off (getReg s off &&& ~~~(BitVec.ofNat 64 (2 ^ (x.unit % 64))))) F.ARR_STATUS_fence_changed 1
    | 1 => { s with arr := { s.arr with veFenced := FMap.set false s.arr.veFenced x.unit false } }
    | 3 =>
      let m := getF s F.FLS_CH_FENCED_fenced
      let m := m - (m &&& 2 ^ x.unit)
      setF (setF s F.FLS_CH_FENCED_fenced m) F.FLS_STATUS_flash_degraded (b2n (m != 0))
    | _ => s

/-- Every frond whose home lies in a DRAM region that fails, resolved under R188. -/
def poisonRegion (s : State) (r : Nat) : State :=
  let base := Config.regionBase r
  let hit := fun (s : State) (id : Nat) =>
    let e := ftGet s id
    e.valid && decide (base < e.home + e.fmt.footprint e.home) && decide (e.home < base + 2 ^ 25)
  let s := runFault s 0x10 (stackDie (stackOf base)) 0 0
  ((List.range (ftCount s)).filter (hit s)).foldl (fun s id => readOutcome s id (homeOf s id) false false) s

/-- The unit of a slice that fails is fault-fenced, with the matching fault of Table 15.3. -/
def failUnit (s : State) (x : Activity) : State :=
  let s := flag (bumpF s F.SAF_BIST_STATUS_failed 1) F.SAF_STATUS_bist_fail 11
  let was := unitFenced s x
  match x.kind with
  | 0 =>
    let s := logFault s 0x0B 1 (x.unit / 8) x.unit 0
    if was then s else fenceArray s x.unit
  | 1 => if was then logFault s 0x0C 1 (x.unit / 4) x.unit 0 else veFault s x.unit
  | 2 => poisonRegion s x.unit
  | 3 => if was then logFault s 0x12 1 (92 + x.unit / 8) x.unit 0 else channelStep s x.unit
  | _ =>
    let k := x.unit / 4
    runFault (setPortRun s k { portRun s k with failed := true }) 0x1D (portDie k) 0 0

/-- What SAF_BIST_STATUS shows of the last slice. -/
def noteSlice (s : State) (x : Activity) (found : Nat) : State :=
  setF (setF (setF s F.SAF_BIST_STATUS_kind x.kind) F.SAF_BIST_STATUS_unit x.unit) F.SAF_BIST_STATUS_verdict found

/-- BIST_SLICE_END (R399): the slice that runs ends with 1 pass, 2 fail or 3 abandoned; an abandoned one is requested again. -/
def sliceEnd (s : State) (found : Nat) : State :=
  match s.maint.running.find? fun x => x.act == 0 with
  | none => s
  | some x =>
    if found = 0 ∨ 3 < found then s
    else
      let s := noteSlice (endActivity s x) x found
      let s := if x.kind = 0 then setArray s x.unit { arrayOf s x.unit with heldTest := false } else s
      match found with
      | 1 => clearFence s x
      | 2 => failUnit s x
      | _ => requestActivity (bumpF s F.SAF_BIST_STATUS_abandoned 1) x

/-- BIST_SLICE_END (R399). -/
def execBistSliceEnd (found : Nat) (s : State) : Host.Outcome State Fault Refusal := settle s (sliceEnd s found)

/-! ### Calibrations -/

/-- Consecutive calibrations that find each sensor implausible: out of range by itself, or both when only their difference tells
(R391). -/
def nextDoubt (c : Nat × Nat) (t : Int × Int) : Nat × Nat :=
  let bad0 := outOfRange t.1
  let bad1 := outOfRange t.2
  let both := apart t && !bad0 && !bad1
  (if bad0 || both then c.1 + 1 else 0, if bad1 || both then c.2 + 1 else 0)

/-- SENSOR_CALIBRATION (R391): after three calibrations in a row a die runs on its other sensor, or HOLD cause 13 applies. -/
def sensorCalibration (s : State) (d : Nat) : State :=
  let x : Activity := ⟨6, 0, d⟩
  if !s.maint.running.contains x then s
  else
    let s := endActivity s x
    let t := FMap.get noTemp s.saf.temps d
    if t = noTemp ∨ FMap.get none s.saf.alone d ≠ none then s
    else
      let c := nextDoubt (FMap.get (0, 0) s.saf.doubt d) t
      let s := { s with saf := { s.saf with doubt := FMap.set (0, 0) s.saf.doubt d c } }
      if 3 ≤ c.1 ∧ 3 ≤ c.2 then sensorsLost s d (dieTemp s d)
      else if 3 ≤ c.1 ∨ 3 ≤ c.2 then
        let s := { s with saf := { s.saf with alone := FMap.set none s.saf.alone d (some (decide (3 ≤ c.1))) } }
        showThermal (bumpF s F.SAF_THERMAL_single_sensor 1)
      else s

/-- SENSOR_CALIBRATION (R391). -/
def execSensorCalibration (d : Nat) (s : State) : Host.Outcome State Fault Refusal := settle s (sensorCalibration s d)

/-- LINK_IMPEDANCE_CALIBRATION (Table 15.4): the activity ends; it moves no value that the spec names. -/
def impedanceCalibration (s : State) (port : Nat) : State := endActivity s ⟨4, 0, port⟩

/-- LINK_IMPEDANCE_CALIBRATION (R395). -/
def execLinkImpedanceCalibration (port : Nat) (s : State) : Host.Outcome State Fault Refusal :=
  settle s (impedanceCalibration s port)

end Sys2Proof.Machine
end

