-- ==== Sys2Proof/Machine/Access.lean ====
section
/-!
DEFINITION. Register access (R13 to R19): what a read of BAR0 returns, host writes that act by access code, staging writes, and the
rack controller's path (R373 to R375).
-/

namespace Sys2Proof.Machine

/-! ### Reads -/

/-- The register fields that are computed from the state. -/
def liveReg (s : State) (off : Nat) : Word :=
  let w := getReg s off
  if off = Off.HST_STATUS then setBits w 5 4 (safetyState s)
  else if off = Off.SAF_STATUS then setBits w 1 0 (safetyState s)
  else w

/-- What a read of a 64-bit BAR0 register returns (R16 to R18): ST fields their staged value, the active view the value in effect,
an unassigned offset 0. WO fields are never stored. -/
def readReg (s : State) (off : Nat) : Word :=
  match rowAt off with
  | some r =>
    let m := accMask r .st
    (liveReg s off &&& ~~~m) ||| (stagedWord s off &&& m)
  | none =>
    match (if 0x80000 ≤ off then rowAt (off - 0x80000) else none) with
    | some r => if r.isStaged then getReg s (off - 0x80000) &&& accMask r .st else getReg s off
    | none => getReg s off

/-! ### Writes -/

/-- The bits that an access of a good size reaches (R14). -/
def reachOf (off size : Nat) : Word := if size = 8 then BitVec.allOnes 64 else if off % 8 = 0 then bitMask 31 0 else bitMask 63 32

/-- The value of an access in its place in the register. -/
def placed (off size : Nat) (v : Word) : Word := if size = 4 ∧ off % 8 ≠ 0 then v <<< 32 else v

/-- Whether a register has rows of its own in the table of commands, which carry its writes. -/
def ownRow (off : Nat) : Bool :=
  [Off.ARR_INJECT, Off.NUM_CLEAR, Off.NUM_RING_TAIL, Off.LCH_SYNC_SIGNAL, Off.LCH_CLEAR, Off.LCH_TS_RING_TAIL, Off.CTL_CLAIM,
   Off.SAF_RESUME, Off.SAF_BIST_CMD, Off.SEC_CMD, Off.INT_SUB_TAIL, Off.INT_EV_TAIL].contains off

/-- A write by access codes (R17): RW bits take the value, W1C bits that are written 1 clear. -/
def writeFields (s : State) (off : Nat) (r : RegRow) (v reach : Word) : State :=
  let rw := accMask r .rw &&& reach
  let w1c := accMask r .w1c &&& reach
  let old := getReg s off
  setReg s off (((old &&& ~~~rw) ||| (v &&& rw)) &&& ~~~(v &&& w1c))

/-- A CTL_COMMIT write with a reserved op (Table 13.15): discarded; it counts as a write of the claim holder (R348). -/
def commitNone (s : State) (src : Nat) : State :=
  if mayStage s src then { s with ctl := { s.ctl with wroteAt := slot s } } else stageRefused s

/-- REGISTER_WRITE (R14 to R17): a register without rows of its own. CTL_COMMIT and CTL_CFG_LEN have rows for op 1 and 2 and for
start = 1; their other writes act here. -/
def registerWrite (s : State) (off size : Nat) (v : Word) : State :=
  let base := off / 8 * 8
  if !bar0Ok off size (holdsWo off) then bar0Refused s off size true
  else if ownRow base then s
  else if base = Off.CTL_COMMIT then (if bits v 1 0 = 0 ∨ bits v 1 0 = 3 then commitNone s 1 else s)
  else if base = Off.CTL_CFG_LEN ∧ bit v 63 = true then s
  else
    match rowAt base with
    | some r => writeFields s base r (placed off size v) (reachOf off size)
    | none => s

/-- REGISTER_WRITE (R17). -/
def execRegisterWrite (off size : Nat) (v : Word) (s : State) : Host.Outcome State Fault Refusal :=
  settle s (hostStep s fun s => registerWrite s off size v)

/-- ST_WRITE (R348) by the host: a register without ST fields takes none. -/
def stWrite (s : State) (off size : Nat) (v : Word) : State :=
  let base := off / 8 * 8
  if !bar0Ok off size false then bar0Refused s off size true
  else
    match rowAt base with
    | some r => if r.isStaged then stageWrite s 1 base (placed off size v) (reachOf off size) else s
    | none => s

/-- ST_WRITE (R348). -/
def execStWrite (off size : Nat) (v : Word) (s : State) : Host.Outcome State Fault Refusal :=
  settle s (hostStep s fun s => stWrite s off size v)

/-! ### The rack controller, R373 to R375 -/

/-- Whether the module answers on I3C: its control dies have left reset and stand (Tables 13.1, 13.2, 13.3). -/
def rackUp (s : State) : Bool := phaseEnded s 1 && !s.pwr.pairBad

/-- A message of the rack controller: a module that does not answer takes none. -/
def rackStep (s : State) (f : State → State) : State := if rackUp s then f s else s

/-- ENTDAA (R373). -/
def entdaa (s : State) (a : Nat) : State := setF (setF s F.PWR_MCTP_address a) F.PWR_MCTP_assigned 1

/-- ENTDAA (R373). -/
def execEntdaa (a : Nat) (s : State) : Host.Outcome State Fault Refusal := settle s (rackStep s fun s => entdaa s a)

/-- MCTP_CONTROL (R374). -/
def execMctpControl (request : List Byte) (s : State) : Host.Outcome State Fault Refusal :=
  settle s (rackStep s fun s => send s (.rack (Config.mctpReply request)))

/-- The value of a PLDM numeric sensor (Table 14.8); the ceiling and the setpoint follow every change. -/
def sensorValue (s : State) (i : Nat) : Nat :=
  if i = 5 then getF s F.PWR_DRAW_ceiling_w else if i = 7 then getF s F.PWR_GOV_setpoint_mv else s.pwr.pldm.getD (i - 1) 0

/-- PLDM (R374): types 0 and 2 are answered, no other. -/
def pldm (s : State) (ptype sensor : Nat) : State :=
  if ptype = 0 ∨ ptype = 2 then send s (.rack (Config.pldmReply ptype sensor (sensorValue s sensor))) else s

/-- PLDM (R374). -/
def execPldm (ptype sensor : Nat) (s : State) : Host.Outcome State Fault Refusal := settle s (rackStep s fun s => pldm s ptype sensor)

/-- MCTP_OTHER_DROP (R374): no answer to a message of any other type; types 0x00, 0x01 and 0x7F have rows of their own. -/
def mctpDrop (s : State) (_mtype : Nat) : State := s

/-- MCTP_OTHER_DROP (R374). -/
def execMctpOtherDrop (mtype : Nat) (s : State) : Host.Outcome State Fault Refusal := settle s (rackStep s fun s => mctpDrop s mtype)

/-- SENSOR_UPDATE (Table 14.8). -/
def sensorUpdate (s : State) : State :=
  let vs := [getF s F.PWR_DRAW_avg_w, getF s F.PWR_INPUT_vin, getF s F.PWR_INPUT_iin, getF s F.PWR_ENERGY_mj / 1000,
    getF s F.PWR_DRAW_ceiling_w, getF s F.SAF_THERMAL_hottest_c, getF s F.PWR_GOV_setpoint_mv]
  { s with pwr := { s.pwr with pldm := vs } }

/-- SENSOR_UPDATE (R374). -/
def execSensorUpdate (s : State) : Host.Outcome State Fault Refusal := settle s (sensorUpdate s)

/-- A register access response: its status, then the values (Table 14.9). -/
def rackReply (s : State) (status : Nat) (ws : List Word) : State :=
  send s (.rack (BitVec.ofNat 8 status :: ws.flatMap fun w => leBytes 8 w.toNat))

/-- READ (R375): status 3 for a bad offset, alignment or count. -/
def rackRead (s : State) (off count : Nat) : State :=
  if off % 8 ≠ 0 ∨ count = 0 ∨ 8 < count ∨ 2 ^ 26 < off + 8 * count then rackReply s 3 []
  else rackReply s 0 ((List.range count).map fun i => readReg s (off + 8 * i))

/-- READ (R375). -/
def execRead (off count : Nat) (s : State) : Host.Outcome State Fault Refusal := settle s (rackStep s fun s => rackRead s off count)

/-- A CTL_COMMIT write of a source. -/
def commitWrite (s : State) (src : Nat) (v : Word) : State :=
  match bits v 1 0 with
  | 1 => commitRequest s src (bit v 2) (bits v 63 8)
  | 2 => commitAbort s src
  | _ => commitNone s src

/-- WRITE (R375): ST registers and CTL_COMMIT only. -/
def rackWrite (s : State) (off : Nat) (v : Word) : State :=
  if off % 8 ≠ 0 ∨ 2 ^ 26 ≤ off then rackReply s 3 []
  else
    let status := if mayStage s 2 then 0 else 1
    if off = Off.CTL_COMMIT then rackReply (commitWrite s 2 v) status []
    else if (match rowAt off with | some r => r.isStaged | none => false) = true then
      rackReply (stageWrite s 2 off v (BitVec.allOnes 64)) status []
    else rackReply s 2 []

/-- WRITE (R375). -/
def execWrite (off : Nat) (v : Word) (s : State) : Host.Outcome State Fault Refusal := settle s (rackStep s fun s => rackWrite s off v)

/-- CLAIM (R348, R375): the claim passes to the rack controller, from the host too. -/
def rackClaim (s : State) : State :=
  let s := if getF s F.CTL_CLAIM_owner = 1 then endClaim s else s
  rackReply (takeClaim s 2) 0 []

/-- CLAIM (R375). -/
def execClaim (s : State) : Host.Outcome State Fault Refusal := settle s (rackStep s rackClaim)

/-- RELEASE_CLAIM (R348, R375): status 1 without the claim. -/
def rackRelease (s : State) : State :=
  if getF s F.CTL_CLAIM_owner = 2 then rackReply (endClaim s) 0 [] else rackReply s 1 []

/-- RELEASE_CLAIM (R375). -/
def execReleaseClaim (s : State) : Host.Outcome State Fault Refusal := settle s (rackStep s rackRelease)

end Sys2Proof.Machine
end

