-- ==== Sys2Proof/Machine/Dispatch.lean ====
section
/-!
DEFINITION. The dispatch of the commands: one arm per constructor, one direct call of its meaning.
-/

namespace Sys2Proof.Machine

/-- The effect of a command on everything but the queue. -/
def exec (i : Instr) (s : State) : Host.Outcome State Fault Refusal :=
  match i with
  | .pwrEnRise disconnectsOk detectorsOk lowMs => Sys2Proof.Machine.execPwrEnRise disconnectsOk detectorsOk lowMs s
  | .pwrEnFall => Sys2Proof.Machine.execPwrEnFall s
  | .perstNDeassert straps => Sys2Proof.Machine.execPerstNDeassert straps s
  | .perstNAssert => Sys2Proof.Machine.execPerstNAssert s
  | .bringupPhaseEnd phase report => Sys2Proof.Machine.execBringupPhaseEnd phase report s
  | .deviceReady ms setpointMv pFullW => Sys2Proof.Machine.execDeviceReady ms setpointMv pFullW s
  | .bringupTimeout => Sys2Proof.Machine.execBringupTimeout s
  | .slotBoundary => Sys2Proof.Machine.execSlotBoundary s
  | .crozierCommit => Sys2Proof.Machine.execCrozierCommit s
  | .signalTakesEffect => Sys2Proof.Machine.execSignalTakesEffect s
  | .anchorSet => Sys2Proof.Machine.execAnchorSet s
  | .launchIssue launch => Sys2Proof.Machine.execLaunchIssue launch s
  | .launchBegin unit => Sys2Proof.Machine.execLaunchBegin unit s
  | .launchComplete unit => Sys2Proof.Machine.execLaunchComplete unit s
  | .waitTimeout gate index op => Sys2Proof.Machine.execWaitTimeout gate index op s
  | .arrayStep array upset => Sys2Proof.Machine.execArrayStep array upset s
  | .intermediateCheck array => Sys2Proof.Machine.execIntermediateCheck array s
  | .drain array upset => Sys2Proof.Machine.execDrain array upset s
  | .tileRestart array => Sys2Proof.Machine.execTileRestart array s
  | .drainFault array => Sys2Proof.Machine.execDrainFault array s
  | .vectorEngineFault core => Sys2Proof.Machine.execVectorEngineFault core s
  | .passRestart => Sys2Proof.Machine.execPassRestart s
  | .batchLaunch queue => Sys2Proof.Machine.execBatchLaunch queue s
  | .requestDescriptor queue => Sys2Proof.Machine.execRequestDescriptor queue s
  | .rowAccepted queue => Sys2Proof.Machine.execRowAccepted queue s
  | .moveFrond stack => Sys2Proof.Machine.execMoveFrond stack s
  | .viewCopy stack => Sys2Proof.Machine.execViewCopy stack s
  | .failedRead target how die channel addr inPass => Sys2Proof.Machine.execFailedRead target how die channel addr inPass s
  | .sramUncorrectable addr inPass => Sys2Proof.Machine.execSramUncorrectable addr inPass s
  | .viewRemake addr fetchOk => Sys2Proof.Machine.execViewRemake addr fetchOk s
  | .partnerFetchTimeout frond => Sys2Proof.Machine.execPartnerFetchTimeout frond s
  | .flashPageRead page decodes rereads rereadOk => Sys2Proof.Machine.execFlashPageRead page decodes rereads rereadOk s
  | .pageRebuild page othersOk => Sys2Proof.Machine.execPageRebuild page othersOk s
  | .stripeWrite footprintMiB => Sys2Proof.Machine.execStripeWrite footprintMiB s
  | .ledgerStore => Sys2Proof.Machine.execLedgerStore s
  | .onfiChannelFail channel => Sys2Proof.Machine.execOnfiChannelFail channel s
  | .flashWearMove blocks => Sys2Proof.Machine.execFlashWearMove blocks s
  | .dramScrub addr corrected newerWrite => Sys2Proof.Machine.execDramScrub addr corrected newerWrite s
  | .reduceAdd drainIndex => Sys2Proof.Machine.execReduceAdd drainIndex s
  | .reduceAdderFault target => Sys2Proof.Machine.execReduceAdderFault target s
  | .finalQuantisation shard => Sys2Proof.Machine.execFinalQuantisation shard s
  | .normMessageSend => Sys2Proof.Machine.execNormMessageSend s
  | .normDecision => Sys2Proof.Machine.execNormDecision s
  | .normTimeout => Sys2Proof.Machine.execNormTimeout s
  | .updateGroup stack => Sys2Proof.Machine.execUpdateGroup stack s
  | .sweepTimeout stack => Sys2Proof.Machine.execSweepTimeout stack s
  | .updateEngineFault stack => Sys2Proof.Machine.execUpdateEngineFault stack s
  | .digestCompute shard => Sys2Proof.Machine.execDigestCompute shard s
  | .digestEngineFault shard => Sys2Proof.Machine.execDigestEngineFault shard s
  | .digestRepair shard anyFailing => Sys2Proof.Machine.execDigestRepair shard anyFailing s
  | .groupRepair stack => Sys2Proof.Machine.execGroupRepair stack s
  | .snapshotWrite writeOk => Sys2Proof.Machine.execSnapshotWrite writeOk s
  | .flitReceive port crcOk ftype seq ack => Sys2Proof.Machine.execFlitReceive port crcOk ftype seq ack s
  | .replayRequest port ack => Sys2Proof.Machine.execReplayRequest port ack s
  | .idleFlit port => Sys2Proof.Machine.execIdleFlit port s
  | .portDown port => Sys2Proof.Machine.execPortDown port s
  | .portTraining port trained => Sys2Proof.Machine.execPortTraining port trained s
  | .addressToken port value origin => Sys2Proof.Machine.execAddressToken port value origin s
  | .closure port length origin => Sys2Proof.Machine.execClosure port length origin s
  | .errorNotice code sender => Sys2Proof.Machine.execErrorNotice code sender s
  | .addressingTimeout => Sys2Proof.Machine.execAddressingTimeout s
  | .skipProbe port sender => Sys2Proof.Machine.execSkipProbe port sender s
  | .skipProbeTimeout port => Sys2Proof.Machine.execSkipProbeTimeout port s
  | .rejoinToken address length origin => Sys2Proof.Machine.execRejoinToken address length origin s
  | .rejoinCheck eAddress => Sys2Proof.Machine.execRejoinCheck eAddress s
  | .healNotice link reporter restored => Sys2Proof.Machine.execHealNotice link reporter restored s
  | .linkRetrain port trained => Sys2Proof.Machine.execLinkRetrain port trained s
  | .acknowledgement source seq => Sys2Proof.Machine.execAcknowledgement source seq s
  | .ackSend source => Sys2Proof.Machine.execAckSend source s
  | .messageResend dest => Sys2Proof.Machine.execMessageResend dest s
  | .messageDeliver msg => Sys2Proof.Machine.execMessageDeliver msg s
  | .messageForward msg => Sys2Proof.Machine.execMessageForward msg s
  | .syncMsg source object amount => Sys2Proof.Machine.execSyncMsg source object amount s
  | .normMsg source step position lossNonfinite gradPoisoned passAborted part => Sys2Proof.Machine.execNormMsg source step position lossNonfinite gradPoisoned passAborted part s
  | .digestMsg source shard step digest => Sys2Proof.Machine.execDigestMsg source shard step digest s
  | .partnerRequest source frond tag step => Sys2Proof.Machine.execPartnerRequest source frond tag step s
  | .partnerReply frond tag status data => Sys2Proof.Machine.execPartnerReply frond tag status data s
  | .layoutMsg source step layout adopted roleDigest => Sys2Proof.Machine.execLayoutMsg source step layout adopted roleDigest s
  | .permuteDecision => Sys2Proof.Machine.execPermuteDecision s
  | .permuteTransfer shard index => Sys2Proof.Machine.execPermuteTransfer shard index s
  | .feedAnnounce sender feed => Sys2Proof.Machine.execFeedAnnounce sender feed s
  | .lossReport reporter lost standIn step norms => Sys2Proof.Machine.execLossReport reporter lost standIn step norms s
  | .lossReportTimeout => Sys2Proof.Machine.execLossReportTimeout s
  | .reReduce step => Sys2Proof.Machine.execReReduce step s
  | .countMsg source step c => Sys2Proof.Machine.execCountMsg source step c s
  | .countMessageSend => Sys2Proof.Machine.execCountMessageSend s
  | .collectiveData source desc iteration stage hop index step data => Sys2Proof.Machine.execCollectiveData source desc iteration stage hop index step data s
  | .credit source desc iteration fronds => Sys2Proof.Machine.execCredit source desc iteration fronds s
  | .sampleDescriptor => Sys2Proof.Machine.execSampleDescriptor s
  | .sampleTimeout batch slot => Sys2Proof.Machine.execSampleTimeout batch slot s
  | .imageSample batch slot => Sys2Proof.Machine.execImageSample batch slot s
  | .textPack batch => Sys2Proof.Machine.execTextPack batch s
  | .pressureWindow => Sys2Proof.Machine.execPressureWindow s
  | .load tag => Sys2Proof.Machine.execLoad tag s
  | .start tag => Sys2Proof.Machine.execStart tag s
  | .stop tag => Sys2Proof.Machine.execStop tag s
  | .resume tag => Sys2Proof.Machine.execResume tag s
  | .endPlan tag => Sys2Proof.Machine.execEndPlan tag s
  | .commandReserved code tag => Sys2Proof.Machine.execCommandReserved code tag s
  | .commandOverrun => Sys2Proof.Machine.execCommandOverrun s
  | .release slot seq => Sys2Proof.Machine.execRelease slot seq s
  | .requestTail queue tail => Sys2Proof.Machine.execRequestTail queue tail s
  | .bar2InvalidWrite offset size => Sys2Proof.Machine.execBar2InvalidWrite offset size s
  | .bar0BadAccess offset size write => Sys2Proof.Machine.execBar0BadAccess offset size write s
  | .apertureAccess ep offset size write => Sys2Proof.Machine.execApertureAccess ep offset size write s
  | .registerWrite offset size value => Sys2Proof.Machine.execRegisterWrite offset size value s
  | .stWrite offset size value => Sys2Proof.Machine.execStWrite offset size value s
  | .arrInject value => Sys2Proof.Machine.execArrInject value s
  | .numClear value => Sys2Proof.Machine.execNumClear value s
  | .numRingTail tail => Sys2Proof.Machine.execNumRingTail tail s
  | .lchTsRingTail tail => Sys2Proof.Machine.execLchTsRingTail tail s
  | .lchSyncSignal object amount => Sys2Proof.Machine.execLchSyncSignal object amount s
  | .lchClear value => Sys2Proof.Machine.execLchClear value s
  | .intSubTail tail => Sys2Proof.Machine.execIntSubTail tail s
  | .intEvTail tail => Sys2Proof.Machine.execIntEvTail tail s
  | .hostClaim => Sys2Proof.Machine.execHostClaim s
  | .hostRelease => Sys2Proof.Machine.execHostRelease s
  | .claimTimeout => Sys2Proof.Machine.execClaimTimeout s
  | .commitRequest atSlot target => Sys2Proof.Machine.execCommitRequest atSlot target s
  | .commitAbort => Sys2Proof.Machine.execCommitAbort s
  | .crozierAck => Sys2Proof.Machine.execCrozierAck s
  | .crozierAckTimeout => Sys2Proof.Machine.execCrozierAckTimeout s
  | .cfgProgram bytes => Sys2Proof.Machine.execCfgProgram bytes s
  | .cfgProgramDone flashOk => Sys2Proof.Machine.execCfgProgramDone flashOk s
  | .safResume causes => Sys2Proof.Machine.execSafResume causes s
  | .safBistCmd kind unit => Sys2Proof.Machine.execSafBistCmd kind unit s
  | .attest tag => Sys2Proof.Machine.execAttest tag s
  | .keyLoad tag => Sys2Proof.Machine.execKeyLoad tag s
  | .erase tag => Sys2Proof.Machine.execErase tag s
  | .lifecycleToken tag => Sys2Proof.Machine.execLifecycleToken tag s
  | .raiseFloor tag => Sys2Proof.Machine.execRaiseFloor tag s
  | .storeCertificate tag => Sys2Proof.Machine.execStoreCertificate tag s
  | .secCommandReserved op tag => Sys2Proof.Machine.execSecCommandReserved op tag s
  | .secCommandOverrun => Sys2Proof.Machine.execSecCommandOverrun s
  | .irqCoalesceExpiry vector => Sys2Proof.Machine.execIrqCoalesceExpiry vector s
  | .meterBlock vin iin blockW checkW => Sys2Proof.Machine.execMeterBlock vin iin blockW checkW s
  | .envelopeHold => Sys2Proof.Machine.execEnvelopeHold s
  | .inputRange vin => Sys2Proof.Machine.execInputRange vin s
  | .setpointStep up pFullW more => Sys2Proof.Machine.execSetpointStep up pFullW more s
  | .depthChange up => Sys2Proof.Machine.execDepthChange up s
  | .minuteBoundary => Sys2Proof.Machine.execMinuteBoundary s
  | .energySigning => Sys2Proof.Machine.execEnergySigning s
  | .journalWrite => Sys2Proof.Machine.execJournalWrite s
  | .entdaa address => Sys2Proof.Machine.execEntdaa address s
  | .mctpControl request => Sys2Proof.Machine.execMctpControl request s
  | .pldm ptype sensor => Sys2Proof.Machine.execPldm ptype sensor s
  | .mctpOtherDrop mtype => Sys2Proof.Machine.execMctpOtherDrop mtype s
  | .sensorUpdate => Sys2Proof.Machine.execSensorUpdate s
  | .read offset count => Sys2Proof.Machine.execRead offset count s
  | .write offset value => Sys2Proof.Machine.execWrite offset value s
  | .claim => Sys2Proof.Machine.execClaim s
  | .releaseClaim => Sys2Proof.Machine.execReleaseClaim s
  | .overcurrentTrip both => Sys2Proof.Machine.execOvercurrentTrip both s
  | .overvoltageTrip both => Sys2Proof.Machine.execOvervoltageTrip both s
  | .railTrip => Sys2Proof.Machine.execRailTrip s
  | .coreRailUnder => Sys2Proof.Machine.execCoreRailUnder s
  | .sensorRead die sensor0 sensor1 => Sys2Proof.Machine.execSensorRead die sensor0 sensor1 s
  | .junctionHold die celsius => Sys2Proof.Machine.execJunctionHold die celsius s
  | .junctionTrip die => Sys2Proof.Machine.execJunctionTrip die s
  | .flowRead reading => Sys2Proof.Machine.execFlowRead reading s
  | .coolantFlowLow => Sys2Proof.Machine.execCoolantFlowLow s
  | .refDeviationWindow ppm => Sys2Proof.Machine.execRefDeviationWindow ppm s
  | .missingEdge mismatch => Sys2Proof.Machine.execMissingEdge mismatch s
  | .refclkLoss => Sys2Proof.Machine.execRefclkLoss s
  | .controlDisagree => Sys2Proof.Machine.execControlDisagree s
  | .selfCheckEnd pass96 pass97 recomputeEqual => Sys2Proof.Machine.execSelfCheckEnd pass96 pass97 recomputeEqual s
  | .singleControlCheck pass => Sys2Proof.Machine.execSingleControlCheck pass s
  | .heartbeat die => Sys2Proof.Machine.execHeartbeat die s
  | .watchdogExpiry => Sys2Proof.Machine.execWatchdogExpiry s
  | .dieSilent die => Sys2Proof.Machine.execDieSilent die s
  | .packageLinkError die => Sys2Proof.Machine.execPackageLinkError die s
  | .syncObjectFailed object => Sys2Proof.Machine.execSyncObjectFailed object s
  | .maintenanceStart activity kind unit => Sys2Proof.Machine.execMaintenanceStart activity kind unit s
  | .bistSliceEnd verdict => Sys2Proof.Machine.execBistSliceEnd verdict s
  | .sensorCalibration die => Sys2Proof.Machine.execSensorCalibration die s
  | .linkImpedanceCalibration port => Sys2Proof.Machine.execLinkImpedanceCalibration port s
  | .keyRotation => Sys2Proof.Machine.execKeyRotation s
  | .glitchDetector => Sys2Proof.Machine.execGlitchDetector s
  | .meshMeasure trace0 trace1 shorted => Sys2Proof.Machine.execMeshMeasure trace0 trace1 shorted s
  | .refclkReturn => Sys2Proof.Machine.execRefclkReturn s
  | .inputPowerLoss => Sys2Proof.Machine.execInputPowerLoss s
  | .keyStoreIntegrityFail => Sys2Proof.Machine.execKeyStoreIntegrityFail s

end Sys2Proof.Machine
end

