-- ==== Sys2Proof/Safety.lean ====
section
/-!
DEFINITION. What counts as a sound state and a safe run, and the terms in which the claims speak: what a command does, and what it
leaves alone.
-/

namespace Sys2Proof.Machine

/-- The count of the one-time store is legal: both copies hold the same count, of at most 13 fuses (R406). -/
def OneTime.sound (f : OneTime) : Prop := f.t = f.tCopy ∧ f.t ≤ 13

/-- The memories are in canonical form. -/
def memSound (s : State) : Prop := Memory.wf s.mem = true ∧ Memory.wf s.flash = true

/-- The outcome of a step is a next state. -/
def Completes (o : Host.Outcome State Fault Refusal) : Prop := ∃ t, o = .next t

/-- The command answers a next state, of which a property holds. -/
def Does (c : Instr) (s : State) (p : State → Prop) : Prop := ∃ t, exec c s = .next t ∧ p t

/-- The module is up: powered, out of OFF and out of reset. -/
def Up (s : State) : Prop := s.pwr.mode = .up

/-- The module is up and the host reaches it (R337, R435). -/
def HostUp (s : State) : Prop := s.pwr.mode = .up ∧ hostLink s = true

/-- Event source n of Table 12.13 is pending. -/
def Pends (n : Nat) (s : State) : Prop := (getF s F.HST_IRQ_PENDING_pending).testBit n = true

/-- A part of the state other than the registers. -/
inductive Part where
  | pending | mem | flash | plan | lch | arr | host | chn | trn | fuse | fls | maint | int | pwr | ctl | nv | sec | saf | sent | freeCtr
  deriving DecidableEq, Repr

/-- A part stands; memory is compared byte by byte. -/
def Part.stands (p : Part) (s t : State) : Prop :=
  match p with
  | .pending => t.pending = s.pending
  | .mem => ∀ a, readByte t.mem a = readByte s.mem a
  | .flash => ∀ a, readByte t.flash a = readByte s.flash a
  | .plan => t.plan = s.plan
  | .lch => t.lch = s.lch
  | .arr => t.arr = s.arr
  | .host => t.host = s.host
  | .chn => t.chn = s.chn
  | .trn => t.trn = s.trn
  | .fuse => t.fuse = s.fuse
  | .fls => t.fls = s.fls
  | .maint => t.maint = s.maint
  | .int => t.int = s.int
  | .pwr => t.pwr = s.pwr
  | .ctl => t.ctl = s.ctl
  | .nv => t.nv = s.nv
  | .sec => t.sec = s.sec
  | .saf => t.saf = s.saf
  | .sent => t.sent = s.sent
  | .freeCtr => t.freeCtr = s.freeCtr

/-- Every register stands but those at the offsets listed. -/
def RegsBut (offs : List Nat) (s t : State) : Prop := ∀ o, o ∉ offs → getReg t o = getReg s o

/-- The frame of a command: every part stands but those listed, and every register but those at the offsets listed. -/
def Only (parts : List Part) (offs : List Nat) (s t : State) : Prop := (∀ p, p ∉ parts → p.stands s t) ∧ RegsBut offs s t

/-- Every byte of both memories stands but those of the ranges listed, each an address and a length. -/
def BytesBut (rs : List (Nat × Nat)) (s t : State) : Prop :=
  ∀ a, (∀ r ∈ rs, a < r.1 ∨ r.1 + r.2 ≤ a) → readByte t.mem a = readByte s.mem a ∧ readByte t.flash a = readByte s.flash a

/-- Two byte ranges, each an address and a length, do not overlap. -/
def Apart (a n b m : Nat) : Prop := a + n ≤ b ∨ b + m ≤ a

/-- The two copies of a frond table entry, as byte ranges (R176, R179). -/
def entryBytes (s : State) (id : Nat) : List (Nat × Nat) := [(ftPrimary s id, 16), (ftMirror s id, 16)]

/-- The two copies of a frond table entry do not overlap. -/
def EntryApart (s : State) (id : Nat) : Prop := Apart (ftPrimary s id) 16 (ftMirror s id) 16

/-- The cumulative counters of the formats (R62). -/
def numRegs : List Nat := (List.range 8).flatMap fun f => (List.range 5).map (Off.NUM_CNT f)

/-- The registers and parts that an event changes (R332): the pending bits, the messages that wait, the messages sent. -/
def eventRegs : List Nat := [Off.HST_IRQ_PENDING]
def eventParts : List Part := [.host, .sent]

/-- The registers that a fault log entry changes (R402). -/
def logRegs (s : State) : List Nat :=
  [logEntry (getF s F.SAF_LOG_HEAD_head), logEntry (getF s F.SAF_LOG_HEAD_head) + 8, Off.SAF_LOG_HEAD, Off.SAF_FAULT_CNT,
   Off.SAF_STATUS, Off.HST_IRQ_PENDING]

/-- The registers and parts that a fault stop of passes changes (R104): the stop shown, the stash pointers, launches, units, arrays
and the entries of the stash that is released. -/
def stopRegs : List Nat := (List.range 16).map Off.UPD_STASH ++ [Off.ARR_STOP_STATUS, Off.ARR_STATUS, Off.HST_IRQ_PENDING]
def stopParts : List Part := [.lch, .arr, .trn, .mem, .flash, .host, .sent, .freeCtr]

/-- The registers and parts that entering HOLD changes besides (R386): the cause, the plan state, the safety event and the flag of the
energy record. -/
def holdRegs : List Nat := stopRegs ++ [Off.SAF_HOLD, Off.HST_STATUS, Off.SAF_STATUS]
def holdParts : List Part := .pwr :: stopParts

/-- The registers and parts that an alarm of class 1 or 2 changes (R419, R420): the alarm shown, its count, the lock, and a frozen set
that the lock withdraws. -/
def alarmRegs : List Nat :=
  [Off.SEC_ALARM, Off.SEC_ALARM_SLOT, Off.SEC_ALARM_CNT, Off.SEC_STATUS, Off.CTL_CROZIER, Off.CTL_CROZIER_SLOT, Off.CTL_CROZIER_CNT,
   Off.CTL_STATUS, Off.HST_IRQ_PENDING]

def alarmParts : List Part := [.sec, .ctl, .host, .sent]

/-- A SEC command has ended with a result (R423): its tag, op and state done show, and cmd_done is set. -/
def Replies (op tag result : Nat) (t : State) : Prop :=
  getReg t Off.SEC_CMD_STATUS = BitVec.ofNat 64 (tag % 2 ^ 48 + 2 ^ 48 * op + 2 ^ 52 * 2 + 2 ^ 54 * result) ∧
    hasF t F.SEC_STATUS_cmd_done = true

/-- The module answers the rack controller: it is up, its control dies have left reset, and the pair stands (R337, R373). -/
def RackUp (s : State) : Prop := s.pwr.mode = .up ∧ rackUp s = true

/-- The next descriptor of the submission ring (R291). -/
def nextDesc (s : State) : List Byte :=
  rd s (2 ^ 12 * getF s F.INT_SUB_BASE_base + 128 * (getF s F.INT_SUB_HEAD_head % 2 ^ getF s F.INT_SUB_SIZE_size)) 128

/-- HOLD cause c is pending. -/
def Holds (c : Nat) (s : State) : Prop := (getF s F.SAF_HOLD_pending).testBit c = true

/-- The commands of the supply, the pins and the always-on circuits: they act in power modes in which no other command does. -/
def alwaysOn (c : Instr) : Bool :=
  match c with
  | .pwrEnRise _ _ _ | .pwrEnFall | .inputPowerLoss | .perstNAssert | .perstNDeassert _ | .meterBlock _ _ _ _ | .overcurrentTrip _
  | .overvoltageTrip _ | .railTrip | .junctionTrip _ | .meshMeasure _ _ _ => true
  | _ => false

/-- The commands that may program the one-time store: the lifecycle token, the rollback floor, the mesh breach, and bring-up phase 1,
which compares its copies and programs the first seed (R406, R411, R418, R421). -/
def programsStore (c : Instr) : Bool :=
  match c with
  | .lifecycleToken _ | .raiseFloor _ | .meshMeasure _ _ _ | .bringupPhaseEnd _ _ => true
  | _ => false

/-- The commands that reach the module through the host link (R12, R314, R337). -/
def hostCommand (c : Instr) : Bool :=
  match c with
  | .load _ | .start _ | .stop _ | .resume _ | .endPlan _ | .commandReserved _ _ | .commandOverrun | .release _ _ | .requestTail _ _
  | .bar2InvalidWrite _ _ | .bar0BadAccess _ _ _ | .apertureAccess _ _ _ _ | .registerWrite _ _ _ | .stWrite _ _ _ | .arrInject _
  | .numClear _ | .numRingTail _ | .lchTsRingTail _ | .lchSyncSignal _ _ | .lchClear _ | .intSubTail _ | .intEvTail _ | .hostClaim
  | .hostRelease | .commitRequest _ _ | .commitAbort | .cfgProgram _ | .safResume _ | .safBistCmd _ _ | .attest _ | .keyLoad _
  | .erase _ | .lifecycleToken _ | .raiseFloor _ | .storeCertificate _ | .secCommandReserved _ _ | .secCommandOverrun => true
  | _ => false

end Sys2Proof.Machine
end

