-- ==== Sys2Proof/Certificates/Slice0/Obligations.lean ====
section
/-!
DEFINITION. The statements for the provers, by family of commands: what a command does when its condition holds, what it leaves alone,
and what every command keeps. `Does c s P` says that exec answers a next state for which P holds; `Only parts regs` says that every
other part of the state and every other register stands. Clauses that name a log entry in their docstring rest on a choice or a
reading of the model that the entry gives.
-/

open Sys2Proof Sys2Proof.Machine

/-- PWR_EN rises (R336, R388, R390) after a low of at least 1 s, or with no trip latched: with good tests the module leaves OFF into
reset; a failed test keeps it in OFF with trip code 4. PWR_EN falls, or the input power is lost (R433, R421): the module is unpowered. In
each case the volatile state is gone; the one-time store, the flash tier and the journal stand. PERST_N asserts (R340): the module that is
up enters reset and keeps only what outlives a reset; else only the pin changes. PERST_N deasserts (R336, R335, R388): the module is up
with no bring-up phase ended, the straps and the latched trip cause in their registers and every other register at its Reset value.
Model's choices and readings: log entries 1, 64, 77. -/
def Obligations.SupplyAndResetPinsMoveTheModule : Prop :=
  (∀ (s : State) (lowMs : Nat), s.pwr.pwrEn = false → (s.pwr.tripped = false ∨ 1000 ≤ lowMs) →
    Does (.pwrEnRise true true lowMs) s fun t => t.pwr.mode = .inReset ∧ t.pwr.pwrEn = true ∧ t.pwr.tripped = false ∧
      t.pwr.energy = 0 ∧ t.plan = none ∧ t.mem = [] ∧ t.fuse = s.fuse ∧ t.flash = s.flash ∧ t.nv = s.nv) ∧
  (∀ (s : State) (a b : Bool) (lowMs : Nat), s.pwr.pwrEn = false → (s.pwr.tripped = false ∨ 1000 ≤ lowMs) → (a && b) = false →
    Does (.pwrEnRise a b lowMs) s fun t => t.pwr.mode = .off ∧ t.pwr.trip = 4 ∧ t.pwr.tripped = true) ∧
  (∀ (s : State) (c : Instr), c = .pwrEnFall ∨ c = .inputPowerLoss →
    Does c s fun t => t.pwr.mode = .unpowered ∧ t.pwr.pwrEn = false ∧ t.pwr.trip = s.pwr.trip ∧ t.plan = none ∧ t.mem = [] ∧
      t.regs = State.reset.regs ∧ t.fuse = s.fuse ∧ t.flash = s.flash ∧ t.nv = s.nv) ∧
  (∀ s : State, Up s → Does .perstNAssert s fun t => t.pwr.mode = .inReset ∧ t.pwr.perstN = false ∧ t.plan = none ∧ t.mem = [] ∧
      t.regs = State.reset.regs ∧ t.pwr.phases = [] ∧ t.pwr.trip = s.pwr.trip ∧ t.fuse = s.fuse ∧ t.flash = s.flash ∧
      t.nv.copyA = s.nv.copyA ∧ t.nv.copyB = s.nv.copyB ∧ t.nv.boot = s.nv.boot) ∧
  (∀ s : State, ¬Up s → Does .perstNAssert s fun t => t = { s with pwr := { s.pwr with perstN := false } }) ∧
  (∀ (s : State) (x : Straps), s.pwr.mode = .inReset →
    Does (.perstNDeassert x) s fun t => t.pwr.mode = .up ∧ t.pwr.perstN = true ∧ t.pwr.phases = [] ∧ t.plan = none ∧
      (x.chainHead = .high → getF t F.CTL_STRAPS_chain_head = 1 ∧ getF t F.CHN_ADDR_head = 1) ∧
      (x.chainHead = .low → getF t F.CTL_STRAPS_chain_head = 0 ∧ getF t F.CHN_ADDR_head = 0) ∧
      (x.slotId = [.low, .high, .low, .low, .low, .high] → getF t F.CTL_STRAPS_slot_id = 34) ∧
      (x.feedId = [.high, .high, .low] → getF t F.CTL_STRAPS_feed_id = 3 ∧ getF t F.CHN_PARTNER_own_feed = 3) ∧
      getF t F.SAF_LAST_TRIP_code = s.pwr.trip % 64 ∧
      (∀ o, o ∉ [Off.CTL_STRAPS, Off.CHN_ADDR, Off.CHN_PARTNER, Off.SAF_LAST_TRIP] → getReg t o = getReg State.reset o) ∧
      t.fuse = s.fuse ∧ t.flash = s.flash ∧ t.nv = s.nv)

/-- METER_BLOCK (R356): a module that is up shows voltage, current, both powers and the energy since PWR_EN rise, and changes only the
metering, the governor's display and what a breach or a meter fault adds; an unpowered module and one in OFF meter nothing. INPUT_RANGE
(R358) outside 55 to 65 V and ENVELOPE_HOLD (R371) after a whole second at the floor with the average rule broken take the module into
HOLD, with cause 3 and cause 4, and set their bits of PWR_STATUS. Model's choices and readings: log entries 1, 61, 62. -/
def Obligations.SupplyIsMeteredAndLimited : Prop :=
  (∀ (s : State) (vin iin w check : Nat), Up s →
    Does (.meterBlock vin iin w check) s fun t => getF t F.PWR_INPUT_vin = vin % 2 ^ 16 ∧ getF t F.PWR_INPUT_iin = iin % 2 ^ 16 ∧
      getF t F.PWR_INPUT_check_w = check % 2 ^ 16 ∧ getF t F.PWR_DRAW_block_w = w % 2 ^ 16 ∧ t.pwr.energy = s.pwr.energy + w ∧
      getF t F.PWR_ENERGY_mj = (s.pwr.energy + w) / 10 % 2 ^ 64 ∧
      Only [.pwr, .host, .sent] ([Off.PWR_INPUT, Off.PWR_DRAW, Off.PWR_ENERGY, Off.PWR_STATUS, Off.PWR_BREACH_CNT, Off.PWR_GOV] ++ logRegs s) s t) ∧
  (∀ (s : State) (vin iin w check : Nat), s.pwr.mode = .unpowered ∨ s.pwr.mode = .off → Does (.meterBlock vin iin w check) s fun t => t = s) ∧
  (∀ (s : State) (vin : Nat), Up s → vin < 5500 ∨ 6500 < vin →
    Does (.inputRange vin) s fun t => Holds 3 t ∧ hasF t F.PWR_STATUS_input_range = true ∧
      Only holdParts (Off.PWR_STATUS :: (holdRegs ++ logRegs s)) s t) ∧
  (∀ s : State, Up s → 10000 ≤ s.pwr.floorRun → s.pwr.avgBroken = true →
    Does .envelopeHold s fun t => Holds 4 t ∧ hasF t F.PWR_STATUS_envelope_hold = true ∧
      Only holdParts (Off.PWR_STATUS :: (holdRegs ++ logRegs s)) s t)

/-- SETPOINT_STEP (R359) moves the setpoint one 5 mV step, up at depth 0 within the limit and down to the floor, no sooner than 4,883
slots after the last; DEPTH_CHANGE (R363) moves the depth by one at the floor once the cap has reached its target. Model's choices and
readings: log entry 1. -/
def Obligations.GovernorStepsTheSetpoint : Prop :=
  (∀ (s : State) (p : Nat) (more : Bool), Up s → hasF s F.HST_STATUS_device_ready = true → s.pwr.stepAt + 4883 ≤ slot s →
    getF s F.PWR_GOV_depth = 0 → getF s F.PWR_GOV_setpoint_mv + 5 ≤ voltageLimit s →
    Does (.setpointStep true p more) s fun t => getF t F.PWR_GOV_setpoint_mv = (getF s F.PWR_GOV_setpoint_mv + 5) % 2 ^ 10 ∧
      getF t F.PWR_GOV_slewing = b2n more ∧ t.pwr.stepAt = slot s ∧
      Only [.pwr, .maint] [Off.PWR_GOV, Off.PWR_STATUS, Off.ARR_ENVELOPE, Off.SAF_MAINT] s t) ∧
  (∀ (s : State) (p : Nat) (more : Bool), Up s → hasF s F.HST_STATUS_device_ready = true → s.pwr.stepAt + 4883 ≤ slot s →
    555 ≤ getF s F.PWR_GOV_setpoint_mv →
    Does (.setpointStep false p more) s fun t => getF t F.PWR_GOV_setpoint_mv = getF s F.PWR_GOV_setpoint_mv - 5 ∧
      getF t F.PWR_GOV_slewing = b2n more ∧ t.pwr.stepAt = slot s ∧
      Only [.pwr, .maint] [Off.PWR_GOV, Off.PWR_STATUS, Off.ARR_ENVELOPE, Off.SAF_MAINT] s t) ∧
  (∀ s : State, Up s → getF s F.PWR_GOV_setpoint_mv = 550 → capReached s = true → getF s F.PWR_GOV_depth < 63 →
    Does (.depthChange true) s fun t => getF t F.PWR_GOV_depth = getF s F.PWR_GOV_depth + 1 ∧ Only [.pwr] [Off.PWR_GOV, Off.PWR_STATUS] s t) ∧
  (∀ s : State, Up s → getF s F.PWR_GOV_setpoint_mv = 550 → capReached s = true → 0 < getF s F.PWR_GOV_depth →
    Does (.depthChange false) s fun t => getF t F.PWR_GOV_depth = getF s F.PWR_GOV_depth - 1 ∧ Only [.pwr] [Off.PWR_GOV, Off.PWR_STATUS] s t)

/-- MINUTE_BOUNDARY (R364, R376): the grid minute and its slot advance, the record of the minute closes and waits for the journal, and the
scheduled ceiling of the next minute is in force. ENERGY_SIGNING (R378) signs the oldest record that waits; JOURNAL_WRITE (R379) stores
every record that waits and keeps the last 2,048. Model's choices and readings: log entries 1, 66. -/
def Obligations.EnergyRecordsCloseSignAndStore : Prop :=
  (∀ s : State, Up s → hasF s F.HST_STATUS_device_ready = true → getF s F.PWR_MINUTE_SLOT_slot + 234375000 ≤ slot s →
    Does .minuteBoundary s fun t => getF t F.PWR_MINUTE_minute = (getF s F.PWR_MINUTE_minute + 1) % 2 ^ 32 ∧
      getF t F.PWR_MINUTE_SLOT_slot = (getF s F.PWR_MINUTE_SLOT_slot + 234375000) % 2 ^ 56 ∧
      getF t F.PWR_REC_HEAD_next = (getF s F.PWR_REC_HEAD_next + 1) % 2 ^ 64 ∧
      t.pwr.unstored = s.pwr.unstored ++ [getF s F.PWR_REC_HEAD_next] ∧
      t.pwr.minuteW = scheduled s (getF s F.PWR_MINUTE_minute + 1) ∧ getF t F.PWR_DRAW_ceiling_w = ceiling t % 2 ^ 16) ∧
  (∀ (s : State) (i : Nat) (rest : List Nat), Up s → s.pwr.sigWait = i :: rest → seedPresent s.fuse = true → lifecycle s ≠ 5 →
    ⟨8, 0, 0⟩ ∉ s.maint.running →
    Does .energySigning s fun t => t.pwr.sigWait = rest ∧ getF t F.PWR_SIG_HEAD_index = i % 2 ^ 64 ∧
      hasF t F.PWR_STATUS_sig_ready = true ∧ t.nv.sig = some (i, signingStatement s i ++ (Config.slhSign s.fuse.seed (signingStatement s i)).take 49856) ∧
      t.nv.records = s.nv.records ∧ t.mem = s.mem ∧ t.flash = s.flash) ∧
  (∀ s : State, Up s → s.pwr.unstored.length ≤ 2048 →
    Does .journalWrite s fun t => t.pwr.unstored = [] ∧ t.nv.records.length ≤ 2048 ∧
      (∀ i ∈ s.pwr.unstored, (i, recordBytes s i) ∈ t.nv.records) ∧ Only [.nv, .pwr] [] s t)

/-- BRINGUP_PHASE_END (R337): phases 1, 2, then 3 to 7 in any order; a phase that is not due changes nothing, and one that is due is noted
in CTL_BRINGUP. Phase 6 leaves the stack tier zeroed; phase 3 lets the host in; phase 2 shows the copy that R344 selects. BRINGUP_TIMEOUT
(R339, code 0x7): with DEVICE_READY not set by 20 s, bring-up fails and the module is held. DEVICE_READY (R338): with every phase ended
and no failure that stops bring-up, both ready bits set, and the phase and the time show. Model's choices and readings: log entries 1, 63,
65, 78. -/
def Obligations.BringupRunsToReadyOrHeld : Prop :=
  (∀ (s : State) (n : Nat) (r : PhaseReport), Up s → phaseDue s n = false → Does (.bringupPhaseEnd n r) s fun t => t = s) ∧
  (∀ (s : State) (n : Nat) (r : PhaseReport), Up s → phaseDue s n = true →
    Does (.bringupPhaseEnd n r) s fun t => getF t F.CTL_BRINGUP_phase = n) ∧
  (∀ (s : State) (r : PhaseReport), Up s → phaseDue s 6 = true → r.failCode ≠ 5 →
    Does (.bringupPhaseEnd 6 r) s fun t => phaseEnded t 6 = true ∧ (∀ a, a < stackEnd → readByte t.mem a = 0) ∧
      (∀ a, stackEnd ≤ a → readByte t.mem a = readByte s.mem a) ∧ RegsBut [Off.CTL_BRINGUP] s t ∧ t.fuse = s.fuse ∧ t.flash = s.flash) ∧
  (∀ (s : State) (r : PhaseReport), Up s → phaseDue s 3 = true → hasF s F.LCH_REF_STATUS_refclk_absent = false →
    Does (.bringupPhaseEnd 3 r) s fun t => hostLink t = true ∧ Only [.pwr] [Off.CTL_BRINGUP] s t) ∧
  (∀ (s : State) (r : PhaseReport), Up s → phaseDue s 2 = true →
    Does (.bringupPhaseEnd 2 r) s fun t => phaseEnded t 2 = true ∧ getF t F.CTL_STATUS_config_source =
      chooseCopy (imageReason s r.flashReadA s.nv.copyA) (imageReason s r.flashReadB s.nv.copyB)
        (bits (wordAt s.nv.copyA 1) 31 0) (bits (wordAt s.nv.copyB 1) 31 0) ∧ Part.mem.stands s t ∧ t.nv = s.nv) ∧
  (∀ s : State, Up s → hasF s F.CTL_STATUS_device_ready = false → hasF s F.CTL_STATUS_bringup_fail = false → s.pwr.pairBad = false →
    Does .bringupTimeout s fun t => getF t F.CTL_BRINGUP_fail = 7 ∧ hasF t F.CTL_STATUS_bringup_fail = true ∧ Holds 12 t ∧
      Only holdParts ([Off.CTL_BRINGUP, Off.CTL_STATUS] ++ holdRegs) s t) ∧
  (∀ (s : State) (ms mv p : Nat), Up s → (∀ n, n ∈ [1, 2, 3, 4, 5, 6, 7] → phaseEnded s n = true) →
    hasF s F.CTL_STATUS_bringup_fail = false → s.pwr.pairBad = false → hasF s F.CTL_STATUS_device_ready = false →
    Does (.deviceReady ms mv p) s fun t => hasF t F.CTL_STATUS_device_ready = true ∧ hasF t F.HST_STATUS_device_ready = true ∧
      getF t F.CTL_BRINGUP_phase = 8 ∧ getF t F.CTL_BRINGUP_ready_ms = ms % 2 ^ 16)

/-- CFG_PROGRAM (R346), with no request in progress, not in DECOMMISSIONED and not for the selected copy: an image in the stack tier that
passes the checks of Table 13.5 is being programmed into an erased target; one that fails leaves result 2 and its reason. CFG_PROGRAM_DONE
(R346): a flash error is result 5; a read-back that passes puts the copy in place with result 1. Model's choices and readings: log entries
1, 42, 80. -/
def Obligations.ConfigurationCopiesAreProgrammed : Prop :=
  (∀ (s : State) (n : Nat), HostUp s → n ≤ 16777216 → s.ctl.prog = none → lifecycle s ≠ 5 →
    getF s F.CTL_STATUS_config_source ≠ (if hasF s F.CTL_CFG_PROG_copy then 2 else 1) →
    inStackTier (4096 * getF s F.CTL_CFG_PROG_addr) n = true →
    Does (.cfgProgram n) s fun t =>
      let bs := rd s (4096 * getF s F.CTL_CFG_PROG_addr) n
      (imageReason s true bs = 0 → t.ctl.prog = some ⟨hasF s F.CTL_CFG_PROG_copy, bs⟩ ∧ getReg t Off.CTL_CFG_STATUS = 2 ∧
        (if hasF s F.CTL_CFG_PROG_copy then t.nv.copyB = [] else t.nv.copyA = [])) ∧
      (imageReason s true bs ≠ 0 → t.ctl.prog = none ∧ getF t F.CTL_CFG_STATUS_result = 2 ∧
        getF t F.CTL_CFG_STATUS_reason = imageReason s true bs ∧ hasF t F.CTL_STATUS_cfg_fail = true ∧
        t.nv.copyA = s.nv.copyA ∧ t.nv.copyB = s.nv.copyB)) ∧
  (∀ (s : State) (j : CfgJob), Up s → s.ctl.prog = some j →
    Does (.cfgProgramDone false) s fun t => t.ctl.prog = none ∧ getF t F.CTL_CFG_STATUS_state = 0 ∧ getF t F.CTL_CFG_STATUS_result = 5 ∧
      hasF t F.CTL_STATUS_cfg_fail = true ∧ t.nv = s.nv) ∧
  (∀ (s : State) (j : CfgJob), Up s → s.ctl.prog = some j →
    Does (.cfgProgramDone true) s fun t => t.ctl.prog = none ∧ getF t F.CTL_CFG_STATUS_done_bytes = j.bytes.length % 2 ^ 25 ∧
      (if j.copyB then t.nv.copyB = j.bytes else t.nv.copyA = j.bytes) ∧
      (imageReason s true j.bytes = 0 → getF t F.CTL_CFG_STATUS_result = 1 ∧ hasF t F.CTL_STATUS_cfg_done = true) ∧
      (imageReason s true j.bytes ≠ 0 → getF t F.CTL_CFG_STATUS_result = 2 ∧ hasF t F.CTL_STATUS_cfg_fail = true))

/-- LOAD (R321, R337) in state EMPTY with no command pending: a load that is not permitted fails with code 0xC; one that comes before the
module is ready stays pending in LOADING; else the load itself decides between LOADED and EMPTY with its failure in HST_PLAN_FAIL. END
(R321) in LOADED, STOPPED, HELD or ENDED: with no step in flight the plan is gone, its registers show EMPTY and the plan-bound HOLD causes
5 and 6 are cleared; with one in flight the command stays pending. Model's choices and readings: log entries 24, 55. -/
def Obligations.PlansAreLoadedAndRemoved : Prop :=
  (∀ (s : State) (tag : Nat), HostUp s → s.host.cmd = none → planState s = .empty →
    let v := setPlanState s .loading
    Does (.load tag) s fun t => getF t F.HST_CMD_STATUS_tag = tag % 2 ^ 48 ∧ getF t F.HST_CMD_STATUS_command = 1 ∧
      (loadPermitted v = false → planState t = .empty ∧ getF t F.HST_CMD_STATUS_result = 3 ∧ getF t F.HST_PLAN_FAIL_code = 0xC ∧
        t.host.cmd = none ∧ Pends 0 t ∧
        Only eventParts [Off.HST_STATUS, Off.HST_CMD_STATUS, Off.HST_PLAN_FAIL, Off.HST_IRQ_PENDING] s t) ∧
      (loadPermitted v = true → loadReady v = false → planState t = .loading ∧ getF t F.HST_CMD_STATUS_result = 0 ∧ t.host.cmd = some 1 ∧
        Only eventParts [Off.HST_STATUS, Off.HST_CMD_STATUS, Off.HST_IRQ_PENDING] s t) ∧
      (loadPermitted v = true → loadReady v = true → (∀ u, loadImage v = .ok u → planState t = .loaded ∧
        getF t F.HST_CMD_STATUS_result = 1 ∧ getF t F.HST_PLAN_FAIL_code = 0 ∧ t.host.cmd = none)) ∧
      (loadPermitted v = true → loadReady v = true → (∀ e, loadImage v = .error e → planState t = .empty ∧
        getF t F.HST_CMD_STATUS_result = 3 ∧ getF t F.HST_PLAN_FAIL_code = e.1.code % 16 ∧ t.host.cmd = none))) ∧
  (∀ (s : State) (tag : Nat), HostUp s → s.host.cmd = none → planState s ∈ [.loaded, .stopped, .held, .ended] → stepsInFlight s = false →
    Does (.endPlan tag) s fun t => t.plan = none ∧ planState t = .empty ∧ stopInForce t = false ∧ getF t F.HST_CMD_STATUS_result = 1 ∧
      getF t F.HST_CMD_STATUS_command = 5 ∧ getF t F.HST_CMD_STATUS_tag = tag % 2 ^ 48 ∧ ¬Holds 5 t ∧ ¬Holds 6 t ∧ t.host.cmd = none ∧
      (∀ p, p ∉ [.mem, .flash, .plan, .lch, .arr, .host, .chn, .trn, .maint, .int, .sent] → Part.stands p s t)) ∧
  (∀ (s : State) (tag : Nat), HostUp s → s.host.cmd = none → planState s ∈ [.loaded, .stopped, .held, .ended] → stepsInFlight s = true →
    Does (.endPlan tag) s fun t => t.host.cmd = some 5 ∧ getF t F.HST_CMD_STATUS_result = 0 ∧ getF t F.HST_CMD_STATUS_command = 5 ∧
      Only [.host] [Off.HST_CMD_STATUS] s t)

/-- START, STOP and RESUME (R321): with no command pending and in the state that accepts it, each moves the plan state, reports result 1
with its tag, and STOP and RESUME set and clear stop_in_force. A START while a HOLD cause is pending goes to HELD. COMMAND_RESERVED (R321)
is refused with result 2, COMMAND_OVERRUN (R322) sets cmd_overrun; neither changes anything else, and a command that its plan state does
not accept is refused with result 2. Model's choices and readings: log entries 1, 56, 58. -/
def Obligations.CommandsMoveThePlanOrAreRefused : Prop :=
  (∀ (s : State) (tag : Nat), HostUp s → s.host.cmd = none → planState s = .loaded →
    Does (.start tag) s fun t => planState t = (if inHold s then .held else .running) ∧ getF t F.HST_CMD_STATUS_result = 1 ∧
      getF t F.HST_CMD_STATUS_command = 2 ∧ getF t F.HST_CMD_STATUS_tag = tag % 2 ^ 48 ∧ t.lch.base = slot s + 17 ∧ Pends 0 t ∧
      Only (.lch :: eventParts) [Off.HST_STATUS, Off.HST_CMD_STATUS, Off.HST_IRQ_PENDING] s t) ∧
  (∀ (s : State) (tag : Nat), HostUp s → s.host.cmd = none → planState s = .running →
    Does (.stop tag) s fun t => planState t = .stopped ∧ stopInForce t = true ∧ getF t F.HST_CMD_STATUS_result = 1 ∧
      getF t F.HST_CMD_STATUS_command = 3 ∧ getF t F.HST_CMD_STATUS_tag = tag % 2 ^ 48 ∧ t.lch.stopFrom = slot s ∧
      Only stopParts (Off.HST_STATUS :: Off.HST_CMD_STATUS :: stopRegs) s t) ∧
  (∀ (s : State) (tag : Nat), HostUp s → s.host.cmd = none → planState s = .stopped →
    Does (.resume tag) s fun t => planState t = .running ∧ stopInForce t = false ∧ getF t F.HST_CMD_STATUS_result = 1 ∧
      getF t F.HST_CMD_STATUS_command = 4 ∧ getF t F.HST_CMD_STATUS_tag = tag % 2 ^ 48 ∧
      (∀ p, p ∉ [.trn, .lch, .host, .sent, .flash, .mem] → Part.stands p s t)) ∧
  (∀ (s : State) (code tag : Nat), HostUp s → s.host.cmd = none → code % 16 = 0 ∨ 5 < code % 16 →
    Does (.commandReserved code tag) s fun t => getF t F.HST_CMD_STATUS_result = 2 ∧ getF t F.HST_CMD_STATUS_command = code % 16 ∧
      getF t F.HST_CMD_STATUS_tag = tag % 2 ^ 48 ∧ Pends 0 t ∧ Only eventParts [Off.HST_CMD_STATUS, Off.HST_IRQ_PENDING] s t) ∧
  (∀ s : State, HostUp s →
    Does .commandOverrun s fun t => hasF t F.HST_ERR_STATUS_cmd_overrun = true ∧ Pends 3 t ∧
      Only eventParts [Off.HST_ERR_STATUS, Off.HST_IRQ_PENDING] s t) ∧
  (∀ (s : State) (tag : Nat), HostUp s → s.host.cmd = none → planState s ≠ .loaded →
    Does (.start tag) s fun t => getF t F.HST_CMD_STATUS_result = 2 ∧ planState t = planState s ∧
      Only eventParts [Off.HST_CMD_STATUS, Off.HST_IRQ_PENDING] s t)

/-- RELEASE (R330) of a READY slot with its sequence number clears READY and zeroes the slot, when no step report waits for it; any other
release only sets release_error. REQUEST_TAIL (R324): a tail of a queue of the plan that neither moves back nor passes the ring takes
effect; one that does sets req_tail_error and is dropped; a queue that the plan does not define sets doorbell_error with a record. Model's
choices and readings: log entry 1. -/
def Obligations.ResultSlotsAndRequestTails : Prop :=
  (∀ (s : State) (k seq : Nat), HostUp s → k < 2048 → slotReady s k = true → leNat (rd s (resultAddr k) 6) = seq → s.host.reports = [] →
    Does (.release k seq) s fun t => slotReady t k = false ∧
      (∀ a, readByte t.mem a = if resultAddr k ≤ a ∧ a < resultAddr k + 4096 then 0 else readByte s.mem a) ∧
      (∀ j, j < 2048 → j ≠ k → slotReady t j = slotReady s j) ∧ Only [.mem] [Off.HST_RESULT_READY (k / 64)] s t) ∧
  (∀ (s : State) (k seq : Nat), HostUp s → (2048 ≤ k ∨ slotReady s k = false ∨ leNat (rd s (resultAddr k) 6) ≠ seq) →
    Does (.release k seq) s fun t => hasF t F.HST_ERR_STATUS_release_error = true ∧ Pends 3 t ∧
      Only eventParts [Off.HST_ERR_STATUS, Off.HST_IRQ_PENDING] s t) ∧
  (∀ (s : State) (q t0 : Nat) (b : BatchQueue), HostUp s → q < 256 → queueDesc s q = some b →
    (t0 % 2 ^ 32 + 2 ^ 32 - getF s (F.HST_REQ_HEAD_head q)) % 2 ^ 32 ≤ 2 ^ b.ringSize →
    (getF s (F.HST_REQ_HEAD_tail q) + 2 ^ 32 - getF s (F.HST_REQ_HEAD_head q)) % 2 ^ 32
      ≤ (t0 % 2 ^ 32 + 2 ^ 32 - getF s (F.HST_REQ_HEAD_head q)) % 2 ^ 32 →
    Does (.requestTail q t0) s fun t => getF t (F.HST_REQ_HEAD_tail q) = t0 % 2 ^ 32 ∧
      getF t (F.HST_REQ_HEAD_head q) = getF s (F.HST_REQ_HEAD_head q) ∧ Only [] [Off.HST_REQ_HEAD q] s t) ∧
  (∀ (s : State) (q t0 : Nat) (b : BatchQueue), HostUp s → queueDesc s q = some b →
    2 ^ b.ringSize < (t0 % 2 ^ 32 + 2 ^ 32 - getF s (F.HST_REQ_HEAD_head q)) % 2 ^ 32 →
    Does (.requestTail q t0) s fun t => hasF t F.HST_ERR_STATUS_req_tail_error = true ∧ Pends 3 t ∧
      Only eventParts [Off.HST_ERR_STATUS, Off.HST_IRQ_PENDING] s t) ∧
  (∀ (s : State) (q t0 : Nat), HostUp s → queueDesc s q = none →
    Does (.requestTail q t0) s fun t => hasF t F.HST_ERR_STATUS_doorbell_error = true ∧ Pends 3 t ∧
      Only eventParts [Off.HST_ERR_STATUS, Off.HST_ACCESS_ERR, Off.HST_IRQ_PENDING] s t)

/-- BAR2_INVALID_WRITE (R316), BAR0_BAD_ACCESS (R14, R15) and an APERTURE_ACCESS beyond the stack tier or in the result area (R314) are
discarded, a read returning zeros, with the error bit and a record; an aperture access that is good reads or writes the tier. An
APERTURE_ACCESS (R314) that stays in the stack tier below the result area writes exactly its bytes, or reads them. Model's choices and
readings: log entry 59. -/
def Obligations.HostAccessesReachOrAreDiscarded : Prop :=
  (∀ (s : State) (off size : Nat), HostUp s → (isDoorbell off && size == 8) = false →
    Does (.bar2InvalidWrite off size) s fun t => hasF t F.HST_ERR_STATUS_doorbell_error = true ∧ Pends 3 t ∧
      getF t F.HST_ACCESS_ERR_bar = 1 ∧ getF t F.HST_ACCESS_ERR_offset = off % 2 ^ 41 ∧
      Only eventParts [Off.HST_ERR_STATUS, Off.HST_ACCESS_ERR, Off.HST_IRQ_PENDING] s t) ∧
  (∀ (s : State) (off size : Nat), HostUp s → bar0Ok off size (holdsWo off) = false →
    Does (.bar0BadAccess off size true) s fun t => hasF t F.HST_ERR_STATUS_access_error = true ∧ Pends 3 t ∧
      getF t F.HST_ACCESS_ERR_offset = off % 2 ^ 41 ∧
      Only eventParts [Off.HST_ERR_STATUS, Off.HST_ACCESS_ERR, Off.HST_IRQ_PENDING] s t) ∧
  (∀ (s : State) (off size : Nat), HostUp s → bar0Ok off size false = false →
    Does (.bar0BadAccess off size false) s fun t => hasF t F.HST_ERR_STATUS_access_error = true ∧
      t.sent.head? = some (.hostRead (List.replicate size 0)) ∧
      Only eventParts [Off.HST_ERR_STATUS, Off.HST_ACCESS_ERR, Off.HST_IRQ_PENDING] s t) ∧
  (∀ (s : State) (off size : Nat) (w : Option (List Byte)), HostUp s →
    (stackEnd < apertureAddr s .a off + size ∨ touchesResults (apertureAddr s .a off) size = true) →
    Does (.apertureAccess .a off size w) s fun t => hasF t F.HST_ERR_STATUS_aperture_error = true ∧
      (w = none → t.sent.head? = some (.hostRead (List.replicate size 0))) ∧
      Only eventParts [Off.HST_ERR_STATUS, Off.HST_ACCESS_ERR, Off.HST_IRQ_PENDING] s t) ∧
  (∀ (s : State) (off size : Nat) (bs : List Byte), HostUp s → apertureAddr s .a off + size ≤ stackEnd →
    touchesResults (apertureAddr s .a off) size = false → bs.length = size →
    Does (.apertureAccess .a off size (some bs)) s fun t =>
      (∀ a, readByte t.mem a = if apertureAddr s .a off ≤ a ∧ a < apertureAddr s .a off + size then bs.getD (a - apertureAddr s .a off) 0
        else readByte s.mem a) ∧ Only [.mem] [] s t) ∧
  (∀ (s : State) (off size : Nat), HostUp s → apertureAddr s .a off + size ≤ stackEnd → touchesResults (apertureAddr s .a off) size = false →
    Does (.apertureAccess .a off size none) s fun t => t.sent = .hostRead (readBytes s.mem (apertureAddr s .a off) size) :: s.sent ∧
      Only [.sent] [] s t) ∧
  (∀ (s : State) (off size : Nat) (w : Option (List Byte)), HostUp s → getF s F.HST_STATUS_pcie_mode = 0 →
    Does (.apertureAccess .b off size w) s fun t => t = s)

/-- REGISTER_WRITE (R17) of a register without rows of its own: RW bits take the value, W1C bits written 1 clear, and every other bit and
register stands. ST_WRITE (R348): the claim holder stages a value, which reads back and leaves the value in effect; without the claim it
is discarded and stage_refused sets. HOST_CLAIM, HOST_RELEASE and CLAIM_TIMEOUT (R348): a free claim passes to the host, a claim that
another source holds stands; the host's claim ends by its release, any claim ends 1 s after its holder's last write, and the values staged
since the last freeze go with it. Model's choices and readings: log entries 1, 89. -/
def Obligations.RegistersAreWrittenStagedAndClaimed : Prop :=
  (∀ (s : State) (off : Nat) (v : Word) (r : RegRow), HostUp s → off % 8 = 0 → rowAt off = some r → ownRow off = false →
    off ≠ Off.CTL_COMMIT → off ≠ Off.CTL_CFG_LEN →
    Does (.registerWrite off 8 v) s fun t =>
      (∀ i, i < 64 → bit (getReg t off) i =
        (if bit (accMask r .w1c) i && bit v i then false else if bit (accMask r .rw) i then bit v i else bit (getReg s off) i)) ∧
      Only [] [off] s t) ∧
  (∀ (s : State) (off size : Nat) (v : Word), HostUp s → bar0Ok off size (holdsWo off) = false →
    Does (.registerWrite off size v) s fun t => hasF t F.HST_ERR_STATUS_access_error = true ∧
      Only eventParts [Off.HST_ERR_STATUS, Off.HST_ACCESS_ERR, Off.HST_IRQ_PENDING] s t) ∧
  (∀ (s : State) (off : Nat) (v : Word) (r : RegRow), HostUp s → off % 8 = 0 → rowAt off = some r → r.isStaged = true →
    mayStage s 1 = true →
    Does (.stWrite off 8 v) s fun t => stagedWord t off = (stagedWord s off &&& ~~~(accMask r .st)) ||| (v &&& accMask r .st) ∧
      t.ctl.wroteAt = slot s ∧ t.regs = s.regs ∧ Only [.ctl] [] s t) ∧
  (∀ (s : State) (off : Nat) (v : Word) (r : RegRow), HostUp s → off % 8 = 0 → rowAt off = some r → r.isStaged = true →
    mayStage s 1 = false →
    Does (.stWrite off 8 v) s fun t => hasF t F.CTL_STATUS_stage_refused = true ∧ Only [] [Off.CTL_STATUS] s t) ∧
  (∀ s : State, HostUp s → getF s F.CTL_CLAIM_owner = 0 →
    Does .hostClaim s fun t => getF t F.CTL_CLAIM_owner = 1 ∧ hasF t F.CTL_CLAIM_host_claim = true ∧ t.ctl.wroteAt = slot s ∧
      Only [.ctl] [Off.CTL_CLAIM] s t) ∧
  (∀ s : State, HostUp s → getF s F.CTL_CLAIM_owner ≠ 0 → Does .hostClaim s fun t => t = s) ∧
  (∀ s : State, HostUp s → getF s F.CTL_CLAIM_owner = 1 →
    Does .hostRelease s fun t => getF t F.CTL_CLAIM_owner = 0 ∧ t.ctl.staged = [] ∧ t.ctl.frozen = s.ctl.frozen ∧
      Only [.ctl] [Off.CTL_CLAIM] s t) ∧
  (∀ s : State, Up s → getF s F.CTL_CLAIM_owner ≠ 0 → s.ctl.wroteAt + 3906250 ≤ slot s →
    Does .claimTimeout s fun t => getF t F.CTL_CLAIM_owner = 0 ∧ t.ctl.staged = [] ∧ t.ctl.frozen = s.ctl.frozen ∧
      Only [.ctl] [Off.CTL_CLAIM] s t) ∧
  (∀ s : State, Up s → slot s < s.ctl.wroteAt + 3906250 → Does .claimTimeout s fun t => t = s)

/-- COMMIT_REQUEST (R349 to R351) of the claim holder: with no set frozen, the staged values freeze and are checked, and a set that passes
is distributed while one that fails is discarded with its result; with one frozen, commit_busy sets. CROZIER_ACK (R352) fixes slot c,
b_ack + 4 or the target; CROZIER_ACK_TIMEOUT discards a set whose c is not fixed, with result 7; CROZIER_COMMIT at c puts the values of
the set into effect, each changed register at its frozen value. Model's choices and readings: log entry 11. -/
def Obligations.CroziersFreezeAndCommit : Prop :=
  (∀ (s : State) (atSlot : Bool) (target : Nat), HostUp s → mayStage s 1 = true → s.ctl.frozen = none →
    let z : Crozier := ⟨s.ctl.staged, atSlot, target % 2 ^ 56, slot s + 2, changedMask (changedOffs s s.ctl.staged), none⟩
    Does (.commitRequest atSlot target) s fun t => t.ctl.staged = [] ∧
      ((checkSet s z).1 = 0 → t.ctl.frozen = some z ∧ getF t F.CTL_CROZIER_state = 1 ∧ Only [.ctl] [Off.CTL_CROZIER] s t) ∧
      ((checkSet s z).1 ≠ 0 → t.ctl.frozen = none ∧ getF t F.CTL_CROZIER_result = (checkSet s z).1 ∧
        hasF t F.CTL_STATUS_crozier_discarded = true)) ∧
  (∀ (s : State) (atSlot : Bool) (target : Nat), HostUp s → mayStage s 1 = true → s.ctl.frozen.isSome = true →
    Does (.commitRequest atSlot target) s fun t => hasF t F.CTL_STATUS_commit_busy = true ∧ t.ctl.frozen = s.ctl.frozen) ∧
  (∀ (s : State) (z : Crozier), Up s → s.ctl.frozen = some z → z.commit = none → z.atSlot = false →
    Does .crozierAck s fun t => t.ctl.frozen = some { z with commit := some (slot s + 6) } ∧ getF t F.CTL_CROZIER_state = 2 ∧
      getF t F.CTL_CROZIER_SLOT_slot = (slot s + 6) % 2 ^ 56 ∧ Only [.ctl] [Off.CTL_CROZIER, Off.CTL_CROZIER_SLOT] s t) ∧
  (∀ (s : State) (z : Crozier), Up s → s.ctl.frozen = some z → z.commit = none → z.atSlot = true → slot s + 6 ≤ z.target →
    Does .crozierAck s fun t => t.ctl.frozen = some { z with commit := some z.target } ∧ getF t F.CTL_CROZIER_state = 2) ∧
  (∀ (s : State) (z : Crozier), Up s → s.ctl.frozen = some z → z.commit = none → z.atSlot = true → z.target < slot s + 6 →
    Does .crozierAck s fun t => t.ctl.frozen = none ∧ getF t F.CTL_CROZIER_result = 3) ∧
  (∀ (s : State) (z : Crozier), Up s → s.ctl.frozen = some z → z.commit = none →
    Does .crozierAckTimeout s fun t => t.ctl.frozen = none ∧ getF t F.CTL_CROZIER_result = 7 ∧
      hasF t F.CTL_STATUS_crozier_discarded = true ∧
      Only [.ctl, .host, .sent] [Off.CTL_CROZIER, Off.CTL_CROZIER_SLOT, Off.CTL_CROZIER_CNT, Off.CTL_STATUS, Off.HST_IRQ_PENDING] s t) ∧
  (∀ (s : State) (z : Crozier) (c : Nat), Up s → s.ctl.frozen = some z → z.commit = some c → c ≤ slot s + 1 →
    Does .crozierCommit s fun t => t.ctl.frozen = none ∧ t.ctl.lastC = c ∧ hasF t F.CTL_STATUS_crozier_done = true ∧
      getF t F.CTL_CROZIER_SLOT_slot = c % 2 ^ 56 ∧ getF t F.CTL_CROZIER_state = 0 ∧
      (∀ o w, o ∈ [Off.PWR_THROTTLE, Off.PWR_SCHED_CTL, Off.MEM_SCRUB, Off.UPD_DIGEST, Off.SAF_POLICY, Off.NUM_SELECT] →
        FMap.get none z.values o = some w → getReg t o = w))

/-- COMMIT_ABORT and a WRITE of op 2 to CTL_COMMIT (R353): where c is not set, or the effect boundary of the write lies before c, the set
is discarded with result 5; otherwise abort_late sets and the set stands as it was. -/
def Obligations.AbortWithdrawsASetBeforeItsSlot : Prop :=
  (∀ (s : State) (z : Crozier), HostUp s → mayStage s 1 = true → s.ctl.frozen = some z → z.commit = none →
    Does .commitAbort s fun t => t.ctl.frozen = none ∧ getF t F.CTL_CROZIER_result = 5 ∧ hasF t F.CTL_STATUS_crozier_discarded = true ∧
      Only [.ctl, .host, .sent] [Off.CTL_CROZIER, Off.CTL_CROZIER_SLOT, Off.CTL_CROZIER_CNT, Off.CTL_STATUS, Off.HST_IRQ_PENDING] s t) ∧
  (∀ (s : State) (z : Crozier) (c : Nat), HostUp s → mayStage s 1 = true → s.ctl.frozen = some z → z.commit = some c → slot s + 2 < c →
    Does .commitAbort s fun t => t.ctl.frozen = none ∧ getF t F.CTL_CROZIER_result = 5 ∧ hasF t F.CTL_STATUS_crozier_discarded = true ∧
      Only [.ctl, .host, .sent] [Off.CTL_CROZIER, Off.CTL_CROZIER_SLOT, Off.CTL_CROZIER_CNT, Off.CTL_STATUS, Off.HST_IRQ_PENDING] s t) ∧
  (∀ (s : State) (z : Crozier) (c : Nat), HostUp s → mayStage s 1 = true → s.ctl.frozen = some z → z.commit = some c → c ≤ slot s + 2 →
    Does .commitAbort s fun t => t.ctl.frozen = some z ∧ t.ctl.staged = s.ctl.staged ∧ hasF t F.CTL_STATUS_abort_late = true ∧
      Only [.ctl] [Off.CTL_STATUS] s t) ∧
  (∀ (s : State) (v : Word) (z : Crozier) (c : Nat), RackUp s → bits v 1 0 = 2 → mayStage s 2 = true → s.ctl.frozen = some z →
    z.commit = none ∨ (z.commit = some c ∧ slot s + 2 < c) →
    Does (.write Off.CTL_COMMIT v) s fun t => t.ctl.frozen = none ∧ getF t F.CTL_CROZIER_result = 5) ∧
  (∀ (s : State) (v : Word) (z : Crozier) (c : Nat), RackUp s → bits v 1 0 = 2 → mayStage s 2 = true → s.ctl.frozen = some z →
    z.commit = some c → c ≤ slot s + 2 →
    Does (.write Off.CTL_COMMIT v) s fun t => t.ctl.frozen = some z ∧ hasF t F.CTL_STATUS_abort_late = true)

/-- NUM_RING_TAIL (R69): a tail further from the old tail than the head is, counted modulo 2^32, leaves the old tail and sets tail_error;
another takes effect. -/
def Obligations.NumericRingTailIsKeptBehindTheHead : Prop :=
  (∀ (s : State) (t0 : Nat), HostUp s →
    (t0 % 2 ^ 32 + 2 ^ 32 - getF s F.NUM_RING_TAIL_tail) % 2 ^ 32 ≤ (getF s F.NUM_RING_HEAD_head + 2 ^ 32 - getF s F.NUM_RING_TAIL_tail) % 2 ^ 32 →
    Does (.numRingTail t0) s fun t => getF t F.NUM_RING_TAIL_tail = t0 % 2 ^ 32 ∧
      Only [] [Off.NUM_RING_TAIL, Off.NUM_STATUS, Off.LCH_STATUS] s t) ∧
  (∀ (s : State) (t0 : Nat), HostUp s →
    (getF s F.NUM_RING_HEAD_head + 2 ^ 32 - getF s F.NUM_RING_TAIL_tail) % 2 ^ 32 < (t0 % 2 ^ 32 + 2 ^ 32 - getF s F.NUM_RING_TAIL_tail) % 2 ^ 32 →
    Does (.numRingTail t0) s fun t => hasF t F.NUM_STATUS_tail_error = true ∧ Only [] [Off.NUM_STATUS] s t)

/-- LCH_SYNC_SIGNAL (R149): for an object whose host flag is set, the signal is on its way to the effect boundary of the write; for any
other object the write is discarded and host_signal_refused sets. -/
def Obligations.HostSignalsNeedTheHostFlag : Prop :=
  (∀ (s : State) (o : Nat) (v : Word), HostUp s → o < 8192 → (syncFlags s o).host = true →
    Does (.lchSyncSignal o v) s fun t => t.lch.signals = s.lch.signals ++ [⟨slot s + 2, o, v.toNat % 2 ^ 48⟩] ∧ Only [.lch] [] s t) ∧
  (∀ (s : State) (o : Nat) (v : Word), HostUp s → o < 8192 → (syncFlags s o).host = false →
    Does (.lchSyncSignal o v) s fun t => hasF t F.LCH_STATUS_host_signal_refused = true ∧ Only [] [Off.LCH_STATUS] s t)

/-- LCH_TS_RING_TAIL, INT_EV_TAIL and INT_SUB_TAIL (R143, R291, R305): a tail that does not pass the head takes effect. NUM_CLEAR and
LCH_CLEAR (R68, R155) wait for the next boundary; ARR_INJECT (R109) acts in MANUFACTURE, FIELD-DEBUG and RETURN only; IRQ_COALESCE_EXPIRY
(R332) sends a message that waits. Model's choices and readings: log entry 10. -/
def Obligations.SmallHostWritesAct : Prop :=
  (∀ (s : State) (t0 : Nat), HostUp s →
    (t0 % 2 ^ 32 + 2 ^ 32 - getF s F.LCH_TS_RING_TAIL_tail) % 2 ^ 32
      ≤ (getF s F.LCH_TS_RING_HEAD_head + 2 ^ 32 - getF s F.LCH_TS_RING_TAIL_tail) % 2 ^ 32 →
    Does (.lchTsRingTail t0) s fun t => getF t F.LCH_TS_RING_TAIL_tail = t0 % 2 ^ 32 ∧
      Only [] [Off.LCH_TS_RING_TAIL, Off.NUM_STATUS, Off.LCH_STATUS] s t) ∧
  (∀ (s : State) (t0 : Nat), HostUp s →
    (t0 % 2 ^ 32 + 2 ^ 32 - getF s F.INT_EV_TAIL_tail) % 2 ^ 32 ≤ (getF s F.INT_EV_HEAD_head + 2 ^ 32 - getF s F.INT_EV_TAIL_tail) % 2 ^ 32 →
    Does (.intEvTail t0) s fun t => getF t F.INT_EV_TAIL_tail = t0 % 2 ^ 32 ∧ Only [] [Off.INT_EV_TAIL, Off.INT_STATUS] s t) ∧
  (∀ (s : State) (t0 : Nat), HostUp s → getF s F.INT_SUB_SIZE_size ≠ 0 →
    (t0 % 2 ^ 32 + 2 ^ 32 - getF s F.INT_SUB_HEAD_head) % 2 ^ 32 ≤ 2 ^ getF s F.INT_SUB_SIZE_size →
    (getF s F.INT_SUB_TAIL_tail % 2 ^ 32 + 2 ^ 32 - getF s F.INT_SUB_HEAD_head) % 2 ^ 32
      ≤ (t0 % 2 ^ 32 + 2 ^ 32 - getF s F.INT_SUB_HEAD_head) % 2 ^ 32 →
    Does (.intSubTail t0) s fun t => getF t F.INT_SUB_TAIL_tail = t0 % 2 ^ 32 ∧ Only [] [Off.INT_SUB_TAIL] s t) ∧
  (∀ (s : State) (v : Word), HostUp s → bit v 0 = true →
    Does (.numClear v) s fun t => t.lch.numClear = true ∧ Only [.lch] [] s t) ∧
  (∀ (s : State) (v : Word), HostUp s → bit v 0 = true →
    Does (.lchClear v) s fun t => t.lch.clearReq = true ∧ Only [.lch] [] s t) ∧
  (∀ (s : State) (v : Word), HostUp s → getF s F.SEC_LIFECYCLE_state ∈ [0, 3, 4] →
    Does (.arrInject v) s fun t => (arrayOf t (bits v 8 0)).inject = some (bit v 9) ∧
      (∀ a, a ≠ bits v 8 0 → arrayOf t a = arrayOf s a) ∧ Only [.arr] [] s t) ∧
  (∀ (s : State) (v : Word), HostUp s → getF s F.SEC_LIFECYCLE_state ∉ [0, 3, 4] →
    Does (.arrInject v) s fun t => hasF t F.ARR_STATUS_inject_refused = true ∧ Only [] [Off.ARR_STATUS] s t) ∧
  (∀ (s : State) (v : Nat), Up s → FMap.get false s.host.irqWait v = true →
    Does (.irqCoalesceExpiry v) s fun t => t.sent = .msix v :: s.sent ∧ FMap.get false t.host.irqWait v = false ∧
      FMap.get false t.host.irqOpen v = true ∧ Only eventParts [] s t) ∧
  (∀ (s : State) (v : Nat), Up s → FMap.get false s.host.irqWait v = false →
    Does (.irqCoalesceExpiry v) s fun t => FMap.get false t.host.irqOpen v = false ∧ Only [.host] [] s t)

/-- SLOT_BOUNDARY (R132, R139, R363, R94, R155): the slot counter moves on by one, the governor's choice for the new slot is taken, the
issue cap moves by one ramp step towards its target, a clear that was asked for is done, and only counters, levels and the flash credit
change besides. ANCHOR_SET (R138): an anchor that is due, other than the first of an iteration, and at which no layer decides its stash,
is set at the present boundary, shown in its registers, and the next one planned from it. Model's choices and readings: log entries 10,
20, 91. -/
def Obligations.SlotsAdvanceAndAnchorsAreSet : Prop :=
  (∀ s : State, Up s → phaseEnded s 4 = true → s.host.cmd = none → slot s + 1 < 2 ^ 56 →
    Does .slotBoundary s fun t => slot t = slot s + 1 ∧
      t.lch.skipped = decide ((slot s + 2) * getF s F.PWR_GOV_depth / 64 > (slot s + 1) * getF s F.PWR_GOV_depth / 64) ∧
      t.lch.clearReq = false ∧ t.lch.numClear = false ∧
      (s.lch.clearReq = true → getF t F.LCH_SLIP_MAX_slip = 0 ∧ getF t F.LCH_SLIP_TOTAL_count = 0) ∧
      Only [.lch, .arr, .fls, .pwr] ([Off.LCH_SLOT, Off.LCH_SLIP_TOTAL, Off.LCH_SLIP_MAX, Off.LCH_ANCHOR_SLIP, Off.LCH_IMPORT_DROP, Off.NUM_STATUS,
        Off.PWR_GOV, Off.FLS_CREDIT, Off.FLS_CREDIT_WAIT, Off.UPD_SWEEP_WAIT, Off.UPD_PENDING_STALL] ++ (List.range 8).map Off.LCH_SLIP_CAUSE
        ++ numRegs) s t) ∧
  (∀ s : State, Up s → phaseEnded s 4 = true → s.host.cmd = none → inHold s = true → slot s + 1 < 2 ^ 56 →
    Does .slotBoundary s fun t => getF t F.PWR_GOV_cap = getF s F.PWR_GOV_cap - getF s F.ARR_ENVELOPE_ramp_step) ∧
  (∀ (s : State) (p : Plan) (i k : Nat) (a : Anchor), Up s → s.plan = some p → nextAnchor s = some (i, k, a) → anchorDue s = true → 0 < k →
    k < 2 ^ 16 → i < 2 ^ 32 → (∀ y ∈ p.layers, y.anchor ≠ k) →
    Does .anchorSet s fun t => getF t F.LCH_ANCHOR_SLOT_slot = slot s ∧ getF t F.LCH_ANCHOR_ID_anchor = k ∧
      getF t F.LCH_ANCHOR_ID_iteration = i ∧ getF t F.HST_PLAN_PROGRESS_iteration = i ∧ t.lch.base = slot s ∧
      FMap.get 0 t.lch.anchors (i * 65536 + k) = slot s + 1 ∧ t.lch.iter = (if k + 1 < p.anchors.length then i else i + 1) ∧
      t.lch.next = (if k + 1 < p.anchors.length then k + 1 else 0) ∧
      Only [.lch] [Off.LCH_ANCHOR_SLOT, Off.LCH_ANCHOR_ID, Off.LCH_ANCHOR_SLIP, Off.HST_PLAN_PROGRESS] s t) ∧
  (∀ s : State, Up s → anchorDue s = false → Does .anchorSet s fun t => t = s)

/-- SIGNAL_TAKES_EFFECT (R146): a signal whose boundary has come adds its amount to an object that has not failed and that no plan
exports; one still to come waits. WAIT_TIMEOUT (R148): a gate or a launch whose wait has run out is recorded with its object, index and
slot, and the module enters HOLD with cause 0; in HOLD, or while a stop is in force, no wait runs out. Model's choices and readings: log
entry 1. -/
def Obligations.SignalsTakeEffectAndWaitsExpire : Prop :=
  (∀ (s : State) (g : Signal), Up s → s.lch.signals = [g] → g.effect ≤ slot s → (syncFlags s g.object).failed = false →
    (∀ p, s.plan = some p → p.exports.find? (fun e => e.localObj == g.object) = none) → syncValue s g.object + g.amount < 2 ^ 64 →
    Does .signalTakesEffect s fun t => syncValue t g.object = syncValue s g.object + g.amount ∧ t.lch.signals = [] ∧
      Only [.lch] [Off.LCH_SYNC g.object] s t) ∧
  (∀ (s : State) (g : Signal), Up s → s.lch.signals = [g] → g.effect ≤ slot s → (syncFlags s g.object).failed = true →
    Does .signalTakesEffect s fun t => t.lch.signals = [] ∧ Only [.lch] [] s t) ∧
  (∀ s : State, Up s → (∀ g ∈ s.lch.signals, slot s < g.effect) → Does .signalTakesEffect s fun t => t = s) ∧
  (∀ (s : State) (idx op obj k : Nat), Up s → inHold s = false → stopInForce s = false → planState s = .running → gateTimedOut s op = some (obj, k) →
    Does (.waitTimeout true idx op) s fun t => Holds 0 t ∧ getF t F.LCH_TIMEOUT_object = obj % 2 ^ 13 ∧ getF t F.LCH_TIMEOUT_gate = 1 ∧
      getF t F.LCH_TIMEOUT_index = k % 2 ^ 32 ∧ getF t F.LCH_TIMEOUT_SLOT_slot = slot s ∧ hasF t F.LCH_STATUS_timeout_seen = true ∧
      Only holdParts ([Off.LCH_TIMEOUT, Off.LCH_TIMEOUT_SLOT, Off.LCH_STATUS] ++ holdRegs ++ logRegs s) s t) ∧
  (∀ (s : State) (k op obj : Nat), Up s → inHold s = false → stopInForce s = false → planState s = .running → launchTimedOut s k op = some obj →
    Does (.waitTimeout false k op) s fun t => Holds 0 t ∧ getF t F.LCH_TIMEOUT_object = obj % 2 ^ 13 ∧ getF t F.LCH_TIMEOUT_gate = 0 ∧
      getF t F.LCH_TIMEOUT_index = keyIdx k % 2 ^ 32 ∧ getF t F.LCH_TIMEOUT_SLOT_slot = slot s ∧
      Only holdParts ([Off.LCH_TIMEOUT, Off.LCH_TIMEOUT_SLOT, Off.LCH_STATUS] ++ holdRegs ++ logRegs s) s t) ∧
  (∀ (s : State) (g : Bool) (idx op : Nat), Up s → inHold s = true ∨ stopInForce s = true → Does (.waitTimeout g idx op) s fun t => t = s)

/-- LAUNCH_ISSUE (R139, R142): a launch that is due, readable and neither void nor passed over issues into the waiting place of its unit,
with its slip; an earlier boundary leaves it as it is. LAUNCH_BEGIN (R135): the unit takes it and the waiting place empties. A vector
program that begins (LAUNCH_BEGIN, R112 to R117) holds its engine; one add writes the lane sums into its register, and no memory.
LAUNCH_COMPLETE (R137, R147): a tile, vector, move or intake launch of the anchored plan whose work is done completes, with the slot, and
its signals take effect two boundaries on. Model's choices and readings: log entries 1, 8, 17. -/
def Obligations.LaunchesIssueBeginAndComplete : Prop :=
  (∀ (s : State) (k u a due : Nat) (l : Launch), Up s → launchOf s k = some l → anchorSlot s k l = some a → dueOf s k l = some due →
    launchDue s k l = true → voidLaunch s k l = false → passedOver s k = false → blockLayer s k = none → unreachable s l = none →
    writesFlash s l = false → l.kind ≠ .collective → unitFor s k l = some u →
    Does (.launchIssue k) s fun t => (runOf t k).issued = true ∧ (runOf t k).issueSlot = slot s ∧
      (runOf t k).slip = slot s - (a + l.relSlot) ∧ (unitOf t u).waiting = some k ∧ (∀ j, j ≠ k → runOf t j = runOf s j) ∧
      (∀ v, v ≠ u → unitOf t v = unitOf s v) ∧
      Only [.lch] [Off.LCH_SLIP_TOTAL, Off.LCH_SLIP_CAUSE 6, Off.LCH_SLIP_CAUSE 7, Off.LCH_SLIP_MAX] s t) ∧
  (∀ (s : State) (k : Nat) (l : Launch), Up s → launchOf s k = some l → launchDue s k l = false → Does (.launchIssue k) s fun t => t = s) ∧
  (∀ (s : State) (u k : Nat) (l : Launch) (t0 : TileProgram), Up s → (unitOf s u).waiting = some k → launchOf s k = some l →
    stopFor s k = false → l.kind = .tile → tileOf s l = some t0 → tileCanBegin s u t0 = true →
    Does (.launchBegin u) s fun t => (arrayOf t u).feeding = some k ∧ (arrayOf t u).step = 0 ∧ (unitOf t u).waiting = none ∧
      (unitOf t u).freeFrom = slot s + 2 ∧ (t0.clear = true → (bankOf t u t0.bank).entry = []) ∧
      (t0.clear = false → (bankOf t u t0.bank).entry = (bankOf s u t0.bank).entry) ∧ Only [.lch, .arr] [] s t) ∧
  (∀ (s : State) (u k : Nat) (l : Launch), Up s → (unitOf s u).waiting = some k → (unitOf s u).running = none → launchOf s k = some l →
    stopFor s k = false → l.kind ∈ [.move, .sweep, .collective, .intake] →
    Does (.launchBegin u) s fun t => unitOf t u = ⟨none, slot s + 2, some k, 0⟩ ∧ (∀ v, v ≠ u → unitOf t v = unitOf s v) ∧ Only [.lch] [] s t) ∧
  (∀ (s : State) (u : Nat), Up s → (unitOf s u).waiting = none → Does (.launchBegin u) s fun t => t = s) ∧
  (∀ (s : State) (u k d a b : Nat) (l : Launch) (v : VectorProgram), Up s → 512 ≤ u → (unitOf s u).waiting = some k →
    (unitOf s u).running = none → launchOf s k = some l → stopFor s k = false → l.kind = .vector → veFenced s (u - 512) = false →
    vectorOf s l = some v → v.code = [.add false d a b] →
    Does (.launchBegin u) s fun t => unitOf t u = ⟨none, slot s + 2, some k, 0⟩ ∧
      (∀ i, i < 512 → (vreg t (u - 512) d)[i]? = some (f32Add ((vreg s (u - 512) a).getD i 0) ((vreg s (u - 512) b).getD i 0))) ∧
      Only [.lch, .arr] [] s t) ∧
  (∀ (s : State) (u k : Nat) (l : Launch), Up s → finishing s u = some k → launchOf s k = some l → launchOver s u k l = true →
    (runOf s k).completed = false → (runOf s k).signalled = false → keyQueue k = none → s.host.cmd = none →
    l.kind ∈ [.tile, .vector, .move, .intake] →
    Does (.launchComplete u) s fun t => (runOf t k).completed = true ∧ (runOf t k).doneSlot = slot s ∧ (runOf t k).signalled = true ∧
      t.lch.signals = s.lch.signals ++ l.signals.map (fun g => ⟨slot s + 2, g.object, g.value.toNat⟩) ∧
      Only [.lch, .arr, .trn, .mem, .flash, .host, .sent] ((List.range 16).map Off.UPD_STASH ++
        [Off.NUM_RING_HEAD, Off.NUM_STATUS, Off.LCH_STATUS, Off.LCH_TS_RING_HEAD, Off.HST_STATUS, Off.HST_IRQ_PENDING]) s t) ∧
  (∀ (s : State) (u : Nat), Up s → finishing s u = none → Does (.launchComplete u) s fun t => t = s)

/-- MOVE_FROND (R165, R179): a readable frond that is not in move is copied whole to its destination, its entry switches in both copies,
the destination is sealed, and the move goes on to the next frond; no other byte changes. VIEW_COPY (R168): a readable frond is copied
into the view's place under a header that marks a view, the place is sealed, and nothing switches. Model's choices and readings: log entry
27. -/
def Obligations.MovesAndViewsCopyTheFrond : Prop :=
  (∀ (s : State) (stack k : Nat) (m : MoveDesc), Up s → runningMove s (768 + stack) = some (k, m) → m.isView = false → movesHeld s = false →
    (unitOf s (768 + stack)).progress < m.count →
    let i := (unitOf s (768 + stack)).progress
    let id := m.first + i
    let e := ftGet s id
    let d := moveDest s m i
    e.valid = true → e.home ≠ d → e.inMove = false → e.poisoned = false → checkOk s e.fmt e.home = true →
    (flashBase ≤ d → flashKib e.fmt ≤ s.fls.granted) → d % 256 = 0 → d < 2 ^ 48 → EntryApart s id →
    (d + e.fmt.imageLen ≤ ftPrimary s id ∨ ftPrimary s id + 16 ≤ d) →
    Does (.moveFrond stack) s fun t => (ftGet t id).home = d ∧ (ftGet t id).valid = true ∧ (ftGet t id).inMove = false ∧
      (ftGet t id).seq = (e.seq + 1) % 4096 ∧ isSealed t d = true ∧ (unitOf t (768 + stack)).progress = i + 1 ∧
      BytesBut ((d, e.fmt.imageLen) :: entryBytes s id) s t ∧
      Only [.mem, .flash, .lch, .fls] [Off.MEM_MOVE_CNT, Off.FLS_READ] s t) ∧
  (∀ (s : State) (stack : Nat), Up s → movesHeld s = true → Does (.moveFrond stack) s fun t => t = s) ∧
  (∀ (s : State) (stack k : Nat) (m : MoveDesc), Up s → runningMove s (768 + stack) = some (k, m) → m.isView = true → movesHeld s = false →
    (unitOf s (768 + stack)).progress < m.count →
    let i := (unitOf s (768 + stack)).progress
    let e := ftGet s (m.first + i)
    let d := moveDest s m i
    e.valid = true → e.inMove = false → e.cls ≠ 7 → e.poisoned = false → checkOk s e.fmt e.home = true →
    Does (.viewCopy stack) s fun t => rd t d payloadLen = rd s e.home payloadLen ∧ isSealed t d = true ∧
      (unitOf t (768 + stack)).progress = i + 1 ∧ BytesBut [(d, e.fmt.imageLen)] s t ∧ Only [.mem, .flash, .lch, .fls] [Off.FLS_READ] s t)

/-- FAILED_READ (R188): the read is counted and recorded. A failed read of a snapshot makes it invalid; one of a frond of class 7 poisons
the frond; one of any other region takes the module into HOLD with cause 7. SRAM_UNCORRECTABLE (R162, R444): outside a pass, a sealed view
in SRAM is discarded and waits to be made again, the fault being counted. VIEW_REMAKE makes it again: a view of op 0x1 is copied once more
from the home of its frond, one of a gather stands sealed; a fetch that fails takes the module into HOLD with cause 7.
PARTNER_FETCH_TIMEOUT (R189): a fetch that has waited for the plan's timeout, 390,625 slots when the plan gives 0, ends: the frond is
poisoned and the module enters HOLD with cause 7; an earlier event changes nothing. Model's choices and readings: log entries 1, 28. -/
def Obligations.FailedReadsAreResolved : Prop :=
  (∀ (s : State) (k die ch addr : Nat) (p : Bool), Up s → die < 128 → ch < 32 →
    Does (.failedRead (.snapshot k) .stackEcc die ch addr p) s fun t => hasF t (F.UPD_SNAP_valid (k % 2)) = false ∧
      hasF t F.MEM_STATUS_uncorr_seen = true ∧ getF t F.MEM_ECC_UNCORR_CNT_count = min (2 ^ 64 - 1) (getF s F.MEM_ECC_UNCORR_CNT_count + 1) ∧
      getReg t Off.MEM_LAST_ERROR = BitVec.ofNat 64 (1 + 16 * die + 2 ^ 11 * ch) ∧
      Only eventParts ([Off.MEM_LAST_ERROR_ADDR, Off.MEM_ECC_UNCORR_CNT, Off.MEM_LAST_ERROR, Off.MEM_STATUS, Off.UPD_SNAP (k % 2)] ++ logRegs s) s t) ∧
  (∀ (s : State) (id die ch addr : Nat) (p : Bool), Up s → id < ftCount s → (ftGet s id).valid = true → (ftGet s id).cls = 7 → EntryApart s id →
    Does (.failedRead (.frond id) .stackEcc die ch addr p) s fun t => (ftGet t id).poisoned = true ∧ hasF t F.MEM_STATUS_poison_seen = true ∧
      BytesBut (entryBytes s id) s t ∧
      Only ([.mem, .flash] ++ eventParts) ([Off.MEM_LAST_ERROR_ADDR, Off.MEM_ECC_UNCORR_CNT, Off.MEM_LAST_ERROR, Off.MEM_STATUS,
        Off.MEM_POISON_CNT, Off.MEM_LAST_POISON] ++ logRegs s) s t) ∧
  (∀ (s : State) (x die ch addr : Nat) (how : ReadFailure) (p : Bool), Up s →
    Does (.failedRead (.otherRegion x) how die ch addr p) s fun t => Holds 7 t) ∧
  (∀ (s : State) (addr a : Nat), Up s → sramPlaceOf s addr = some a → (headerAt s a).view = true →
    Does (.sramUncorrectable addr false) s fun t => isSealed t a = false ∧ a ∈ t.trn.remake ∧ hasF t F.MEM_STATUS_uncorr_seen = true ∧
      Only (.lch :: .trn :: eventParts) ([Off.MEM_LAST_ERROR_ADDR, Off.MEM_ECC_UNCORR_CNT, Off.MEM_LAST_ERROR, Off.MEM_STATUS] ++ logRegs s) s t) ∧
  (∀ (s : State) (a : Nat), Up s → a ∈ s.trn.remake → (∀ p, s.plan = some p → ∀ m ∈ p.moves, m.isView = false) →
    Does (.viewRemake a true) s fun t => isSealed t a = true ∧ a ∉ t.trn.remake ∧ Only [.lch, .trn] [] s t) ∧
  (∀ (s : State) (a : Nat) (p : Plan) (m : MoveDesc), Up s → a ∈ s.trn.remake → s.plan = some p → p.moves = [m] → m.isView = true → m.count = 1 →
    m.dest = a → (ftGet s m.first).poisoned = false →
    Does (.viewRemake a true) s fun t => isSealed t a = true ∧ a ∉ t.trn.remake ∧
      rd t a payloadLen = rd s (homeOf s m.first) payloadLen ∧ BytesBut [(a, (ftGet s m.first).fmt.imageLen)] s t ∧
      Only [.lch, .trn, .mem, .flash] [] s t) ∧
  (∀ (s : State) (a : Nat), Up s → a ∈ s.trn.remake →
    Does (.viewRemake a false) s fun t => Holds 7 t ∧ Only holdParts (holdRegs ++ logRegs s) s t) ∧
  (∀ (s : State) (id : Nat) (p : Plan) (j : FetchJob), Up s → s.plan = some p → s.trn.fetches.find? (fun x => x.frond == id) = some j →
    j.start + (if p.header.partnerTimeout = 0 then 390625 else p.header.partnerTimeout) ≤ slot s → s.chn.reqs = [] →
    Does (.partnerFetchTimeout id) s fun t => Holds 7 t ∧ (∀ x ∈ t.trn.fetches, x.frond ≠ id) ∧ hasF t F.MEM_STATUS_poison_seen = true ∧
      Only holdParts ([Off.MEM_STATUS, Off.MEM_POISON_CNT, Off.MEM_LAST_POISON] ++ holdRegs ++ logRegs s) s t) ∧
  (∀ (s : State) (id : Nat) (p : Plan) (j : FetchJob), Up s → s.plan = some p → s.trn.fetches.find? (fun x => x.frond == id) = some j →
    slot s < j.start + (if p.header.partnerTimeout = 0 then 390625 else p.header.partnerTimeout) →
    Does (.partnerFetchTimeout id) s fun t => t = s)

/-- FLASH_PAGE_READ and PAGE_REBUILD (R182, R186): a page that fails to decode is reread up to 3 times, then waits for its rebuild; the
rebuild marks its block for retirement, asks for a wear activity, and records its outcome. STRIPE_WRITE (R183, R185): with every channel
good, a write that the credit covers debits it, one that it does not cover waits. LEDGER_STORE (R185) stores the credit once 64 GiB are
debited or 10 minutes have passed. Model's choices and readings: log entry 1. -/
def Obligations.FlashPagesAndCreditAreKept : Prop :=
  (∀ (s : State) (p r : Nat), Up s → channelFenced s (pageChannel p) = false →
    Does (.flashPageRead p false r true) s fun t => getF t F.FLS_RETRY_CNT_count = min (2 ^ 64 - 1) (getF s F.FLS_RETRY_CNT_count + min 3 r) ∧
      getReg t Off.FLS_LAST_FAIL = BitVec.ofNat 64 (p % 2 ^ 33 + 2 ^ 33 * pageChannel p) ∧ Only [] [Off.FLS_RETRY_CNT, Off.FLS_LAST_FAIL] s t) ∧
  (∀ (s : State) (p r : Nat), Up s → channelFenced s (pageChannel p) = false →
    Does (.flashPageRead p false r false) s fun t => p ∈ t.fls.failed ∧
      getF t F.FLS_RETRY_CNT_count = min (2 ^ 64 - 1) (getF s F.FLS_RETRY_CNT_count + 3) ∧ Only [.fls] [Off.FLS_RETRY_CNT] s t) ∧
  (∀ (s : State) (p r : Nat) (ok : Bool), Up s → channelFenced s (pageChannel p) = false → Does (.flashPageRead p true r ok) s fun t => t = s) ∧
  (∀ (s : State) (p : Nat), Up s → p ∈ s.fls.failed → hasF s F.FLS_STATUS_flash_closed = false →
    Does (.pageRebuild p true) s fun t => p ∉ t.fls.failed ∧ p ∈ t.fls.retire ∧
      (⟨2, 0, 0⟩ ∈ t.maint.waiting ∨ ⟨2, 0, 0⟩ ∈ t.maint.running) ∧
      getReg t Off.FLS_LAST_FAIL = BitVec.ofNat 64 (p % 2 ^ 33 + 2 ^ 33 * pageChannel p + 2 ^ 38) ∧
      Only [.fls, .maint] [Off.FLS_REBUILD_CNT, Off.FLS_LAST_FAIL, Off.SAF_MAINT] s t) ∧
  (∀ (s : State) (p : Nat), Up s → p ∈ s.fls.failed →
    Does (.pageRebuild p false) s fun t => p ∉ t.fls.failed ∧ hasF t F.FLS_STATUS_flash_poison_seen = true ∧
      Only ([.fls, .maint] ++ eventParts) ([Off.FLS_REBUILD_CNT, Off.FLS_LAST_FAIL, Off.SAF_MAINT, Off.FLS_STATUS] ++ logRegs s) s t) ∧
  (∀ (s : State) (mib : Nat), Up s → hasF s F.FLS_STATUS_flash_closed = false → getF s F.FLS_CH_FENCED_fenced = 0 → mib ≤ getF s F.FLS_CREDIT_mib →
    Does (.stripeWrite mib) s fun t => getF t F.FLS_CREDIT_mib = getF s F.FLS_CREDIT_mib - mib ∧ hasF t F.FLS_STATUS_credit_wait = false ∧
      t.fls.granted = s.fls.granted + 1024 * mib ∧ t.fls.debited = s.fls.debited + mib ∧ t.fls.written = s.fls.written + 1 ∧
      Only [.fls] [Off.FLS_CREDIT, Off.FLS_WRITTEN, Off.FLS_STATUS] s t) ∧
  (∀ (s : State) (mib : Nat), Up s → hasF s F.FLS_STATUS_flash_closed = false → getF s F.FLS_CH_FENCED_fenced = 0 → getF s F.FLS_CREDIT_mib < mib →
    Does (.stripeWrite mib) s fun t => hasF t F.FLS_STATUS_credit_wait = true ∧ Only [] [Off.FLS_STATUS] s t) ∧
  (∀ s : State, Up s → 65536 ≤ s.fls.debited ∨ s.fls.storedAt + 2343750000 ≤ slot s →
    Does .ledgerStore s fun t => t.fls.stored = getF s F.FLS_CREDIT_mib ∧ t.fls.debited = 0 ∧ t.fls.storedAt = slot s ∧ Only [.fls] [] s t) ∧
  (∀ s : State, Up s → s.fls.debited < 65536 → slot s < s.fls.storedAt + 2343750000 → Does .ledgerStore s fun t => t = s)

/-- ONFI_CHANNEL_FAIL (R186) fences a channel and degrades the tier; a second one closes it. FLASH_WEAR_MOVE (R183) retires blocks.
DRAM_SCRUB (R160) counts a corrected codeword and leaves what memory holds. Model's choices and readings: log entry 84. -/
def Obligations.FlashAndDramWearIsHandled : Prop :=
  (∀ (s : State) (h : Nat), Up s → h < 32 → channelFenced s h = false →
    Does (.onfiChannelFail h) s fun t => channelFenced t h = true ∧ hasF t F.FLS_STATUS_flash_degraded = true ∧
      (getF s F.FLS_CH_FENCED_fenced ≠ 0 → hasF t F.FLS_STATUS_flash_closed = true) ∧
      Only (.maint :: eventParts) ([Off.FLS_CH_FENCED, Off.FLS_STATUS, Off.SAF_MAINT] ++ logRegs s) s t) ∧
  (∀ (s : State) (n : Nat), Up s → hasF s F.FLS_STATUS_flash_closed = false →
    Does (.flashWearMove n) s fun t => getF t F.FLS_WEAR_retired = min (2 ^ 16 - 1) (getF s F.FLS_WEAR_retired + n) ∧ t.fls.retire = [] ∧
      ⟨2, 0, 0⟩ ∉ t.maint.running ∧ ⟨2, 0, 0⟩ ∉ t.maint.waiting ∧ Only [.fls, .maint] [Off.FLS_WEAR, Off.SAF_MAINT] s t) ∧
  (∀ (s : State) (a : Nat) (newer : Bool), Up s →
    Does (.dramScrub a true newer) s fun t => getF t F.MEM_ECC_CORR_CNT_count = min (2 ^ 64 - 1) (getF s F.MEM_ECC_CORR_CNT_count + 1) ∧
      ⟨1, 0, stackOf a⟩ ∉ t.maint.running ∧ Only [.maint] [Off.MEM_ECC_CORR_CNT, Off.SAF_MAINT] s t) ∧
  (∀ (s : State) (a : Nat) (newer : Bool), Up s → ⟨1, 0, stackOf a⟩ ∉ s.maint.running → Does (.dramScrub a false newer) s fun t => t = s)

/-- ARRAY_STEP (R71, R96, R98): an array that feeds nothing fills its step with a dummy; one that feeds a tile takes a useful step, and a
step that ends no group changes no accumulator; at an issue cap of 0 it stalls; a fenced or held array takes no step. The step that ends a
group (R57, R58) adds to every accumulator entry the exact sum of the group's products, in one rounding. Model's choices and readings: log
entries 13, 14, 15, 100. -/
def Obligations.ArraysStepAndAccumulate : Prop :=
  (∀ (s : State) (a k : Nat) (t0 : TileProgram), Up s → fenced s a = false → (arrayOf s a).heldTest = false → (arrayOf s a).feeding = some k →
    tileOfKey s k = some t0 → getF s F.PWR_GOV_cap ≠ 0 → checkDue s a t0 = false → isQuiet a = false →
    (arrayOf s a).step + 1 < kLength t0.a.deliver t0.k → ((arrayOf s a).step + 1) % t0.a.deliver.groupSteps ≠ 0 →
    Does (.arrayStep a none) s fun t => (arrayOf t a).step = (arrayOf s a).step + 1 ∧ (arrayOf t a).feeding = some k ∧
      (arrayOf t a).lastFeed = slot s ∧ bankOf t a t0.bank = { bankOf s a t0.bank with steps := (bankOf s a t0.bank).steps + 1 } ∧
      getF t F.ARR_STEP_USEFUL_count = min (Field.max F.ARR_STEP_USEFUL_count) (getF s F.ARR_STEP_USEFUL_count + 1) ∧
      (∀ b, b ≠ a → arrayOf t b = arrayOf s b) ∧ Only [.arr] [Off.ARR_STEP_USEFUL] s t) ∧
  (∀ (s : State) (a : Nat) (u : Option Upset), Up s → fenced s a = false → (arrayOf s a).heldTest = false → (arrayOf s a).feeding = none →
    (arrayOf s a).level ≠ 0 →
    Does (.arrayStep a u) s fun t => getF t F.ARR_STEP_DUMMY_count = min (Field.max F.ARR_STEP_DUMMY_count) (getF s F.ARR_STEP_DUMMY_count + 1) ∧
      Only [] [Off.ARR_STEP_DUMMY] s t) ∧
  (∀ (s : State) (a k : Nat) (t0 : TileProgram) (u : Option Upset), Up s → fenced s a = false → (arrayOf s a).heldTest = false →
    (arrayOf s a).feeding = some k → tileOfKey s k = some t0 → getF s F.PWR_GOV_cap = 0 →
    Does (.arrayStep a u) s fun t => getF t F.ARR_RAMP_STALL_count = min (Field.max F.ARR_RAMP_STALL_count) (getF s F.ARR_RAMP_STALL_count + 1) ∧
      Only [] [Off.ARR_RAMP_STALL] s t) ∧
  (∀ (s : State) (a : Nat) (u : Option Upset), Up s → fenced s a = true ∨ (arrayOf s a).heldTest = true → Does (.arrayStep a u) s fun t => t = s) ∧
  (∀ (s : State) (a k c : Nat) (t0 : TileProgram), Up s → fenced s a = false → (arrayOf s a).heldTest = false → (arrayOf s a).feeding = some k →
    tileOfKey s k = some t0 → getF s F.PWR_GOV_cap ≠ 0 → checkDue s a t0 = false → isQuiet a = false → t0.a.mode = .direct → t0.b.mode = .direct →
    (arrayOf s a).step + 1 < kLength t0.a.deliver t0.k → ((arrayOf s a).step + 1) % t0.a.deliver.groupSteps = 0 → c < 4096 →
    let g := t0.a.deliver.group
    let k0 := (arrayOf s a).step / t0.a.deliver.groupSteps * g
    Does (.arrayStep a none) s fun t =>
      FMap.get 0 (bankOf t a t0.bank).entry c = accAdd (FMap.get 0 (bankOf s a t0.bank).entry c) (dot (aRow s a k t0 (c / 128) k0 g) (bCol s a t0 (c % 128) k0 g)) ∧
      (bankOf t a t0.bank).n = (bankOf s a t0.bank).n + 1 ∧ (arrayOf t a).step = (arrayOf s a).step + 1 ∧
      Only [.arr] (Off.ARR_STEP_USEFUL :: numRegs) s t ∧ (t0.a.stored ≠ .bf16 → t0.b.stored ≠ .bf16 → RegsBut [Off.ARR_STEP_USEFUL] s t))

/-- INTERMEDIATE_CHECK (R88): a bank that is due and whose lines all agree is marked as checked. A failed comparison, here an injected one
(R89, R109), is recorded, fences the array, and lists its tiles to run again on the substitute. VECTOR_ENGINE_FAULT (R119) of an engine
that runs no pass logs the fault, fences the engine and asks for its BIST slice, while the other engine of the pair serves. PASS_RESTART
(R104) ends the stop of every stopped pass at the present boundary, unless HOLD or a host stop stands. Model's choices and readings: log
entries 1, 26, 48. -/
def Obligations.ChecksPassOrFence : Prop :=
  (∀ (s : State) (a k : Nat) (t0 : TileProgram), Up s → (arrayOf s a).feeding = some k → tileOfKey s k = some t0 → checkDue s a t0 = true →
    (arrayOf s a).inject = none → failingLine (bankOf s a t0.bank) = none →
    Does (.intermediateCheck a) s fun t => (bankOf t a t0.bank).checked = (bankOf s a t0.bank).steps ∧
      (bankOf t a t0.bank).entry = (bankOf s a t0.bank).entry ∧ Only [.arr] [Off.ARR_CHECK_SKIP_CNT] s t) ∧
  (∀ (s : State) (a k x : Nat) (t0 : TileProgram) (row : Bool), Up s → a < 512 → (arrayOf s a).feeding = some k → tileOfKey s k = some t0 →
    checkDue s a t0 = true → (arrayOf s a).inject = some row → x ∈ arrayOrder a → x ≠ a → fenced s x = false → x < 512 →
    Does (.intermediateCheck a) s fun t => fenced t a = true ∧ fenced t x = false ∧ (arrayOf t a).feeding = none ∧ (arrayOf t a).inject = none ∧
      k ∈ FMap.get [] t.arr.restarts a ∧ hasF t F.ARR_STATUS_mismatch_seen = true ∧ hasF t F.ARR_STATUS_fence_changed = true ∧
      getF t F.ARR_LAST_MISMATCH_SLOT_slot = slot s ∧
      Only ([.lch, .arr, .maint] ++ eventParts) ([Off.ARR_LAST_MISMATCH, Off.ARR_LAST_MISMATCH_SLOT, Off.ARR_MISMATCH_CNT, Off.ARR_STATUS,
        Off.ARR_FENCED (a / 64), Off.SAF_MAINT] ++ logRegs s) s t) ∧
  (∀ (s : State) (a : Nat), Up s → (arrayOf s a).feeding = none → Does (.intermediateCheck a) s fun t => t = s) ∧
  (∀ (s : State) (core : Nat), Up s → (unitOf s (512 + core)).running = none → (unitOf s (512 + core)).waiting = none →
    veFenced s (core / 2 * 2 + (1 - core % 2)) = false →
    Does (.vectorEngineFault core) s fun t => veFenced t core = true ∧ (⟨0, 1, core⟩ ∈ t.maint.waiting ∨ ⟨0, 1, core⟩ ∈ t.maint.running) ∧
      veFor t core = some (core / 2 * 2 + (1 - core % 2)) ∧ hasF t F.SAF_STATUS_fault_seen = true ∧
      Only ([.arr, .maint] ++ eventParts) (Off.SAF_MAINT :: logRegs s) s t) ∧
  (∀ (s : State) (p : Nat), Up s → inHold s = false → stopInForce s = false → (passOf s p).stopped = true →
    (∀ pl, s.plan = some pl → pl.layers = []) →
    Does .passRestart s fun t => (passOf t p).stopped = false ∧ (passOf t p).restartAt = slot s ∧
      (passOf t p).pauses = (passOf s p).pauses ++ [((passOf s p).stopFrom, slot s)] ∧ Only [.lch] [] s t) ∧
  (∀ s : State, Up s → inHold s = true ∨ stopInForce s = true → Does .passRestart s fun t => t = s)

/-- DRAIN (R120, R87): the oldest bank that waits, with its side inputs sealed and its lines agreeing, is released; a drain with neither
stash tap, row statistics nor residual writes its primary output alone. DRAIN_FAULT (R128) fences the array and lists its tiles;
TILE_RESTART (R89) feeds the first of them to the substitute. Model's choices and readings: log entry 26. -/
def Obligations.DrainsReleaseOrRestart : Prop :=
  (∀ (s : State) (a k : Nat) (ks : List Nat) (t0 : TileProgram) (d : DrainProgram), Up s → (arrayOf s a).drains = k :: ks →
    tileOfKey s k = some t0 → t0.drain = some d → sidesReady s (finalDrain s d) = true → (arrayOf s a).inject = none →
    failingLine (bankOf s a t0.bank) = none →
    Does (.drain a none) s fun t => (runOf t k).released = true ∧ (arrayOf t a).drains = ks ∧
      (d.clear = true → bankOf t a t0.bank = Bank.clear) ∧ (d.clear = false → (bankOf t a t0.bank).entry = (bankOf s a t0.bank).entry) ∧
      Only [.lch, .arr, .mem, .flash, .trn] (Off.ARR_CHECK_SKIP_CNT :: numRegs) s t) ∧
  (∀ (s : State) (a k : Nat) (ks : List Nat) (t0 : TileProgram) (d : DrainProgram), Up s → (arrayOf s a).drains = k :: ks →
    tileOfKey s k = some t0 → t0.drain = some d → finalAtDrain s = false → d.stash = none → d.rowStats = none → d.residual = none →
    sidesReady s d = true → (arrayOf s a).inject = none → failingLine (bankOf s a t0.bank) = none →
    d.primary.row0 + 32 ≤ d.primary.fmt.rows → d.primary.col0 + 128 ≤ d.primary.fmt.rowElems → t0.cols ≤ 128 →
    Does (.drain a none) s fun t => BytesBut ((d.primary.addr, d.primary.fmt.imageLen) :: entryBytes s d.primary.frondId) s t) ∧
  (∀ (s : State) (a k x : Nat) (ks : List Nat) (t0 : TileProgram), Up s → a < 512 → (arrayOf s a).drains = k :: ks → tileOfKey s k = some t0 →
    x ∈ arrayOrder a → x ≠ a → fenced s x = false → x < 512 →
    Does (.drainFault a) s fun t => fenced t a = true ∧ k ∈ FMap.get [] t.arr.restarts a ∧ k ∉ (arrayOf t a).drains ∧
      hasF t F.SAF_STATUS_fault_seen = true ∧
      Only ([.lch, .arr, .maint] ++ eventParts) ([Off.ARR_STATUS, Off.ARR_FENCED (a / 64), Off.SAF_MAINT] ++ logRegs s) s t) ∧
  (∀ (s : State) (a k sub : Nat) (ks : List Nat) (t0 : TileProgram), Up s → FMap.get [] s.arr.restarts a = k :: ks → standIn s a = some sub →
    tileOfKey s k = some t0 → (arrayOf s sub).feeding = none → (arrayOf s sub).rerun = [] →
    Does (.tileRestart a) s fun t => FMap.get [] t.arr.restarts a = [] ∧ (arrayOf t sub).feeding = some k ∧ (arrayOf t sub).step = 0 ∧
      (arrayOf t sub).rerun = ks ∧ (bankOf t sub t0.bank).entry = [] ∧ Only [.arr] [] s t)

/-- REQUEST_DESCRIPTOR (R325): a descriptor whose check fails is dropped and counted; a sound one with its conditions met begins the copy
of its row, which lands in the queue entry; a queue with nothing to read, or a plan state that reads nothing, changes nothing.
ROW_ACCEPTED (R325): the oldest row copy of a queue ends, and the row joins those that wait, with its slot. BATCH_LAUNCH (R101, R102): a
batch that is due and whose array is free launches up to 32 of the rows accepted before the present slot. Model's choices and readings:
log entry 1. -/
def Obligations.RequestsBecomeBatches : Prop :=
  (∀ (s : State) (q : Nat) (b : BatchQueue), Up s → queueDesc s q = some b → readsRequests s = true → q < 256 →
    getF s (F.HST_REQ_HEAD_head q) ≠ getF s (F.HST_REQ_HEAD_tail q) →
    let d := rd s (b.ringBase + 64 * (getF s (F.HST_REQ_HEAD_head q) % 2 ^ b.ringSize)) 64
    (crc32c (d.take 56)).toNat ≠ bits (wordAt d 7) 31 0 →
    Does (.requestDescriptor q) s fun t => getF t (F.HST_REQ_HEAD_head q) = (getF s (F.HST_REQ_HEAD_head q) + 1) % 2 ^ 32 ∧
      getF t F.HST_REQ_DROP_count = min (Field.max F.HST_REQ_DROP_count) (getF s F.HST_REQ_DROP_count + 1) ∧
      hasF t F.HST_ERR_STATUS_req_dropped = true ∧ Pends 3 t ∧
      Only eventParts [Off.HST_REQ_HEAD q, Off.HST_REQ_DROP, Off.HST_ERR_STATUS, Off.HST_IRQ_PENDING] s t) ∧
  (∀ (s : State) (q e : Nat) (b : BatchQueue), Up s → queueDesc s q = some b → b.q = q → readsRequests s = true → q < 256 →
    getF s (F.HST_REQ_HEAD_head q) ≠ getF s (F.HST_REQ_HEAD_tail q) →
    let d := rd s (b.ringBase + 64 * (getF s (F.HST_REQ_HEAD_head q) % 2 ^ b.ringSize)) 64
    let row := 256 * bits (wordAt d 1) 39 0
    (crc32c (d.take 56)).toNat = bits (wordAt d 7) 31 0 → freeEntry s b = some e →
    (queueOf s q).rows.length + (queueOf s q).copying.length < 256 → slotFree s (bits (wordAt d 2) 10 0) = true →
    inStackTier row b.rowBytes = true → touchesResults row b.rowBytes = false → bits (wordAt d 3) 31 0 = b.rowBytes →
    (crc32c (rd s row b.rowBytes)).toNat = bits (wordAt d 3) 63 32 →
    Does (.requestDescriptor q) s fun t => getF t (F.HST_REQ_HEAD_head q) = (getF s (F.HST_REQ_HEAD_head q) + 1) % 2 ^ 32 ∧
      (queueOf t q).copying = (queueOf s q).copying ++ [⟨e, wordAt d 0, bits (wordAt d 2) 10 0, 0⟩] ∧
      rd t (b.queueArea + e * b.rowBytes) b.rowBytes = rd s row b.rowBytes ∧
      BytesBut [(b.queueArea + e * b.rowBytes, b.rowBytes)] s t ∧ Only [.arr, .mem, .flash] [Off.HST_REQ_HEAD q] s t) ∧
  (∀ (s : State) (q : Nat), Up s → readsRequests s = false → Does (.requestDescriptor q) s fun t => t = s) ∧
  (∀ (s : State) (q : Nat) (x : QueueRow) (xs : List QueueRow), Up s → (queueOf s q).copying = x :: xs →
    Does (.rowAccepted q) s fun t => (queueOf t q).copying = xs ∧ { x with accept := slot s } ∈ (queueOf t q).rows ∧
      (queueOf t q).rows.length = (queueOf s q).rows.length + 1 ∧ (∀ p, p ≠ q → queueOf t p = queueOf s p) ∧ Only [.arr] [] s t) ∧
  (∀ (s : State) (q : Nat), Up s → (queueOf s q).copying = [] → Does (.rowAccepted q) s fun t => t = s) ∧
  (∀ (s : State) (q a : Nat) (b : BatchQueue), Up s → queueDesc s q = some b → planState s = .running → stopInForce s = false → inHold s = false →
    batchDue s b = true → s.lch.skipped = false →
    let rows := (seenRows s q).take 32
    standIn s (if rows.length ≤ b.quiet then b.quietArray else b.holdArray) = some a → unitFree s a = true →
    Does (.batchLaunch q) s fun t => (queueOf t q).batches = (queueOf s q).batches ++ [⟨(queueOf s q).count, rows, a, slot s, false, false⟩] ∧
      (queueOf t q).count = (queueOf s q).count + 1 ∧ (queueOf t q).rows = (queueOf s q).rows.filter (fun x => !rows.contains x) ∧
      getF t F.ARR_ROWS_MASKED_count = min (Field.max F.ARR_ROWS_MASKED_count) (getF s F.ARR_ROWS_MASKED_count + (32 - rows.length)) ∧
      Only [.arr] [Off.ARR_BATCH_FULL, Off.ARR_BATCH_TIMED, Off.ARR_ROWS_MASKED] s t) ∧
  (∀ (s : State) (q : Nat) (b : BatchQueue), Up s → queueDesc s q = some b → batchDue s b = false → Does (.batchLaunch q) s fun t => t = s)

/-- REDUCE_ADD (R196, R197): an incoming frond whose micro-batch is already in the record is dropped and counted; another one is added
into its target, and its micro-batch joins the record; only the target frond and its record change. REDUCE_ADDER_FAULT (R221) logs the
fault, poisons the target and marks the gradient, so that the step will be abandoned. FINAL_QUANTISATION (R199, R200) of a shard in the
stack tier whose sums are all known quantises every frond and gives the shard its partial. Model's choices and readings: log entries 32,
33, 34. -/
def Obligations.GradientsAreAddedAndQuantised : Prop :=
  (∀ (s : State) (i : Nat) (j : AddJob), Up s → s.trn.adds[i]? = some j → (∀ e ∈ s.trn.adds.take i, e.target.frond ≠ j.target.frond) →
    (ledgerGet s j.target.frond j.step).2.testBit j.target.mb = true →
    Does (.reduceAdd i) s fun t => t.trn.adds = s.trn.adds.eraseIdx i ∧
      getF t F.UPD_ACC_DUP_CNT_count = min (Field.max F.UPD_ACC_DUP_CNT_count) (getF s F.UPD_ACC_DUP_CNT_count + 1) ∧
      Only [.trn, .arr] [Off.UPD_ACC_DUP_CNT] s t) ∧
  (∀ (s : State) (i la : Nat) (j : AddJob), Up s → s.trn.adds[i]? = some j → (∀ e ∈ s.trn.adds.take i, e.target.frond ≠ j.target.frond) →
    (ledgerGet s j.target.frond j.step).2.testBit j.target.mb = false → ledgerAddr s j.target.frond = some la → j.target.mb < 64 →
    la + 16 ≤ flashBase ∨ flashBase ≤ la →
    Apart (homeOf s j.target.frond) Fmt.g8.imageLen (ftPrimary s j.target.frond) 16 → Apart la 16 (ftPrimary s j.target.frond) 16 →
    Does (.reduceAdd i) s fun t => t.trn.adds = s.trn.adds.eraseIdx i ∧
      ledgerGet t j.target.frond j.step = (((ledgerGet s j.target.frond j.step).1 + 1) % 128,
        (ledgerGet s j.target.frond j.step).2 ||| 2 ^ j.target.mb) ∧
      BytesBut [(homeOf s j.target.frond, Fmt.g8.imageLen), (la, 16)] s t ∧ Only [.trn, .arr, .lch, .mem, .flash] numRegs s t) ∧
  (∀ (s : State) (f : Nat), Up s → f < ftCount s → EntryApart s f →
    Does (.reduceAdderFault f) s fun t => t.trn.gradPoisoned = true ∧ (ftGet t f).poisoned = true ∧ hasF t F.MEM_STATUS_poison_seen = true ∧
      hasF t F.SAF_STATUS_fault_seen = true ∧ BytesBut (entryBytes s f) s t ∧
      Only ([.trn, .mem, .flash] ++ eventParts) ([Off.MEM_POISON_CNT, Off.MEM_LAST_POISON, Off.MEM_STATUS] ++ logRegs s) s t) ∧
  (∀ (s : State) (id : Nat) (h : Shard), Up s → (ownShards s).find? (fun x => x.id == id) = some h → jobSize s ≠ 1 → h.flashHomed = false →
    h.skipZero = false → id ∉ s.trn.haveParts →
    (∀ i, i < h.gradCount → gradKey h i ∉ s.trn.quant ∧ ∃ r ∈ s.trn.sums, r.shard = h.id ∧ r.idx = i) →
    Does (.finalQuantisation id) s fun t => (∀ i, i < h.gradCount → gradKey h i ∈ t.trn.quant) ∧ id ∈ t.trn.haveParts ∧
      t.trn.normFrom = slot s + 1 ∧ Only [.trn, .lch, .mem, .flash] ([Off.NUM_RING_HEAD, Off.NUM_STATUS, Off.LCH_STATUS] ++ numRegs) s t)

/-- NORM_MESSAGE_SEND (R202): once every partial is known, the module keeps its own norm message and sends it to every other member, here
one that its route reaches; a module alone sends nothing. NORM_TIMEOUT (R204) and SWEEP_TIMEOUT (R209): a norm decision or a sweep that
has waited for longer than the plan allows takes the module into HOLD with cause 0; in HOLD neither runs out. Model's choices and
readings: log entries 1, 34. -/
def Obligations.NormMessagesAndTimeouts : Prop :=
  (∀ s : State, Up s → s.trn.normSent = false → normReady s = true → others s = [] →
    Does .normMessageSend s fun t => t.trn.normSent = true ∧ ownNorm s ∈ t.trn.norms ∧ t.trn.normFrom ≠ 0 ∧ Only [.trn] [] s t) ∧
  (∀ (s : State) (a k : Nat), Up s → s.trn.normSent = false → normReady s = true → others s = [a] → route s a false = some k →
    Does .normMessageSend s fun t => t.trn.normSent = true ∧ ownNorm s ∈ t.trn.norms ∧
      t.sent = .message (some k) ⟨0x11, myAddr s, a, FMap.get 0 s.chn.txSeq a, getF s F.CHN_JOB_job_tag, true, (ownNorm s).body⟩ :: s.sent ∧
      Only [.trn, .chn, .sent] [Off.CHN_MSG_TX] s t) ∧
  (∀ s : State, Up s → s.trn.normSent = true ∨ normReady s = false → Does .normMessageSend s fun t => t = s) ∧
  (∀ (s : State) (p : Plan), Up s → s.plan = some p → inHold s = false → s.trn.normFrom ≠ 0 →
    s.trn.normFrom - 1 + (if p.header.normTimeout = 0 then 390625 else p.header.normTimeout) ≤ slot s →
    Does .normTimeout s fun t => Holds 0 t ∧ Only holdParts (holdRegs ++ logRegs s) s t) ∧
  (∀ (s : State) (q : Nat) (p : Plan), Up s → s.plan = some p → inHold s = false → FMap.get 0 s.trn.sweepFrom q ≠ 0 →
    FMap.get 0 s.trn.sweepFrom q - 1 + (if p.header.sweepTimeout = 0 then 390625 else p.header.sweepTimeout) < slot s →
    Does (.sweepTimeout q) s fun t => Holds 0 t ∧ Only holdParts (holdRegs ++ logRegs s) s t) ∧
  (∀ (s : State) (q : Nat), Up s → inHold s = true → Does .normTimeout s (fun t => t = s) ∧ Does (.sweepTimeout q) s fun t => t = s)

/-- NORM_DECISION (R203, R204): with every partial, norm message and count in, the outcome, the norm and, for a step that commits, the
scale are shown, the object of the decision is signalled, an abandoned step is counted and its gradients are freed, and the next step
opens. Model's choices and readings: log entry 1. -/
def Obligations.TheStepIsDecided : Prop :=
  (∀ (s : State) (p : Plan) (d : Nat), Up s → s.plan = some p → p.training = true → lossOpen s = false → s.trn.normSent = true →
    partsReady s = true → (∀ a ∈ awaited s s.trn.cur, (normOf s a s.trn.cur).isSome = true) → divisorOf s s.trn.cur = some d →
    p.header.reportCount = 0 →
    let n := s.trn.cur
    let rs := (awaited s n).filterMap fun a => normOf s a n
    let x := decide7 p.header (rs.any (·.abort)) (rs.any (·.loss)) (rs.any (·.grad)) (gTwo s n) d
    Does .normDecision s fun t => getF t F.UPD_LAST_OUTCOME_step = n % 2 ^ 32 ∧ getF t F.UPD_LAST_OUTCOME_outcome = x.outcome ∧
      getF t F.UPD_NORM_norm = x.norm.toNat ∧ (x.outcome ≤ 2 → getF t F.UPD_NORM_gscale = x.gscale.toNat) ∧
      getF t F.UPD_G2_g2 = (gTwo s n).toNat ∧ ⟨slot s + 2, p.header.normObj, 1⟩ ∈ t.lch.signals ∧ t.trn.cur = n + 1 ∧ t.trn.normSent = false ∧
      (2 < x.outcome → t.trn.pend = [] ∧ hasF t F.UPD_STATUS_abandon_seen = true ∧
        getF t F.UPD_ABANDON_CNT_count = min (Field.max F.UPD_ABANDON_CNT_count) (getF s F.UPD_ABANDON_CNT_count + 1)) ∧
      (x.outcome ≤ 2 → hasSweep s = false → getF t F.UPD_COMMITS_t = min (Field.max F.UPD_COMMITS_t) (getF s F.UPD_COMMITS_t + 1)) ∧
      Only ([.lch, .trn, .int, .mem, .flash, .maint] ++ eventParts) ((List.range 16).map Off.UPD_STASH ++ (List.range 16).map Off.UPD_PENDING ++
        [Off.UPD_LAST_OUTCOME, Off.HST_PLAN_PROGRESS, Off.UPD_NORM, Off.UPD_G2, Off.INT_POSITION, Off.UPD_STATUS, Off.UPD_ABANDON_CNT,
         Off.UPD_COMMITS, Off.UPD_CLIP_CNT, Off.SAF_MAINT, Off.HST_IRQ_PENDING]) s t) ∧
  (∀ s : State, Up s → s.trn.normSent = false → Does .normDecision s fun t => t = s)

/-- UPDATE_GROUP (R209, R210, R218): a sweep whose step is abandoned passes over its work, a zero shard is passed over and counted, a
sweep whose step is not decided waits, and a sound group that no sweep has written is updated, the sweep moving on by one group.
UPDATE_ENGINE_FAULT (R221) fences the engine of the stack, sets engine_fault and takes the module into HOLD with cause 8. Model's choices
and readings: log entry 35. -/
def Obligations.SweepsUpdateOrFault : Prop :=
  (∀ (s : State) (p : Plan) (q k : Nat) (l : Launch) (h : Shard) (g : Nat), Up s → s.plan = some p → runningSweep s q = some (k, l) →
    stopInForce s = false → inHold s = false → FMap.get false s.trn.fencedUpd q = false → outcomeOf s (stepOf s (keyIter k)) ∈ [1, 2] →
    (sweepWork s l)[(unitOf s (784 + q)).progress]? = some (h, g) → h.id ∉ s.trn.zeroShards → (g = 0 → shardReady s h q = true) →
    poisonedAt s (homeOf s (h.gradFirst + g)) = false →
    (∀ st ∈ h.streams, ∀ id ∈ h.groupFronds st g, checkOk s (h.fmtOf st) (homeOf s id) = true ∧
      (headerAt s (homeOf s id)).step.toNat ≠ stepOf s (keyIter k)) →
    Does (.updateGroup q) s fun t => (unitOf t (784 + q)).progress = (unitOf s (784 + q)).progress + 1 ∧
      (unitOf t (784 + q)).running = some k ∧ FMap.get 0 t.trn.sweepFrom q = 0 ∧ Only [.lch, .trn, .mem, .flash] numRegs s t) ∧
  (∀ (s : State) (p : Plan) (q k : Nat) (l : Launch) (h : Shard) (g : Nat), Up s → s.plan = some p → runningSweep s q = some (k, l) →
    stopInForce s = false → inHold s = false → FMap.get false s.trn.fencedUpd q = false → outcomeOf s (stepOf s (keyIter k)) ∈ [1, 2] →
    (sweepWork s l)[(unitOf s (784 + q)).progress]? = some (h, g) → h.id ∈ s.trn.zeroShards →
    Does (.updateGroup q) s fun t => (unitOf t (784 + q)).progress = (unitOf s (784 + q)).progress + h.gradCount ∧
      getF t F.UPD_SKIP_ZERO_CNT_count = min (Field.max F.UPD_SKIP_ZERO_CNT_count) (getF s F.UPD_SKIP_ZERO_CNT_count + 1) ∧
      Only [.lch, .trn] [Off.UPD_SKIP_ZERO_CNT] s t) ∧
  (∀ (s : State) (p : Plan) (q k : Nat) (l : Launch), Up s → s.plan = some p → runningSweep s q = some (k, l) → stopInForce s = false →
    inHold s = false → FMap.get false s.trn.fencedUpd q = false → outcomeOf s (stepOf s (keyIter k)) = 0 →
    Does (.updateGroup q) s fun t => FMap.get 0 t.trn.sweepFrom q ≠ 0 ∧ Only [.trn] [] s t) ∧
  (∀ (s : State) (p : Plan) (q k : Nat) (l : Launch), Up s → s.plan = some p → runningSweep s q = some (k, l) → stopInForce s = false →
    inHold s = false → FMap.get false s.trn.fencedUpd q = false → 2 < outcomeOf s (stepOf s (keyIter k)) →
    Does (.updateGroup q) s fun t => (unitOf t (784 + q)).progress = (sweepWork s l).length ∧ Only [.lch, .trn] [] s t) ∧
  (∀ (s : State) (q : Nat), Up s →
    Does (.updateEngineFault q) s fun t => FMap.get false t.trn.fencedUpd q = true ∧ t.trn.hard8 = true ∧ hasF t F.UPD_STATUS_engine_fault = true ∧
      Holds 8 t ∧ Only holdParts (Off.UPD_STATUS :: (holdRegs ++ logRegs s)) s t)

/-- DIGEST_COMPUTE (R219, R220): an owed shard digest is taken, kept and sent to the other owner of the shard; with no other owner and
nothing more owed, the digest object is signalled at once. DIGEST_ENGINE_FAULT (R221) drops the digest and logs the fault. DIGEST_REPAIR
(R281): a shard in the minority asks an owner of the majority for every frond of the shard; with no majority and no failing frond the
module enters HOLD with cause 8. GROUP_REPAIR (R282): a group whose fronds all stand at the step is released. Model's choices and
readings: log entries 1, 35, 39. -/
def Obligations.DigestsAreComparedAndRepaired : Prop :=
  (∀ (s : State) (id a k : Nat) (h : Shard), Up s → (ownShards s).find? (fun x => x.id == id) = some h → id ∈ s.trn.owed → otherOwners s = [a] →
    route s a false = some k → (digestOf s id (s.trn.committed - 1)).got = [] →
    Does (.digestCompute id) s fun t => id ∉ t.trn.owed ∧ (digestOf t id (s.trn.committed - 1)).own = some (shardDigest s h) ∧
      t.sent = .message (some k) ⟨0x12, myAddr s, a, FMap.get 0 s.chn.txSeq a, getF s F.CHN_JOB_job_tag, true,
        digestBody id (s.trn.committed - 1) (shardDigest s h)⟩ :: s.sent ∧ Only [.trn, .chn, .sent] [Off.CHN_MSG_TX] s t) ∧
  (∀ (s : State) (p : Plan) (id : Nat) (h : Shard), Up s → s.plan = some p → (ownShards s).find? (fun x => x.id == id) = some h →
    s.trn.owed = [id] → s.trn.digests = [] → otherOwners s = [] →
    Does (.digestCompute id) s fun t => t.trn.owed = [] ∧ ⟨slot s + 2, p.header.digestObj, 1⟩ ∈ t.lch.signals ∧ ⟨5, 0, 0⟩ ∉ t.maint.running ∧
      Only [.trn, .lch, .maint] [Off.SAF_MAINT] s t) ∧
  (∀ (s : State) (id : Nat), Up s → id ∈ s.trn.owed →
    Does (.digestEngineFault id) s fun t => id ∉ t.trn.owed ∧ hasF t F.SAF_STATUS_fault_seen = true ∧
      Only ([.trn, .lch, .maint] ++ eventParts) (Off.SAF_MAINT :: logRegs s) s t) ∧
  (∀ (s : State) (id : Nat), Up s → id ∉ s.trn.owed → Does (.digestEngineFault id) s fun t => t = s) ∧
  (∀ (s : State) (id src k : Nat) (h : Shard) (own mj : List Byte) (f : Bool), Up s → (ownShards s).find? (fun x => x.id == id) = some h →
    (digestOf s id (s.trn.committed - 1)).own = some own → (digestOf s id (s.trn.committed - 1)).round = 0 →
    majorityOf (own :: (digestOf s id (s.trn.committed - 1)).got.map (·.2)) = some mj → own ≠ mj →
    (ownersByGroup s).find? (fun a => (digestOf s id (s.trn.committed - 1)).got.any fun g => g.1 == a && g.2 == mj) = some src →
    route s src false = some k →
    Does (.digestRepair id f) s fun t => (digestOf t id (s.trn.committed - 1)).round = 1 ∧
      (digestOf t id (s.trn.committed - 1)).count = h.stateFronds.length ∧
      t.trn.fetches.length = s.trn.fetches.length + h.stateFronds.length ∧ getF t F.UPD_REPAIR_shard = id % 2 ^ 20 ∧
      getF t F.UPD_REPAIR_method = 1 ∧ getF t F.UPD_REPAIR_fronds = h.stateFronds.length % 2 ^ 32 ∧
      Only [.trn, .chn, .sent] [Off.CHN_MSG_TX, Off.UPD_REPAIR] s t) ∧
  (∀ (s : State) (id : Nat) (h : Shard) (own : List Byte), Up s → (ownShards s).find? (fun x => x.id == id) = some h →
    (digestOf s id (s.trn.committed - 1)).own = some own → (digestOf s id (s.trn.committed - 1)).round = 0 →
    (∃ g ∈ (digestOf s id (s.trn.committed - 1)).got, g.2 ≠ own) →
    majorityOf (own :: (digestOf s id (s.trn.committed - 1)).got.map (·.2)) = none →
    Does (.digestRepair id false) s fun t => Holds 8 t ∧ hasF t F.UPD_SURVIVE_STATUS_repair_hold = true ∧
      Only holdParts (Off.UPD_SURVIVE_STATUS :: (holdRegs ++ logRegs s)) s t) ∧
  (∀ (s : State) (q n g : Nat) (h : Shard), Up s → groupAt s q = some (n, h, g) → inHold s = true → q ∈ s.trn.repair →
    (∀ j ∈ s.trn.fetches, j.why ≠ 2) →
    (∀ st ∈ h.streams, ∀ id ∈ h.groupFronds st g, checkOk s (stateFmt h id) (homeOf s id) = true ∧ (headerAt s (homeOf s id)).step.toNat = n) →
    Does (.groupRepair q) s fun t => q ∉ t.trn.repair ∧ hasF t F.UPD_SURVIVE_STATUS_repair_done = true ∧ getF t F.UPD_REPAIR_method = 3 ∧
      getF t F.UPD_REPAIR_shard = h.id % 2 ^ 20 ∧ Only [.trn] [Off.UPD_REPAIR, Off.UPD_SURVIVE_STATUS] s t) ∧
  (∀ (s : State) (q : Nat), Up s → q ∉ s.trn.repair → Does (.groupRepair q) s fun t => t = s)

/-- SNAPSHOT_WRITE (R284, R285): an owed snapshot that the credit covers goes to its target slot with its restore record in front; one
that fails leaves the slot invalid. Only the slot's bytes change. Model's choices and readings: log entries 1, 40. -/
def Obligations.SnapshotsGoToTheirSlot : Prop :=
  (∀ (s : State) (n : Nat), Up s → s.trn.snapOwed = some n → hasF s F.FLS_STATUS_flash_closed = false →
    let kib := (snapFronds s).foldl (fun t x => t + flashKib x.2) 4
    kib ≤ s.fls.granted →
    Does (.snapshotWrite true) s fun t => t.trn.snapOwed = none ∧ t.fls.granted = s.fls.granted - kib ∧
      getF t (F.UPD_SNAP_step (snapTarget s)) = n % 2 ^ 32 ∧ hasF t (F.UPD_SNAP_valid (snapTarget s)) = true ∧
      hasF t F.UPD_SURVIVE_STATUS_snapshot_done = true ∧
      rd t (snapAddr s (snapTarget s)) 64 = restoreRecord s n (snapFronds s).length ∧
      BytesBut [(snapAddr s (snapTarget s), 1024 * kib)] s t ∧
      Only [.mem, .flash, .fls, .trn] [Off.UPD_SNAP (snapTarget s), Off.UPD_SURVIVE_STATUS] s t) ∧
  (∀ (s : State) (n : Nat), Up s → s.trn.snapOwed = some n →
    Does (.snapshotWrite false) s fun t => t.trn.snapOwed = none ∧ hasF t (F.UPD_SNAP_valid (snapTarget s)) = false ∧
      hasF t F.UPD_SURVIVE_STATUS_snapshot_fail = true ∧ BytesBut [(snapAddr s (snapTarget s), 4096)] s t ∧
      Only ([.mem, .flash, .trn] ++ eventParts) [Off.UPD_SNAP (snapTarget s), Off.UPD_SURVIVE_STATUS, Off.HST_IRQ_PENDING] s t) ∧
  (∀ (s : State) (ok : Bool), Up s → s.trn.snapOwed = none → Does (.snapshotWrite ok) s fun t => t = s)

/-- FLIT_RECEIVE, REPLAY_REQUEST and IDLE_FLIT (R239) on a port that is up: a flit that fails its CRC is counted and answered by a replay
request, a good one in its turn moves the receiver on; a replay request sends the flits again; an idle flit takes the next sequence
number. Model's choices and readings: log entries 1, 41, 43. -/
def Obligations.FlitsKeepTheirOrder : Prop :=
  (∀ (s : State) (k ft seq ack : Nat), Up s → k < 4 → portUp s k = true →
    Does (.flitReceive k false ft seq ack) s fun t =>
      getF t (F.CHN_PORT_crc_fail k) = min (Field.max (F.CHN_PORT_crc_fail k)) (getF s (F.CHN_PORT_crc_fail k) + 1) ∧
      t.sent = .link k 0x102 (((portRun s k).rxNext + 2 ^ 24 - 1) % 2 ^ 24) 0 :: s.sent ∧ Only [.sent] [Off.CHN_PORT k] s t) ∧
  (∀ (s : State) (k ft ack : Nat), Up s → k < 4 → portUp s k = true → ft ≠ 2 →
    Does (.flitReceive k true ft (portRun s k).rxNext ack) s fun t =>
      portRun t k = { portRun s k with lastGood := slot s, rxNext := ((portRun s k).rxNext + 1) % 2 ^ 24 } ∧
      (∀ j, j ≠ k → portRun t j = portRun s j) ∧ Only [.chn] [] s t) ∧
  (∀ (s : State) (k ft seq ack : Nat), Up s → k < 4 → portUp s k = true → seq ≠ (portRun s k).rxNext →
    Does (.flitReceive k true ft seq ack) s fun t => portRun t k = { portRun s k with lastGood := slot s } ∧ Only [.chn] [] s t) ∧
  (∀ (s : State) (k ack : Nat), Up s → k < 4 → portUp s k = true → (ack + 1) % 2 ^ 24 ≠ (portRun s k).txSeq →
    ((portRun s k).txSeq + 2 ^ 24 - (ack + 1) % 2 ^ 24) % 2 ^ 24 ≤ 512 → (portRun s k).replays < 63 →
    Does (.replayRequest k ack) s fun t =>
      getF t (F.CHN_PORT_replays k) = min (Field.max (F.CHN_PORT_replays k)) (getF s (F.CHN_PORT_replays k) + 1) ∧
      t.sent = .link k 0x103 ((ack + 1) % 2 ^ 24) 0 :: s.sent ∧ (portRun t k).txSeq = (portRun s k).txSeq ∧
      Only [.chn, .sent] [Off.CHN_PORT k] s t) ∧
  (∀ (s : State) (k : Nat), Up s → k < 4 → portUp s k = true →
    Does (.idleFlit k) s fun t => t.sent = .link k 0x100 (portRun s k).txSeq 0 :: s.sent ∧
      portRun t k = { portRun s k with txSeq := ((portRun s k).txSeq + 1) % 2 ^ 24 } ∧ Only [.chn, .sent] [] s t) ∧
  (∀ (s : State) (k ft seq ack : Nat) (ok : Bool), Up s → portUp s k = false →
    Does (.flitReceive k ok ft seq ack) s (fun t => t = s) ∧ Does (.replayRequest k ack) s (fun t => t = s) ∧
      Does (.idleFlit k) s fun t => t = s)

/-- PORT_TRAINING, PORT_DOWN and LINK_RETRAIN (R237 to R240, R395): a port that trains is up and starts its sequence numbers anew, one
that fails is down with a fault; a port that goes down logs its fault and, where the policy asks, requests a retrain; a retrain ends its
activity. Model's choices and readings: log entry 1. -/
def Obligations.PortsComeUpAndGoDown : Prop :=
  (∀ (s : State) (k : Nat), Up s → phaseEnded s 5 = true → k < 4 → portUp s k = false → getF s (F.CHN_PORT_state k) ≠ 3 →
    (portRun s k).failed = false → s.chn.closed = true →
    Does (.portTraining k true) s fun t => portUp t k = true ∧ portRun t k = { PortRun.fresh with lastGood := slot s } ∧
      Only [.chn] [Off.CHN_PORT k] s t) ∧
  (∀ (s : State) (k : Nat), Up s → phaseEnded s 5 = true → k < 4 → portUp s k = false → getF s (F.CHN_PORT_state k) ≠ 3 →
    (portRun s k).failed = false → s.chn.closed = true →
    Does (.portTraining k false) s fun t => getF t (F.CHN_PORT_state k) = 0 ∧ (portRun t k).failed = true ∧
      hasF t F.SAF_STATUS_fault_seen = true ∧ Only (.chn :: eventParts) (Off.CHN_PORT k :: logRegs s) s t) ∧
  (∀ s : State, Up s → phaseEnded s 5 = true → portUp s 1 = false → getF s (F.CHN_PORT_state 1) ≠ 3 → (portRun s 1).failed = false →
    (portRun s 0).failed = false → isHead s = true → addressing s = true → s.chn.tokenAt = none →
    Does (.portTraining 1 true) s fun t => portUp t 1 = true ∧ t.sent = .link 1 0x01 1 (mySerial s) :: s.sent ∧
      t.chn.tokenAt = some (slot s) ∧ Only [.chn, .sent] [Off.CHN_PORT 1, Off.CHN_MSG_TX] s t) ∧
  (∀ (s : State) (k : Nat), Up s → k = 2 ∨ k = 3 → portUp s k = true →
    Does (.portDown k) s fun t => getF t (F.CHN_PORT_state k) = 0 ∧ hasF t F.SAF_STATUS_fault_seen = true ∧
      (hasF s F.SAF_POLICY_auto_retrain = true → ⟨3, 0, k⟩ ∈ t.maint.waiting ∨ ⟨3, 0, k⟩ ∈ t.maint.running) ∧
      Only (.maint :: eventParts) (Off.CHN_PORT k :: Off.SAF_MAINT :: logRegs s) s t) ∧
  (∀ (s : State) (k : Nat), Up s → k = 2 ∨ k = 3 → ⟨3, 0, k⟩ ∈ s.maint.running →
    Does (.linkRetrain k true) s fun t => portUp t k = true ∧ ⟨3, 0, k⟩ ∉ t.maint.running ∧
      getF t (F.CHN_PORT_retrains k) = min (Field.max (F.CHN_PORT_retrains k)) (getF s (F.CHN_PORT_retrains k) + 1) ∧
      Only [.chn, .maint] [Off.CHN_PORT k, Off.SAF_MAINT] s t) ∧
  (∀ (s : State) (k : Nat) (ok : Bool), Up s → ⟨3, 0, k⟩ ∉ s.maint.running → Does (.linkRetrain k ok) s fun t => t = s)

/-- ADDRESS_TOKEN, CLOSURE, ERROR_NOTICE and ADDRESSING_TIMEOUT (R240, R241): a module without an address takes the token's value and
passes it on raised by 1, the closure gives it the length of the chain, an error is recorded, shown and passed on, and a missing head or
closure is an error after 2 s. Model's choices and readings: log entry 1. -/
def Obligations.AddressingGivesEachModuleAnAddress : Prop :=
  (∀ (s : State) (v : Nat) (o : Word), Up s → isHead s = false → addressing s = true → s.chn.origin = none → v < 64 →
    Does (.addressToken 0 v o) s fun t => myAddr t = v ∧ t.chn.origin = some o ∧ t.chn.tokenAt = some (slot s) ∧
      t.sent = .link 1 0x01 (v + 1) o :: s.sent ∧ Only [.chn, .sent] [Off.CHN_ADDR, Off.CHN_MSG_RX, Off.CHN_MSG_TX] s t) ∧
  (∀ (s : State) (n : Nat) (o : Word), Up s → isHead s = false → addressing s = true → s.chn.origin = some o → myAddr s < n → n ≤ 64 →
    (∀ a, linkLost s a = false) →
    Does (.closure 0 n o) s fun t => chainLen t = n ∧ hasF t F.CHN_STATUS_addressed = true ∧ t.chn.closed = true ∧ t.chn.closedAt = slot s ∧
      myAddr t = myAddr s ∧ .link 1 0x02 n o ∈ t.sent ∧
      Only [.chn, .sent] [Off.CHN_ADDR, Off.CHN_STATUS, Off.CHN_MSG_RX, Off.CHN_MSG_TX, Off.CHN_PORT 2, Off.CHN_PORT 3, Off.CHN_FEED (myAddr s / 8)] s t) ∧
  (∀ (s : State) (code sender : Nat), Up s → 1 ≤ code → code ≤ 6 → getF s F.CHN_ADDR_error = 0 →
    Does (.errorNotice code sender) s fun t => getF t F.CHN_ADDR_error = code ∧ hasF t F.CHN_STATUS_addressed = false ∧
      hasF t F.CHN_STATUS_chain_error = true ∧ t.sent.head? = some (.link 1 0x03 (code + 16 * sender) 0) ∧
      Only eventParts [Off.CHN_ADDR, Off.CHN_STATUS, Off.CHN_MSG_RX, Off.CHN_MSG_TX, Off.HST_IRQ_PENDING] s t) ∧
  (∀ (s : State) (t0 : Nat), Up s → addressing s = true → isHead s = false → s.chn.trainAt = some t0 → s.chn.origin = none →
    t0 + 7812500 ≤ slot s →
    Does .addressingTimeout s fun t => getF t F.CHN_ADDR_error = 1 ∧ hasF t F.CHN_STATUS_chain_error = true ∧
      Only eventParts [Off.CHN_ADDR, Off.CHN_STATUS, Off.CHN_MSG_TX, Off.HST_IRQ_PENDING] s t) ∧
  (∀ (s : State) (t0 : Nat), Up s → addressing s = true → isHead s = true → s.chn.tokenAt = some t0 → t0 + 7812500 ≤ slot s →
    Does .addressingTimeout s fun t => getF t F.CHN_ADDR_error = 6 ∧ hasF t F.CHN_STATUS_chain_error = true ∧
      Only eventParts [Off.CHN_ADDR, Off.CHN_STATUS, Off.CHN_MSG_TX, Off.HST_IRQ_PENDING] s t) ∧
  (∀ s : State, Up s → addressing s = false → Does .addressingTimeout s fun t => t = s)

/-- SKIP_PROBE and SKIP_PROBE_TIMEOUT (R242) prove a skip port or mark it unused; REJOIN_TOKEN and REJOIN_CHECK (R243) give a module that
comes back its address and make it announce its feed; HEAL_NOTICE (R249) marks the link lost, shows it and passes the notice on. Model's
choices and readings: log entries 43, 46. -/
def Obligations.TheChainProbesAndHeals : Prop :=
  (∀ (s : State) (port : Nat), Up s → s.chn.closed = true → 3 ≤ chainLen s → port = 2 ∨ port = 3 →
    Does (.skipProbe port (skipNeighbour s port)) s fun t => port ∈ t.chn.probed ∧ Only [.chn] [Off.CHN_MSG_RX] s t) ∧
  (∀ (s : State) (port a : Nat), Up s → s.chn.closed = true → 3 ≤ chainLen s → port = 2 ∨ port = 3 → a ≠ skipNeighbour s port →
    Does (.skipProbe port a) s fun t => hasF t F.CHN_STATUS_skip_fault = true ∧ getF t (F.CHN_PORT_state port) = 3 ∧
      Only [] [Off.CHN_MSG_RX, Off.CHN_STATUS, Off.CHN_PORT port] s t) ∧
  (∀ (s : State) (port : Nat), Up s → s.chn.closed = true → 3 ≤ chainLen s → port = 2 ∨ port = 3 → port ∉ s.chn.probed →
    s.chn.closedAt + 390625 ≤ slot s → getF s (F.CHN_PORT_state port) ≠ 3 →
    Does (.skipProbeTimeout port) s fun t => hasF t F.CHN_STATUS_skip_fault = true ∧ getF t (F.CHN_PORT_state port) = 3 ∧
      Only [] [Off.CHN_STATUS, Off.CHN_PORT port] s t) ∧
  (∀ (s : State) (a n : Nat) (o : Word), Up s → s.chn.closed = false → a < n → n ≤ 64 →
    Does (.rejoinToken a n o) s fun t => myAddr t = a ∧ chainLen t = n ∧ getF t F.CHN_ADDR_error = 0 ∧ hasF t F.CHN_STATUS_addressed = true ∧
      t.chn.closed = true ∧ t.chn.origin = some o ∧ t.sent.head? = some (.link 1 0x107 a 0) ∧
      Only [.chn, .sent] [Off.CHN_ADDR, Off.CHN_STATUS, Off.CHN_MSG_RX, Off.CHN_MSG_TX, Off.CHN_PORT 2, Off.CHN_PORT 3] s t) ∧
  (∀ s : State, Up s → s.chn.closed = true → s.chn.rejoined = false → (∀ a, linkLost s a = false) →
    Does (.rejoinCheck ((myAddr s + 1) % chainLen s)) s fun t => t.chn.rejoined = true ∧
      Only [.chn, .sent] [Off.CHN_MSG_TX, Off.CHN_FEED (myAddr s / 8)] s t) ∧
  (∀ (s : State) (e : Nat), Up s → s.chn.closed = true → s.chn.rejoined = false → e ≠ (myAddr s + 1) % chainLen s → getF s F.CHN_ADDR_error = 0 →
    Does (.rejoinCheck e) s fun t => getF t F.CHN_ADDR_error = 4 ∧ hasF t F.CHN_STATUS_chain_error = true ∧
      Only eventParts [Off.CHN_ADDR, Off.CHN_STATUS, Off.CHN_MSG_TX, Off.HST_IRQ_PENDING] s t) ∧
  (∀ (s : State) (link reporter : Nat), Up s → link < chainLen s → 2 ≤ chainLen s → (∀ a, linkLost s a = false) → s.chn.unacked = [] →
    Does (.healNotice link reporter false) s fun t => linkLost t link = true ∧ (∀ a, a ≠ link → linkLost t a = false) ∧
      getF t F.CHN_HEAL_link = link % 64 ∧ getF t F.CHN_HEAL_restored = 0 ∧ getF t F.CHN_HEAL_reporter = reporter % 64 ∧
      getF t F.CHN_HEAL_SLOT_slot = slot s ∧ hasF t F.CHN_STATUS_heal_seen = true ∧ getF t F.CHN_LOST_lost = 0 ∧
      Only [.chn, .sent] [Off.CHN_HEAL, Off.CHN_HEAL_SLOT, Off.CHN_STATUS, Off.CHN_LOST, Off.CHN_MSG_RX, Off.CHN_MSG_TX] s t) ∧
  (∀ (s : State) (link reporter : Nat), Up s → linkLost s link = true →
    Does (.healNotice link reporter false) s fun t => Only [] [Off.CHN_MSG_RX] s t)

/-- ACK_SEND, ACKNOWLEDGEMENT and MESSAGE_RESEND (R247): what is due is acknowledged with the highest seq received in order; an
acknowledgement releases every message up to its seq; a message unacknowledged for 1 ms goes out again, here on a route that carries.
MESSAGE_DELIVER (R245 to R247): a message in its turn is delivered once and owes an acknowledgement, one behind a gap is held, one whose
head check fails is dropped and counted. MESSAGE_FORWARD (R246) sends a message for another module on, unchanged. Model's choices and
readings: log entries 1, 22, 23. -/
def Obligations.MessagesAreKeptAndDelivered : Prop :=
  (∀ (s : State) (src k : Nat), Up s → FMap.get 0 s.chn.ackDue src ≠ 0 → src ≠ myAddr s → route s src false = some k →
    Does (.ackSend src) s fun t => FMap.get 0 t.chn.ackDue src = 0 ∧ FMap.get 0 t.chn.rxCount src = 0 ∧
      t.sent = .message (some k) ⟨0x07, myAddr s, src, 0, 0, true, leBytes 8 ((FMap.get 0 s.chn.rxNext src + 2 ^ 32 - 1) % 2 ^ 32)⟩ :: s.sent ∧
      t.chn.unacked = s.chn.unacked ∧ Only [.chn, .sent] [Off.CHN_MSG_TX] s t) ∧
  (∀ (s : State) (src seq : Nat), Up s → (∀ u ∈ s.chn.unacked, u.msg.kind ≠ 0x20) →
    Does (.acknowledgement src seq) s fun t =>
      t.chn.unacked = s.chn.unacked.filter (fun u => !(u.dest == src && decide ((seq + 2 ^ 32 - u.seq) % 2 ^ 32 < 2 ^ 31))) ∧
      Only [.chn] [] s t) ∧
  (∀ (s : State) (dest k : Nat) (u : Unacked), Up s → s.chn.unacked = [u] → u.dest = dest → u.sent + 3907 ≤ slot s → u.msg.dest ≠ myAddr s →
    route s u.msg.dest (skips s u.msg.kind u.msg.body) = some k →
    Does (.messageResend dest) s fun t => t.chn.unacked = [{ u with sent := slot s }] ∧ t.sent = .message (some k) u.msg :: s.sent ∧
      getF t F.CHN_RESEND_CNT_count = min (Field.max F.CHN_RESEND_CNT_count) (getF s F.CHN_RESEND_CNT_count + 1) ∧
      Only [.chn, .sent] [Off.CHN_RESEND_CNT] s t) ∧
  (∀ (s : State) (dest : Nat), Up s → (∀ u ∈ s.chn.unacked, u.dest ≠ dest) → Does (.messageResend dest) s fun t => t = s) ∧
  (∀ (s : State) (m : ChainMsg), Up s → s.chn.closed = true → m.dest = myAddr s → m.headOk = true → m.kind = 0x10 → m.source < chainLen s →
    m.seq = FMap.get 0 s.chn.rxNext m.source → m.seq < 2 ^ 32 → m.jobTag = getF s F.CHN_JOB_job_tag → s.chn.held = [] →
    FMap.get 0 s.chn.rxCount m.source < 15 → (syncFlags s (bits (wordAt m.body 0) 24 12)).imp = true →
    Does (.messageDeliver m) s fun t => FMap.get 0 t.chn.rxNext m.source = (m.seq + 1) % 2 ^ 32 ∧ FMap.get 0 t.chn.ackDue m.source = 1 ∧
      t.lch.signals = s.lch.signals ++ [⟨slot s + 2, bits (wordAt m.body 0) 24 12, (wordAt m.body 1).toNat⟩] ∧
      getF t F.CHN_MSG_RX_count = min (Field.max F.CHN_MSG_RX_count) (getF s F.CHN_MSG_RX_count + 1) ∧
      Only [.chn, .lch] [Off.CHN_MSG_RX] s t) ∧
  (∀ (s : State) (m : ChainMsg), Up s → s.chn.closed = true → m.dest = myAddr s → m.headOk = true → 7 < m.kind → m.source < chainLen s →
    0 < (m.seq + 2 ^ 32 - FMap.get 0 s.chn.rxNext m.source) % 2 ^ 32 →
    (m.seq + 2 ^ 32 - FMap.get 0 s.chn.rxNext m.source) % 2 ^ 32 < 2 ^ 31 →
    (∀ x ∈ s.chn.held, x.source = m.source → x.seq ≠ m.seq) →
    Does (.messageDeliver m) s fun t => t.chn.held = s.chn.held ++ [m] ∧ t.chn.rxNext = s.chn.rxNext ∧ Only [.chn] [] s t) ∧
  (∀ (s : State) (m : ChainMsg), Up s → s.chn.closed = true → m.dest = myAddr s → m.headOk = false → 7 ≤ m.kind →
    Does (.messageDeliver m) s fun t => hasF t F.CHN_STATUS_msg_dropped = true ∧
      getF t F.CHN_MSG_DROP_count = min (Field.max F.CHN_MSG_DROP_count) (getF s F.CHN_MSG_DROP_count + 1) ∧
      Only [] [Off.CHN_MSG_DROP, Off.CHN_STATUS] s t) ∧
  (∀ (s : State) (m : ChainMsg) (k : Nat), Up s → s.chn.closed = true → m.dest ≠ myAddr s → m.dest < chainLen s →
    route s m.dest (skips s m.kind m.body) = some k →
    Does (.messageForward m) s fun t => t.sent = .message (some k) m :: s.sent ∧ Only [.chn, .sent] [] s t)

/-- SYNC, NORM, COUNT, LAYOUT and DIGEST (R151, R248, R304, R261, R220) take a message of their kind in: a signal that the object imports,
a norm message or a count of the present step or the next, a layout and a digest record. Model's choices and readings: log entry 22. -/
def Obligations.MessagesOfEachKindAreTakenIn : Prop :=
  (∀ (s : State) (src o : Nat) (w : Word), Up s → (syncFlags s o).imp = true →
    Does (.syncMsg src o w) s fun t => t.lch.signals = s.lch.signals ++ [⟨slot s + 2, o, w.toNat⟩] ∧ Only [.lch] [] s t) ∧
  (∀ (s : State) (src o : Nat) (w : Word), Up s → (syncFlags s o).imp = false →
    Does (.syncMsg src o w) s fun t => hasF t F.LCH_STATUS_import_dropped = true ∧
      getF t F.LCH_IMPORT_DROP_count = min (Field.max F.LCH_IMPORT_DROP_count) (getF s F.LCH_IMPORT_DROP_count + 1) ∧
      Only [] [Off.LCH_IMPORT_DROP, Off.LCH_STATUS] s t) ∧
  (∀ (s : State) (src n pos m : Nat) (loss grad abort : Bool) (part : Word32), Up s → nearStep s n = some m → s.chn.loss = none →
    Does (.normMsg src n pos loss grad abort part) s fun t => ⟨m, src, pos, loss, grad, abort, part, false⟩ ∈ t.trn.norms ∧
      (∀ r ∈ t.trn.norms, r.source = src → r.step = m → r = ⟨m, src, pos, loss, grad, abort, part, false⟩) ∧ Only [.trn] [] s t) ∧
  (∀ (s : State) (src n m : Nat) (c : Word), Up s → nearStep s n = some m →
    Does (.countMsg src n c) s fun t => (src, m, c.toNat) ∈ t.trn.counts ∧ (∀ x ∈ t.trn.counts, x.1 = src → x.2.1 = m → x.2.2 = c.toNat) ∧
      Only [.trn] [] s t) ∧
  (∀ (s : State) (src n lay adopted : Nat) (dig : Word32), Up s →
    Does (.layoutMsg src n lay adopted dig) s fun t => ⟨src, n, lay, adopted, dig⟩ ∈ t.chn.layouts ∧ Only [.chn] [] s t) ∧
  (∀ (s : State) (src sh n : Nat) (dg : List Byte), Up s → (digestOf s sh n).own = none → s.trn.owed ≠ [] →
    Does (.digestMsg src sh n dg) s fun t => (digestOf t sh n).got = (digestOf s sh n).got.filter (fun g => g.1 != src) ++ [(src, dg)] ∧
      Only [.trn] [] s t) ∧
  (∀ (s : State) (src sh n : Nat) (own dg : List Byte), Up s → (digestOf s sh n).own = some own → (digestOf s sh n).round = 0 → own ≠ dg →
    s.trn.owed ≠ [] →
    Does (.digestMsg src sh n dg) s fun t => hasF t F.UPD_STATUS_digest_mismatch = true ∧ hasF t F.SAF_STATUS_fault_seen = true ∧
      Only (.trn :: eventParts) ([Off.UPD_DIGEST_MISMATCH_CNT, Off.UPD_STATUS] ++ logRegs s) s t)

/-- PARTNER_REQUEST and PARTNER_REPLY (R189, R248): a request for a frond in move waits, one for a frond that is not held is answered so,
one for a sound frond is answered with its image; a reply that serves is written where it was wanted and sealed. FEED_ANNOUNCE (R264,
R265) records the feed and recomputes the partner. Model's choices and readings: log entries 1, 22, 45, 49. -/
def Obligations.PartnersServeEachOther : Prop :=
  (∀ (s : State) (src id tag : Nat) (w : Word), Up s → (ftGet s id).valid = true → (ftGet s id).inMove = true →
    Does (.partnerRequest src id tag w) s fun t => t.chn.reqs = s.chn.reqs ++ [(src, id, tag)] ∧ Only [.chn] [] s t) ∧
  (∀ (s : State) (src id tag k : Nat) (w : Word), Up s → (ftGet s id).valid = false → src ≠ myAddr s → route s src false = some k →
    Does (.partnerRequest src id tag w) s fun t => t.sent = .message (some k) ⟨0x14, myAddr s, src, FMap.get 0 s.chn.txSeq src,
        getF s F.CHN_JOB_job_tag, true, wordBytes [id % 2 ^ 32 + 2 ^ 32 * (tag % 2 ^ 32), 1]⟩ :: s.sent ∧
      Only [.chn, .sent] [Off.CHN_MSG_TX] s t) ∧
  (∀ (s : State) (src id tag k : Nat) (w : Word), Up s → (ftGet s id).valid = true → (ftGet s id).inMove = false →
    (ftGet s id).poisoned = false → checkOk s (ftGet s id).fmt (ftGet s id).home = true → src ≠ myAddr s → route s src false = some k →
    Does (.partnerRequest src id tag w) s fun t => t.sent = .message (some k) ⟨0x14, myAddr s, src, FMap.get 0 s.chn.txSeq src,
        getF s F.CHN_JOB_job_tag, true, wordBytes [id % 2 ^ 32 + 2 ^ 32 * (tag % 2 ^ 32), 0] ++
          frondImage s (ftGet s id).fmt (ftGet s id).home⟩ :: s.sent ∧ Only [.chn, .sent] [Off.CHN_MSG_TX] s t) ∧
  (∀ (s : State) (id tag : Nat) (data : List Byte) (j : FetchJob), Up s → s.trn.fetches.find? (fun j => j.tag == tag && j.frond == id) = some j →
    j.why = 0 → j.move = false → data.length = (ftGet s id).fmt.imageLen → s.chn.reqs = [] →
    (Header.ofBytes ((data.drop payloadLen).take 64)).step = j.step → frondCheck data = (Header.ofBytes ((data.drop payloadLen).take 64)).check →
    Does (.partnerReply id tag 0 data) s fun t => rd t j.place data.length = data ∧ isSealed t j.place = true ∧
      (∀ x ∈ t.trn.fetches, x.tag ≠ tag) ∧
      getF t F.MEM_PARTNER_FETCH_CNT_count = min (Field.max F.MEM_PARTNER_FETCH_CNT_count) (getF s F.MEM_PARTNER_FETCH_CNT_count + 1) ∧
      BytesBut [(j.place, data.length)] s t ∧ Only [.mem, .flash, .lch, .trn] [Off.MEM_PARTNER_FETCH_CNT] s t) ∧
  (∀ (s : State) (id tag st : Nat) (data : List Byte), Up s → s.trn.fetches = [] → Does (.partnerReply id tag st data) s fun t => t = s) ∧
  (∀ (s : State) (a f : Nat), Up s → a < 64 →
    Does (.feedAnnounce a f) s fun t => bits (getReg t (Off.CHN_FEED (a / 8))) (8 * (a % 8) + 2) (8 * (a % 8)) = f % 8 ∧
      bit (getReg t (Off.CHN_FEED (a / 8))) (8 * (a % 8) + 7) = true ∧ Only [] [Off.CHN_FEED (a / 8), Off.CHN_PARTNER, Off.CHN_SURVIVE] s t)

/-- LOSS_REPORT, LOSS_REPORT_TIMEOUT and RE_REDUCE (R270, R272): a report that comes before the module's own loss boundary waits; one that
names the same stand-in is heard; a report missing 1 ms after the boundary takes the module into HOLD with cause 9; a re-reduction of a
dropped step asks for its norm message again. Model's choices and readings: log entries 1, 54. -/
def Obligations.LossReportsDecideTheStep : Prop :=
  (∀ (s : State) (r lost st n : Nat) (ns : List (List Byte)), Up s → s.chn.loss = none →
    Does (.lossReport r lost st n ns) s fun t => t.chn.reports = s.chn.reports ++ [(r, lost, st, ns)] ∧ Only [.chn] [] s t) ∧
  (∀ (s : State) (r n : Nat) (l : LossRun), Up s → s.chn.loss = some l → r ∉ l.heard →
    Does (.lossReport r l.lost l.standIn n []) s fun t => (∃ m, t.chn.loss = some m ∧ m.lost = l.lost ∧ r ∈ m.heard) ∧
      Only [.chn, .trn] [Off.CHN_LOSS, Off.CHN_SURVIVE] s t) ∧
  (∀ (s : State) (l : LossRun), Up s → s.chn.loss = some l → l.open0 = true → l.at0 + 3907 ≤ slot s →
    Does .lossReportTimeout s fun t => Holds 9 t ∧ hasF t F.CHN_SURVIVE_report_fault = true ∧
      Only (.chn :: holdParts) (Off.CHN_SURVIVE :: (holdRegs ++ logRegs s)) s t) ∧
  (∀ (s : State) (l : LossRun), Up s → s.chn.loss = some l → slot s < l.at0 + 3907 → Does .lossReportTimeout s fun t => t = s) ∧
  (∀ (s : State) (p : Plan) (l : LossRun) (m n : Nat), Up s → s.plan = some p → s.chn.loss = some l → l.dropped = some m → m ≤ n →
    oldReduces s (n - p.header.startStep) l.at0 = [] →
    Does (.reReduce n) s fun t => t.trn.normSent = false ∧ Only [.trn, .chn] [] s t) ∧
  (∀ (s : State) (n : Nat), Up s → s.chn.loss = none → Does (.reReduce n) s fun t => t = s)

/-- COLLECTIVE_DATA and CREDIT (R253, R255): a gathered frond of a step in direct form becomes its two sealed views and gives its sender
credit; data that matches no step is dropped with collective_fault; credit reaches the step it names, or waits for it. PERMUTE_DECISION
and PERMUTE_TRANSFER (R261, R262): with every layout message in, a permute goes ahead exactly where all agree and the change is one; a
frond that moves goes to its new owner, its check verified, within the credit of that owner. Model's choices and readings: log entries 22,
37, 38, 44. -/
def Obligations.CollectivesAndPermutesMoveFronds : Prop :=
  (∀ (s : State) (src d iter hop idx k : Nat) (w : Word) (im : List Byte) (r : CollRun) (c : CollDesc), Up s → s.chn.loss = none →
    collRun s d iter false = some r → descOf s d = some c → r.direct = true → r.queue = [] → idx ∉ r.sealed → c.regather = none →
    c.versionIdx = none → src ≠ myAddr s → route s src false = some k →
    Does (.collectiveData src d iter 0 hop idx w im) s fun t => (∃ q ∈ t.chn.colls, q.key = r.key ∧ idx ∈ q.sealed) ∧
      isSealed t (c.dest + 65792 * (2 * idx)) = true ∧ isSealed t (c.dest + 65792 * (2 * idx + 1)) = true ∧
      BytesBut [(c.dest + 65792 * (2 * idx), 2 * 65792)] s t ∧ Only [.chn, .sent, .mem, .flash, .lch] (Off.CHN_MSG_TX :: numRegs) s t) ∧
  (∀ (s : State) (src d iter st hop idx : Nat) (w : Word) (im : List Byte), Up s → s.chn.loss = none → s.chn.colls = [] →
    Does (.collectiveData src d iter st hop idx w im) s fun t => hasF t F.CHN_STATUS_collective_fault = true ∧
      getF t F.CHN_MSG_DROP_count = min (Field.max F.CHN_MSG_DROP_count) (getF s F.CHN_MSG_DROP_count + 1) ∧
      Only eventParts [Off.CHN_MSG_DROP, Off.CHN_STATUS, Off.HST_IRQ_PENDING] s t) ∧
  (∀ (s : State) (src d iter n : Nat), Up s → s.chn.colls = [] →
    Does (.credit src d iter n) s fun t => t.chn.credits = s.chn.credits ++ [(src, d, iter, n)] ∧ Only [.chn] [] s t) ∧
  (∀ (s : State) (src n : Nat) (r : CollRun), Up s → s.chn.colls = [r] → r.queue = [] →
    Does (.credit src r.desc (r.iter % 2 ^ 32) n) s fun t =>
      t.chn.colls = [{ r with credit := FMap.set 0 r.credit src (FMap.get 0 r.credit src + n) }] ∧ Only [.chn] [] s t) ∧
  (∀ (s : State) (r : PermRun), Up s → s.chn.perm = some r → r.go = none → others s = [] →
    let dig := roleDigest r.roles (getF s F.CHN_JOB_s) (getF s F.CHN_JOB_p)
    Does .permuteDecision s fun t =>
      t.chn.perm = some { r with go := some (r.layout != getF s F.CHN_ADOPTED_layout || dig.toNat != getF s F.CHN_ADOPTED_role_digest) } ∧
      Only [.chn] [] s t) ∧
  (∀ (s : State) (r : PermRun) (a : Nat) (m : LayoutRec), Up s → s.chn.perm = some r → r.go = none → others s = [a] →
    s.chn.layouts.find? (fun m => m.source == a && m.step == r.step % 2 ^ 32) = some m → m.layout ≠ r.layout →
    Does .permuteDecision s fun t => t.chn.perm = some { r with go := some false } ∧ Only [.chn] [Off.CHN_STATUS] s t) ∧
  (∀ (s : State) (r : PermRun) (c : CollRun) (sh i b id cl k : Nat) (h : Shard) (f : Fmt), Up s → permRunOf s = some (r, c) → r.go = some true →
    permMoves s r = [(h, myAddr s, b)] → h.id = sh → (permFronds h)[i]? = some (id, f, cl) → 64 * id + b ∉ r.sentF → b ≠ myAddr s →
    checkOk s f (homeOf s id) = true → c.queue = [] → 0 < FMap.get 0 c.credit b →
    route s b (skips s 0x20 (dataBody c 4 0 id (frondImage s f (homeOf s id)))) = some k →
    Does (.permuteTransfer sh i) s fun t => (∃ q, t.chn.perm = some q ∧ 64 * id + b ∈ q.sentF) ∧
      t.sent = .message (some k) ⟨0x20, myAddr s, b, FMap.get 0 s.chn.txSeq b, getF s F.CHN_JOB_job_tag, true,
        dataBody c 4 0 id (frondImage s f (homeOf s id))⟩ :: s.sent ∧ Only [.chn, .sent] [Off.CHN_MSG_TX] s t)

/-- SAMPLE_DESCRIPTOR (R292): the next descriptor of the ring is discarded when its check fails, left when its step lies ahead of the next
one, and filed for its slot when a batch of its step expects it. PRESSURE_WINDOW (R307) shows the work of the window over four units and
the backlog, and opens the next window; COUNT_MESSAGE_SEND (R304) shows the step and the weight of its samples and sends the count once,
and does nothing before the count is fixed. Model's choices and readings: log entries 1, 53. -/
def Obligations.SamplesAreFiledAndCounted : Prop :=
  (∀ s : State, Up s → s.plan.isSome = true → getF s F.INT_SUB_HEAD_head ≠ getF s F.INT_SUB_TAIL_tail → descOk (nextDesc s) = false →
    Does .sampleDescriptor s fun t => getF t F.INT_SUB_HEAD_head = (getF s F.INT_SUB_HEAD_head + 1) % 2 ^ 32 ∧
      hasF t F.INT_STATUS_desc_dropped = true ∧ getF t F.INT_DESC_DROP_count = min (2 ^ 64 - 1) (getF s F.INT_DESC_DROP_count + 1) ∧
      t.int.filed = s.int.filed ∧
      Only (.int :: eventParts) [Off.INT_SUB_HEAD, Off.INT_DESC_DROP, Off.INT_STATUS, Off.INT_PAYLOAD_DONE, Off.HST_IRQ_PENDING] s t) ∧
  (∀ s : State, Up s → s.plan.isSome = true → getF s F.INT_SUB_HEAD_head ≠ getF s F.INT_SUB_TAIL_tail → descOk (nextDesc s) = true →
    2 ≤ (descStep (nextDesc s) + 2 ^ 32 - s.trn.cur % 2 ^ 32) % 2 ^ 32 → (descStep (nextDesc s) + 2 ^ 32 - s.trn.cur % 2 ^ 32) % 2 ^ 32 < 2 ^ 31 →
    Does .sampleDescriptor s fun t => t = s) ∧
  (∀ (s : State) (b : IntakeBatch) (i : Nat), Up s → s.plan.isSome = true → getF s F.INT_SUB_HEAD_head ≠ getF s F.INT_SUB_TAIL_tail →
    descOk (nextDesc s) = true → (descStep (nextDesc s) + 2 ^ 32 - s.trn.cur % 2 ^ 32) % 2 ^ 32 = i → i < 2 →
    batchFor s (descM (nextDesc s)) (descSlot (nextDesc s)) = some b →
    filedOf s (s.trn.cur + i) (descM (nextDesc s)) (descSlot (nextDesc s)) = none →
    doneOf s (s.trn.cur + i) (descM (nextDesc s)) (descSlot (nextDesc s)) = none →
    Does .sampleDescriptor s fun t => getF t F.INT_SUB_HEAD_head = (getF s F.INT_SUB_HEAD_head + 1) % 2 ^ 32 ∧
      t.int.filed = s.int.filed ++ [⟨s.trn.cur + i, descM (nextDesc s), descSlot (nextDesc s), getF s F.INT_SUB_HEAD_head, nextDesc s,
        costOf b (nextDesc s), false⟩] ∧
      t.int.window = s.int.window + costOf b (nextDesc s) ∧ Only [.int] [Off.INT_SUB_HEAD] s t) ∧
  (∀ s : State, Up s → Does .pressureWindow s fun t =>
    getF t F.INT_PRESSURE_pressure = min (Field.max F.INT_PRESSURE_pressure) (65536 * s.int.window / 320000000) ∧
    getF t F.INT_PRESSURE_backlog_us = min (Field.max F.INT_PRESSURE_backlog_us)
      (((s.int.filed.filter fun x => !x.done).foldl (fun t x => t + x.cost) 0) / 80000) ∧
    t.int.window = 0 ∧ Only [.int] [Off.INT_PRESSURE] s t) ∧
  (∀ (s : State) (p : Plan), Up s → s.plan = some p → p.training = true → s.int.sent ≤ s.trn.cur → p.iterations = 0 →
    countReady s p (s.trn.cur - p.header.startStep) = true → others s = [] →
    Does .countMessageSend s fun t => getF t F.INT_COUNT_step = s.trn.cur % 2 ^ 32 ∧ t.int.sent = s.trn.cur + 1 ∧
      getF t F.INT_COUNT_count = min (Field.max F.INT_COUNT_count)
        ((s.int.slots.filter fun x => x.step == s.trn.cur).foldl (fun t x => t + x.weight) 0) ∧
      (myAddr s, s.trn.cur, (s.int.slots.filter fun x => x.step == s.trn.cur).foldl (fun t x => t + x.weight) 0) ∈ t.trn.counts ∧
      Only [.int, .trn] [Off.INT_COUNT] s t) ∧
  (∀ (s : State) (p : Plan), Up s → s.plan = some p → s.int.sent ≤ s.trn.cur →
    countReady s p (s.trn.cur - p.header.startStep) = false → Does .countMessageSend s fun t => t = s)

/-- SAMPLE_TIMEOUT (R294), IMAGE_SAMPLE (R296 to R299) and TEXT_PACK (R300): the slot of a running batch completes. One not filed in time
is corrupt with reason 10; an image is corrupt with the reason of the first check it fails, else valid, or 6 or 7 where its decoder
refuses it; the rows of a text batch are written and sealed and each of its slots completes. Model's choices and readings: log entries 1,
51, 52. -/
def Obligations.SlotsOfABatchComplete : Prop :=
  (∀ (s : State) (batch k : Nat) (b : IntakeBatch) (p : Plan) (i : Nat), Up s → s.plan = some p → runningIntake s batch = some (k, b) →
    b.first ≤ i → i < b.first + b.count → filedOf s (stepOf s (keyIter k)) b.m i = none → doneOf s (stepOf s (keyIter k)) b.m i = none →
    (runOf s k).issueSlot + (if p.header.sampleTimeout = 0 then 390625 else p.header.sampleTimeout) ≤ slot s →
    Does (.sampleTimeout batch i) s fun t => doneOf t (stepOf s (keyIter k)) b.m i = some ⟨stepOf s (keyIter k), b.m, i, 0, 10, 0⟩ ∧
      hasF t F.INT_STATUS_corrupt_seen = true ∧ getF t F.INT_STATUS_last_reason = 10 ∧
      getF t F.INT_CORRUPT_CNT_count = min (Field.max F.INT_CORRUPT_CNT_count) (getF s F.INT_CORRUPT_CNT_count + 1) ∧
      (b.text = true → Only [.int, .mem, .flash, .host, .sent] [Off.INT_SAMPLES_CNT, Off.INT_EV_HEAD, Off.INT_CORRUPT_CNT,
        Off.INT_LAST_CORRUPT, Off.INT_STATUS, Off.HST_IRQ_PENDING] s t)) ∧
  (∀ (s : State) (batch k : Nat) (b : IntakeBatch) (p : Plan) (i : Nat), Up s → s.plan = some p → runningIntake s batch = some (k, b) →
    slot s < (runOf s k).issueSlot + (if p.header.sampleTimeout = 0 then 390625 else p.header.sampleTimeout) →
    Does (.sampleTimeout batch i) s fun t => t = s) ∧
  (∀ (s : State) (batch k : Nat) (b : IntakeBatch) (p : Plan) (i : Nat) (x : Sample), Up s → s.plan = some p → runningIntake s batch = some (k, b) → b.text = false →
    b.first ≤ i → i < b.first + b.count → filedOf s (stepOf s (keyIter k)) b.m i = some x → x.done = false → doneOf s (stepOf s (keyIter k)) b.m i = none →
    Does (.imageSample batch i) s fun t => ∃ r, doneOf t (stepOf s (keyIter k)) b.m i = some ⟨stepOf s (keyIter k), b.m, i, descId x.desc, r, if r = 0 then 1 else 0⟩ ∧
      (boundsReason s b x.desc ≠ 0 → r = boundsReason s b x.desc) ∧
      (boundsReason s b x.desc = 0 → payloadOk s x.desc = false → r = 5) ∧
      (boundsReason s b x.desc = 0 → payloadOk s x.desc = true → r = if descKind x.desc = 0 then
        (let (jr, jw, jh, _, _) := Config.jpegDecode (payloadOf s x.desc)
         if jr = 6 then 6 else if jr ≠ 0 ∨ jw ≠ descWidth x.desc ∨ jh ≠ descHeight x.desc then 7 else 0) else 0)) ∧
  (∀ (s : State) (batch k : Nat) (b : IntakeBatch) (p : Plan), Up s → s.plan = some p → runningIntake s batch = some (k, b) → b.text = true →
    s.int.packed.contains k = false →
    (∀ i, i < b.count → (filedOf s (stepOf s (keyIter k)) b.m (b.first + i)).isSome = true ∨ (doneOf s (stepOf s (keyIter k)) b.m (b.first + i)).isSome = true) →
    Does (.textPack batch) s fun t => t.int.packed = s.int.packed ++ [k] ∧
      (∀ i, i < b.count → (doneOf t (stepOf s (keyIter k)) b.m (b.first + i)).isSome = true) ∧
      (∀ i, i < textFronds b → isSealed t (textFrond b i) = true))

/-- OVERCURRENT_TRIP, OVERVOLTAGE_TRIP, RAIL_TRIP, JUNCTION_TRIP and WATCHDOG_EXPIRY (R388, R389, R394): a powered module goes to OFF with
its fault code latched and its volatile state gone; in OFF, and unpowered, they change nothing; the watchdog trips only a module that is
up and has had no heartbeat for 391 slots. The single faults of Table 15.3 whose outcome is HOLD (R386, R389, R133, R446):
CORE_RAIL_UNDER, DIE_SILENT, PACKAGE_LINK_ERROR, JUNCTION_HOLD above 105 °C, COOLANT_FLOW_LOW after ten low reads, MISSING_EDGE,
REF_DEVIATION_WINDOW beyond 1,000 ppm and SYNC_OBJECT_FAILED each take the module into HOLD with their cause. Model's choices and
readings: log entries 1, 82. -/
def Obligations.FaultsTripOrHoldTheModule : Prop :=
  (∀ (s : State) (c : Instr) (both : Bool) (die code : Nat), s.pwr.mode = .up ∨ s.pwr.mode = .inReset →
    (c = .overcurrentTrip both ∧ code = 1) ∨ (c = .overvoltageTrip both ∧ code = 2) ∨ (c = .railTrip ∧ code = 5) ∨
      (c = .junctionTrip die ∧ code = 8) ∨
      (c = .watchdogExpiry ∧ code = 0x16 ∧ Up s ∧ (s.saf.muted = true ∨ s.saf.beatAt + 391 ≤ slot s)) →
    Does c s fun t => t.pwr.mode = .off ∧ t.pwr.trip = code ∧ t.pwr.tripped = true ∧ t.pwr.pwrEn = s.pwr.pwrEn ∧ t.plan = none ∧ t.mem = [] ∧
      t.regs = State.reset.regs ∧ t.fuse = s.fuse ∧ t.flash = s.flash ∧ t.nv = s.nv) ∧
  (∀ (s : State) (c : Instr) (both : Bool) (die : Nat), s.pwr.mode = .off ∨ s.pwr.mode = .unpowered →
    c ∈ [.overcurrentTrip both, .overvoltageTrip both, .railTrip, .junctionTrip die, .watchdogExpiry] → Does c s fun t => t = s) ∧
  (∀ s : State, Up s → s.saf.muted = false → slot s < s.saf.beatAt + 391 → Does .watchdogExpiry s fun t => t = s) ∧
  (∀ (s : State) (c : Instr) (die : Nat), Up s → c ∈ [.coreRailUnder, .dieSilent die, .packageLinkError die] →
    Does c s fun t => Holds 12 t ∧ hasF t F.SAF_STATUS_fault_seen = true ∧ Only holdParts (holdRegs ++ logRegs s) s t) ∧
  (∀ (s : State) (die : Nat) (c : Int), Up s → 105 < c →
    Does (.junctionHold die c) s fun t => Holds 1 t ∧ Only holdParts (holdRegs ++ logRegs s) s t) ∧
  (∀ (s : State) (die : Nat) (c : Int), Up s → c ≤ 105 → Does (.junctionHold die c) s fun t => t = s) ∧
  (∀ s : State, Up s → hasF s F.HST_STATUS_device_ready = true → 10 ≤ s.saf.flowLow →
    Does .coolantFlowLow s fun t => Holds 2 t ∧ Only holdParts (holdRegs ++ logRegs s) s t) ∧
  (∀ (s : State) (m : Bool), Up s → phaseEnded s 4 = true → (m && hasF s F.SAF_STATUS_single_control) = false →
    Does (.missingEdge m) s fun t => Holds 10 t ∧ hasF t F.LCH_STATUS_ref_fault = true ∧
      Only holdParts (Off.LCH_STATUS :: (holdRegs ++ logRegs s)) s t) ∧
  (∀ (s : State) (ppm : Int), Up s → phaseEnded s 4 = true → hasF s F.LCH_REF_STATUS_refclk_absent = false → 1000 < ppm ∨ ppm < -1000 →
    Does (.refDeviationWindow ppm) s fun t => Holds 10 t ∧ hasF t F.LCH_STATUS_ref_fault = true ∧
      Only holdParts (Off.LCH_REF_STATUS :: Off.LCH_STATUS :: (holdRegs ++ logRegs s)) s t) ∧
  (∀ (s : State) (ppm : Int), Up s → phaseEnded s 4 = true → hasF s F.LCH_REF_STATUS_refclk_absent = false → ppm ≤ 1000 → -1000 ≤ ppm →
    Does (.refDeviationWindow ppm) s fun t => getF t F.LCH_REF_STATUS_deviation_ppm = (ppm % 65536).toNat ∧ Only [] [Off.LCH_REF_STATUS] s t) ∧
  (∀ (s : State) (o : Nat), Up s → o < 8192 →
    Does (.syncObjectFailed o) s fun t => Holds 12 t ∧ syncValue t o = 0 ∧ (syncFlags t o).failed = true ∧
      Only holdParts (Off.LCH_SYNC o :: (holdRegs ++ logRegs s)) s t)

/-- SENSOR_READ and FLOW_READ (R391, R439) show the hottest junction and the flow; an implausible reading sets sensor_fault, a fall below
-20 °C raises a class 3 alarm. REFCLK_LOSS and REFCLK_RETURN (R435) set and clear refclk_absent. Model's choices and readings: log entries
69, 81. -/
def Obligations.SensorsAreShownAndJudged : Prop :=
  (∀ (s : State) (d : Nat) (t0 t1 : Int), Up s → phaseEnded s 1 = true → ⟨6, 0, d⟩ ∉ s.maint.running → implausible s d (t0, t1) = false →
    -200 ≤ t0 → -200 ≤ t1 →
    Does (.sensorRead d t0 t1) s fun t => FMap.get noTemp t.saf.temps d = (t0, t1) ∧
      (∀ e, e ≠ d → FMap.get noTemp t.saf.temps e = FMap.get noTemp s.saf.temps e) ∧
      getF t F.SAF_THERMAL_die = (hottest t).1 % 128 ∧
      Only (.saf :: eventParts) [Off.SAF_THERMAL, Off.SAF_STATUS, Off.PWR_GOV, Off.HST_IRQ_PENDING] s t) ∧
  (∀ (s : State) (d : Nat) (t0 t1 : Int), Up s → phaseEnded s 1 = true → ⟨6, 0, d⟩ ∉ s.maint.running → implausible s d (t0, t1) = true →
    Does (.sensorRead d t0 t1) s fun t => FMap.get noTemp t.saf.temps d = (t0, t1) ∧ hasF t F.SAF_STATUS_sensor_fault = true) ∧
  (∀ (s : State) (d : Nat) (t0 t1 : Int), Up s → phaseEnded s 1 = true → ⟨6, 0, d⟩ ∉ s.maint.running → implausible s d (t0, t1) = false →
    t0 < -200 → t1 < -200 → (FMap.get noTemp s.saf.temps d = noTemp ∨ -200 ≤ dieTemp s d) →
    Does (.sensorRead d t0 t1) s fun t => hasF t F.SEC_STATUS_lock = true ∧ t.sec.tenant = none ∧ t.sec.session = none) ∧
  (∀ (s : State) (x : Nat), Up s → 50 ≤ x → x < 65536 → flowMin s ≤ x →
    Does (.flowRead (some x)) s fun t => getF t F.SAF_THERMAL_flow = x ∧ t.saf.flowOk = s.saf.flowOk + 1 ∧ t.saf.flowLow = 0 ∧
      Only [.saf] [Off.SAF_THERMAL] s t) ∧
  (∀ (s : State) (x : Nat), Up s → x < 50 → 0 < flowMin s →
    Does (.flowRead (some x)) s fun t => getF t F.SAF_THERMAL_flow = 0 ∧ t.saf.flowOk = 0 ∧ t.saf.flowLow = s.saf.flowLow + 1 ∧
      Only [.saf] [Off.SAF_THERMAL] s t) ∧
  (∀ s : State, Up s → Does (.flowRead none) s fun t => t.saf.flowOk = 0 ∧ t.saf.flowLow = s.saf.flowLow + 1 ∧ Only [.saf] [] s t) ∧
  (∀ s : State, Up s → Does .refclkLoss s fun t => hasF t F.LCH_REF_STATUS_refclk_absent = true ∧ Only [] [Off.LCH_REF_STATUS] s t) ∧
  (∀ s : State, Up s → Does .refclkReturn s fun t => hasF t F.LCH_REF_STATUS_refclk_absent = false ∧ Only [] [Off.LCH_REF_STATUS] s t)

/-- CONTROL_DISAGREE, SELF_CHECK_END, SINGLE_CONTROL_CHECK and HEARTBEAT (R393, R394): a disagreement is counted and waits on the self-
check; equal results make it a transient, a second disagreement takes the module into HOLD with cause 11, a die that fails its check is
fenced, and a pair of which neither passes stops its heartbeat. Model's choices and readings: log entries 1, 82, 92. -/
def Obligations.TheControlPairDecides : Prop :=
  (∀ s : State, Up s → phaseEnded s 1 = true → hasF s F.SAF_STATUS_single_control = false →
    Does .controlDisagree s fun t => t.saf.checking = true ∧
      getF t F.SAF_CONTROL_disagreements = min (Field.max F.SAF_CONTROL_disagreements) (getF s F.SAF_CONTROL_disagreements + 1) ∧
      Only [.saf] [Off.SAF_CONTROL] s t) ∧
  (∀ s : State, Up s → s.saf.checking = true →
    Does (.selfCheckEnd true true true) s fun t => t.saf.checking = false ∧
      getF t F.SAF_CONTROL_transients = min (Field.max F.SAF_CONTROL_transients) (getF s F.SAF_CONTROL_transients + 1) ∧
      Only [.saf] [Off.SAF_CONTROL] s t) ∧
  (∀ s : State, Up s → s.saf.checking = true →
    Does (.selfCheckEnd true true false) s fun t => Holds 11 t ∧ Only (.saf :: holdParts) (holdRegs ++ logRegs s) s t) ∧
  (∀ (s : State) (ok96 e : Bool), Up s → s.saf.checking = true →
    Does (.selfCheckEnd ok96 (!ok96) e) s fun t => getF t F.SAF_CONTROL_fenced_die = (if ok96 then 97 else 96) ∧
      hasF t F.SAF_STATUS_single_control = true ∧ t.saf.checking = false) ∧
  (∀ (s : State) (e : Bool), Up s → s.saf.checking = true →
    Does (.selfCheckEnd false false e) s fun t => t.saf.muted = true ∧ t.saf.checking = false ∧ Only [.saf] [] s t) ∧
  (∀ (s : State) (a b e : Bool), Up s → s.saf.checking = false → Does (.selfCheckEnd a b e) s fun t => t = s) ∧
  (∀ s : State, Up s → hasF s F.SAF_STATUS_single_control = true →
    Does (.singleControlCheck false) s fun t => t.saf.muted = true ∧ Only [.saf] [] s t) ∧
  (∀ s : State, Up s → Does (.singleControlCheck true) s fun t => t = s) ∧
  (∀ (s : State) (die : Nat), Up s → die = 96 ∨ die = 97 → getF s F.SAF_CONTROL_fenced_die ≠ die → s.saf.muted = false →
    Does (.heartbeat die) s fun t => t.saf.beatAt = slot s ∧ Only [.saf] [] s t)

/-- SAF_RESUME (R387): where every cause named is pending and its release condition holds, those causes clear; with the last one gone the
plan goes on, or stays stopped while a stop is in force. A write that names any other cause only sets resume_refused. Model's choices and
readings: log entry 83. -/
def Obligations.ResumeReleasesTheCauses : Prop :=
  (∀ (s : State) (v : Word), HostUp s → (∀ c, c < 14 → bit v c = true → (getF s F.SAF_HOLD_pending).testBit c = true ∧ releaseOk s c = true) →
    getF s F.SAF_HOLD_pending &&& bits v 13 0 ≠ getF s F.SAF_HOLD_pending →
    Does (.safResume v) s fun t =>
      getF t F.SAF_HOLD_pending = getF s F.SAF_HOLD_pending - (getF s F.SAF_HOLD_pending &&& bits v 13 0) ∧ Only [] [Off.SAF_HOLD] s t) ∧
  (∀ (s : State) (v : Word), HostUp s → (∀ c, c < 14 → bit v c = true → (getF s F.SAF_HOLD_pending).testBit c = true ∧ releaseOk s c = true) →
    getF s F.SAF_HOLD_pending ≠ 0 → getF s F.SAF_HOLD_pending &&& bits v 13 0 = getF s F.SAF_HOLD_pending → planState s = .held →
    (∀ p, s.plan = some p → p.layers = []) →
    Does (.safResume v) s fun t => inHold t = false ∧ planState t = (if stopInForce s then .stopped else .running) ∧
      (stopInForce s = false → ∀ k ∈ FMap.keys s.lch.passes, (passOf t k).stopped = false)) ∧
  (∀ (s : State) (v : Word) (c : Nat), HostUp s → c < 14 → bit v c = true →
    (getF s F.SAF_HOLD_pending).testBit c = false ∨ releaseOk s c = false →
    Does (.safResume v) s fun t => hasF t F.SAF_STATUS_resume_refused = true ∧ Only eventParts [Off.SAF_STATUS, Off.HST_IRQ_PENDING] s t)

/-- SAF_BIST_CMD (R401): in MANUFACTURE and RETURN the slice queues; in any other state the write is discarded and bist_refused sets. -/
def Obligations.HostSlicesNeedManufactureOrReturn : Prop :=
  (∀ (s : State) (k u : Nat), HostUp s → lifecycle s = 0 ∨ lifecycle s = 4 → k < 5 → u < 2 ^ 21 →
    Does (.safBistCmd k u) s fun t => (⟨0, k, u⟩ ∈ t.maint.waiting ∨ ⟨0, k, u⟩ ∈ t.maint.running) ∧ Only [.maint] [Off.SAF_MAINT] s t) ∧
  (∀ (s : State) (k u : Nat), HostUp s → lifecycle s ≠ 0 → lifecycle s ≠ 4 →
    Does (.safBistCmd k u) s fun t => hasF t F.SAF_STATUS_bist_refused = true ∧ Only [] [Off.SAF_STATUS] s t)

/-- MAINTENANCE_START, BIST_SLICE_END, SENSOR_CALIBRATION and LINK_IMPEDANCE_CALIBRATION (R391, R395 to R399): a request that may start
runs; a slice that passes clears the fence of its unit, one that fails fences it, an abandoned one waits again; the third calibration that
doubts a sensor leaves the die on its other one. Model's choices and readings: log entries 81, 84, 86. -/
def Obligations.MaintenanceRunsAndEnds : Prop :=
  (∀ (s : State) (a k u : Nat), Up s → ⟨a, k, u⟩ ∈ s.maint.waiting → mayStart s ⟨a, k, u⟩ = true →
    (∀ y ∈ s.maint.waiting.takeWhile (· != ⟨a, k, u⟩), mayStart s y = false) →
    Does (.maintenanceStart a k u) s fun t => ⟨a, k, u⟩ ∈ t.maint.running ∧ ⟨a, k, u⟩ ∉ t.maint.waiting ∧
      (a = 0 → k = 0 → (arrayOf t u).heldTest = true) ∧ Only [.maint, .arr] [Off.SAF_MAINT] s t) ∧
  (∀ (s : State) (u : Nat), Up s → s.maint.running = [⟨0, 0, u⟩] → u < 512 → fenced s u = true →
    Does (.bistSliceEnd 1) s fun t => t.maint.running = [] ∧ fenced t u = false ∧ (arrayOf t u).heldTest = false ∧
      getF t F.SAF_BIST_STATUS_verdict = 1 ∧
      Only [.maint, .arr] [Off.SAF_MAINT, Off.SAF_BIST_STATUS, Off.ARR_FENCED (u / 64), Off.ARR_STATUS] s t) ∧
  (∀ (s : State) (u : Nat), Up s → s.maint.running = [⟨0, 0, u⟩] → u < 512 → fenced s u = false →
    Does (.bistSliceEnd 2) s fun t => fenced t u = true ∧ hasF t F.SAF_STATUS_bist_fail = true ∧
      getF t F.SAF_BIST_STATUS_failed = min (Field.max F.SAF_BIST_STATUS_failed) (getF s F.SAF_BIST_STATUS_failed + 1)) ∧
  (∀ (s : State) (x : Activity), Up s → s.maint.running = [x] → x.act = 0 →
    Does (.bistSliceEnd 3) s fun t => t.maint.running = [] ∧ x ∈ t.maint.waiting ∧
      getF t F.SAF_BIST_STATUS_abandoned = min (Field.max F.SAF_BIST_STATUS_abandoned) (getF s F.SAF_BIST_STATUS_abandoned + 1) ∧
      Only [.maint, .arr] [Off.SAF_MAINT, Off.SAF_BIST_STATUS] s t) ∧
  (∀ (s : State) (d : Nat) (t0 t1 : Int), Up s → ⟨6, 0, d⟩ ∈ s.maint.running → FMap.get noTemp s.saf.temps d = (t0, t1) → (t0, t1) ≠ noTemp →
    FMap.get none s.saf.alone d = none → FMap.get (0, 0) s.saf.doubt d = (2, 0) → outOfRange t0 = true → outOfRange t1 = false →
    Does (.sensorCalibration d) s fun t => FMap.get none t.saf.alone d = some true ∧ ⟨6, 0, d⟩ ∉ t.maint.running ∧
      getF t F.SAF_THERMAL_single_sensor = min (Field.max F.SAF_THERMAL_single_sensor) (getF s F.SAF_THERMAL_single_sensor + 1)) ∧
  (∀ (s : State) (p : Nat), Up s →
    Does (.linkImpedanceCalibration p) s fun t => ⟨4, 0, p⟩ ∉ t.maint.running ∧ ⟨4, 0, p⟩ ∉ t.maint.waiting ∧ Only [.maint] [Off.SAF_MAINT] s t)

/-- ATTEST and STORE_CERTIFICATE (R412, R413): without an identity key, or in DECOMMISSIONED, there is no attestation; else the statement
and its signature stand in the window. A certificate is taken in MANUFACTURE or RETURN only, and stands once it passes its checks. Model's
choices and readings: log entries 70, 75, 93. -/
def Obligations.AttestationAndCertificates : Prop :=
  (∀ (s : State) (tag : Nat), HostUp s → lifecycle s = 5 ∨ seedPresent s.fuse = false →
    Does (.attest tag) s fun t => Replies 1 tag 14 t ∧ Only eventParts [Off.SEC_CMD_STATUS, Off.SEC_STATUS, Off.HST_IRQ_PENDING] s t) ∧
  (∀ (s : State) (tag : Nat), HostUp s → lifecycle s ≠ 5 → seedPresent s.fuse = true → (secBlock s 32).length = 32 →
    let st := attestation s (secBlock s 32)
    let bytes := st ++ (Config.slhSign s.fuse.seed st).take 49856
    Does (.attest tag) s fun t => Replies 1 tag 1 t ∧ (∀ i, i < (bytes.length + 7) / 8 → getReg t (0x430000 + 8 * i) = wordAt bytes i) ∧
      (∀ p : Part, p ∉ eventParts → p.stands s t)) ∧
  (∀ (s : State) (tag : Nat), HostUp s → lifecycle s ≠ 0 → lifecycle s ≠ 4 →
    Does (.storeCertificate tag) s fun t => Replies 7 tag 3 t ∧
      Only eventParts [Off.SEC_CMD_STATUS, Off.SEC_STATUS, Off.HST_IRQ_PENDING] s t) ∧
  (∀ (s : State) (tag : Nat), HostUp s → lifecycle s = 0 ∨ lifecycle s = 4 →
    let bs := secBlock s 29920
    Does (.storeCertificate tag) s fun t => Replies 7 tag (certResult s bs) t ∧
      (certResult s bs = 1 → t.nv = { s.nv with cert := bs } ∧ hasF t F.SEC_STATUS_cert_valid = true) ∧
      (certResult s bs ≠ 1 → t.nv = s.nv ∧ Only alarmParts (Off.SEC_CMD_STATUS :: alarmRegs) s t))

/-- KEY_LOAD and ERASE (R415, R416): a load is refused in PROVISIONED and DECOMMISSIONED, under the lock, and with a key loaded; a block
for the present session whose key unwraps installs the key, its id and its commitment, and opens an empty tier. ERASE removes the key, the
commitment and what the tier held. Model's choices and readings: log entries 70, 71, 72, 93. -/
def Obligations.KeysAreLoadedAndErased : Prop :=
  (∀ (s : State) (tag : Nat), HostUp s → lifecycle s = 1 ∨ lifecycle s = 5 →
    Does (.keyLoad tag) s fun t => Replies 2 tag 3 t ∧ Only eventParts [Off.SEC_CMD_STATUS, Off.SEC_STATUS, Off.HST_IRQ_PENDING] s t) ∧
  (∀ (s : State) (tag : Nat), HostUp s → lifecycle s ≠ 1 → lifecycle s ≠ 5 → hasF s F.SEC_STATUS_lock = true →
    Does (.keyLoad tag) s fun t => Replies 2 tag 4 t ∧ Only eventParts [Off.SEC_CMD_STATUS, Off.SEC_STATUS, Off.HST_IRQ_PENDING] s t) ∧
  (∀ (s : State) (tag : Nat), HostUp s → lifecycle s ≠ 1 → lifecycle s ≠ 5 → hasF s F.SEC_STATUS_lock = false → s.sec.tenant.isSome = true →
    Does (.keyLoad tag) s fun t => Replies 2 tag 2 t ∧ Only eventParts [Off.SEC_CMD_STATUS, Off.SEC_STATUS, Off.HST_IRQ_PENDING] s t) ∧
  (∀ (s : State) (tag : Nat), HostUp s → lifecycle s ≠ 1 → lifecycle s ≠ 5 → hasF s F.SEC_STATUS_lock = false → s.sec.tenant = none →
    tierUsable s = true → keyBlockOk (secBlock s 1704) = true → s.sec.session.isSome = true → wordAt (secBlock s 1704) 1 = s.sec.sessionId →
    s.nv.commitment = none →
    Does (.keyLoad tag) s fun t =>
      (blockKey s (secBlock s 1704) = none → Replies 2 tag 8 t ∧ t.sec.tenant = none ∧ t.nv = s.nv) ∧
      (∀ k, blockKey s (secBlock s 1704) = some k → k.take 32 = k.drop 32 → Replies 2 tag 7 t ∧ t.sec = s.sec ∧ t.nv = s.nv) ∧
      (∀ k, blockKey s (secBlock s 1704) = some k → k.take 32 ≠ k.drop 32 → Replies 2 tag 1 t ∧ t.sec = { s.sec with tenant := some k } ∧
        t.nv = { s.nv with commitment := some (commitmentOf s k) } ∧ getReg t Off.SEC_KEY_ID = wordAt (secBlock s 1704) 2 ∧
        hasF t F.FLS_STATUS_flash_closed = false ∧ t.flash = [])) ∧
  (∀ (s : State) (tag : Nat), HostUp s → movingFlash s = none →
    Does (.erase tag) s fun t => Replies 3 tag 1 t ∧ t.sec = { s.sec with tenant := none } ∧ t.nv = { s.nv with commitment := none } ∧
      t.flash = [] ∧ hasF t F.FLS_STATUS_flash_closed = true ∧ getReg t Off.SEC_KEY_ID = 0 ∧ Part.mem.stands s t ∧ t.fuse = s.fuse)

/-- LIFECYCLE_TOKEN (R409, R411): the nonce is replaced whatever the result; a block that is no token is result 7; a token that passes
moves the lifecycle as Table 16.4 says, or lifts the lock; one that does not changes nothing of the one-time store. RAISE_FLOOR (R418)
writes the next floor slot of the owner life. SEC_COMMAND_RESERVED is discarded, SEC_COMMAND_OVERRUN sets cmd_overrun (R423). Model's
choices and readings: log entries 47, 58, 70, 73, 74. -/
def Obligations.TokensMoveTheLifecycle : Prop :=
  (∀ (s : State) (tag : Nat), HostUp s → readToken (secBlock s 29984) = none →
    Does (.lifecycleToken tag) s fun t => Replies 4 tag 7 t ∧ t.fuse = s.fuse ∧ getReg t Off.SEC_TOKEN_NONCE = Config.freeWord s.freeCtr ∧
      t.freeCtr = s.freeCtr + 1) ∧
  (∀ (s : State) (tag : Nat) (k : Token), HostUp s → readToken (secBlock s 29984) = some k →
    let r := tokenResult s (secBlock s 29984) k
    Does (.lifecycleToken tag) s fun t => Replies 4 tag r t ∧ getReg t Off.SEC_TOKEN_NONCE = Config.freeWord s.freeCtr ∧
      t.freeCtr = s.freeCtr + 1 ∧
      (r ≠ 1 → t.fuse = s.fuse ∧ t.sec.debug = s.sec.debug ∧ t.sec.tenant = s.sec.tenant) ∧
      (r = 1 → k.kind = 2 → t.fuse = s.fuse ∧ hasF t F.SEC_STATUS_lock = false) ∧
      (r = 1 → k.kind = 1 → k.dst = 3 → t.fuse = s.fuse ∧ t.sec.debug = true ∧ t.sec.tenant = none) ∧
      (r = 1 → k.kind = 1 → k.dst = 2 ∨ k.dst = 4 → t.fuse = { s.fuse with t := s.fuse.t + 1, tCopy := s.fuse.t + 1 }) ∧
      (r = 1 → k.kind = 1 → k.dst = 1 → t.fuse.t = s.fuse.t + 1 ∧ t.fuse.tCopy = s.fuse.t + 1 ∧
        t.fuse.owners = s.fuse.owners.set ((ownerLife t.fuse).getD 0) k.owner ∧ t.sec.tenant = none) ∧
      (r = 1 → k.kind = 1 → k.dst = 5 → t.fuse = { s.fuse with t := 13, tCopy := 13, seed := List.replicate 96 0xFF } ∧ lifecycle t = 5 ∧
        t.sec.tenant = none ∧ t.flash = [])) ∧
  (∀ (s : State) (tag : Nat), HostUp s → hasF s F.SEC_STATUS_lock = true →
    Does (.raiseFloor tag) s fun t => Replies 5 tag 4 t ∧ t.fuse = s.fuse) ∧
  (∀ (s : State) (tag : Nat), HostUp s → hasF s F.SEC_STATUS_lock = false → (secBlock s 8).length = 8 →
    bits (wordAt (secBlock s 8) 0) 31 0 ≤ rollbackFloor s.fuse →
    Does (.raiseFloor tag) s fun t => Replies 5 tag 6 t ∧ t.fuse = s.fuse ∧ Only alarmParts (Off.SEC_CMD_STATUS :: alarmRegs) s t) ∧
  (∀ (s : State) (tag l : Nat), HostUp s → hasF s F.SEC_STATUS_lock = false → (secBlock s 8).length = 8 →
    getF s F.CTL_STATUS_config_source ≠ 0 → rollbackFloor s.fuse < bits (wordAt (secBlock s 8) 0) 31 0 →
    bits (wordAt (secBlock s 8) 0) 31 0 ≤ selectedSeq s → ownerLife s.fuse = some l → l < s.fuse.floors.length → (floorSlots s.fuse).length < 16 →
    Does (.raiseFloor tag) s fun t => Replies 5 tag 1 t ∧ rollbackFloor t.fuse = bits (wordAt (secBlock s 8) 0) 31 0 ∧
      getF t F.SEC_ROLLBACK_floor = bits (wordAt (secBlock s 8) 0) 31 0 ∧ t.fuse.t = s.fuse.t ∧
      (∀ j, j ≠ l → t.fuse.floors.getD j [] = s.fuse.floors.getD j [])) ∧
  (∀ (s : State) (op tag : Nat), HostUp s → Does (.secCommandReserved op tag) s fun t => t = s) ∧
  (∀ s : State, HostUp s → Does .secCommandOverrun s fun t => hasF t F.SEC_STATUS_cmd_overrun = true ∧ Only [] [Off.SEC_STATUS] s t)

/-- GLITCH_DETECTOR, KEY_STORE_INTEGRITY_FAIL, MESH_MEASURE and KEY_ROTATION (R417, R419 to R421): a first glitch is a class 1 alarm, a
second within 1 s and a bad key store are class 3: the lock, and both volatile keys gone. A breach erases the seed, writes t := 13 and
restarts the module. A rotation that ends makes the next session key. Model's choices and readings: log entries 1, 67, 69, 94. -/
def Obligations.TamperErasesTheKeys : Prop :=
  (∀ s : State, Up s → (∀ t0, s.sec.glitch = some t0 → t0 + 3906250 ≤ slot s) → s.sec.class1.length < 7 →
    Does .glitchDetector s fun t => t.sec.glitch = some (slot s) ∧ getReg t Off.SEC_ALARM = 13 ∧ t.sec.tenant = s.sec.tenant ∧
      getF t F.SEC_ALARM_SLOT_slot = slot s ∧ Only alarmParts alarmRegs s t) ∧
  (∀ (s : State) (t0 : Nat), Up s → s.sec.glitch = some t0 → slot s < t0 + 3906250 →
    Does .glitchDetector s fun t => getReg t Off.SEC_ALARM = 27 ∧ hasF t F.SEC_STATUS_lock = true ∧ t.sec.tenant = none ∧
      t.sec.session = none ∧ hasF t F.FLS_STATUS_flash_closed = true ∧ t.fuse = s.fuse) ∧
  (∀ s : State, Up s →
    Does .keyStoreIntegrityFail s fun t => getReg t Off.SEC_ALARM = 31 ∧ hasF t F.SEC_STATUS_lock = true ∧ t.sec.tenant = none ∧
      t.sec.session = none ∧ t.nv.commitment = none ∧ t.fuse = s.fuse) ∧
  (∀ (s : State) (a b : Nat) (shorted : Bool), Up s → (shorted = true ∨ s.fuse.breach = true) →
    Does (.meshMeasure a b shorted) s fun t =>
      (s.fuse.breach = false → t.fuse = { s.fuse with t := 13, tCopy := 13, seed := List.replicate 96 0xFF, breach := true } ∧
        t.pwr.mode = .up ∧ t.pwr.phases = [] ∧ t.plan = none ∧ t.sec.tenant = none ∧
        hasF t F.SEC_MESH_found_at_power_up = !phaseEnded s 1) ∧
      (s.fuse.breach = true → getF t F.SEC_MESH_trace0 = a % 2 ^ 16 ∧ getF t F.SEC_MESH_trace1 = b % 2 ^ 16 ∧ Only [] [Off.SEC_MESH] s t)) ∧
  (∀ (s : State) (a b : Nat), ¬Up s → s.fuse.breach = false →
    Does (.meshMeasure a b true) s fun t => t.fuse = { s.fuse with t := 13, tCopy := 13, seed := List.replicate 96 0xFF, breach := true }) ∧
  (∀ s : State, Up s → ⟨8, 0, 0⟩ ∈ s.maint.running → s.sec.session = none →
    Does .keyRotation s fun t => ⟨8, 0, 0⟩ ∉ t.maint.running ∧ Only [.maint] [Off.SAF_MAINT] s t) ∧
  (∀ (s : State) (dk : List Byte), Up s → ⟨8, 0, 0⟩ ∈ s.maint.running → s.sec.session = some dk →
    Does .keyRotation s fun t => ⟨8, 0, 0⟩ ∉ t.maint.running ∧ t.sec.session = some (Config.freshSession s.freeCtr).1 ∧
      t.sec.sessionId.toNat = 2 ^ 32 * (s.sec.sessionId.toNat / 2 ^ 32) + (s.sec.sessionId.toNat + 1) % 2 ^ 32 ∧
      t.freeCtr = s.freeCtr + 1 ∧ hasF t F.SEC_KEY_session_valid = true ∧ (∀ p : Part, p ∉ [.maint, .sec, .freeCtr] → p.stands s t)) ∧
  (∀ s : State, Up s → ⟨8, 0, 0⟩ ∉ s.maint.running → Does .keyRotation s fun t => t = s)

/-- The rack controller (R373 to R375): ENTDAA assigns the address; MCTP control and PLDM of types 0 and 2 are answered, other types not;
SENSOR_UPDATE takes the values of Table 14.8; READ answers up to 8 registers, WRITE stages ST registers and commits, CLAIM takes the claim
from anyone, RELEASE_CLAIM gives it back; a request that is not allowed is answered by its status. Model's choices and readings: log
entries 1, 87, 88. -/
def Obligations.TheRackControllerIsAnswered : Prop :=
  (∀ (s : State) (a : Nat), RackUp s →
    Does (.entdaa a) s fun t => getF t F.PWR_MCTP_address = a % 128 ∧ hasF t F.PWR_MCTP_assigned = true ∧ Only [] [Off.PWR_MCTP] s t) ∧
  (∀ (s : State) (rq : List Byte), RackUp s →
    Does (.mctpControl rq) s fun t => t.sent = .rack (Config.mctpReply rq) :: s.sent ∧ Only [.sent] [] s t) ∧
  (∀ (s : State) (p i : Nat), RackUp s → p = 0 ∨ p = 2 →
    Does (.pldm p i) s fun t => t.sent = .rack (Config.pldmReply p i (sensorValue s i)) :: s.sent ∧ Only [.sent] [] s t) ∧
  (∀ (s : State) (p i : Nat), RackUp s → p ≠ 0 → p ≠ 2 → Does (.pldm p i) s fun t => t = s) ∧
  (∀ (s : State) (m : Nat), RackUp s → Does (.mctpOtherDrop m) s fun t => t = s) ∧
  (∀ s : State, Up s → Does .sensorUpdate s fun t => sensorValue t 1 = getF s F.PWR_DRAW_avg_w ∧ sensorValue t 2 = getF s F.PWR_INPUT_vin ∧
      sensorValue t 3 = getF s F.PWR_INPUT_iin ∧ sensorValue t 4 = getF s F.PWR_ENERGY_mj / 1000 ∧
      sensorValue t 6 = getF s F.SAF_THERMAL_hottest_c ∧ Only [.pwr] [] s t) ∧
  (∀ (s : State) (off n : Nat), RackUp s → off % 8 = 0 → 0 < n → n ≤ 8 → off + 8 * n ≤ 2 ^ 26 →
    Does (.read off n) s fun t => t.sent = .rack (0 :: ((List.range n).flatMap fun i => leBytes 8 (readReg s (off + 8 * i)).toNat)) :: s.sent ∧
      Only [.sent] [] s t) ∧
  (∀ (s : State) (off n : Nat), RackUp s → off % 8 ≠ 0 ∨ n = 0 ∨ 8 < n ∨ 2 ^ 26 < off + 8 * n →
    Does (.read off n) s fun t => t.sent = .rack [3] :: s.sent ∧ Only [.sent] [] s t) ∧
  (∀ (s : State) (off : Nat) (v : Word) (r : RegRow), RackUp s → off % 8 = 0 → off < 2 ^ 26 → off ≠ Off.CTL_COMMIT → rowAt off = some r →
    r.isStaged = true → mayStage s 2 = true →
    Does (.write off v) s fun t => t.sent = .rack [0] :: s.sent ∧
      FMap.get none t.ctl.staged off = some ((stagedWord s off &&& ~~~(accMask r .st)) ||| (v &&& accMask r .st)) ∧
      t.ctl.wroteAt = slot s ∧ Only [.ctl, .sent] [] s t) ∧
  (∀ (s : State) (off : Nat) (v : Word) (r : RegRow), RackUp s → off % 8 = 0 → off < 2 ^ 26 → off ≠ Off.CTL_COMMIT → rowAt off = some r →
    r.isStaged = true → mayStage s 2 = false →
    Does (.write off v) s fun t => t.sent = .rack [1] :: s.sent ∧ hasF t F.CTL_STATUS_stage_refused = true ∧ Only [.sent] [Off.CTL_STATUS] s t) ∧
  (∀ (s : State) (v : Word), RackUp s → bits v 1 0 = 1 → mayStage s 2 = true → s.ctl.frozen = none →
    Does (.write Off.CTL_COMMIT v) s fun t => t.ctl.staged = [] ∧ t.ctl.wroteAt = slot s ∧ (∃ e, t.sent = .rack [0] :: e)) ∧
  (∀ (s : State) (off : Nat) (v : Word) (r : RegRow), RackUp s → off % 8 = 0 → off < 2 ^ 26 → off ≠ Off.CTL_COMMIT → rowAt off = some r →
    r.isStaged = false → Does (.write off v) s fun t => t.sent = .rack [2] :: s.sent ∧ Only [.sent] [] s t) ∧
  (∀ (s : State) (off : Nat) (v : Word), RackUp s → off % 8 ≠ 0 ∨ 2 ^ 26 ≤ off →
    Does (.write off v) s fun t => t.sent = .rack [3] :: s.sent ∧ Only [.sent] [] s t) ∧
  (∀ s : State, RackUp s →
    Does .claim s fun t => getF t F.CTL_CLAIM_owner = 2 ∧ hasF t F.CTL_CLAIM_host_claim = false ∧ t.sent = .rack [0] :: s.sent ∧
      (getF s F.CTL_CLAIM_owner = 1 → t.ctl.staged = []) ∧ Only [.ctl, .sent] [Off.CTL_CLAIM] s t) ∧
  (∀ s : State, RackUp s → getF s F.CTL_CLAIM_owner = 2 →
    Does .releaseClaim s fun t => getF t F.CTL_CLAIM_owner = 0 ∧ t.ctl.staged = [] ∧ t.sent = .rack [0] :: s.sent ∧
      Only [.ctl, .sent] [Off.CTL_CLAIM] s t) ∧
  (∀ s : State, RackUp s → getF s F.CTL_CLAIM_owner ≠ 2 → Does .releaseClaim s fun t => t.sent = .rack [1] :: s.sent ∧ Only [.sent] [] s t)

/-- A step takes the command at the front of the queue and runs it with the queue's rest; on an empty queue the module idles (log entry
12, the model's choice). No word of the table spells a command. Model's choices and readings: log entry 12. -/
def Obligations.StepRunsTheFrontCommand : Prop :=
  (∀ (c : Instr) (rest : List Instr) (s : State), s.pending = c :: rest → step s = exec c { s with pending := rest }) ∧
  (∀ s : State, s.pending = [] → step s = .next s) ∧
  (∀ (s : State) (nbits w : Nat), decodeTableWord nbits w = none ∧ s.withFetchWord nbits w = s)

/-- No command faults or is refused, and none touches the queue: exec answers a next state with the queue as it was. A module that is not
up is deaf: every command but those of the supply, the pins and the always-on circuits leaves it as it is (R336, R388, R433). Without its
link the host changes nothing (R337, R435), and without an answering control pair the rack controller changes nothing (R373). Only the
lifecycle token, the raised floor, the breach of the mesh and bring-up phase 1 program the one-time store (R406). Model's choices and
readings: log entry 1. -/
def Obligations.CommandsReachOnlyWhatTheyMay : Prop :=
  (∀ (c : Instr) (s : State), Does c s fun t => t.pending = s.pending) ∧
  (∀ (c : Instr) (s : State), ¬Up s → alwaysOn c = false → Does c s fun t => t = s) ∧
  (∀ (c : Instr) (s : State), hostLink s = false → hostCommand c = true → Does c s fun t => t = s) ∧
  (∀ (c : Instr) (s : State) (a p m off n : Nat) (v : Word) (rq : List Byte), rackUp s = false →
    c ∈ [.entdaa a, .mctpControl rq, .pldm p n, .mctpOtherDrop m, .read off n, .write off v, .claim, .releaseClaim] → Does c s fun t => t = s) ∧
  (∀ (c : Instr) (s : State), programsStore c = false → Does c s fun t => t.fuse = s.fuse)

/-- The one-time store stays sound along every step (R406, R407): both copies hold the same count, of at most 13 fuses; the count never
falls, DECOMMISSIONED is never left, and the mark of a breach never clears. Model's choices and readings: log entry 68. -/
def Obligations.TheOneTimeStoreStaysSound : Prop :=
  ∀ s t : State, s.fuse.sound → step s = .next t →
    t.fuse.sound ∧ s.fuse.t ≤ t.fuse.t ∧ (s.fuse.breach = true → t.fuse.breach = true) ∧ (lifecycle s = 5 → lifecycle t = 5)

/-- Both memories stay in canonical form along every step (R157, R180): rising addresses, and no byte listed that an unlisted address
reads as. The form is the model's own. Model's choices and readings: log entry 5. -/
def Obligations.TheMemoriesStayCanonical : Prop :=
  ∀ s t : State, memSound s → step s = .next t → memSound t

/-- The module right after reset (R20, R336): powered with no bring-up phase ended, no plan, no command waiting, both memories empty and
in canonical form, a sound one-time store, not in HOLD, and every register field with a Reset value of the spec at that value. Model's
choices and readings: log entries 5, 9. -/
def Obligations.ResetLeavesTheResetValues : Prop :=
  Up State.reset ∧ State.reset.pwr.phases = [] ∧ State.reset.plan = none ∧ State.reset.pending = [] ∧ memSound State.reset ∧ State.reset.fuse.sound ∧
  planState State.reset = .empty ∧ inHold State.reset = false ∧
  ∀ r ∈ regTable, ∀ f ∈ r.fields, ∀ v, f.reset = .val v → getF State.reset f = v
end

