-- ==== Sys2Proof/Laws/Bits.lean ====
section
/-!
SUPPORT. Laws of bit fields: reading the field just written, and a field apart from it.
-/

namespace Sys2Proof.Machine

theorem bits_eq_extract (w : Word) (hi lo : Nat) : bits w hi lo = (w.extractLsb' lo (hi + 1 - lo)).toNat := by
  simp [bits, BitVec.extractLsb', Nat.shiftRight_eq_div_pow]

theorem bits_lt (w : Word) (hi lo : Nat) : bits w hi lo < 2 ^ (hi + 1 - lo) :=
  Nat.mod_lt _ (Nat.two_pow_pos _)

theorem getLsbD_bitMask (hi lo i : Nat) (h : hi < 64) :
    (bitMask hi lo).getLsbD i = (decide (lo ≤ i) && decide (i ≤ hi)) := by
  unfold bitMask
  rw [BitVec.getLsbD_ofNat]
  by_cases hl : lo ≤ i
  · rw [Nat.testBit_mul_two_pow, Nat.testBit_two_pow_sub_one]
    by_cases hh : i ≤ hi
    · simp [hl, hh]
      omega
    · simp [hl, hh]
      omega
  · rw [Nat.testBit_mul_two_pow]
    simp [hl]

theorem getLsbD_setBits (w : Word) (hi lo v i : Nat) (h : hi < 64) :
    (setBits w hi lo v).getLsbD i =
      if lo ≤ i ∧ i ≤ hi then v.testBit (i - lo) else w.getLsbD i := by
  unfold setBits
  simp only [BitVec.getLsbD_or, BitVec.getLsbD_and, BitVec.getLsbD_not, getLsbD_bitMask _ _ _ h, BitVec.getLsbD_ofNat]
  by_cases hi' : i < 64
  · by_cases hr : lo ≤ i ∧ i ≤ hi
    · simp [hr, hi', Nat.testBit_mul_two_pow]
    · have : (decide (lo ≤ i) && decide (i ≤ hi)) = false := by
        rw [Bool.and_eq_false_iff]; simp; omega
      simp [this, hr, hi']
  · have h2 : w.getLsbD i = false := BitVec.getLsbD_of_ge w i (by omega)
    have : ¬(lo ≤ i ∧ i ≤ hi) := by omega
    simp [h2, this, hi']

/-- The field just written reads as the value's low bits. -/
theorem bits_setBits_same (w : Word) (hi lo v : Nat) (h : hi < 64) :
    bits (setBits w hi lo v) hi lo = v % 2 ^ (hi + 1 - lo) := by
  rw [bits_eq_extract]
  apply Nat.eq_of_testBit_eq
  intro i
  rw [BitVec.testBit_toNat, BitVec.getLsbD_extractLsb', getLsbD_setBits _ _ _ _ _ h, Nat.testBit_mod_two_pow]
  by_cases hi' : i < hi + 1 - lo
  · have : lo ≤ lo + i ∧ lo + i ≤ hi := by omega
    simp [hi', this]
  · simp [hi']

/-- A field apart from the one written reads as before. -/
theorem bits_setBits_other (w : Word) (hi lo v hi' lo' : Nat) (h : hi < 64) (ha : hi < lo' ∨ hi' < lo) :
    bits (setBits w hi lo v) hi' lo' = bits w hi' lo' := by
  rw [bits_eq_extract, bits_eq_extract]
  apply Nat.eq_of_testBit_eq
  intro i
  rw [BitVec.testBit_toNat, BitVec.testBit_toNat, BitVec.getLsbD_extractLsb', BitVec.getLsbD_extractLsb',
    getLsbD_setBits _ _ _ _ _ h]
  by_cases hi1 : i < hi' + 1 - lo'
  · have : ¬(lo ≤ lo' + i ∧ lo' + i ≤ hi) := by omega
    simp [hi1, this]
  · simp [hi1]

end Sys2Proof.Machine
end

