-- ==== Sys2Proof/Laws/FMap.lean ====
section
/-!
SUPPORT. Laws of sparse maps: reading after writing, and that writing keeps the canonical form.
-/

namespace Sys2Proof.Machine

variable {α : Type}

theorem FMap.get_insert_self (d : α) (m : FMap α) (k : Nat) (v : α) : FMap.get d (FMap.insert m k v) k = v := by
  induction m with
  | nil => simp [FMap.insert, FMap.get]
  | cons p m ih =>
    obtain ⟨j, w⟩ := p
    simp only [FMap.insert]
    split
    · simp [FMap.get]
    · split
      · simp [FMap.get]
      · next h => simp [FMap.get, h, ih]

theorem FMap.get_insert_other (d : α) (m : FMap α) {k l : Nat} (v : α) (h : l ≠ k) :
    FMap.get d (FMap.insert m k v) l = FMap.get d m l := by
  induction m with
  | nil => simp [FMap.insert, FMap.get, Ne.symm h]
  | cons p m ih =>
    obtain ⟨j, w⟩ := p
    simp only [FMap.insert]
    split
    · simp [FMap.get, Ne.symm h]
    · split
      · next hj => subst hj; simp [FMap.get, Ne.symm h]
      · simp only [FMap.get, ih]

theorem FMap.get_erase_self (d : α) (m : FMap α) (k : Nat) : FMap.get d (FMap.erase m k) k = d := by
  induction m with
  | nil => rfl
  | cons p m ih =>
    obtain ⟨j, w⟩ := p
    simp only [FMap.erase]
    split
    · exact ih
    · next h => simp [FMap.get, h, ih]

theorem FMap.get_erase_other (d : α) (m : FMap α) {k l : Nat} (h : l ≠ k) :
    FMap.get d (FMap.erase m k) l = FMap.get d m l := by
  induction m with
  | nil => rfl
  | cons p m ih =>
    obtain ⟨j, w⟩ := p
    simp only [FMap.erase]
    split
    · next hj => subst hj; simp [FMap.get, Ne.symm h, ih]
    · simp [FMap.get, ih]

/-- Reading the key just written gives the value written. -/
@[simp] theorem FMap.get_set_self [DecidableEq α] (d : α) (m : FMap α) (k : Nat) (v : α) :
    FMap.get d (FMap.set d m k v) k = v := by
  unfold FMap.set
  split
  · next h => rw [FMap.get_erase_self, h]
  · exact FMap.get_insert_self d m k v

/-- Reading any other key gives what it gave before. -/
theorem FMap.get_set_other [DecidableEq α] (d : α) (m : FMap α) {k l : Nat} (v : α) (h : l ≠ k) :
    FMap.get d (FMap.set d m k v) l = FMap.get d m l := by
  unfold FMap.set
  split
  · exact FMap.get_erase_other d m h
  · exact FMap.get_insert_other d m v h

/-- The two laws in one. -/
theorem FMap.get_set [DecidableEq α] (d : α) (m : FMap α) (k l : Nat) (v : α) :
    FMap.get d (FMap.set d m k v) l = if l = k then v else FMap.get d m l := by
  split
  · next h => subst h; simp
  · next h => exact FMap.get_set_other d m v h

theorem FMap.wfFrom_mono [DecidableEq α] (d : α) (m : FMap α) {lo lo' : Nat} (h : lo' ≤ lo) (hw : FMap.wfFrom d lo m = true) :
    FMap.wfFrom d lo' m = true := by
  cases m with
  | nil => rfl
  | cons p m =>
    obtain ⟨j, w⟩ := p
    simp only [FMap.wfFrom, Bool.and_eq_true, decide_eq_true_eq] at hw ⊢
    exact ⟨⟨by omega, hw.1.2⟩, hw.2⟩

theorem FMap.wfFrom_erase [DecidableEq α] (d : α) (m : FMap α) (lo k : Nat) (hw : FMap.wfFrom d lo m = true) :
    FMap.wfFrom d lo (FMap.erase m k) = true := by
  induction m generalizing lo with
  | nil => rfl
  | cons p m ih =>
    obtain ⟨j, w⟩ := p
    simp only [FMap.wfFrom, Bool.and_eq_true, decide_eq_true_eq] at hw
    simp only [FMap.erase]
    split
    · exact ih lo (FMap.wfFrom_mono d m (by omega) hw.2)
    · simp only [FMap.wfFrom, Bool.and_eq_true, decide_eq_true_eq]
      exact ⟨hw.1, ih _ hw.2⟩

theorem FMap.wfFrom_insert [DecidableEq α] (d : α) (m : FMap α) (lo k : Nat) (v : α) (hv : v ≠ d) (hk : lo ≤ k)
    (hw : FMap.wfFrom d lo m = true) : FMap.wfFrom d lo (FMap.insert m k v) = true := by
  induction m generalizing lo with
  | nil => simp [FMap.insert, FMap.wfFrom, hk, hv]
  | cons p m ih =>
    obtain ⟨j, w⟩ := p
    simp only [FMap.wfFrom, Bool.and_eq_true, decide_eq_true_eq] at hw
    simp only [FMap.insert]
    split
    · next h =>
      simp only [FMap.wfFrom, Bool.and_eq_true, decide_eq_true_eq]
      exact ⟨⟨hk, hv⟩, ⟨by omega, hw.1.2⟩, hw.2⟩
    · split
      · next h1 h =>
        subst h
        simp only [FMap.wfFrom, Bool.and_eq_true, decide_eq_true_eq]
        exact ⟨⟨hk, hv⟩, hw.2⟩
      · next h1 h =>
        simp only [FMap.wfFrom, Bool.and_eq_true, decide_eq_true_eq]
        exact ⟨hw.1, ih _ (by omega) hw.2⟩

/-- Writing keeps the canonical form. -/
theorem FMap.wf_set [DecidableEq α] (d : α) (m : FMap α) (k : Nat) (v : α) (hw : FMap.wf d m = true) :
    FMap.wf d (FMap.set d m k v) = true := by
  unfold FMap.wf FMap.set at *
  split
  · exact FMap.wfFrom_erase d m 0 k hw
  · next h => exact FMap.wfFrom_insert d m 0 k v h (Nat.zero_le _) hw

theorem FMap.get_filter [DecidableEq α] (d : α) (m : FMap α) (p : Nat → Bool) (k : Nat) :
    FMap.get d (m.filter fun c => p c.1) k = if p k then FMap.get d m k else d := by
  induction m with
  | nil => simp [FMap.get]
  | cons c m ih =>
    obtain ⟨j, w⟩ := c
    simp only [List.filter_cons]
    by_cases hp : p j = true
    · simp only [hp, if_true, FMap.get, ih]
      by_cases hj : j = k
      · subst hj; simp [hp]
      · simp [hj]
    · have hp' : p j = false := by simpa using hp
      simp only [hp', Bool.false_eq_true, if_false, FMap.get, ih]
      by_cases hj : j = k
      · subst hj; simp [hp']
      · simp [hj]

theorem FMap.wfFrom_filter [DecidableEq α] (d : α) (m : FMap α) (p : Nat × α → Bool) (lo : Nat)
    (hw : FMap.wfFrom d lo m = true) : FMap.wfFrom d lo (m.filter p) = true := by
  induction m generalizing lo with
  | nil => rfl
  | cons c m ih =>
    obtain ⟨j, w⟩ := c
    simp only [FMap.wfFrom, Bool.and_eq_true, decide_eq_true_eq] at hw
    simp only [List.filter_cons]
    split
    · simp only [FMap.wfFrom, Bool.and_eq_true, decide_eq_true_eq]
      exact ⟨hw.1, ih _ hw.2⟩
    · exact ih lo (FMap.wfFrom_mono d m (by omega) hw.2)

/-- Leaving out entries keeps the canonical form. -/
theorem FMap.wf_filter [DecidableEq α] (d : α) (m : FMap α) (p : Nat × α → Bool) (hw : FMap.wf d m = true) :
    FMap.wf d (m.filter p) = true := FMap.wfFrom_filter d m p 0 hw

end Sys2Proof.Machine
end

