-- ==== Sys2Proof/Laws/State.lean ====
section
/-!
SUPPORT. Laws of the state: what each basic operation leaves of every other part of the state, reading a register or a field after
a write, and what the outcomes of Machine/Ops.lean answer.
-/

namespace Sys2Proof.Machine

/-! ### Parts of the state that an operation leaves alone -/
@[simp] theorem setReg_pending (s : State) (o : Nat) (w : Word) : (setReg s o w).pending = s.pending := rfl
@[simp] theorem setReg_mem (s : State) (o : Nat) (w : Word) : (setReg s o w).mem = s.mem := rfl
@[simp] theorem setReg_flash (s : State) (o : Nat) (w : Word) : (setReg s o w).flash = s.flash := rfl
@[simp] theorem setReg_plan (s : State) (o : Nat) (w : Word) : (setReg s o w).plan = s.plan := rfl
@[simp] theorem setReg_lch (s : State) (o : Nat) (w : Word) : (setReg s o w).lch = s.lch := rfl
@[simp] theorem setReg_arr (s : State) (o : Nat) (w : Word) : (setReg s o w).arr = s.arr := rfl
@[simp] theorem setReg_host (s : State) (o : Nat) (w : Word) : (setReg s o w).host = s.host := rfl
@[simp] theorem setReg_chn (s : State) (o : Nat) (w : Word) : (setReg s o w).chn = s.chn := rfl
@[simp] theorem setReg_trn (s : State) (o : Nat) (w : Word) : (setReg s o w).trn = s.trn := rfl
@[simp] theorem setReg_fuse (s : State) (o : Nat) (w : Word) : (setReg s o w).fuse = s.fuse := rfl
@[simp] theorem setReg_fls (s : State) (o : Nat) (w : Word) : (setReg s o w).fls = s.fls := rfl
@[simp] theorem setReg_maint (s : State) (o : Nat) (w : Word) : (setReg s o w).maint = s.maint := rfl
@[simp] theorem setReg_int (s : State) (o : Nat) (w : Word) : (setReg s o w).int = s.int := rfl
@[simp] theorem setReg_pwr (s : State) (o : Nat) (w : Word) : (setReg s o w).pwr = s.pwr := rfl
@[simp] theorem setReg_ctl (s : State) (o : Nat) (w : Word) : (setReg s o w).ctl = s.ctl := rfl
@[simp] theorem setReg_nv (s : State) (o : Nat) (w : Word) : (setReg s o w).nv = s.nv := rfl
@[simp] theorem setReg_sec (s : State) (o : Nat) (w : Word) : (setReg s o w).sec = s.sec := rfl
@[simp] theorem setReg_saf (s : State) (o : Nat) (w : Word) : (setReg s o w).saf = s.saf := rfl
@[simp] theorem setReg_sent (s : State) (o : Nat) (w : Word) : (setReg s o w).sent = s.sent := rfl
@[simp] theorem setReg_freeCtr (s : State) (o : Nat) (w : Word) : (setReg s o w).freeCtr = s.freeCtr := rfl
@[simp] theorem setF_pending (s : State) (f : Field) (v : Nat) : (setF s f v).pending = s.pending := rfl
@[simp] theorem setF_mem (s : State) (f : Field) (v : Nat) : (setF s f v).mem = s.mem := rfl
@[simp] theorem setF_flash (s : State) (f : Field) (v : Nat) : (setF s f v).flash = s.flash := rfl
@[simp] theorem setF_plan (s : State) (f : Field) (v : Nat) : (setF s f v).plan = s.plan := rfl
@[simp] theorem setF_lch (s : State) (f : Field) (v : Nat) : (setF s f v).lch = s.lch := rfl
@[simp] theorem setF_arr (s : State) (f : Field) (v : Nat) : (setF s f v).arr = s.arr := rfl
@[simp] theorem setF_host (s : State) (f : Field) (v : Nat) : (setF s f v).host = s.host := rfl
@[simp] theorem setF_chn (s : State) (f : Field) (v : Nat) : (setF s f v).chn = s.chn := rfl
@[simp] theorem setF_trn (s : State) (f : Field) (v : Nat) : (setF s f v).trn = s.trn := rfl
@[simp] theorem setF_fuse (s : State) (f : Field) (v : Nat) : (setF s f v).fuse = s.fuse := rfl
@[simp] theorem setF_fls (s : State) (f : Field) (v : Nat) : (setF s f v).fls = s.fls := rfl
@[simp] theorem setF_maint (s : State) (f : Field) (v : Nat) : (setF s f v).maint = s.maint := rfl
@[simp] theorem setF_int (s : State) (f : Field) (v : Nat) : (setF s f v).int = s.int := rfl
@[simp] theorem setF_pwr (s : State) (f : Field) (v : Nat) : (setF s f v).pwr = s.pwr := rfl
@[simp] theorem setF_ctl (s : State) (f : Field) (v : Nat) : (setF s f v).ctl = s.ctl := rfl
@[simp] theorem setF_nv (s : State) (f : Field) (v : Nat) : (setF s f v).nv = s.nv := rfl
@[simp] theorem setF_sec (s : State) (f : Field) (v : Nat) : (setF s f v).sec = s.sec := rfl
@[simp] theorem setF_saf (s : State) (f : Field) (v : Nat) : (setF s f v).saf = s.saf := rfl
@[simp] theorem setF_sent (s : State) (f : Field) (v : Nat) : (setF s f v).sent = s.sent := rfl
@[simp] theorem setF_freeCtr (s : State) (f : Field) (v : Nat) : (setF s f v).freeCtr = s.freeCtr := rfl
@[simp] theorem bumpF_pending (s : State) (f : Field) (n : Nat) : (bumpF s f n).pending = s.pending := rfl
@[simp] theorem bumpF_mem (s : State) (f : Field) (n : Nat) : (bumpF s f n).mem = s.mem := rfl
@[simp] theorem bumpF_flash (s : State) (f : Field) (n : Nat) : (bumpF s f n).flash = s.flash := rfl
@[simp] theorem bumpF_plan (s : State) (f : Field) (n : Nat) : (bumpF s f n).plan = s.plan := rfl
@[simp] theorem bumpF_lch (s : State) (f : Field) (n : Nat) : (bumpF s f n).lch = s.lch := rfl
@[simp] theorem bumpF_arr (s : State) (f : Field) (n : Nat) : (bumpF s f n).arr = s.arr := rfl
@[simp] theorem bumpF_host (s : State) (f : Field) (n : Nat) : (bumpF s f n).host = s.host := rfl
@[simp] theorem bumpF_chn (s : State) (f : Field) (n : Nat) : (bumpF s f n).chn = s.chn := rfl
@[simp] theorem bumpF_trn (s : State) (f : Field) (n : Nat) : (bumpF s f n).trn = s.trn := rfl
@[simp] theorem bumpF_fuse (s : State) (f : Field) (n : Nat) : (bumpF s f n).fuse = s.fuse := rfl
@[simp] theorem bumpF_fls (s : State) (f : Field) (n : Nat) : (bumpF s f n).fls = s.fls := rfl
@[simp] theorem bumpF_maint (s : State) (f : Field) (n : Nat) : (bumpF s f n).maint = s.maint := rfl
@[simp] theorem bumpF_int (s : State) (f : Field) (n : Nat) : (bumpF s f n).int = s.int := rfl
@[simp] theorem bumpF_pwr (s : State) (f : Field) (n : Nat) : (bumpF s f n).pwr = s.pwr := rfl
@[simp] theorem bumpF_ctl (s : State) (f : Field) (n : Nat) : (bumpF s f n).ctl = s.ctl := rfl
@[simp] theorem bumpF_nv (s : State) (f : Field) (n : Nat) : (bumpF s f n).nv = s.nv := rfl
@[simp] theorem bumpF_sec (s : State) (f : Field) (n : Nat) : (bumpF s f n).sec = s.sec := rfl
@[simp] theorem bumpF_saf (s : State) (f : Field) (n : Nat) : (bumpF s f n).saf = s.saf := rfl
@[simp] theorem bumpF_sent (s : State) (f : Field) (n : Nat) : (bumpF s f n).sent = s.sent := rfl
@[simp] theorem bumpF_freeCtr (s : State) (f : Field) (n : Nat) : (bumpF s f n).freeCtr = s.freeCtr := rfl
@[simp] theorem setFmax_pending (s : State) (f : Field) (v : Nat) : (setFmax s f v).pending = s.pending := rfl
@[simp] theorem setFmax_mem (s : State) (f : Field) (v : Nat) : (setFmax s f v).mem = s.mem := rfl
@[simp] theorem setFmax_flash (s : State) (f : Field) (v : Nat) : (setFmax s f v).flash = s.flash := rfl
@[simp] theorem setFmax_plan (s : State) (f : Field) (v : Nat) : (setFmax s f v).plan = s.plan := rfl
@[simp] theorem setFmax_lch (s : State) (f : Field) (v : Nat) : (setFmax s f v).lch = s.lch := rfl
@[simp] theorem setFmax_arr (s : State) (f : Field) (v : Nat) : (setFmax s f v).arr = s.arr := rfl
@[simp] theorem setFmax_host (s : State) (f : Field) (v : Nat) : (setFmax s f v).host = s.host := rfl
@[simp] theorem setFmax_chn (s : State) (f : Field) (v : Nat) : (setFmax s f v).chn = s.chn := rfl
@[simp] theorem setFmax_trn (s : State) (f : Field) (v : Nat) : (setFmax s f v).trn = s.trn := rfl
@[simp] theorem setFmax_fuse (s : State) (f : Field) (v : Nat) : (setFmax s f v).fuse = s.fuse := rfl
@[simp] theorem setFmax_fls (s : State) (f : Field) (v : Nat) : (setFmax s f v).fls = s.fls := rfl
@[simp] theorem setFmax_maint (s : State) (f : Field) (v : Nat) : (setFmax s f v).maint = s.maint := rfl
@[simp] theorem setFmax_int (s : State) (f : Field) (v : Nat) : (setFmax s f v).int = s.int := rfl
@[simp] theorem setFmax_pwr (s : State) (f : Field) (v : Nat) : (setFmax s f v).pwr = s.pwr := rfl
@[simp] theorem setFmax_ctl (s : State) (f : Field) (v : Nat) : (setFmax s f v).ctl = s.ctl := rfl
@[simp] theorem setFmax_nv (s : State) (f : Field) (v : Nat) : (setFmax s f v).nv = s.nv := rfl
@[simp] theorem setFmax_sec (s : State) (f : Field) (v : Nat) : (setFmax s f v).sec = s.sec := rfl
@[simp] theorem setFmax_saf (s : State) (f : Field) (v : Nat) : (setFmax s f v).saf = s.saf := rfl
@[simp] theorem setFmax_sent (s : State) (f : Field) (v : Nat) : (setFmax s f v).sent = s.sent := rfl
@[simp] theorem setFmax_freeCtr (s : State) (f : Field) (v : Nat) : (setFmax s f v).freeCtr = s.freeCtr := rfl
@[simp] theorem send_pending (s : State) (x : Sent) : (send s x).pending = s.pending := rfl
@[simp] theorem send_regs (s : State) (x : Sent) : (send s x).regs = s.regs := rfl
@[simp] theorem send_mem (s : State) (x : Sent) : (send s x).mem = s.mem := rfl
@[simp] theorem send_flash (s : State) (x : Sent) : (send s x).flash = s.flash := rfl
@[simp] theorem send_plan (s : State) (x : Sent) : (send s x).plan = s.plan := rfl
@[simp] theorem send_lch (s : State) (x : Sent) : (send s x).lch = s.lch := rfl
@[simp] theorem send_arr (s : State) (x : Sent) : (send s x).arr = s.arr := rfl
@[simp] theorem send_host (s : State) (x : Sent) : (send s x).host = s.host := rfl
@[simp] theorem send_chn (s : State) (x : Sent) : (send s x).chn = s.chn := rfl
@[simp] theorem send_trn (s : State) (x : Sent) : (send s x).trn = s.trn := rfl
@[simp] theorem send_fuse (s : State) (x : Sent) : (send s x).fuse = s.fuse := rfl
@[simp] theorem send_fls (s : State) (x : Sent) : (send s x).fls = s.fls := rfl
@[simp] theorem send_maint (s : State) (x : Sent) : (send s x).maint = s.maint := rfl
@[simp] theorem send_int (s : State) (x : Sent) : (send s x).int = s.int := rfl
@[simp] theorem send_pwr (s : State) (x : Sent) : (send s x).pwr = s.pwr := rfl
@[simp] theorem send_ctl (s : State) (x : Sent) : (send s x).ctl = s.ctl := rfl
@[simp] theorem send_nv (s : State) (x : Sent) : (send s x).nv = s.nv := rfl
@[simp] theorem send_sec (s : State) (x : Sent) : (send s x).sec = s.sec := rfl
@[simp] theorem send_saf (s : State) (x : Sent) : (send s x).saf = s.saf := rfl
@[simp] theorem send_freeCtr (s : State) (x : Sent) : (send s x).freeCtr = s.freeCtr := rfl
@[simp] theorem takeFree_pending (s : State) : ((takeFree s).2).pending = s.pending := rfl
@[simp] theorem takeFree_regs (s : State) : ((takeFree s).2).regs = s.regs := rfl
@[simp] theorem takeFree_mem (s : State) : ((takeFree s).2).mem = s.mem := rfl
@[simp] theorem takeFree_flash (s : State) : ((takeFree s).2).flash = s.flash := rfl
@[simp] theorem takeFree_plan (s : State) : ((takeFree s).2).plan = s.plan := rfl
@[simp] theorem takeFree_lch (s : State) : ((takeFree s).2).lch = s.lch := rfl
@[simp] theorem takeFree_arr (s : State) : ((takeFree s).2).arr = s.arr := rfl
@[simp] theorem takeFree_host (s : State) : ((takeFree s).2).host = s.host := rfl
@[simp] theorem takeFree_chn (s : State) : ((takeFree s).2).chn = s.chn := rfl
@[simp] theorem takeFree_trn (s : State) : ((takeFree s).2).trn = s.trn := rfl
@[simp] theorem takeFree_fuse (s : State) : ((takeFree s).2).fuse = s.fuse := rfl
@[simp] theorem takeFree_fls (s : State) : ((takeFree s).2).fls = s.fls := rfl
@[simp] theorem takeFree_maint (s : State) : ((takeFree s).2).maint = s.maint := rfl
@[simp] theorem takeFree_int (s : State) : ((takeFree s).2).int = s.int := rfl
@[simp] theorem takeFree_pwr (s : State) : ((takeFree s).2).pwr = s.pwr := rfl
@[simp] theorem takeFree_ctl (s : State) : ((takeFree s).2).ctl = s.ctl := rfl
@[simp] theorem takeFree_nv (s : State) : ((takeFree s).2).nv = s.nv := rfl
@[simp] theorem takeFree_sec (s : State) : ((takeFree s).2).sec = s.sec := rfl
@[simp] theorem takeFree_saf (s : State) : ((takeFree s).2).saf = s.saf := rfl
@[simp] theorem takeFree_sent (s : State) : ((takeFree s).2).sent = s.sent := rfl
@[simp] theorem recordAccess_pending (s : State) (bar : Nat) (wt : Bool) (size off : Nat) : (recordAccess s bar wt size off).pending = s.pending := rfl
@[simp] theorem recordAccess_mem (s : State) (bar : Nat) (wt : Bool) (size off : Nat) : (recordAccess s bar wt size off).mem = s.mem := rfl
@[simp] theorem recordAccess_flash (s : State) (bar : Nat) (wt : Bool) (size off : Nat) : (recordAccess s bar wt size off).flash = s.flash := rfl
@[simp] theorem recordAccess_plan (s : State) (bar : Nat) (wt : Bool) (size off : Nat) : (recordAccess s bar wt size off).plan = s.plan := rfl
@[simp] theorem recordAccess_lch (s : State) (bar : Nat) (wt : Bool) (size off : Nat) : (recordAccess s bar wt size off).lch = s.lch := rfl
@[simp] theorem recordAccess_arr (s : State) (bar : Nat) (wt : Bool) (size off : Nat) : (recordAccess s bar wt size off).arr = s.arr := rfl
@[simp] theorem recordAccess_host (s : State) (bar : Nat) (wt : Bool) (size off : Nat) : (recordAccess s bar wt size off).host = s.host := rfl
@[simp] theorem recordAccess_chn (s : State) (bar : Nat) (wt : Bool) (size off : Nat) : (recordAccess s bar wt size off).chn = s.chn := rfl
@[simp] theorem recordAccess_trn (s : State) (bar : Nat) (wt : Bool) (size off : Nat) : (recordAccess s bar wt size off).trn = s.trn := rfl
@[simp] theorem recordAccess_fuse (s : State) (bar : Nat) (wt : Bool) (size off : Nat) : (recordAccess s bar wt size off).fuse = s.fuse := rfl
@[simp] theorem recordAccess_fls (s : State) (bar : Nat) (wt : Bool) (size off : Nat) : (recordAccess s bar wt size off).fls = s.fls := rfl
@[simp] theorem recordAccess_maint (s : State) (bar : Nat) (wt : Bool) (size off : Nat) : (recordAccess s bar wt size off).maint = s.maint := rfl
@[simp] theorem recordAccess_int (s : State) (bar : Nat) (wt : Bool) (size off : Nat) : (recordAccess s bar wt size off).int = s.int := rfl
@[simp] theorem recordAccess_pwr (s : State) (bar : Nat) (wt : Bool) (size off : Nat) : (recordAccess s bar wt size off).pwr = s.pwr := rfl
@[simp] theorem recordAccess_ctl (s : State) (bar : Nat) (wt : Bool) (size off : Nat) : (recordAccess s bar wt size off).ctl = s.ctl := rfl
@[simp] theorem recordAccess_nv (s : State) (bar : Nat) (wt : Bool) (size off : Nat) : (recordAccess s bar wt size off).nv = s.nv := rfl
@[simp] theorem recordAccess_sec (s : State) (bar : Nat) (wt : Bool) (size off : Nat) : (recordAccess s bar wt size off).sec = s.sec := rfl
@[simp] theorem recordAccess_saf (s : State) (bar : Nat) (wt : Bool) (size off : Nat) : (recordAccess s bar wt size off).saf = s.saf := rfl
@[simp] theorem recordAccess_sent (s : State) (bar : Nat) (wt : Bool) (size off : Nat) : (recordAccess s bar wt size off).sent = s.sent := rfl
@[simp] theorem recordAccess_freeCtr (s : State) (bar : Nat) (wt : Bool) (size off : Nat) : (recordAccess s bar wt size off).freeCtr = s.freeCtr := rfl
@[simp] theorem sendIrq_pending (s : State) (v : Nat) : (sendIrq s v).pending = s.pending := by unfold sendIrq; split <;> [rfl; (split <;> rfl)]
@[simp] theorem sendIrq_regs (s : State) (v : Nat) : (sendIrq s v).regs = s.regs := by unfold sendIrq; split <;> [rfl; (split <;> rfl)]
@[simp] theorem sendIrq_mem (s : State) (v : Nat) : (sendIrq s v).mem = s.mem := by unfold sendIrq; split <;> [rfl; (split <;> rfl)]
@[simp] theorem sendIrq_flash (s : State) (v : Nat) : (sendIrq s v).flash = s.flash := by unfold sendIrq; split <;> [rfl; (split <;> rfl)]
@[simp] theorem sendIrq_plan (s : State) (v : Nat) : (sendIrq s v).plan = s.plan := by unfold sendIrq; split <;> [rfl; (split <;> rfl)]
@[simp] theorem sendIrq_lch (s : State) (v : Nat) : (sendIrq s v).lch = s.lch := by unfold sendIrq; split <;> [rfl; (split <;> rfl)]
@[simp] theorem sendIrq_arr (s : State) (v : Nat) : (sendIrq s v).arr = s.arr := by unfold sendIrq; split <;> [rfl; (split <;> rfl)]
@[simp] theorem sendIrq_chn (s : State) (v : Nat) : (sendIrq s v).chn = s.chn := by unfold sendIrq; split <;> [rfl; (split <;> rfl)]
@[simp] theorem sendIrq_trn (s : State) (v : Nat) : (sendIrq s v).trn = s.trn := by unfold sendIrq; split <;> [rfl; (split <;> rfl)]
@[simp] theorem sendIrq_fuse (s : State) (v : Nat) : (sendIrq s v).fuse = s.fuse := by unfold sendIrq; split <;> [rfl; (split <;> rfl)]
@[simp] theorem sendIrq_fls (s : State) (v : Nat) : (sendIrq s v).fls = s.fls := by unfold sendIrq; split <;> [rfl; (split <;> rfl)]
@[simp] theorem sendIrq_maint (s : State) (v : Nat) : (sendIrq s v).maint = s.maint := by unfold sendIrq; split <;> [rfl; (split <;> rfl)]
@[simp] theorem sendIrq_int (s : State) (v : Nat) : (sendIrq s v).int = s.int := by unfold sendIrq; split <;> [rfl; (split <;> rfl)]
@[simp] theorem sendIrq_pwr (s : State) (v : Nat) : (sendIrq s v).pwr = s.pwr := by unfold sendIrq; split <;> [rfl; (split <;> rfl)]
@[simp] theorem sendIrq_ctl (s : State) (v : Nat) : (sendIrq s v).ctl = s.ctl := by unfold sendIrq; split <;> [rfl; (split <;> rfl)]
@[simp] theorem sendIrq_nv (s : State) (v : Nat) : (sendIrq s v).nv = s.nv := by unfold sendIrq; split <;> [rfl; (split <;> rfl)]
@[simp] theorem sendIrq_sec (s : State) (v : Nat) : (sendIrq s v).sec = s.sec := by unfold sendIrq; split <;> [rfl; (split <;> rfl)]
@[simp] theorem sendIrq_saf (s : State) (v : Nat) : (sendIrq s v).saf = s.saf := by unfold sendIrq; split <;> [rfl; (split <;> rfl)]
@[simp] theorem sendIrq_freeCtr (s : State) (v : Nat) : (sendIrq s v).freeCtr = s.freeCtr := by unfold sendIrq; split <;> [rfl; (split <;> rfl)]
@[simp] theorem raise_pending (s : State) (n : Nat) : (raise s n).pending = s.pending := by unfold raise; dsimp only; split <;> [rfl; (split <;> simp)]
@[simp] theorem raise_mem (s : State) (n : Nat) : (raise s n).mem = s.mem := by unfold raise; dsimp only; split <;> [rfl; (split <;> simp)]
@[simp] theorem raise_flash (s : State) (n : Nat) : (raise s n).flash = s.flash := by unfold raise; dsimp only; split <;> [rfl; (split <;> simp)]
@[simp] theorem raise_plan (s : State) (n : Nat) : (raise s n).plan = s.plan := by unfold raise; dsimp only; split <;> [rfl; (split <;> simp)]
@[simp] theorem raise_lch (s : State) (n : Nat) : (raise s n).lch = s.lch := by unfold raise; dsimp only; split <;> [rfl; (split <;> simp)]
@[simp] theorem raise_arr (s : State) (n : Nat) : (raise s n).arr = s.arr := by unfold raise; dsimp only; split <;> [rfl; (split <;> simp)]
@[simp] theorem raise_chn (s : State) (n : Nat) : (raise s n).chn = s.chn := by unfold raise; dsimp only; split <;> [rfl; (split <;> simp)]
@[simp] theorem raise_trn (s : State) (n : Nat) : (raise s n).trn = s.trn := by unfold raise; dsimp only; split <;> [rfl; (split <;> simp)]
@[simp] theorem raise_fuse (s : State) (n : Nat) : (raise s n).fuse = s.fuse := by unfold raise; dsimp only; split <;> [rfl; (split <;> simp)]
@[simp] theorem raise_fls (s : State) (n : Nat) : (raise s n).fls = s.fls := by unfold raise; dsimp only; split <;> [rfl; (split <;> simp)]
@[simp] theorem raise_maint (s : State) (n : Nat) : (raise s n).maint = s.maint := by unfold raise; dsimp only; split <;> [rfl; (split <;> simp)]
@[simp] theorem raise_int (s : State) (n : Nat) : (raise s n).int = s.int := by unfold raise; dsimp only; split <;> [rfl; (split <;> simp)]
@[simp] theorem raise_pwr (s : State) (n : Nat) : (raise s n).pwr = s.pwr := by unfold raise; dsimp only; split <;> [rfl; (split <;> simp)]
@[simp] theorem raise_ctl (s : State) (n : Nat) : (raise s n).ctl = s.ctl := by unfold raise; dsimp only; split <;> [rfl; (split <;> simp)]
@[simp] theorem raise_nv (s : State) (n : Nat) : (raise s n).nv = s.nv := by unfold raise; dsimp only; split <;> [rfl; (split <;> simp)]
@[simp] theorem raise_sec (s : State) (n : Nat) : (raise s n).sec = s.sec := by unfold raise; dsimp only; split <;> [rfl; (split <;> simp)]
@[simp] theorem raise_saf (s : State) (n : Nat) : (raise s n).saf = s.saf := by unfold raise; dsimp only; split <;> [rfl; (split <;> simp)]
@[simp] theorem raise_freeCtr (s : State) (n : Nat) : (raise s n).freeCtr = s.freeCtr := by unfold raise; dsimp only; split <;> [rfl; (split <;> simp)]
@[simp] theorem flag_pending (s : State) (f : Field) (n : Nat) : (flag s f n).pending = s.pending := by simp [flag]
@[simp] theorem flag_mem (s : State) (f : Field) (n : Nat) : (flag s f n).mem = s.mem := by simp [flag]
@[simp] theorem flag_flash (s : State) (f : Field) (n : Nat) : (flag s f n).flash = s.flash := by simp [flag]
@[simp] theorem flag_plan (s : State) (f : Field) (n : Nat) : (flag s f n).plan = s.plan := by simp [flag]
@[simp] theorem flag_lch (s : State) (f : Field) (n : Nat) : (flag s f n).lch = s.lch := by simp [flag]
@[simp] theorem flag_arr (s : State) (f : Field) (n : Nat) : (flag s f n).arr = s.arr := by simp [flag]
@[simp] theorem flag_chn (s : State) (f : Field) (n : Nat) : (flag s f n).chn = s.chn := by simp [flag]
@[simp] theorem flag_trn (s : State) (f : Field) (n : Nat) : (flag s f n).trn = s.trn := by simp [flag]
@[simp] theorem flag_fuse (s : State) (f : Field) (n : Nat) : (flag s f n).fuse = s.fuse := by simp [flag]
@[simp] theorem flag_fls (s : State) (f : Field) (n : Nat) : (flag s f n).fls = s.fls := by simp [flag]
@[simp] theorem flag_maint (s : State) (f : Field) (n : Nat) : (flag s f n).maint = s.maint := by simp [flag]
@[simp] theorem flag_int (s : State) (f : Field) (n : Nat) : (flag s f n).int = s.int := by simp [flag]
@[simp] theorem flag_pwr (s : State) (f : Field) (n : Nat) : (flag s f n).pwr = s.pwr := by simp [flag]
@[simp] theorem flag_ctl (s : State) (f : Field) (n : Nat) : (flag s f n).ctl = s.ctl := by simp [flag]
@[simp] theorem flag_nv (s : State) (f : Field) (n : Nat) : (flag s f n).nv = s.nv := by simp [flag]
@[simp] theorem flag_sec (s : State) (f : Field) (n : Nat) : (flag s f n).sec = s.sec := by simp [flag]
@[simp] theorem flag_saf (s : State) (f : Field) (n : Nat) : (flag s f n).saf = s.saf := by simp [flag]
@[simp] theorem flag_freeCtr (s : State) (f : Field) (n : Nat) : (flag s f n).freeCtr = s.freeCtr := by simp [flag]
@[simp] theorem hostErr_pending (s : State) (f : Field) : (hostErr s f).pending = s.pending := by simp [hostErr]
@[simp] theorem hostErr_mem (s : State) (f : Field) : (hostErr s f).mem = s.mem := by simp [hostErr]
@[simp] theorem hostErr_flash (s : State) (f : Field) : (hostErr s f).flash = s.flash := by simp [hostErr]
@[simp] theorem hostErr_plan (s : State) (f : Field) : (hostErr s f).plan = s.plan := by simp [hostErr]
@[simp] theorem hostErr_lch (s : State) (f : Field) : (hostErr s f).lch = s.lch := by simp [hostErr]
@[simp] theorem hostErr_arr (s : State) (f : Field) : (hostErr s f).arr = s.arr := by simp [hostErr]
@[simp] theorem hostErr_chn (s : State) (f : Field) : (hostErr s f).chn = s.chn := by simp [hostErr]
@[simp] theorem hostErr_trn (s : State) (f : Field) : (hostErr s f).trn = s.trn := by simp [hostErr]
@[simp] theorem hostErr_fuse (s : State) (f : Field) : (hostErr s f).fuse = s.fuse := by simp [hostErr]
@[simp] theorem hostErr_fls (s : State) (f : Field) : (hostErr s f).fls = s.fls := by simp [hostErr]
@[simp] theorem hostErr_maint (s : State) (f : Field) : (hostErr s f).maint = s.maint := by simp [hostErr]
@[simp] theorem hostErr_int (s : State) (f : Field) : (hostErr s f).int = s.int := by simp [hostErr]
@[simp] theorem hostErr_pwr (s : State) (f : Field) : (hostErr s f).pwr = s.pwr := by simp [hostErr]
@[simp] theorem hostErr_ctl (s : State) (f : Field) : (hostErr s f).ctl = s.ctl := by simp [hostErr]
@[simp] theorem hostErr_nv (s : State) (f : Field) : (hostErr s f).nv = s.nv := by simp [hostErr]
@[simp] theorem hostErr_sec (s : State) (f : Field) : (hostErr s f).sec = s.sec := by simp [hostErr]
@[simp] theorem hostErr_saf (s : State) (f : Field) : (hostErr s f).saf = s.saf := by simp [hostErr]
@[simp] theorem hostErr_freeCtr (s : State) (f : Field) : (hostErr s f).freeCtr = s.freeCtr := by simp [hostErr]
@[simp] theorem setPlanState_pending (s : State) (p : PlanState) : (setPlanState s p).pending = s.pending := by unfold setPlanState; split <;> simp
@[simp] theorem setPlanState_mem (s : State) (p : PlanState) : (setPlanState s p).mem = s.mem := by unfold setPlanState; split <;> simp
@[simp] theorem setPlanState_flash (s : State) (p : PlanState) : (setPlanState s p).flash = s.flash := by unfold setPlanState; split <;> simp
@[simp] theorem setPlanState_plan (s : State) (p : PlanState) : (setPlanState s p).plan = s.plan := by unfold setPlanState; split <;> simp
@[simp] theorem setPlanState_lch (s : State) (p : PlanState) : (setPlanState s p).lch = s.lch := by unfold setPlanState; split <;> simp
@[simp] theorem setPlanState_arr (s : State) (p : PlanState) : (setPlanState s p).arr = s.arr := by unfold setPlanState; split <;> simp
@[simp] theorem setPlanState_chn (s : State) (p : PlanState) : (setPlanState s p).chn = s.chn := by unfold setPlanState; split <;> simp
@[simp] theorem setPlanState_trn (s : State) (p : PlanState) : (setPlanState s p).trn = s.trn := by unfold setPlanState; split <;> simp
@[simp] theorem setPlanState_fuse (s : State) (p : PlanState) : (setPlanState s p).fuse = s.fuse := by unfold setPlanState; split <;> simp
@[simp] theorem setPlanState_fls (s : State) (p : PlanState) : (setPlanState s p).fls = s.fls := by unfold setPlanState; split <;> simp
@[simp] theorem setPlanState_maint (s : State) (p : PlanState) : (setPlanState s p).maint = s.maint := by unfold setPlanState; split <;> simp
@[simp] theorem setPlanState_int (s : State) (p : PlanState) : (setPlanState s p).int = s.int := by unfold setPlanState; split <;> simp
@[simp] theorem setPlanState_pwr (s : State) (p : PlanState) : (setPlanState s p).pwr = s.pwr := by unfold setPlanState; split <;> simp
@[simp] theorem setPlanState_ctl (s : State) (p : PlanState) : (setPlanState s p).ctl = s.ctl := by unfold setPlanState; split <;> simp
@[simp] theorem setPlanState_nv (s : State) (p : PlanState) : (setPlanState s p).nv = s.nv := by unfold setPlanState; split <;> simp
@[simp] theorem setPlanState_sec (s : State) (p : PlanState) : (setPlanState s p).sec = s.sec := by unfold setPlanState; split <;> simp
@[simp] theorem setPlanState_saf (s : State) (p : PlanState) : (setPlanState s p).saf = s.saf := by unfold setPlanState; split <;> simp
@[simp] theorem setPlanState_freeCtr (s : State) (p : PlanState) : (setPlanState s p).freeCtr = s.freeCtr := by unfold setPlanState; split <;> simp
@[simp] theorem logFault_pending (s : State) (code oc die unit detail : Nat) : (logFault s code oc die unit detail).pending = s.pending := by simp [logFault]
@[simp] theorem logFault_mem (s : State) (code oc die unit detail : Nat) : (logFault s code oc die unit detail).mem = s.mem := by simp [logFault]
@[simp] theorem logFault_flash (s : State) (code oc die unit detail : Nat) : (logFault s code oc die unit detail).flash = s.flash := by simp [logFault]
@[simp] theorem logFault_plan (s : State) (code oc die unit detail : Nat) : (logFault s code oc die unit detail).plan = s.plan := by simp [logFault]
@[simp] theorem logFault_lch (s : State) (code oc die unit detail : Nat) : (logFault s code oc die unit detail).lch = s.lch := by simp [logFault]
@[simp] theorem logFault_arr (s : State) (code oc die unit detail : Nat) : (logFault s code oc die unit detail).arr = s.arr := by simp [logFault]
@[simp] theorem logFault_chn (s : State) (code oc die unit detail : Nat) : (logFault s code oc die unit detail).chn = s.chn := by simp [logFault]
@[simp] theorem logFault_trn (s : State) (code oc die unit detail : Nat) : (logFault s code oc die unit detail).trn = s.trn := by simp [logFault]
@[simp] theorem logFault_fuse (s : State) (code oc die unit detail : Nat) : (logFault s code oc die unit detail).fuse = s.fuse := by simp [logFault]
@[simp] theorem logFault_fls (s : State) (code oc die unit detail : Nat) : (logFault s code oc die unit detail).fls = s.fls := by simp [logFault]
@[simp] theorem logFault_maint (s : State) (code oc die unit detail : Nat) : (logFault s code oc die unit detail).maint = s.maint := by simp [logFault]
@[simp] theorem logFault_int (s : State) (code oc die unit detail : Nat) : (logFault s code oc die unit detail).int = s.int := by simp [logFault]
@[simp] theorem logFault_pwr (s : State) (code oc die unit detail : Nat) : (logFault s code oc die unit detail).pwr = s.pwr := by simp [logFault]
@[simp] theorem logFault_ctl (s : State) (code oc die unit detail : Nat) : (logFault s code oc die unit detail).ctl = s.ctl := by simp [logFault]
@[simp] theorem logFault_nv (s : State) (code oc die unit detail : Nat) : (logFault s code oc die unit detail).nv = s.nv := by simp [logFault]
@[simp] theorem logFault_sec (s : State) (code oc die unit detail : Nat) : (logFault s code oc die unit detail).sec = s.sec := by simp [logFault]
@[simp] theorem logFault_saf (s : State) (code oc die unit detail : Nat) : (logFault s code oc die unit detail).saf = s.saf := by simp [logFault]
@[simp] theorem logFault_freeCtr (s : State) (code oc die unit detail : Nat) : (logFault s code oc die unit detail).freeCtr = s.freeCtr := by simp [logFault]
@[simp] theorem runFault_pending (s : State) (code die unit detail : Nat) : (runFault s code die unit detail).pending = s.pending := by simp [runFault]
@[simp] theorem runFault_mem (s : State) (code die unit detail : Nat) : (runFault s code die unit detail).mem = s.mem := by simp [runFault]
@[simp] theorem runFault_flash (s : State) (code die unit detail : Nat) : (runFault s code die unit detail).flash = s.flash := by simp [runFault]
@[simp] theorem runFault_plan (s : State) (code die unit detail : Nat) : (runFault s code die unit detail).plan = s.plan := by simp [runFault]
@[simp] theorem runFault_lch (s : State) (code die unit detail : Nat) : (runFault s code die unit detail).lch = s.lch := by simp [runFault]
@[simp] theorem runFault_arr (s : State) (code die unit detail : Nat) : (runFault s code die unit detail).arr = s.arr := by simp [runFault]
@[simp] theorem runFault_chn (s : State) (code die unit detail : Nat) : (runFault s code die unit detail).chn = s.chn := by simp [runFault]
@[simp] theorem runFault_trn (s : State) (code die unit detail : Nat) : (runFault s code die unit detail).trn = s.trn := by simp [runFault]
@[simp] theorem runFault_fuse (s : State) (code die unit detail : Nat) : (runFault s code die unit detail).fuse = s.fuse := by simp [runFault]
@[simp] theorem runFault_fls (s : State) (code die unit detail : Nat) : (runFault s code die unit detail).fls = s.fls := by simp [runFault]
@[simp] theorem runFault_maint (s : State) (code die unit detail : Nat) : (runFault s code die unit detail).maint = s.maint := by simp [runFault]
@[simp] theorem runFault_int (s : State) (code die unit detail : Nat) : (runFault s code die unit detail).int = s.int := by simp [runFault]
@[simp] theorem runFault_pwr (s : State) (code die unit detail : Nat) : (runFault s code die unit detail).pwr = s.pwr := by simp [runFault]
@[simp] theorem runFault_ctl (s : State) (code die unit detail : Nat) : (runFault s code die unit detail).ctl = s.ctl := by simp [runFault]
@[simp] theorem runFault_nv (s : State) (code die unit detail : Nat) : (runFault s code die unit detail).nv = s.nv := by simp [runFault]
@[simp] theorem runFault_sec (s : State) (code die unit detail : Nat) : (runFault s code die unit detail).sec = s.sec := by simp [runFault]
@[simp] theorem runFault_saf (s : State) (code die unit detail : Nat) : (runFault s code die unit detail).saf = s.saf := by simp [runFault]
@[simp] theorem runFault_freeCtr (s : State) (code die unit detail : Nat) : (runFault s code die unit detail).freeCtr = s.freeCtr := by simp [runFault]
@[simp] theorem wr_pending (s : State) (a : Nat) (bs : List Byte) : (wr s a bs).pending = s.pending := by unfold wr; split <;> rfl
@[simp] theorem wr_regs (s : State) (a : Nat) (bs : List Byte) : (wr s a bs).regs = s.regs := by unfold wr; split <;> rfl
@[simp] theorem wr_plan (s : State) (a : Nat) (bs : List Byte) : (wr s a bs).plan = s.plan := by unfold wr; split <;> rfl
@[simp] theorem wr_lch (s : State) (a : Nat) (bs : List Byte) : (wr s a bs).lch = s.lch := by unfold wr; split <;> rfl
@[simp] theorem wr_arr (s : State) (a : Nat) (bs : List Byte) : (wr s a bs).arr = s.arr := by unfold wr; split <;> rfl
@[simp] theorem wr_host (s : State) (a : Nat) (bs : List Byte) : (wr s a bs).host = s.host := by unfold wr; split <;> rfl
@[simp] theorem wr_chn (s : State) (a : Nat) (bs : List Byte) : (wr s a bs).chn = s.chn := by unfold wr; split <;> rfl
@[simp] theorem wr_trn (s : State) (a : Nat) (bs : List Byte) : (wr s a bs).trn = s.trn := by unfold wr; split <;> rfl
@[simp] theorem wr_fuse (s : State) (a : Nat) (bs : List Byte) : (wr s a bs).fuse = s.fuse := by unfold wr; split <;> rfl
@[simp] theorem wr_fls (s : State) (a : Nat) (bs : List Byte) : (wr s a bs).fls = s.fls := by unfold wr; split <;> rfl
@[simp] theorem wr_maint (s : State) (a : Nat) (bs : List Byte) : (wr s a bs).maint = s.maint := by unfold wr; split <;> rfl
@[simp] theorem wr_int (s : State) (a : Nat) (bs : List Byte) : (wr s a bs).int = s.int := by unfold wr; split <;> rfl
@[simp] theorem wr_pwr (s : State) (a : Nat) (bs : List Byte) : (wr s a bs).pwr = s.pwr := by unfold wr; split <;> rfl
@[simp] theorem wr_ctl (s : State) (a : Nat) (bs : List Byte) : (wr s a bs).ctl = s.ctl := by unfold wr; split <;> rfl
@[simp] theorem wr_nv (s : State) (a : Nat) (bs : List Byte) : (wr s a bs).nv = s.nv := by unfold wr; split <;> rfl
@[simp] theorem wr_sec (s : State) (a : Nat) (bs : List Byte) : (wr s a bs).sec = s.sec := by unfold wr; split <;> rfl
@[simp] theorem wr_saf (s : State) (a : Nat) (bs : List Byte) : (wr s a bs).saf = s.saf := by unfold wr; split <;> rfl
@[simp] theorem wr_sent (s : State) (a : Nat) (bs : List Byte) : (wr s a bs).sent = s.sent := by unfold wr; split <;> rfl
@[simp] theorem wr_freeCtr (s : State) (a : Nat) (bs : List Byte) : (wr s a bs).freeCtr = s.freeCtr := by unfold wr; split <;> rfl
@[simp] theorem sealAt_pending (s : State) (a : Nat) : (sealAt s a).pending = s.pending := rfl
@[simp] theorem sealAt_regs (s : State) (a : Nat) : (sealAt s a).regs = s.regs := rfl
@[simp] theorem sealAt_mem (s : State) (a : Nat) : (sealAt s a).mem = s.mem := rfl
@[simp] theorem sealAt_flash (s : State) (a : Nat) : (sealAt s a).flash = s.flash := rfl
@[simp] theorem sealAt_plan (s : State) (a : Nat) : (sealAt s a).plan = s.plan := rfl
@[simp] theorem sealAt_arr (s : State) (a : Nat) : (sealAt s a).arr = s.arr := rfl
@[simp] theorem sealAt_host (s : State) (a : Nat) : (sealAt s a).host = s.host := rfl
@[simp] theorem sealAt_chn (s : State) (a : Nat) : (sealAt s a).chn = s.chn := rfl
@[simp] theorem sealAt_trn (s : State) (a : Nat) : (sealAt s a).trn = s.trn := rfl
@[simp] theorem sealAt_fuse (s : State) (a : Nat) : (sealAt s a).fuse = s.fuse := rfl
@[simp] theorem sealAt_fls (s : State) (a : Nat) : (sealAt s a).fls = s.fls := rfl
@[simp] theorem sealAt_maint (s : State) (a : Nat) : (sealAt s a).maint = s.maint := rfl
@[simp] theorem sealAt_int (s : State) (a : Nat) : (sealAt s a).int = s.int := rfl
@[simp] theorem sealAt_pwr (s : State) (a : Nat) : (sealAt s a).pwr = s.pwr := rfl
@[simp] theorem sealAt_ctl (s : State) (a : Nat) : (sealAt s a).ctl = s.ctl := rfl
@[simp] theorem sealAt_nv (s : State) (a : Nat) : (sealAt s a).nv = s.nv := rfl
@[simp] theorem sealAt_sec (s : State) (a : Nat) : (sealAt s a).sec = s.sec := rfl
@[simp] theorem sealAt_saf (s : State) (a : Nat) : (sealAt s a).saf = s.saf := rfl
@[simp] theorem sealAt_sent (s : State) (a : Nat) : (sealAt s a).sent = s.sent := rfl
@[simp] theorem sealAt_freeCtr (s : State) (a : Nat) : (sealAt s a).freeCtr = s.freeCtr := rfl
@[simp] theorem breakSeal_pending (s : State) (a : Nat) : (breakSeal s a).pending = s.pending := rfl
@[simp] theorem breakSeal_regs (s : State) (a : Nat) : (breakSeal s a).regs = s.regs := rfl
@[simp] theorem breakSeal_mem (s : State) (a : Nat) : (breakSeal s a).mem = s.mem := rfl
@[simp] theorem breakSeal_flash (s : State) (a : Nat) : (breakSeal s a).flash = s.flash := rfl
@[simp] theorem breakSeal_plan (s : State) (a : Nat) : (breakSeal s a).plan = s.plan := rfl
@[simp] theorem breakSeal_arr (s : State) (a : Nat) : (breakSeal s a).arr = s.arr := rfl
@[simp] theorem breakSeal_host (s : State) (a : Nat) : (breakSeal s a).host = s.host := rfl
@[simp] theorem breakSeal_chn (s : State) (a : Nat) : (breakSeal s a).chn = s.chn := rfl
@[simp] theorem breakSeal_trn (s : State) (a : Nat) : (breakSeal s a).trn = s.trn := rfl
@[simp] theorem breakSeal_fuse (s : State) (a : Nat) : (breakSeal s a).fuse = s.fuse := rfl
@[simp] theorem breakSeal_fls (s : State) (a : Nat) : (breakSeal s a).fls = s.fls := rfl
@[simp] theorem breakSeal_maint (s : State) (a : Nat) : (breakSeal s a).maint = s.maint := rfl
@[simp] theorem breakSeal_int (s : State) (a : Nat) : (breakSeal s a).int = s.int := rfl
@[simp] theorem breakSeal_pwr (s : State) (a : Nat) : (breakSeal s a).pwr = s.pwr := rfl
@[simp] theorem breakSeal_ctl (s : State) (a : Nat) : (breakSeal s a).ctl = s.ctl := rfl
@[simp] theorem breakSeal_nv (s : State) (a : Nat) : (breakSeal s a).nv = s.nv := rfl
@[simp] theorem breakSeal_sec (s : State) (a : Nat) : (breakSeal s a).sec = s.sec := rfl
@[simp] theorem breakSeal_saf (s : State) (a : Nat) : (breakSeal s a).saf = s.saf := rfl
@[simp] theorem breakSeal_sent (s : State) (a : Nat) : (breakSeal s a).sent = s.sent := rfl
@[simp] theorem breakSeal_freeCtr (s : State) (a : Nat) : (breakSeal s a).freeCtr = s.freeCtr := rfl
@[simp] theorem signalAt_pending (s : State) (e o a : Nat) : (signalAt s e o a).pending = s.pending := rfl
@[simp] theorem signalAt_regs (s : State) (e o a : Nat) : (signalAt s e o a).regs = s.regs := rfl
@[simp] theorem signalAt_mem (s : State) (e o a : Nat) : (signalAt s e o a).mem = s.mem := rfl
@[simp] theorem signalAt_flash (s : State) (e o a : Nat) : (signalAt s e o a).flash = s.flash := rfl
@[simp] theorem signalAt_plan (s : State) (e o a : Nat) : (signalAt s e o a).plan = s.plan := rfl
@[simp] theorem signalAt_arr (s : State) (e o a : Nat) : (signalAt s e o a).arr = s.arr := rfl
@[simp] theorem signalAt_host (s : State) (e o a : Nat) : (signalAt s e o a).host = s.host := rfl
@[simp] theorem signalAt_chn (s : State) (e o a : Nat) : (signalAt s e o a).chn = s.chn := rfl
@[simp] theorem signalAt_trn (s : State) (e o a : Nat) : (signalAt s e o a).trn = s.trn := rfl
@[simp] theorem signalAt_fuse (s : State) (e o a : Nat) : (signalAt s e o a).fuse = s.fuse := rfl
@[simp] theorem signalAt_fls (s : State) (e o a : Nat) : (signalAt s e o a).fls = s.fls := rfl
@[simp] theorem signalAt_maint (s : State) (e o a : Nat) : (signalAt s e o a).maint = s.maint := rfl
@[simp] theorem signalAt_int (s : State) (e o a : Nat) : (signalAt s e o a).int = s.int := rfl
@[simp] theorem signalAt_pwr (s : State) (e o a : Nat) : (signalAt s e o a).pwr = s.pwr := rfl
@[simp] theorem signalAt_ctl (s : State) (e o a : Nat) : (signalAt s e o a).ctl = s.ctl := rfl
@[simp] theorem signalAt_nv (s : State) (e o a : Nat) : (signalAt s e o a).nv = s.nv := rfl
@[simp] theorem signalAt_sec (s : State) (e o a : Nat) : (signalAt s e o a).sec = s.sec := rfl
@[simp] theorem signalAt_saf (s : State) (e o a : Nat) : (signalAt s e o a).saf = s.saf := rfl
@[simp] theorem signalAt_sent (s : State) (e o a : Nat) : (signalAt s e o a).sent = s.sent := rfl
@[simp] theorem signalAt_freeCtr (s : State) (e o a : Nat) : (signalAt s e o a).freeCtr = s.freeCtr := rfl
@[simp] theorem signal_pending (s : State) (o a : Nat) : (signal s o a).pending = s.pending := rfl
@[simp] theorem signal_regs (s : State) (o a : Nat) : (signal s o a).regs = s.regs := rfl
@[simp] theorem signal_mem (s : State) (o a : Nat) : (signal s o a).mem = s.mem := rfl
@[simp] theorem signal_flash (s : State) (o a : Nat) : (signal s o a).flash = s.flash := rfl
@[simp] theorem signal_plan (s : State) (o a : Nat) : (signal s o a).plan = s.plan := rfl
@[simp] theorem signal_arr (s : State) (o a : Nat) : (signal s o a).arr = s.arr := rfl
@[simp] theorem signal_host (s : State) (o a : Nat) : (signal s o a).host = s.host := rfl
@[simp] theorem signal_chn (s : State) (o a : Nat) : (signal s o a).chn = s.chn := rfl
@[simp] theorem signal_trn (s : State) (o a : Nat) : (signal s o a).trn = s.trn := rfl
@[simp] theorem signal_fuse (s : State) (o a : Nat) : (signal s o a).fuse = s.fuse := rfl
@[simp] theorem signal_fls (s : State) (o a : Nat) : (signal s o a).fls = s.fls := rfl
@[simp] theorem signal_maint (s : State) (o a : Nat) : (signal s o a).maint = s.maint := rfl
@[simp] theorem signal_int (s : State) (o a : Nat) : (signal s o a).int = s.int := rfl
@[simp] theorem signal_pwr (s : State) (o a : Nat) : (signal s o a).pwr = s.pwr := rfl
@[simp] theorem signal_ctl (s : State) (o a : Nat) : (signal s o a).ctl = s.ctl := rfl
@[simp] theorem signal_nv (s : State) (o a : Nat) : (signal s o a).nv = s.nv := rfl
@[simp] theorem signal_sec (s : State) (o a : Nat) : (signal s o a).sec = s.sec := rfl
@[simp] theorem signal_saf (s : State) (o a : Nat) : (signal s o a).saf = s.saf := rfl
@[simp] theorem signal_sent (s : State) (o a : Nat) : (signal s o a).sent = s.sent := rfl
@[simp] theorem signal_freeCtr (s : State) (o a : Nat) : (signal s o a).freeCtr = s.freeCtr := rfl
@[simp] theorem setRun_pending (s : State) (k : Nat) (r : LaunchRun) : (setRun s k r).pending = s.pending := rfl
@[simp] theorem setRun_regs (s : State) (k : Nat) (r : LaunchRun) : (setRun s k r).regs = s.regs := rfl
@[simp] theorem setRun_mem (s : State) (k : Nat) (r : LaunchRun) : (setRun s k r).mem = s.mem := rfl
@[simp] theorem setRun_flash (s : State) (k : Nat) (r : LaunchRun) : (setRun s k r).flash = s.flash := rfl
@[simp] theorem setRun_plan (s : State) (k : Nat) (r : LaunchRun) : (setRun s k r).plan = s.plan := rfl
@[simp] theorem setRun_arr (s : State) (k : Nat) (r : LaunchRun) : (setRun s k r).arr = s.arr := rfl
@[simp] theorem setRun_host (s : State) (k : Nat) (r : LaunchRun) : (setRun s k r).host = s.host := rfl
@[simp] theorem setRun_chn (s : State) (k : Nat) (r : LaunchRun) : (setRun s k r).chn = s.chn := rfl
@[simp] theorem setRun_trn (s : State) (k : Nat) (r : LaunchRun) : (setRun s k r).trn = s.trn := rfl
@[simp] theorem setRun_fuse (s : State) (k : Nat) (r : LaunchRun) : (setRun s k r).fuse = s.fuse := rfl
@[simp] theorem setRun_fls (s : State) (k : Nat) (r : LaunchRun) : (setRun s k r).fls = s.fls := rfl
@[simp] theorem setRun_maint (s : State) (k : Nat) (r : LaunchRun) : (setRun s k r).maint = s.maint := rfl
@[simp] theorem setRun_int (s : State) (k : Nat) (r : LaunchRun) : (setRun s k r).int = s.int := rfl
@[simp] theorem setRun_pwr (s : State) (k : Nat) (r : LaunchRun) : (setRun s k r).pwr = s.pwr := rfl
@[simp] theorem setRun_ctl (s : State) (k : Nat) (r : LaunchRun) : (setRun s k r).ctl = s.ctl := rfl
@[simp] theorem setRun_nv (s : State) (k : Nat) (r : LaunchRun) : (setRun s k r).nv = s.nv := rfl
@[simp] theorem setRun_sec (s : State) (k : Nat) (r : LaunchRun) : (setRun s k r).sec = s.sec := rfl
@[simp] theorem setRun_saf (s : State) (k : Nat) (r : LaunchRun) : (setRun s k r).saf = s.saf := rfl
@[simp] theorem setRun_sent (s : State) (k : Nat) (r : LaunchRun) : (setRun s k r).sent = s.sent := rfl
@[simp] theorem setRun_freeCtr (s : State) (k : Nat) (r : LaunchRun) : (setRun s k r).freeCtr = s.freeCtr := rfl
@[simp] theorem setUnit_pending (s : State) (k : Nat) (r : UnitRun) : (setUnit s k r).pending = s.pending := rfl
@[simp] theorem setUnit_regs (s : State) (k : Nat) (r : UnitRun) : (setUnit s k r).regs = s.regs := rfl
@[simp] theorem setUnit_mem (s : State) (k : Nat) (r : UnitRun) : (setUnit s k r).mem = s.mem := rfl
@[simp] theorem setUnit_flash (s : State) (k : Nat) (r : UnitRun) : (setUnit s k r).flash = s.flash := rfl
@[simp] theorem setUnit_plan (s : State) (k : Nat) (r : UnitRun) : (setUnit s k r).plan = s.plan := rfl
@[simp] theorem setUnit_arr (s : State) (k : Nat) (r : UnitRun) : (setUnit s k r).arr = s.arr := rfl
@[simp] theorem setUnit_host (s : State) (k : Nat) (r : UnitRun) : (setUnit s k r).host = s.host := rfl
@[simp] theorem setUnit_chn (s : State) (k : Nat) (r : UnitRun) : (setUnit s k r).chn = s.chn := rfl
@[simp] theorem setUnit_trn (s : State) (k : Nat) (r : UnitRun) : (setUnit s k r).trn = s.trn := rfl
@[simp] theorem setUnit_fuse (s : State) (k : Nat) (r : UnitRun) : (setUnit s k r).fuse = s.fuse := rfl
@[simp] theorem setUnit_fls (s : State) (k : Nat) (r : UnitRun) : (setUnit s k r).fls = s.fls := rfl
@[simp] theorem setUnit_maint (s : State) (k : Nat) (r : UnitRun) : (setUnit s k r).maint = s.maint := rfl
@[simp] theorem setUnit_int (s : State) (k : Nat) (r : UnitRun) : (setUnit s k r).int = s.int := rfl
@[simp] theorem setUnit_pwr (s : State) (k : Nat) (r : UnitRun) : (setUnit s k r).pwr = s.pwr := rfl
@[simp] theorem setUnit_ctl (s : State) (k : Nat) (r : UnitRun) : (setUnit s k r).ctl = s.ctl := rfl
@[simp] theorem setUnit_nv (s : State) (k : Nat) (r : UnitRun) : (setUnit s k r).nv = s.nv := rfl
@[simp] theorem setUnit_sec (s : State) (k : Nat) (r : UnitRun) : (setUnit s k r).sec = s.sec := rfl
@[simp] theorem setUnit_saf (s : State) (k : Nat) (r : UnitRun) : (setUnit s k r).saf = s.saf := rfl
@[simp] theorem setUnit_sent (s : State) (k : Nat) (r : UnitRun) : (setUnit s k r).sent = s.sent := rfl
@[simp] theorem setUnit_freeCtr (s : State) (k : Nat) (r : UnitRun) : (setUnit s k r).freeCtr = s.freeCtr := rfl
@[simp] theorem setPass_pending (s : State) (k : Nat) (r : PassRun) : (setPass s k r).pending = s.pending := rfl
@[simp] theorem setPass_regs (s : State) (k : Nat) (r : PassRun) : (setPass s k r).regs = s.regs := rfl
@[simp] theorem setPass_mem (s : State) (k : Nat) (r : PassRun) : (setPass s k r).mem = s.mem := rfl
@[simp] theorem setPass_flash (s : State) (k : Nat) (r : PassRun) : (setPass s k r).flash = s.flash := rfl
@[simp] theorem setPass_plan (s : State) (k : Nat) (r : PassRun) : (setPass s k r).plan = s.plan := rfl
@[simp] theorem setPass_arr (s : State) (k : Nat) (r : PassRun) : (setPass s k r).arr = s.arr := rfl
@[simp] theorem setPass_host (s : State) (k : Nat) (r : PassRun) : (setPass s k r).host = s.host := rfl
@[simp] theorem setPass_chn (s : State) (k : Nat) (r : PassRun) : (setPass s k r).chn = s.chn := rfl
@[simp] theorem setPass_trn (s : State) (k : Nat) (r : PassRun) : (setPass s k r).trn = s.trn := rfl
@[simp] theorem setPass_fuse (s : State) (k : Nat) (r : PassRun) : (setPass s k r).fuse = s.fuse := rfl
@[simp] theorem setPass_fls (s : State) (k : Nat) (r : PassRun) : (setPass s k r).fls = s.fls := rfl
@[simp] theorem setPass_maint (s : State) (k : Nat) (r : PassRun) : (setPass s k r).maint = s.maint := rfl
@[simp] theorem setPass_int (s : State) (k : Nat) (r : PassRun) : (setPass s k r).int = s.int := rfl
@[simp] theorem setPass_pwr (s : State) (k : Nat) (r : PassRun) : (setPass s k r).pwr = s.pwr := rfl
@[simp] theorem setPass_ctl (s : State) (k : Nat) (r : PassRun) : (setPass s k r).ctl = s.ctl := rfl
@[simp] theorem setPass_nv (s : State) (k : Nat) (r : PassRun) : (setPass s k r).nv = s.nv := rfl
@[simp] theorem setPass_sec (s : State) (k : Nat) (r : PassRun) : (setPass s k r).sec = s.sec := rfl
@[simp] theorem setPass_saf (s : State) (k : Nat) (r : PassRun) : (setPass s k r).saf = s.saf := rfl
@[simp] theorem setPass_sent (s : State) (k : Nat) (r : PassRun) : (setPass s k r).sent = s.sent := rfl
@[simp] theorem setPass_freeCtr (s : State) (k : Nat) (r : PassRun) : (setPass s k r).freeCtr = s.freeCtr := rfl
@[simp] theorem setArray_pending (s : State) (k : Nat) (r : ArrayRun) : (setArray s k r).pending = s.pending := rfl
@[simp] theorem setArray_regs (s : State) (k : Nat) (r : ArrayRun) : (setArray s k r).regs = s.regs := rfl
@[simp] theorem setArray_mem (s : State) (k : Nat) (r : ArrayRun) : (setArray s k r).mem = s.mem := rfl
@[simp] theorem setArray_flash (s : State) (k : Nat) (r : ArrayRun) : (setArray s k r).flash = s.flash := rfl
@[simp] theorem setArray_plan (s : State) (k : Nat) (r : ArrayRun) : (setArray s k r).plan = s.plan := rfl
@[simp] theorem setArray_lch (s : State) (k : Nat) (r : ArrayRun) : (setArray s k r).lch = s.lch := rfl
@[simp] theorem setArray_host (s : State) (k : Nat) (r : ArrayRun) : (setArray s k r).host = s.host := rfl
@[simp] theorem setArray_chn (s : State) (k : Nat) (r : ArrayRun) : (setArray s k r).chn = s.chn := rfl
@[simp] theorem setArray_trn (s : State) (k : Nat) (r : ArrayRun) : (setArray s k r).trn = s.trn := rfl
@[simp] theorem setArray_fuse (s : State) (k : Nat) (r : ArrayRun) : (setArray s k r).fuse = s.fuse := rfl
@[simp] theorem setArray_fls (s : State) (k : Nat) (r : ArrayRun) : (setArray s k r).fls = s.fls := rfl
@[simp] theorem setArray_maint (s : State) (k : Nat) (r : ArrayRun) : (setArray s k r).maint = s.maint := rfl
@[simp] theorem setArray_int (s : State) (k : Nat) (r : ArrayRun) : (setArray s k r).int = s.int := rfl
@[simp] theorem setArray_pwr (s : State) (k : Nat) (r : ArrayRun) : (setArray s k r).pwr = s.pwr := rfl
@[simp] theorem setArray_ctl (s : State) (k : Nat) (r : ArrayRun) : (setArray s k r).ctl = s.ctl := rfl
@[simp] theorem setArray_nv (s : State) (k : Nat) (r : ArrayRun) : (setArray s k r).nv = s.nv := rfl
@[simp] theorem setArray_sec (s : State) (k : Nat) (r : ArrayRun) : (setArray s k r).sec = s.sec := rfl
@[simp] theorem setArray_saf (s : State) (k : Nat) (r : ArrayRun) : (setArray s k r).saf = s.saf := rfl
@[simp] theorem setArray_sent (s : State) (k : Nat) (r : ArrayRun) : (setArray s k r).sent = s.sent := rfl
@[simp] theorem setArray_freeCtr (s : State) (k : Nat) (r : ArrayRun) : (setArray s k r).freeCtr = s.freeCtr := rfl
@[simp] theorem setBank_pending (s : State) (k b : Nat) (r : Bank) : (setBank s k b r).pending = s.pending := rfl
@[simp] theorem setBank_regs (s : State) (k b : Nat) (r : Bank) : (setBank s k b r).regs = s.regs := rfl
@[simp] theorem setBank_mem (s : State) (k b : Nat) (r : Bank) : (setBank s k b r).mem = s.mem := rfl
@[simp] theorem setBank_flash (s : State) (k b : Nat) (r : Bank) : (setBank s k b r).flash = s.flash := rfl
@[simp] theorem setBank_plan (s : State) (k b : Nat) (r : Bank) : (setBank s k b r).plan = s.plan := rfl
@[simp] theorem setBank_lch (s : State) (k b : Nat) (r : Bank) : (setBank s k b r).lch = s.lch := rfl
@[simp] theorem setBank_host (s : State) (k b : Nat) (r : Bank) : (setBank s k b r).host = s.host := rfl
@[simp] theorem setBank_chn (s : State) (k b : Nat) (r : Bank) : (setBank s k b r).chn = s.chn := rfl
@[simp] theorem setBank_trn (s : State) (k b : Nat) (r : Bank) : (setBank s k b r).trn = s.trn := rfl
@[simp] theorem setBank_fuse (s : State) (k b : Nat) (r : Bank) : (setBank s k b r).fuse = s.fuse := rfl
@[simp] theorem setBank_fls (s : State) (k b : Nat) (r : Bank) : (setBank s k b r).fls = s.fls := rfl
@[simp] theorem setBank_maint (s : State) (k b : Nat) (r : Bank) : (setBank s k b r).maint = s.maint := rfl
@[simp] theorem setBank_int (s : State) (k b : Nat) (r : Bank) : (setBank s k b r).int = s.int := rfl
@[simp] theorem setBank_pwr (s : State) (k b : Nat) (r : Bank) : (setBank s k b r).pwr = s.pwr := rfl
@[simp] theorem setBank_ctl (s : State) (k b : Nat) (r : Bank) : (setBank s k b r).ctl = s.ctl := rfl
@[simp] theorem setBank_nv (s : State) (k b : Nat) (r : Bank) : (setBank s k b r).nv = s.nv := rfl
@[simp] theorem setBank_sec (s : State) (k b : Nat) (r : Bank) : (setBank s k b r).sec = s.sec := rfl
@[simp] theorem setBank_saf (s : State) (k b : Nat) (r : Bank) : (setBank s k b r).saf = s.saf := rfl
@[simp] theorem setBank_sent (s : State) (k b : Nat) (r : Bank) : (setBank s k b r).sent = s.sent := rfl
@[simp] theorem setBank_freeCtr (s : State) (k b : Nat) (r : Bank) : (setBank s k b r).freeCtr = s.freeCtr := rfl
@[simp] theorem setQueue_pending (s : State) (k : Nat) (r : QueueRun) : (setQueue s k r).pending = s.pending := rfl
@[simp] theorem setQueue_regs (s : State) (k : Nat) (r : QueueRun) : (setQueue s k r).regs = s.regs := rfl
@[simp] theorem setQueue_mem (s : State) (k : Nat) (r : QueueRun) : (setQueue s k r).mem = s.mem := rfl
@[simp] theorem setQueue_flash (s : State) (k : Nat) (r : QueueRun) : (setQueue s k r).flash = s.flash := rfl
@[simp] theorem setQueue_plan (s : State) (k : Nat) (r : QueueRun) : (setQueue s k r).plan = s.plan := rfl
@[simp] theorem setQueue_lch (s : State) (k : Nat) (r : QueueRun) : (setQueue s k r).lch = s.lch := rfl
@[simp] theorem setQueue_host (s : State) (k : Nat) (r : QueueRun) : (setQueue s k r).host = s.host := rfl
@[simp] theorem setQueue_chn (s : State) (k : Nat) (r : QueueRun) : (setQueue s k r).chn = s.chn := rfl
@[simp] theorem setQueue_trn (s : State) (k : Nat) (r : QueueRun) : (setQueue s k r).trn = s.trn := rfl
@[simp] theorem setQueue_fuse (s : State) (k : Nat) (r : QueueRun) : (setQueue s k r).fuse = s.fuse := rfl
@[simp] theorem setQueue_fls (s : State) (k : Nat) (r : QueueRun) : (setQueue s k r).fls = s.fls := rfl
@[simp] theorem setQueue_maint (s : State) (k : Nat) (r : QueueRun) : (setQueue s k r).maint = s.maint := rfl
@[simp] theorem setQueue_int (s : State) (k : Nat) (r : QueueRun) : (setQueue s k r).int = s.int := rfl
@[simp] theorem setQueue_pwr (s : State) (k : Nat) (r : QueueRun) : (setQueue s k r).pwr = s.pwr := rfl
@[simp] theorem setQueue_ctl (s : State) (k : Nat) (r : QueueRun) : (setQueue s k r).ctl = s.ctl := rfl
@[simp] theorem setQueue_nv (s : State) (k : Nat) (r : QueueRun) : (setQueue s k r).nv = s.nv := rfl
@[simp] theorem setQueue_sec (s : State) (k : Nat) (r : QueueRun) : (setQueue s k r).sec = s.sec := rfl
@[simp] theorem setQueue_saf (s : State) (k : Nat) (r : QueueRun) : (setQueue s k r).saf = s.saf := rfl
@[simp] theorem setQueue_sent (s : State) (k : Nat) (r : QueueRun) : (setQueue s k r).sent = s.sent := rfl
@[simp] theorem setQueue_freeCtr (s : State) (k : Nat) (r : QueueRun) : (setQueue s k r).freeCtr = s.freeCtr := rfl
@[simp] theorem ringPut_pending (s : State) (base size len : Nat) (head tail : Field) (rc : List Byte) : ((ringPut s base size len head tail rc).1).pending = s.pending := by unfold ringPut; dsimp only; split <;> simp
@[simp] theorem ringPut_plan (s : State) (base size len : Nat) (head tail : Field) (rc : List Byte) : ((ringPut s base size len head tail rc).1).plan = s.plan := by unfold ringPut; dsimp only; split <;> simp
@[simp] theorem ringPut_lch (s : State) (base size len : Nat) (head tail : Field) (rc : List Byte) : ((ringPut s base size len head tail rc).1).lch = s.lch := by unfold ringPut; dsimp only; split <;> simp
@[simp] theorem ringPut_arr (s : State) (base size len : Nat) (head tail : Field) (rc : List Byte) : ((ringPut s base size len head tail rc).1).arr = s.arr := by unfold ringPut; dsimp only; split <;> simp
@[simp] theorem ringPut_host (s : State) (base size len : Nat) (head tail : Field) (rc : List Byte) : ((ringPut s base size len head tail rc).1).host = s.host := by unfold ringPut; dsimp only; split <;> simp
@[simp] theorem ringPut_chn (s : State) (base size len : Nat) (head tail : Field) (rc : List Byte) : ((ringPut s base size len head tail rc).1).chn = s.chn := by unfold ringPut; dsimp only; split <;> simp
@[simp] theorem ringPut_trn (s : State) (base size len : Nat) (head tail : Field) (rc : List Byte) : ((ringPut s base size len head tail rc).1).trn = s.trn := by unfold ringPut; dsimp only; split <;> simp
@[simp] theorem ringPut_fuse (s : State) (base size len : Nat) (head tail : Field) (rc : List Byte) : ((ringPut s base size len head tail rc).1).fuse = s.fuse := by unfold ringPut; dsimp only; split <;> simp
@[simp] theorem ringPut_fls (s : State) (base size len : Nat) (head tail : Field) (rc : List Byte) : ((ringPut s base size len head tail rc).1).fls = s.fls := by unfold ringPut; dsimp only; split <;> simp
@[simp] theorem ringPut_maint (s : State) (base size len : Nat) (head tail : Field) (rc : List Byte) : ((ringPut s base size len head tail rc).1).maint = s.maint := by unfold ringPut; dsimp only; split <;> simp
@[simp] theorem ringPut_int (s : State) (base size len : Nat) (head tail : Field) (rc : List Byte) : ((ringPut s base size len head tail rc).1).int = s.int := by unfold ringPut; dsimp only; split <;> simp
@[simp] theorem ringPut_pwr (s : State) (base size len : Nat) (head tail : Field) (rc : List Byte) : ((ringPut s base size len head tail rc).1).pwr = s.pwr := by unfold ringPut; dsimp only; split <;> simp
@[simp] theorem ringPut_ctl (s : State) (base size len : Nat) (head tail : Field) (rc : List Byte) : ((ringPut s base size len head tail rc).1).ctl = s.ctl := by unfold ringPut; dsimp only; split <;> simp
@[simp] theorem ringPut_nv (s : State) (base size len : Nat) (head tail : Field) (rc : List Byte) : ((ringPut s base size len head tail rc).1).nv = s.nv := by unfold ringPut; dsimp only; split <;> simp
@[simp] theorem ringPut_sec (s : State) (base size len : Nat) (head tail : Field) (rc : List Byte) : ((ringPut s base size len head tail rc).1).sec = s.sec := by unfold ringPut; dsimp only; split <;> simp
@[simp] theorem ringPut_saf (s : State) (base size len : Nat) (head tail : Field) (rc : List Byte) : ((ringPut s base size len head tail rc).1).saf = s.saf := by unfold ringPut; dsimp only; split <;> simp
@[simp] theorem ringPut_sent (s : State) (base size len : Nat) (head tail : Field) (rc : List Byte) : ((ringPut s base size len head tail rc).1).sent = s.sent := by unfold ringPut; dsimp only; split <;> simp
@[simp] theorem ringPut_freeCtr (s : State) (base size len : Nat) (head tail : Field) (rc : List Byte) : ((ringPut s base size len head tail rc).1).freeCtr = s.freeCtr := by unfold ringPut; dsimp only; split <;> simp
@[simp] theorem ftSet_pending (s : State) (id : Nat) (e : FtEntry) : (ftSet s id e).pending = s.pending := by unfold ftSet; split <;> simp
@[simp] theorem ftSet_regs (s : State) (id : Nat) (e : FtEntry) : (ftSet s id e).regs = s.regs := by unfold ftSet; split <;> simp
@[simp] theorem ftSet_plan (s : State) (id : Nat) (e : FtEntry) : (ftSet s id e).plan = s.plan := by unfold ftSet; split <;> simp
@[simp] theorem ftSet_lch (s : State) (id : Nat) (e : FtEntry) : (ftSet s id e).lch = s.lch := by unfold ftSet; split <;> simp
@[simp] theorem ftSet_arr (s : State) (id : Nat) (e : FtEntry) : (ftSet s id e).arr = s.arr := by unfold ftSet; split <;> simp
@[simp] theorem ftSet_host (s : State) (id : Nat) (e : FtEntry) : (ftSet s id e).host = s.host := by unfold ftSet; split <;> simp
@[simp] theorem ftSet_chn (s : State) (id : Nat) (e : FtEntry) : (ftSet s id e).chn = s.chn := by unfold ftSet; split <;> simp
@[simp] theorem ftSet_trn (s : State) (id : Nat) (e : FtEntry) : (ftSet s id e).trn = s.trn := by unfold ftSet; split <;> simp
@[simp] theorem ftSet_fuse (s : State) (id : Nat) (e : FtEntry) : (ftSet s id e).fuse = s.fuse := by unfold ftSet; split <;> simp
@[simp] theorem ftSet_fls (s : State) (id : Nat) (e : FtEntry) : (ftSet s id e).fls = s.fls := by unfold ftSet; split <;> simp
@[simp] theorem ftSet_maint (s : State) (id : Nat) (e : FtEntry) : (ftSet s id e).maint = s.maint := by unfold ftSet; split <;> simp
@[simp] theorem ftSet_int (s : State) (id : Nat) (e : FtEntry) : (ftSet s id e).int = s.int := by unfold ftSet; split <;> simp
@[simp] theorem ftSet_pwr (s : State) (id : Nat) (e : FtEntry) : (ftSet s id e).pwr = s.pwr := by unfold ftSet; split <;> simp
@[simp] theorem ftSet_ctl (s : State) (id : Nat) (e : FtEntry) : (ftSet s id e).ctl = s.ctl := by unfold ftSet; split <;> simp
@[simp] theorem ftSet_nv (s : State) (id : Nat) (e : FtEntry) : (ftSet s id e).nv = s.nv := by unfold ftSet; split <;> simp
@[simp] theorem ftSet_sec (s : State) (id : Nat) (e : FtEntry) : (ftSet s id e).sec = s.sec := by unfold ftSet; split <;> simp
@[simp] theorem ftSet_saf (s : State) (id : Nat) (e : FtEntry) : (ftSet s id e).saf = s.saf := by unfold ftSet; split <;> simp
@[simp] theorem ftSet_sent (s : State) (id : Nat) (e : FtEntry) : (ftSet s id e).sent = s.sent := by unfold ftSet; split <;> simp
@[simp] theorem ftSet_freeCtr (s : State) (id : Nat) (e : FtEntry) : (ftSet s id e).freeCtr = s.freeCtr := by unfold ftSet; split <;> simp
@[simp] theorem showMaint_pending (s : State) : (showMaint s).pending = s.pending := by simp [showMaint]
@[simp] theorem showMaint_mem (s : State) : (showMaint s).mem = s.mem := by simp [showMaint]
@[simp] theorem showMaint_flash (s : State) : (showMaint s).flash = s.flash := by simp [showMaint]
@[simp] theorem showMaint_plan (s : State) : (showMaint s).plan = s.plan := by simp [showMaint]
@[simp] theorem showMaint_lch (s : State) : (showMaint s).lch = s.lch := by simp [showMaint]
@[simp] theorem showMaint_arr (s : State) : (showMaint s).arr = s.arr := by simp [showMaint]
@[simp] theorem showMaint_host (s : State) : (showMaint s).host = s.host := by simp [showMaint]
@[simp] theorem showMaint_chn (s : State) : (showMaint s).chn = s.chn := by simp [showMaint]
@[simp] theorem showMaint_trn (s : State) : (showMaint s).trn = s.trn := by simp [showMaint]
@[simp] theorem showMaint_fuse (s : State) : (showMaint s).fuse = s.fuse := by simp [showMaint]
@[simp] theorem showMaint_fls (s : State) : (showMaint s).fls = s.fls := by simp [showMaint]
@[simp] theorem showMaint_maint (s : State) : (showMaint s).maint = s.maint := by simp [showMaint]
@[simp] theorem showMaint_int (s : State) : (showMaint s).int = s.int := by simp [showMaint]
@[simp] theorem showMaint_pwr (s : State) : (showMaint s).pwr = s.pwr := by simp [showMaint]
@[simp] theorem showMaint_ctl (s : State) : (showMaint s).ctl = s.ctl := by simp [showMaint]
@[simp] theorem showMaint_nv (s : State) : (showMaint s).nv = s.nv := by simp [showMaint]
@[simp] theorem showMaint_sec (s : State) : (showMaint s).sec = s.sec := by simp [showMaint]
@[simp] theorem showMaint_saf (s : State) : (showMaint s).saf = s.saf := by simp [showMaint]
@[simp] theorem showMaint_sent (s : State) : (showMaint s).sent = s.sent := by simp [showMaint]
@[simp] theorem showMaint_freeCtr (s : State) : (showMaint s).freeCtr = s.freeCtr := by simp [showMaint]
@[simp] theorem requestActivity_pending (s : State) (x : Activity) : (requestActivity s x).pending = s.pending := by unfold requestActivity; split <;> simp
@[simp] theorem requestActivity_mem (s : State) (x : Activity) : (requestActivity s x).mem = s.mem := by unfold requestActivity; split <;> simp
@[simp] theorem requestActivity_flash (s : State) (x : Activity) : (requestActivity s x).flash = s.flash := by unfold requestActivity; split <;> simp
@[simp] theorem requestActivity_plan (s : State) (x : Activity) : (requestActivity s x).plan = s.plan := by unfold requestActivity; split <;> simp
@[simp] theorem requestActivity_lch (s : State) (x : Activity) : (requestActivity s x).lch = s.lch := by unfold requestActivity; split <;> simp
@[simp] theorem requestActivity_arr (s : State) (x : Activity) : (requestActivity s x).arr = s.arr := by unfold requestActivity; split <;> simp
@[simp] theorem requestActivity_host (s : State) (x : Activity) : (requestActivity s x).host = s.host := by unfold requestActivity; split <;> simp
@[simp] theorem requestActivity_chn (s : State) (x : Activity) : (requestActivity s x).chn = s.chn := by unfold requestActivity; split <;> simp
@[simp] theorem requestActivity_trn (s : State) (x : Activity) : (requestActivity s x).trn = s.trn := by unfold requestActivity; split <;> simp
@[simp] theorem requestActivity_fuse (s : State) (x : Activity) : (requestActivity s x).fuse = s.fuse := by unfold requestActivity; split <;> simp
@[simp] theorem requestActivity_fls (s : State) (x : Activity) : (requestActivity s x).fls = s.fls := by unfold requestActivity; split <;> simp
@[simp] theorem requestActivity_int (s : State) (x : Activity) : (requestActivity s x).int = s.int := by unfold requestActivity; split <;> simp
@[simp] theorem requestActivity_pwr (s : State) (x : Activity) : (requestActivity s x).pwr = s.pwr := by unfold requestActivity; split <;> simp
@[simp] theorem requestActivity_ctl (s : State) (x : Activity) : (requestActivity s x).ctl = s.ctl := by unfold requestActivity; split <;> simp
@[simp] theorem requestActivity_nv (s : State) (x : Activity) : (requestActivity s x).nv = s.nv := by unfold requestActivity; split <;> simp
@[simp] theorem requestActivity_sec (s : State) (x : Activity) : (requestActivity s x).sec = s.sec := by unfold requestActivity; split <;> simp
@[simp] theorem requestActivity_saf (s : State) (x : Activity) : (requestActivity s x).saf = s.saf := by unfold requestActivity; split <;> simp
@[simp] theorem requestActivity_sent (s : State) (x : Activity) : (requestActivity s x).sent = s.sent := by unfold requestActivity; split <;> simp
@[simp] theorem requestActivity_freeCtr (s : State) (x : Activity) : (requestActivity s x).freeCtr = s.freeCtr := by unfold requestActivity; split <;> simp
@[simp] theorem runActivity_pending (s : State) (x : Activity) : (runActivity s x).pending = s.pending := by simp [runActivity]
@[simp] theorem runActivity_mem (s : State) (x : Activity) : (runActivity s x).mem = s.mem := by simp [runActivity]
@[simp] theorem runActivity_flash (s : State) (x : Activity) : (runActivity s x).flash = s.flash := by simp [runActivity]
@[simp] theorem runActivity_plan (s : State) (x : Activity) : (runActivity s x).plan = s.plan := by simp [runActivity]
@[simp] theorem runActivity_lch (s : State) (x : Activity) : (runActivity s x).lch = s.lch := by simp [runActivity]
@[simp] theorem runActivity_arr (s : State) (x : Activity) : (runActivity s x).arr = s.arr := by simp [runActivity]
@[simp] theorem runActivity_host (s : State) (x : Activity) : (runActivity s x).host = s.host := by simp [runActivity]
@[simp] theorem runActivity_chn (s : State) (x : Activity) : (runActivity s x).chn = s.chn := by simp [runActivity]
@[simp] theorem runActivity_trn (s : State) (x : Activity) : (runActivity s x).trn = s.trn := by simp [runActivity]
@[simp] theorem runActivity_fuse (s : State) (x : Activity) : (runActivity s x).fuse = s.fuse := by simp [runActivity]
@[simp] theorem runActivity_fls (s : State) (x : Activity) : (runActivity s x).fls = s.fls := by simp [runActivity]
@[simp] theorem runActivity_int (s : State) (x : Activity) : (runActivity s x).int = s.int := by simp [runActivity]
@[simp] theorem runActivity_pwr (s : State) (x : Activity) : (runActivity s x).pwr = s.pwr := by simp [runActivity]
@[simp] theorem runActivity_ctl (s : State) (x : Activity) : (runActivity s x).ctl = s.ctl := by simp [runActivity]
@[simp] theorem runActivity_nv (s : State) (x : Activity) : (runActivity s x).nv = s.nv := by simp [runActivity]
@[simp] theorem runActivity_sec (s : State) (x : Activity) : (runActivity s x).sec = s.sec := by simp [runActivity]
@[simp] theorem runActivity_saf (s : State) (x : Activity) : (runActivity s x).saf = s.saf := by simp [runActivity]
@[simp] theorem runActivity_sent (s : State) (x : Activity) : (runActivity s x).sent = s.sent := by simp [runActivity]
@[simp] theorem runActivity_freeCtr (s : State) (x : Activity) : (runActivity s x).freeCtr = s.freeCtr := by simp [runActivity]
@[simp] theorem endActivity_pending (s : State) (x : Activity) : (endActivity s x).pending = s.pending := by simp [endActivity]
@[simp] theorem endActivity_mem (s : State) (x : Activity) : (endActivity s x).mem = s.mem := by simp [endActivity]
@[simp] theorem endActivity_flash (s : State) (x : Activity) : (endActivity s x).flash = s.flash := by simp [endActivity]
@[simp] theorem endActivity_plan (s : State) (x : Activity) : (endActivity s x).plan = s.plan := by simp [endActivity]
@[simp] theorem endActivity_lch (s : State) (x : Activity) : (endActivity s x).lch = s.lch := by simp [endActivity]
@[simp] theorem endActivity_arr (s : State) (x : Activity) : (endActivity s x).arr = s.arr := by simp [endActivity]
@[simp] theorem endActivity_host (s : State) (x : Activity) : (endActivity s x).host = s.host := by simp [endActivity]
@[simp] theorem endActivity_chn (s : State) (x : Activity) : (endActivity s x).chn = s.chn := by simp [endActivity]
@[simp] theorem endActivity_trn (s : State) (x : Activity) : (endActivity s x).trn = s.trn := by simp [endActivity]
@[simp] theorem endActivity_fuse (s : State) (x : Activity) : (endActivity s x).fuse = s.fuse := by simp [endActivity]
@[simp] theorem endActivity_fls (s : State) (x : Activity) : (endActivity s x).fls = s.fls := by simp [endActivity]
@[simp] theorem endActivity_int (s : State) (x : Activity) : (endActivity s x).int = s.int := by simp [endActivity]
@[simp] theorem endActivity_pwr (s : State) (x : Activity) : (endActivity s x).pwr = s.pwr := by simp [endActivity]
@[simp] theorem endActivity_ctl (s : State) (x : Activity) : (endActivity s x).ctl = s.ctl := by simp [endActivity]
@[simp] theorem endActivity_nv (s : State) (x : Activity) : (endActivity s x).nv = s.nv := by simp [endActivity]
@[simp] theorem endActivity_sec (s : State) (x : Activity) : (endActivity s x).sec = s.sec := by simp [endActivity]
@[simp] theorem endActivity_saf (s : State) (x : Activity) : (endActivity s x).saf = s.saf := by simp [endActivity]
@[simp] theorem endActivity_sent (s : State) (x : Activity) : (endActivity s x).sent = s.sent := by simp [endActivity]
@[simp] theorem endActivity_freeCtr (s : State) (x : Activity) : (endActivity s x).freeCtr = s.freeCtr := by simp [endActivity]
@[simp] theorem setPort_pending (s : State) (k v : Nat) : (setPort s k v).pending = s.pending := rfl
@[simp] theorem setPort_mem (s : State) (k v : Nat) : (setPort s k v).mem = s.mem := rfl
@[simp] theorem setPort_flash (s : State) (k v : Nat) : (setPort s k v).flash = s.flash := rfl
@[simp] theorem setPort_plan (s : State) (k v : Nat) : (setPort s k v).plan = s.plan := rfl
@[simp] theorem setPort_lch (s : State) (k v : Nat) : (setPort s k v).lch = s.lch := rfl
@[simp] theorem setPort_arr (s : State) (k v : Nat) : (setPort s k v).arr = s.arr := rfl
@[simp] theorem setPort_host (s : State) (k v : Nat) : (setPort s k v).host = s.host := rfl
@[simp] theorem setPort_chn (s : State) (k v : Nat) : (setPort s k v).chn = s.chn := rfl
@[simp] theorem setPort_trn (s : State) (k v : Nat) : (setPort s k v).trn = s.trn := rfl
@[simp] theorem setPort_fuse (s : State) (k v : Nat) : (setPort s k v).fuse = s.fuse := rfl
@[simp] theorem setPort_fls (s : State) (k v : Nat) : (setPort s k v).fls = s.fls := rfl
@[simp] theorem setPort_maint (s : State) (k v : Nat) : (setPort s k v).maint = s.maint := rfl
@[simp] theorem setPort_int (s : State) (k v : Nat) : (setPort s k v).int = s.int := rfl
@[simp] theorem setPort_pwr (s : State) (k v : Nat) : (setPort s k v).pwr = s.pwr := rfl
@[simp] theorem setPort_ctl (s : State) (k v : Nat) : (setPort s k v).ctl = s.ctl := rfl
@[simp] theorem setPort_nv (s : State) (k v : Nat) : (setPort s k v).nv = s.nv := rfl
@[simp] theorem setPort_sec (s : State) (k v : Nat) : (setPort s k v).sec = s.sec := rfl
@[simp] theorem setPort_saf (s : State) (k v : Nat) : (setPort s k v).saf = s.saf := rfl
@[simp] theorem setPort_sent (s : State) (k v : Nat) : (setPort s k v).sent = s.sent := rfl
@[simp] theorem setPort_freeCtr (s : State) (k v : Nat) : (setPort s k v).freeCtr = s.freeCtr := rfl
@[simp] theorem setPortRun_pending (s : State) (k : Nat) (r : PortRun) : (setPortRun s k r).pending = s.pending := rfl
@[simp] theorem setPortRun_regs (s : State) (k : Nat) (r : PortRun) : (setPortRun s k r).regs = s.regs := rfl
@[simp] theorem setPortRun_mem (s : State) (k : Nat) (r : PortRun) : (setPortRun s k r).mem = s.mem := rfl
@[simp] theorem setPortRun_flash (s : State) (k : Nat) (r : PortRun) : (setPortRun s k r).flash = s.flash := rfl
@[simp] theorem setPortRun_plan (s : State) (k : Nat) (r : PortRun) : (setPortRun s k r).plan = s.plan := rfl
@[simp] theorem setPortRun_lch (s : State) (k : Nat) (r : PortRun) : (setPortRun s k r).lch = s.lch := rfl
@[simp] theorem setPortRun_arr (s : State) (k : Nat) (r : PortRun) : (setPortRun s k r).arr = s.arr := rfl
@[simp] theorem setPortRun_host (s : State) (k : Nat) (r : PortRun) : (setPortRun s k r).host = s.host := rfl
@[simp] theorem setPortRun_trn (s : State) (k : Nat) (r : PortRun) : (setPortRun s k r).trn = s.trn := rfl
@[simp] theorem setPortRun_fuse (s : State) (k : Nat) (r : PortRun) : (setPortRun s k r).fuse = s.fuse := rfl
@[simp] theorem setPortRun_fls (s : State) (k : Nat) (r : PortRun) : (setPortRun s k r).fls = s.fls := rfl
@[simp] theorem setPortRun_maint (s : State) (k : Nat) (r : PortRun) : (setPortRun s k r).maint = s.maint := rfl
@[simp] theorem setPortRun_int (s : State) (k : Nat) (r : PortRun) : (setPortRun s k r).int = s.int := rfl
@[simp] theorem setPortRun_pwr (s : State) (k : Nat) (r : PortRun) : (setPortRun s k r).pwr = s.pwr := rfl
@[simp] theorem setPortRun_ctl (s : State) (k : Nat) (r : PortRun) : (setPortRun s k r).ctl = s.ctl := rfl
@[simp] theorem setPortRun_nv (s : State) (k : Nat) (r : PortRun) : (setPortRun s k r).nv = s.nv := rfl
@[simp] theorem setPortRun_sec (s : State) (k : Nat) (r : PortRun) : (setPortRun s k r).sec = s.sec := rfl
@[simp] theorem setPortRun_saf (s : State) (k : Nat) (r : PortRun) : (setPortRun s k r).saf = s.saf := rfl
@[simp] theorem setPortRun_sent (s : State) (k : Nat) (r : PortRun) : (setPortRun s k r).sent = s.sent := rfl
@[simp] theorem setPortRun_freeCtr (s : State) (k : Nat) (r : PortRun) : (setPortRun s k r).freeCtr = s.freeCtr := rfl
@[simp] theorem dropMsg_pending (s : State) : (dropMsg s).pending = s.pending := rfl
@[simp] theorem dropMsg_mem (s : State) : (dropMsg s).mem = s.mem := rfl
@[simp] theorem dropMsg_flash (s : State) : (dropMsg s).flash = s.flash := rfl
@[simp] theorem dropMsg_plan (s : State) : (dropMsg s).plan = s.plan := rfl
@[simp] theorem dropMsg_lch (s : State) : (dropMsg s).lch = s.lch := rfl
@[simp] theorem dropMsg_arr (s : State) : (dropMsg s).arr = s.arr := rfl
@[simp] theorem dropMsg_host (s : State) : (dropMsg s).host = s.host := rfl
@[simp] theorem dropMsg_chn (s : State) : (dropMsg s).chn = s.chn := rfl
@[simp] theorem dropMsg_trn (s : State) : (dropMsg s).trn = s.trn := rfl
@[simp] theorem dropMsg_fuse (s : State) : (dropMsg s).fuse = s.fuse := rfl
@[simp] theorem dropMsg_fls (s : State) : (dropMsg s).fls = s.fls := rfl
@[simp] theorem dropMsg_maint (s : State) : (dropMsg s).maint = s.maint := rfl
@[simp] theorem dropMsg_int (s : State) : (dropMsg s).int = s.int := rfl
@[simp] theorem dropMsg_pwr (s : State) : (dropMsg s).pwr = s.pwr := rfl
@[simp] theorem dropMsg_ctl (s : State) : (dropMsg s).ctl = s.ctl := rfl
@[simp] theorem dropMsg_nv (s : State) : (dropMsg s).nv = s.nv := rfl
@[simp] theorem dropMsg_sec (s : State) : (dropMsg s).sec = s.sec := rfl
@[simp] theorem dropMsg_saf (s : State) : (dropMsg s).saf = s.saf := rfl
@[simp] theorem dropMsg_sent (s : State) : (dropMsg s).sent = s.sent := rfl
@[simp] theorem dropMsg_freeCtr (s : State) : (dropMsg s).freeCtr = s.freeCtr := rfl
@[simp] theorem postHop_pending (s : State) (p k v : Nat) (c : Word) : (postHop s p k v c).pending = s.pending := rfl
@[simp] theorem postHop_mem (s : State) (p k v : Nat) (c : Word) : (postHop s p k v c).mem = s.mem := rfl
@[simp] theorem postHop_flash (s : State) (p k v : Nat) (c : Word) : (postHop s p k v c).flash = s.flash := rfl
@[simp] theorem postHop_plan (s : State) (p k v : Nat) (c : Word) : (postHop s p k v c).plan = s.plan := rfl
@[simp] theorem postHop_lch (s : State) (p k v : Nat) (c : Word) : (postHop s p k v c).lch = s.lch := rfl
@[simp] theorem postHop_arr (s : State) (p k v : Nat) (c : Word) : (postHop s p k v c).arr = s.arr := rfl
@[simp] theorem postHop_host (s : State) (p k v : Nat) (c : Word) : (postHop s p k v c).host = s.host := rfl
@[simp] theorem postHop_chn (s : State) (p k v : Nat) (c : Word) : (postHop s p k v c).chn = s.chn := rfl
@[simp] theorem postHop_trn (s : State) (p k v : Nat) (c : Word) : (postHop s p k v c).trn = s.trn := rfl
@[simp] theorem postHop_fuse (s : State) (p k v : Nat) (c : Word) : (postHop s p k v c).fuse = s.fuse := rfl
@[simp] theorem postHop_fls (s : State) (p k v : Nat) (c : Word) : (postHop s p k v c).fls = s.fls := rfl
@[simp] theorem postHop_maint (s : State) (p k v : Nat) (c : Word) : (postHop s p k v c).maint = s.maint := rfl
@[simp] theorem postHop_int (s : State) (p k v : Nat) (c : Word) : (postHop s p k v c).int = s.int := rfl
@[simp] theorem postHop_pwr (s : State) (p k v : Nat) (c : Word) : (postHop s p k v c).pwr = s.pwr := rfl
@[simp] theorem postHop_ctl (s : State) (p k v : Nat) (c : Word) : (postHop s p k v c).ctl = s.ctl := rfl
@[simp] theorem postHop_nv (s : State) (p k v : Nat) (c : Word) : (postHop s p k v c).nv = s.nv := rfl
@[simp] theorem postHop_sec (s : State) (p k v : Nat) (c : Word) : (postHop s p k v c).sec = s.sec := rfl
@[simp] theorem postHop_saf (s : State) (p k v : Nat) (c : Word) : (postHop s p k v c).saf = s.saf := rfl
@[simp] theorem postHop_freeCtr (s : State) (p k v : Nat) (c : Word) : (postHop s p k v c).freeCtr = s.freeCtr := rfl

/-! ### Registers -/

@[simp] theorem getReg_setReg_self (s : State) (o : Nat) (w : Word) : getReg (setReg s o w) o = w := FMap.get_set_self 0 s.regs o w

theorem getReg_setReg (s : State) (o p : Nat) (w : Word) : getReg (setReg s o w) p = if p = o then w else getReg s p :=
  FMap.get_set 0 s.regs o p w

theorem getReg_setReg_other (s : State) (o p : Nat) (w : Word) (h : p ≠ o) : getReg (setReg s o w) p = getReg s p :=
  FMap.get_set_other 0 s.regs w h

theorem getReg_congr {s t : State} (h : t.regs = s.regs) (o : Nat) : getReg t o = getReg s o := by unfold getReg; rw [h]

theorem getF_congr {s t : State} (h : t.regs = s.regs) (f : Field) : getF t f = getF s f := by unfold getF; rw [getReg_congr h]

theorem getReg_setF_other (s : State) (f : Field) (v o : Nat) (h : o ≠ f.off) : getReg (setF s f v) o = getReg s o :=
  getReg_setReg_other s f.off o _ h

theorem getReg_bumpF_other (s : State) (f : Field) (v o : Nat) (h : o ≠ f.off) : getReg (bumpF s f v) o = getReg s o :=
  getReg_setF_other s f _ o h

theorem getReg_setFmax_other (s : State) (f : Field) (v o : Nat) (h : o ≠ f.off) : getReg (setFmax s f v) o = getReg s o :=
  getReg_setF_other s f _ o h

/-- A field just written reads the value, cut to its width. -/
theorem getF_setF_same (s : State) (f : Field) (v : Nat) (h : f.hi < 64) : getF (setF s f v) f = v % 2 ^ (f.hi + 1 - f.lo) := by
  unfold getF setF
  rw [getReg_setReg_self]
  exact bits_setBits_same _ _ _ _ h

/-- Two fields that share no bit. -/
def Field.apart (f g : Field) : Bool := f.off != g.off || decide (f.hi < g.lo) || decide (g.hi < f.lo)

/-- A write of one field leaves a field apart from it. -/
theorem getF_setF_other (s : State) (f g : Field) (v : Nat) (h : f.hi < 64) (ha : f.apart g = true) : getF (setF s f v) g = getF s g := by
  by_cases ho : g.off = f.off
  · unfold getF setF
    rw [ho, getReg_setReg_self]
    apply bits_setBits_other _ _ _ _ _ _ h
    simpa [Field.apart, ho] using ha
  · unfold getF
    rw [getReg_setF_other s f v g.off ho]

theorem getF_bumpF_same (s : State) (f : Field) (n : Nat) (h : f.hi < 64) : getF (bumpF s f n) f = Nat.min f.max (getF s f + n) := by
  unfold bumpF
  rw [getF_setF_same _ _ _ h]
  apply Nat.mod_eq_of_lt
  have h1 : Nat.min f.max (getF s f + n) ≤ f.max := Nat.min_le_left _ _
  have h2 : f.max < 2 ^ (f.hi + 1 - f.lo) := Nat.sub_lt (Nat.two_pow_pos _) Nat.one_pos
  omega

theorem getF_bumpF_other (s : State) (f g : Field) (n : Nat) (h : f.hi < 64) (ha : f.apart g = true) : getF (bumpF s f n) g = getF s g :=
  getF_setF_other s f g _ h ha

theorem getF_setFmax_other (s : State) (f g : Field) (n : Nat) (h : f.hi < 64) (ha : f.apart g = true) : getF (setFmax s f n) g = getF s g :=
  getF_setF_other s f g _ h ha

theorem getF_lt (s : State) (f : Field) : getF s f < 2 ^ (f.hi + 1 - f.lo) := bits_lt _ _ _

/-- A one-bit field set to 1 is set. -/
theorem hasF_setF_one (s : State) (f : Field) (h : f.hi < 64) (hl : f.lo ≤ f.hi) : hasF (setF s f 1) f = true := by
  unfold hasF
  rw [getF_setF_same s f 1 h, Nat.mod_eq_of_lt (Nat.one_lt_two_pow (by omega))]
  rfl

/-! ### Events -/

theorem getReg_sendIrq (s : State) (v o : Nat) : getReg (sendIrq s v) o = getReg s o := getReg_congr (by unfold sendIrq; split <;> [rfl; (split <;> rfl)]) o

/-- An event changes one register, HST_IRQ_PENDING. -/
theorem getReg_raise_other (s : State) (n o : Nat) (h : o ≠ Off.HST_IRQ_PENDING) : getReg (raise s n) o = getReg s o := by
  unfold raise
  dsimp only
  split
  · rfl
  · split
    · rw [getReg_sendIrq]; exact getReg_setF_other s F.HST_IRQ_PENDING_pending _ o h
    · exact getReg_setF_other s F.HST_IRQ_PENDING_pending _ o h

theorem getF_raise_other (s : State) (n : Nat) (g : Field) (h : g.off ≠ Off.HST_IRQ_PENDING) : getF (raise s n) g = getF s g := by
  unfold getF; rw [getReg_raise_other s n g.off h]

/-- An event is pending after it. -/
theorem raise_bit (s : State) (n : Nat) (hn : n < 14) : (getF (raise s n) F.HST_IRQ_PENDING_pending).testBit n = true := by
  unfold raise
  dsimp only
  split
  · next h => exact h
  · have hx : ∀ t : State, t.regs = (setF s F.HST_IRQ_PENDING_pending (getF s F.HST_IRQ_PENDING_pending ||| 2 ^ n)).regs →
        (getF t F.HST_IRQ_PENDING_pending).testBit n = true := by
      intro t ht
      rw [getF_congr ht, getF_setF_same _ _ _ (by decide)]
      show ((getF s F.HST_IRQ_PENDING_pending ||| 2 ^ n) % 2 ^ 14).testBit n = true
      rw [Nat.testBit_mod_two_pow]
      simp [hn, Nat.testBit_two_pow_self]
    split
    · apply hx; unfold sendIrq; split <;> [rfl; (split <;> rfl)]
    · exact hx _ rfl

theorem getReg_flag_other (s : State) (f : Field) (n o : Nat) (h1 : o ≠ f.off) (h2 : o ≠ Off.HST_IRQ_PENDING) :
    getReg (flag s f n) o = getReg s o := by
  unfold flag; rw [getReg_raise_other _ _ _ h2, getReg_setF_other _ _ _ _ h1]

theorem getF_flag_other (s : State) (f g : Field) (n : Nat) (hh : f.hi < 64) (h1 : f.apart g = true) (h2 : g.off ≠ Off.HST_IRQ_PENDING) :
    getF (flag s f n) g = getF s g := by
  unfold flag; rw [getF_raise_other _ _ _ h2, getF_setF_other _ _ _ _ hh h1]

/-- A flag is set after it is raised. -/
theorem hasF_flag (s : State) (f : Field) (n : Nat) (hh : f.hi < 64) (hl : f.lo ≤ f.hi) (h2 : f.off ≠ Off.HST_IRQ_PENDING) :
    hasF (flag s f n) f = true := by
  unfold flag hasF
  rw [getF_raise_other _ _ _ h2]
  exact hasF_setF_one s f hh hl

theorem flag_bit (s : State) (f : Field) (n : Nat) (hn : n < 14) : (getF (flag s f n) F.HST_IRQ_PENDING_pending).testBit n = true :=
  raise_bit _ n hn

/-- The registers that a fault log entry writes. -/
theorem getReg_logFault_other (s : State) (code oc die unit detail o : Nat) (h1 : o ≠ logEntry (getF s F.SAF_LOG_HEAD_head))
    (h2 : o ≠ logEntry (getF s F.SAF_LOG_HEAD_head) + 8) (h3 : o ≠ Off.SAF_LOG_HEAD) (h4 : o ≠ Off.SAF_FAULT_CNT)
    (h5 : o ≠ Off.SAF_STATUS) (h6 : o ≠ Off.HST_IRQ_PENDING) : getReg (logFault s code oc die unit detail) o = getReg s o := by
  unfold logFault
  dsimp only
  rw [getReg_flag_other _ _ _ _ h5 h6, getReg_bumpF_other _ _ _ _ h4, getReg_setF_other _ _ _ _ h3, getReg_setReg_other _ _ _ _ h1,
    getReg_setReg_other _ _ _ _ h2]

/-! ### Outcomes -/

/-- A command of a module that is up answers its effect, with the queue and the one-time store standing. -/
theorem settle_up (s t : State) (h : s.pwr.mode = .up) : settle s t = .next { t with pending := s.pending, fuse := s.fuse } := by
  simp [settle, h]

/-- A command of a module that is not up changes nothing. -/
theorem settle_down (s t : State) (h : s.pwr.mode ≠ .up) : settle s t = .next s := by simp [settle, h]

/-- Every outcome is a next state. -/
theorem settle_next (s t : State) : ∃ u, settle s t = .next u := ⟨_, rfl⟩

/-- A settled command keeps the queue and the one-time store. -/
theorem settle_keeps (s t u : State) (h : settle s t = .next u) : u.pending = s.pending ∧ u.fuse = s.fuse := by
  unfold settle at h
  injection h with h
  subst h
  split <;> exact ⟨rfl, rfl⟩

theorem settleAny_keeps (s t u : State) (h : settleAny s t = .next u) : u.pending = s.pending ∧ u.fuse = s.fuse := by
  unfold settleAny at h
  injection h with h
  subst h
  exact ⟨rfl, rfl⟩

theorem settleFuse_keeps (s t u : State) (h : settleFuse s t = .next u) : u.pending = s.pending ∧ u.fuse = t.fuse := by
  unfold settleFuse at h
  injection h with h
  subst h
  exact ⟨rfl, rfl⟩

end Sys2Proof.Machine
end

