-- ==== Sys2Proof/Laws/Outcome.lean ====
section
/-!
SUPPORT. How a claim about a command follows from the state that its meaning settles to, and frames of basic operations.
-/

namespace Sys2Proof.Machine

/-- A state that keeps the queue and the one-time store is what the command answers. -/
theorem settled_eq {s t : State} (h1 : t.pending = s.pending) (h2 : t.fuse = s.fuse) : { t with pending := s.pending, fuse := s.fuse } = t := by
  rw [← h1, ← h2]

theorem does_settle {c : Instr} {s t : State} {p : State → Prop} (he : exec c s = settle s t) (h : Up s) (h1 : t.pending = s.pending)
    (h2 : t.fuse = s.fuse) (hp : p t) : Does c s p :=
  ⟨t, by rw [he, settle_up s t h, settled_eq h1 h2], hp⟩

theorem does_settleAny {c : Instr} {s t : State} {p : State → Prop} (he : exec c s = settleAny s t) (h1 : t.pending = s.pending)
    (h2 : t.fuse = s.fuse) (hp : p t) : Does c s p :=
  ⟨t, by rw [he]; unfold settleAny; rw [settled_eq h1 h2], hp⟩

theorem does_settleFuse {c : Instr} {s t : State} {p : State → Prop} (he : exec c s = settleFuse s t) (h1 : t.pending = s.pending)
    (hp : p t) : Does c s p :=
  ⟨t, by rw [he]; unfold settleFuse; rw [← h1], hp⟩

/-- A command of a module that is not up changes nothing. -/
theorem does_down {c : Instr} {s t : State} {p : State → Prop} (he : exec c s = settle s t) (h : ¬Up s) (hp : p s) : Does c s p :=
  ⟨s, by rw [he]; exact settle_down s t h, hp⟩

/-! ### Frames -/

theorem RegsBut.rfl' (l : List Nat) (s : State) : RegsBut l s s := fun _ _ => rfl

theorem RegsBut.trans {l : List Nat} {s t u : State} (h : RegsBut l s t) (g : RegsBut l t u) : RegsBut l s u :=
  fun o ho => (g o ho).trans (h o ho)

theorem RegsBut.mono {l m : List Nat} {s t : State} (h : RegsBut l s t) (hs : ∀ o ∈ l, o ∈ m) : RegsBut m s t :=
  fun o ho => h o fun hm => ho (hs o hm)

theorem Part.stands_rfl (p : Part) (s : State) : p.stands s s := by cases p <;> first | rfl | exact fun _ => rfl

theorem Part.stands_trans {p : Part} {s t u : State} (h : p.stands s t) (g : p.stands t u) : p.stands s u := by
  cases p <;> first | exact Eq.trans g h | exact fun a => (g a).trans (h a)

theorem Only.rfl' (ps : List Part) (l : List Nat) (s : State) : Only ps l s s := ⟨fun p _ => p.stands_rfl s, RegsBut.rfl' l s⟩

theorem Only.trans {ps : List Part} {l : List Nat} {s t u : State} (h : Only ps l s t) (g : Only ps l t u) : Only ps l s u :=
  ⟨fun p hp => Part.stands_trans (h.1 p hp) (g.1 p hp), h.2.trans g.2⟩

theorem Only.mono {ps qs : List Part} {l m : List Nat} {s t : State} (h : Only ps l s t) (hp : ∀ p ∈ ps, p ∈ qs) (hl : ∀ o ∈ l, o ∈ m) :
    Only qs m s t := ⟨fun p hq => h.1 p fun hm => hq (hp p hm), h.2.mono hl⟩

theorem only_setReg (s : State) (o : Nat) (w : Word) : Only [] [o] s (setReg s o w) := by
  refine ⟨fun p _ => ?_, fun q hq => getReg_setReg_other s o q w (by simpa using hq)⟩
  cases p <;> first | rfl | exact fun _ => rfl

theorem only_setF (s : State) (f : Field) (v : Nat) : Only [] [f.off] s (setF s f v) := only_setReg s f.off _

theorem only_bumpF (s : State) (f : Field) (n : Nat) : Only [] [f.off] s (bumpF s f n) := only_setReg s f.off _

theorem only_send (s : State) (x : Sent) : Only [.sent] [] s (send s x) := by
  refine ⟨fun p hp => ?_, fun _ _ => rfl⟩
  cases p <;> first | exact absurd (by decide) hp | rfl | exact fun _ => rfl

theorem only_raise (s : State) (n : Nat) : Only eventParts eventRegs s (raise s n) := by
  refine ⟨fun p hp => ?_, fun o ho => getReg_raise_other s n o (by simpa [eventRegs] using ho)⟩
  cases p <;> first | exact absurd (by decide) hp | simp [Part.stands]

theorem only_flag (s : State) (f : Field) (n : Nat) : Only eventParts (f.off :: eventRegs) s (flag s f n) :=
  ((only_setF s f 1).mono (by simp) (by simp)).trans ((only_raise _ n).mono (fun _ h => h) fun _ h => List.mem_cons_of_mem _ h)

theorem only_hostErr (s : State) (f : Field) : Only eventParts (f.off :: eventRegs) s (hostErr s f) := only_flag s f 3

theorem only_setPlanState (s : State) (p : PlanState) : Only eventParts (Off.HST_STATUS :: eventRegs) s (setPlanState s p) := by
  unfold setPlanState
  split
  · exact Only.rfl' _ _ _
  · exact ((only_setF s F.HST_STATUS_plan_state _).mono (by simp) (by simp [F.HST_STATUS_plan_state])).trans
      ((only_raise _ 2).mono (fun _ h => h) fun _ h => List.mem_cons_of_mem _ h)

/-- A fault log entry changes its own registers and sends its event. -/
theorem only_logFault (s : State) (code oc die unit detail : Nat) : Only eventParts (logRegs s) s (logFault s code oc die unit detail) := by
  refine ⟨fun p hp => ?_, fun o ho => ?_⟩
  · cases p <;> first | exact absurd (by decide) hp | simp [Part.stands]
  · simp only [logRegs, List.mem_cons, List.not_mem_nil, or_false, not_or] at ho
    obtain ⟨h1, h2, h3, h4, h5, h6⟩ := ho
    exact getReg_logFault_other s code oc die unit detail o h1 h2 h3 h4 h5 h6

theorem only_runFault (s : State) (code die unit detail : Nat) : Only eventParts (logRegs s) s (runFault s code die unit detail) :=
  only_logFault s code _ die unit detail

theorem Only.pending {ps : List Part} {l : List Nat} {s t : State} (h : Only ps l s t) (hn : Part.pending ∉ ps) : t.pending = s.pending :=
  h.1 .pending hn

theorem Only.fuse {ps : List Part} {l : List Nat} {s t : State} (h : Only ps l s t) (hn : Part.fuse ∉ ps) : t.fuse = s.fuse :=
  h.1 .fuse hn

theorem Only.reg {ps : List Part} {l : List Nat} {s t : State} (h : Only ps l s t) (o : Nat) (hn : o ∉ l) : getReg t o = getReg s o := h.2 o hn

theorem Only.field {ps : List Part} {l : List Nat} {s t : State} (h : Only ps l s t) (f : Field) (hn : f.off ∉ l) : getF t f = getF s f := by
  unfold getF; rw [h.2 f.off hn]

end Sys2Proof.Machine
end

