-- ==== Sys2Proof/Laws/Hold.lean ====
section
/-!
SUPPORT. What a stop of passes and the entry into HOLD change, said once: their frames, and the cause that is pending after.
-/

namespace Sys2Proof.Machine

theorem foldl_only {α : Type} (ps : List Part) (l : List Nat) (f : State → α → State) (xs : List α)
    (h : ∀ s x, x ∈ xs → Only ps l s (f s x)) (s : State) : Only ps l s (xs.foldl f s) := by
  induction xs generalizing s with
  | nil => exact Only.rfl' _ _ _
  | cons x xs ih =>
    exact (h s x (by simp)).trans (ih (fun s y hy => h s y (List.mem_cons_of_mem _ hy)) (f s x))

theorem only_parts (ps : List Part) (s t : State) (hr : t.regs = s.regs) (h : ∀ p, p ∉ ps → p.stands s t) : Only ps [] s t :=
  ⟨h, fun _ _ => getReg_congr hr _⟩

theorem only_setUnit (s : State) (u : Nat) (r : UnitRun) : Only [.lch] [] s (setUnit s u r) :=
  only_parts _ _ _ rfl fun p hp => by cases p <;> first | exact absurd (by decide) hp | rfl | exact fun _ => rfl

theorem only_setRun (s : State) (u : Nat) (r : LaunchRun) : Only [.lch] [] s (setRun s u r) :=
  only_parts _ _ _ rfl fun p hp => by cases p <;> first | exact absurd (by decide) hp | rfl | exact fun _ => rfl

theorem only_setPass (s : State) (u : Nat) (r : PassRun) : Only [.lch] [] s (setPass s u r) :=
  only_parts _ _ _ rfl fun p hp => by cases p <;> first | exact absurd (by decide) hp | rfl | exact fun _ => rfl

theorem only_setArray (s : State) (u : Nat) (r : ArrayRun) : Only [.arr] [] s (setArray s u r) :=
  only_parts _ _ _ rfl fun p hp => by cases p <;> first | exact absurd (by decide) hp | rfl | exact fun _ => rfl

theorem only_arr (s : State) (a : ArrState) : Only [.arr] [] s { s with arr := a } :=
  only_parts _ _ _ rfl fun p hp => by cases p <;> first | exact absurd (by decide) hp | rfl | exact fun _ => rfl

theorem only_trn (s : State) (a : TrnState) : Only [.trn] [] s { s with trn := a } :=
  only_parts _ _ _ rfl fun p hp => by cases p <;> first | exact absurd (by decide) hp | rfl | exact fun _ => rfl

theorem only_pwr (s : State) (a : PwrState) : Only [.pwr] [] s { s with pwr := a } :=
  only_parts _ _ _ rfl fun p hp => by cases p <;> first | exact absurd (by decide) hp | rfl | exact fun _ => rfl

theorem only_takeFree (s : State) : Only [.freeCtr] [] s (takeFree s).2 :=
  only_parts _ _ _ rfl fun p hp => by cases p <;> first | exact absurd (by decide) hp | rfl | exact fun _ => rfl

theorem wr_regs' (s : State) (a : Nat) (bs : List Byte) : (wr s a bs).regs = s.regs := by simp

theorem only_wr (s : State) (a : Nat) (bs : List Byte) : Only [.mem, .flash] [] s (wr s a bs) :=
  only_parts _ _ _ (wr_regs' s a bs) fun p hp => by cases p <;> first | exact absurd (by decide) hp | simp [Part.stands]

theorem only_ftSet (s : State) (id : Nat) (e : FtEntry) : Only [.mem, .flash] [] s (ftSet s id e) := by
  unfold ftSet
  split
  · exact (only_wr _ _ _).trans (only_wr _ _ _)
  · exact Only.rfl' _ _ _

theorem only_leaveUnits (s : State) (ks : List Nat) : Only [.lch] [] s (leaveUnits s ks) := by
  unfold leaveUnits
  exact foldl_only _ _ _ _ (fun s u _ => only_setUnit s u _) s

theorem only_leaveArrays (s : State) (ks : List Nat) : Only [.arr] [] s (leaveArrays s ks) := by
  unfold leaveArrays
  exact ((foldl_only [.arr] [] _ _ (fun s u _ => only_setArray s u _) s).trans (only_arr _ _)).trans (only_arr _ _)

theorem only_discard (s : State) (ks : List Nat) : Only [.lch, .arr] [] s (discard s ks) := by
  unfold discard
  refine Only.trans (t := leaveArrays (leaveUnits s ks) ks) ?_ ?_
  · exact ((only_leaveUnits s ks).mono (by decide) (by simp)).trans ((only_leaveArrays _ ks).mono (by decide) (by simp))
  · exact foldl_only _ _ _ _ (fun s k _ => (only_setRun s k _).mono (by decide) (by simp)) _

theorem stash_mem (q : Nat) (h : q ∈ List.range 16) : Off.UPD_STASH q ∈ (List.range 16).map Off.UPD_STASH := List.mem_map_of_mem h

theorem only_settleStash (s : State) : Only [.trn] ((List.range 16).map Off.UPD_STASH) s (settleStash s) := by
  unfold settleStash
  refine Only.trans (foldl_only _ _ _ _ (fun s q hq => (only_setF s (F.UPD_STASH_pointer q) _).mono (by simp) ?_) s)
    ((only_trn _ _).mono (by simp) (by simp))
  intro o ho
  have : o = Off.UPD_STASH q := by simpa [F.UPD_STASH_pointer] using ho
  exact this ▸ stash_mem q hq

theorem only_releaseStash (s : State) (pick : StashPlace → LayerStash → Bool) :
    Only [.trn, .mem, .flash] ((List.range 16).map Off.UPD_STASH) s (releaseStash s pick) := by
  unfold releaseStash
  split
  · exact Only.rfl' _ _ _
  · refine Only.trans (Only.trans (foldl_only _ _ _ _ (fun s p _ => ?_) s) ((only_trn _ _).mono (by decide) (by simp)))
      ((only_settleStash _).mono (by decide) (fun _ h => h))
    dsimp only
    split
    · split
      · exact foldl_only _ _ _ _ (fun s q _ => foldl_only _ _ _ _ (fun s i _ => (only_ftSet s _ _).mono (by decide) (by simp)) s) s
      · exact Only.rfl' _ _ _
    · exact Only.rfl' _ _ _

theorem only_stopPass (s : State) (p : Nat) :
    Only [.lch, .arr, .trn, .mem, .flash] ((List.range 16).map Off.UPD_STASH) s (stopPass s p) := by
  unfold stopPass
  split
  · exact Only.rfl' _ _ _
  · refine Only.trans ?_ ((only_setPass _ p _).mono (by decide) (by simp))
    refine Only.trans ?_ ((only_releaseStash _ _).mono (by decide) (fun _ h => h))
    exact (only_discard s _).mono (by decide) (by simp)

theorem only_noteStop (s : State) (kind n : Nat) :
    Only [.host, .sent, .freeCtr] [Off.ARR_STOP_STATUS, Off.ARR_STATUS, Off.HST_IRQ_PENDING] s (noteStop s kind n) := by
  unfold noteStop
  refine Only.trans ?_ ((only_flag _ F.ARR_STATUS_stop_seen 4).mono (by decide) (by decide))
  refine Only.trans ?_ ((only_bumpF _ F.ARR_STOP_STATUS_passes_discarded _).mono (by simp) (by decide))
  refine Only.trans ?_ ((only_setF _ F.ARR_STOP_STATUS_last_drain_ns _).mono (by simp) (by decide))
  refine Only.trans ?_ ((only_setF _ F.ARR_STOP_STATUS_last_kind _).mono (by simp) (by decide))
  exact (only_takeFree s).mono (by decide) (by simp)

/-- What a fault stop changes. -/
theorem only_faultStop (s : State) (ps : List Nat) : Only stopParts stopRegs s (faultStop s ps) := by
  unfold faultStop
  refine Only.trans (foldl_only _ _ _ _ (fun s p _ => (only_stopPass s p).mono (by decide) ?_) s) ((only_noteStop _ 2 _).mono (by decide) ?_)
  · intro o ho; exact List.mem_append_left _ ho
  · intro o ho; exact List.mem_append_right _ ho

theorem only_abandonMoves (s : State) : Only [.trn, .mem, .flash] [] s (abandonMoves s) := by
  unfold abandonMoves
  exact (foldl_only _ _ _ _ (fun s j _ => (only_ftSet s _ _).mono (by decide) (by simp)) s).trans ((only_trn _ _).mono (by decide) (by simp))

theorem only_markHold (s : State) (c : Nat) : Only [.pwr] [Off.SAF_HOLD] s (markHold s c) := by
  unfold markHold
  refine Only.trans ?_ ((only_setF _ F.SAF_HOLD_pending _).mono (by simp) (by decide))
  exact (only_pwr s _).mono (by decide) (by simp)

theorem only_holdPlan (s : State) : Only eventParts (Off.HST_STATUS :: eventRegs) s (holdPlan s) := by
  unfold holdPlan
  split
  · exact only_setPlanState _ _
  · exact only_setPlanState _ _
  · exact Only.rfl' _ _ _

/-- What entering HOLD changes after its cause is marked, but for the code of the first cause. -/
theorem only_enterHold' (s : State) (code : Nat) :
    Only holdParts (stopRegs ++ [Off.HST_STATUS, Off.SAF_STATUS]) (setF s F.SAF_HOLD_first code) (enterHold s code) := by
  unfold enterHold
  dsimp only
  refine Only.trans ?_ ((only_flag _ F.SAF_STATUS_hold_entered 11).mono (by decide) (by decide))
  refine Only.trans ?_ ((only_holdPlan _).mono (by decide) (by decide))
  refine Only.trans ?_ ((only_abandonMoves _).mono (by decide) (by simp))
  exact (only_faultStop _ _).mono (by decide) (fun o h => List.mem_append_left _ h)

theorem only_enterHold (s : State) (code : Nat) : Only holdParts holdRegs s (enterHold s code) := by
  refine Only.trans ?_ ((only_enterHold' s code).mono (fun _ h => h) (by decide))
  exact (only_setF s F.SAF_HOLD_first code).mono (by simp) (by decide)

/-- The entry into HOLD keeps to its own registers and parts. -/
theorem only_holdCause (s : State) (c code : Nat) : Only holdParts holdRegs s (holdCause s c code) := by
  unfold holdCause
  split
  · exact (only_markHold s c).mono (by decide) (by decide)
  · exact ((only_markHold s c).mono (by decide) (by decide)).trans (only_enterHold _ code)

/-- After the entry into HOLD its cause is pending, and every cause that was. -/
theorem holdCause_pending_bits (s : State) (c code : Nat) (hc : c < 14) :
    getF (holdCause s c code) F.SAF_HOLD_pending = getF s F.SAF_HOLD_pending ||| 2 ^ c := by
  have hm : getF (markHold s c) F.SAF_HOLD_pending = getF s F.SAF_HOLD_pending ||| 2 ^ c := by
    unfold markHold
    rw [getF_setF_same _ _ _ (by decide)]
    exact Nat.mod_eq_of_lt (Nat.or_lt_two_pow (getF_lt s F.SAF_HOLD_pending) (Nat.pow_lt_pow_right (by decide) hc))
  unfold holdCause
  split
  · exact hm
  · unfold getF
    rw [(only_enterHold' (markHold s c) code).2 _ (by decide)]
    exact (getF_setF_other _ F.SAF_HOLD_first F.SAF_HOLD_pending _ (by decide) (by decide)).trans hm

theorem holds_holdCause (s : State) (c code : Nat) (hc : c < 14) : Holds c (holdCause s c code) := by
  unfold Holds
  rw [holdCause_pending_bits s c code hc]
  simp [Nat.testBit_or, Nat.testBit_two_pow_self]

theorem holds_keep (s : State) (c d code : Nat) (hc : d < 14) (h : Holds c s) : Holds c (holdCause s d code) := by
  unfold Holds at *
  rw [holdCause_pending_bits s d code hc]
  simp [Nat.testBit_or, h]

/-- A HOLD fault: the log entry and the cause. -/
theorem only_holdFault (s : State) (code c die unit detail : Nat) :
    Only holdParts (holdRegs ++ logRegs s) s (holdFault s code c die unit detail) :=
  ((only_logFault s code 2 die unit detail).mono (by decide) (fun _ h => List.mem_append_right _ h)).trans
    ((only_holdCause _ c code).mono (fun _ h => h) (fun _ h => List.mem_append_left _ h))

theorem holds_holdFault (s : State) (code c die unit detail : Nat) (hc : c < 14) : Holds c (holdFault s code c die unit detail) :=
  holds_holdCause _ c code hc

end Sys2Proof.Machine
end

