-- ==== Sys2Proof/Laws/Frames.lean ====
section
/-!
SUPPORT. The frames of updates of one part of the state and of the small shared operations.
-/

namespace Sys2Proof.Machine

theorem only_mem (s : State) (a : Mem) : Only [.mem] [] s { s with mem := a } := only_parts _ _ _ rfl fun p hp => by cases p <;> first | exact absurd (by decide) hp | rfl | exact fun _ => rfl

theorem only_flash (s : State) (a : Mem) : Only [.flash] [] s { s with flash := a } := only_parts _ _ _ rfl fun p hp => by cases p <;> first | exact absurd (by decide) hp | rfl | exact fun _ => rfl

theorem only_plan (s : State) (a : Option Plan) : Only [.plan] [] s { s with plan := a } := only_parts _ _ _ rfl fun p hp => by cases p <;> first | exact absurd (by decide) hp | rfl | exact fun _ => rfl

theorem only_lch (s : State) (a : LchState) : Only [.lch] [] s { s with lch := a } := only_parts _ _ _ rfl fun p hp => by cases p <;> first | exact absurd (by decide) hp | rfl | exact fun _ => rfl

theorem only_host (s : State) (a : HostState) : Only [.host] [] s { s with host := a } := only_parts _ _ _ rfl fun p hp => by cases p <;> first | exact absurd (by decide) hp | rfl | exact fun _ => rfl

theorem only_chn (s : State) (a : ChnState) : Only [.chn] [] s { s with chn := a } := only_parts _ _ _ rfl fun p hp => by cases p <;> first | exact absurd (by decide) hp | rfl | exact fun _ => rfl

theorem only_fls (s : State) (a : FlsState) : Only [.fls] [] s { s with fls := a } := only_parts _ _ _ rfl fun p hp => by cases p <;> first | exact absurd (by decide) hp | rfl | exact fun _ => rfl

theorem only_maint (s : State) (a : MaintState) : Only [.maint] [] s { s with maint := a } := only_parts _ _ _ rfl fun p hp => by cases p <;> first | exact absurd (by decide) hp | rfl | exact fun _ => rfl

theorem only_int (s : State) (a : IntState) : Only [.int] [] s { s with int := a } := only_parts _ _ _ rfl fun p hp => by cases p <;> first | exact absurd (by decide) hp | rfl | exact fun _ => rfl

theorem only_ctl (s : State) (a : CtlState) : Only [.ctl] [] s { s with ctl := a } := only_parts _ _ _ rfl fun p hp => by cases p <;> first | exact absurd (by decide) hp | rfl | exact fun _ => rfl

theorem only_nv (s : State) (a : NvState) : Only [.nv] [] s { s with nv := a } := only_parts _ _ _ rfl fun p hp => by cases p <;> first | exact absurd (by decide) hp | rfl | exact fun _ => rfl

theorem only_sec (s : State) (a : SecState) : Only [.sec] [] s { s with sec := a } := only_parts _ _ _ rfl fun p hp => by cases p <;> first | exact absurd (by decide) hp | rfl | exact fun _ => rfl

theorem only_saf (s : State) (a : SafState) : Only [.saf] [] s { s with saf := a } := only_parts _ _ _ rfl fun p hp => by cases p <;> first | exact absurd (by decide) hp | rfl | exact fun _ => rfl

theorem only_sent (s : State) (a : List Sent) : Only [.sent] [] s { s with sent := a } := only_parts _ _ _ rfl fun p hp => by cases p <;> first | exact absurd (by decide) hp | rfl | exact fun _ => rfl

theorem only_freeCtr (s : State) (a : Nat) : Only [.freeCtr] [] s { s with freeCtr := a } := only_parts _ _ _ rfl fun p hp => by cases p <;> first | exact absurd (by decide) hp | rfl | exact fun _ => rfl

theorem only_setBank (s : State) (a b : Nat) (r : Bank) : Only [.arr] [] s (setBank s a b r) := only_parts _ _ _ rfl fun p hp => by cases p <;> first | exact absurd (by decide) hp | rfl | exact fun _ => rfl

theorem only_setQueue (s : State) (a : Nat) (r : QueueRun) : Only [.arr] [] s (setQueue s a r) := only_parts _ _ _ rfl fun p hp => by cases p <;> first | exact absurd (by decide) hp | rfl | exact fun _ => rfl

theorem only_setPortRun (s : State) (a : Nat) (r : PortRun) : Only [.chn] [] s (setPortRun s a r) := only_parts _ _ _ rfl fun p hp => by cases p <;> first | exact absurd (by decide) hp | rfl | exact fun _ => rfl

theorem only_sealAt (s : State) (a : Nat) : Only [.lch] [] s (sealAt s a) := only_parts _ _ _ rfl fun p hp => by cases p <;> first | exact absurd (by decide) hp | rfl | exact fun _ => rfl

theorem only_breakSeal (s : State) (a : Nat) : Only [.lch] [] s (breakSeal s a) := only_parts _ _ _ rfl fun p hp => by cases p <;> first | exact absurd (by decide) hp | rfl | exact fun _ => rfl

theorem only_signalAt (s : State) (e o a : Nat) : Only [.lch] [] s (signalAt s e o a) := only_parts _ _ _ rfl fun p hp => by cases p <;> first | exact absurd (by decide) hp | rfl | exact fun _ => rfl

theorem only_signal (s : State) (o a : Nat) : Only [.lch] [] s (signal s o a) := only_parts _ _ _ rfl fun p hp => by cases p <;> first | exact absurd (by decide) hp | rfl | exact fun _ => rfl

theorem only_setFmax (s : State) (f : Field) (v : Nat) : Only [] [f.off] s (setFmax s f v) := only_setF s f _

theorem only_setPort (s : State) (k v : Nat) : Only [] [(F.CHN_PORT_state k).off] s (setPort s k v) := only_setF s _ _

theorem only_dropMsg (s : State) : Only [] [Off.CHN_MSG_DROP, Off.CHN_STATUS] s (dropMsg s) := ((only_bumpF s F.CHN_MSG_DROP_count 1).mono (by simp) (by decide)).trans ((only_setF _ F.CHN_STATUS_msg_dropped 1).mono (by simp) (by decide))

theorem only_showMaint (s : State) : Only [] [Off.SAF_MAINT] s (showMaint s) := ((only_setF s F.SAF_MAINT_running _).mono (by simp) (by decide)).trans ((only_setF _ F.SAF_MAINT_waiting _).mono (by simp) (by decide))

theorem logRegs_congr {s u : State} (h : getReg u Off.SAF_LOG_HEAD = getReg s Off.SAF_LOG_HEAD) : logRegs u = logRegs s := by
  have e : getF u F.SAF_LOG_HEAD_head = getF s F.SAF_LOG_HEAD_head := by unfold getF; rw [show F.SAF_LOG_HEAD_head.off = Off.SAF_LOG_HEAD from rfl, h]
  unfold logRegs; rw [e]

/-- A register outside the fault log and its pointers is none of the registers that an entry writes. -/
theorem not_mem_logRegs (s : State) (o : Nat)
    (h : o ≠ Off.SAF_LOG_HEAD ∧ o ≠ Off.SAF_FAULT_CNT ∧ o ≠ Off.SAF_STATUS ∧ o ≠ Off.HST_IRQ_PENDING) (hr : o < 0x310000 ∨ 0x311000 ≤ o) :
    o ∉ logRegs s := by
  unfold logRegs logEntry
  simp only [List.mem_cons, List.not_mem_nil, or_false, not_or]
  refine ⟨?_, ?_, h.1, h.2.1, h.2.2.1, h.2.2.2⟩ <;> omega

/-- A frame, then a HOLD fault. -/
theorem Only.holdFault {s u : State} {l : List Nat} (hu : Only holdParts l s u) (hl : Off.SAF_LOG_HEAD ∉ l) (code c die unit detail : Nat) :
    Only holdParts (l ++ (holdRegs ++ logRegs s)) s (holdFault u code c die unit detail) := by
  refine Only.trans (t := u) (hu.mono (fun _ h => h) (fun _ h => List.mem_append_left _ h)) ?_
  rw [← logRegs_congr (hu.2 _ hl)]
  exact (only_holdFault u code c die unit detail).mono (fun _ h => h) (fun _ h => List.mem_append_right _ h)

/-- A field that no HOLD entry and no log entry writes. -/
theorem getF_holdFault (f : Field) (u : State) (code c die unit detail : Nat) (h1 : f.off ∉ holdRegs) (h2 : f.off ∉ logRegs u) :
    getF (holdFault u code c die unit detail) f = getF u f :=
  (only_holdFault u code c die unit detail).field f (by simp [h1, h2])

/-- A frame, then a fault that is logged. -/
theorem Only.logFault {s u : State} {ps : List Part} {l : List Nat} (hu : Only ps l s u) (hl : Off.SAF_LOG_HEAD ∉ l) (h1 : Part.host ∈ ps)
    (h2 : Part.sent ∈ ps) (code oc die unit detail : Nat) : Only ps (l ++ logRegs s) s (logFault u code oc die unit detail) := by
  refine Only.trans (t := u) (hu.mono (fun _ h => h) (fun _ h => List.mem_append_left _ h)) ?_
  rw [← logRegs_congr (hu.2 _ hl)]
  refine (only_logFault u code oc die unit detail).mono (fun p h => ?_) (fun _ h => List.mem_append_right _ h)
  simp only [eventParts, List.mem_cons, List.not_mem_nil, or_false] at h
  rcases h with rfl | rfl <;> assumption

end Sys2Proof.Machine
end

