-- ==== Sys2Proof/Laws/Alarm.lean ====
section
/-!
SUPPORT. The frames of the alarms (R419, R420), of the erasure of keys, and of a set that is withdrawn.
-/

namespace Sys2Proof.Machine

theorem only_logAlarm (s : State) (code cls : Nat) :
    Only eventParts [Off.SEC_ALARM, Off.SEC_ALARM_SLOT, Off.SEC_ALARM_CNT, Off.SEC_STATUS, Off.HST_IRQ_PENDING] s (logAlarm s code cls) := by
  unfold logAlarm
  refine Only.trans ?_ ((only_flag _ F.SEC_STATUS_alarm_seen 12).mono (by decide) (by decide))
  refine Only.trans ?_ ((only_bumpF _ _ 1).mono (by simp) ?_)
  · refine Only.trans ?_ ((only_setF _ F.SEC_ALARM_SLOT_slot _).mono (by simp) (by decide))
    exact (only_setReg _ Off.SEC_ALARM _).mono (by simp) (by decide)
  · split
    · decide
    · split <;> decide

theorem only_discardSet (s : State) (result offset : Nat) :
    Only [.ctl, .host, .sent] [Off.CTL_CROZIER, Off.CTL_CROZIER_SLOT, Off.CTL_CROZIER_CNT, Off.CTL_STATUS, Off.HST_IRQ_PENDING] s
      (discardSet s result offset) := by
  unfold discardSet
  split
  · exact Only.rfl' _ _ _
  · refine Only.trans ?_ ((only_flag _ F.CTL_STATUS_crozier_discarded 13).mono (by decide) (by decide))
    refine Only.trans ?_ ((only_bumpF _ F.CTL_CROZIER_CNT_discarded 1).mono (by simp) (by decide))
    refine Only.trans ?_ ((only_setF _ F.CTL_CROZIER_SLOT_slot _).mono (by simp) (by decide))
    refine Only.trans ?_ ((only_setReg _ Off.CTL_CROZIER _).mono (by simp) (by decide))
    exact (only_ctl _ _).mono (by simp) (by simp)

/-- A field that a discarded set does not write. -/
theorem getF_discardSet (s : State) (result offset : Nat) (f : Field) (h1 : f.off ≠ Off.CTL_CROZIER) (h2 : f.off ≠ Off.CTL_CROZIER_SLOT)
    (h3 : f.off ≠ Off.CTL_CROZIER_CNT) (h4 : F.CTL_STATUS_crozier_discarded.apart f = true) (h5 : f.off ≠ Off.HST_IRQ_PENDING) :
    getF (discardSet s result offset) f = getF s f := by
  unfold discardSet
  split
  · rfl
  · rw [getF_flag_other _ _ _ _ (by decide) h4 h5]
    unfold getF
    rw [getReg_bumpF_other _ _ _ _ h3, getReg_setF_other _ _ _ _ h2, getReg_setReg_other _ _ _ _ h1]
    rfl

theorem discardSet_prog (s : State) (result offset : Nat) : (discardSet s result offset).ctl.prog = s.ctl.prog := by
  unfold discardSet
  split
  · rfl
  · simp

theorem lockWithdraw_cases (s : State) : lockWithdraw s = s ∨ lockWithdraw s = discardSet s 6 0 := by
  unfold lockWithdraw
  dsimp only
  split
  · next z _ =>
    by_cases h : ((match z.commit with | some c => decide (slot s + 2 < c) | none => true) && (z.changed.testBit 2 || z.changed.testBit 4)) = true
    · exact Or.inr (if_pos h)
    · exact Or.inl (if_neg h)
  · exact Or.inl rfl

theorem only_lockWithdraw (s : State) : Only alarmParts alarmRegs s (lockWithdraw s) := by
  rcases lockWithdraw_cases s with h | h <;> rw [h]
  · exact Only.rfl' _ _ _
  · exact (only_discardSet s 6 0).mono (by decide) (by decide)

/-- The lock bit set once. -/
theorem only_lockOnce (s : State) :
    Only alarmParts alarmRegs s (if hasF s F.SEC_STATUS_lock then s else flag s F.SEC_STATUS_lock 12) := by
  split
  · exact Only.rfl' _ _ _
  · exact (only_flag _ _ _).mono (by decide) (by decide)

theorem only_alarmLock (s : State) (code : Nat) : Only alarmParts alarmRegs s (alarmLock s code) := by
  unfold alarmLock
  refine Only.trans ?_ (only_lockWithdraw _)
  refine Only.trans ?_ (only_lockOnce _)
  exact (only_logAlarm s code 2).mono (by decide) (by decide)

theorem only_alarm1 (s : State) (code : Nat) : Only alarmParts alarmRegs s (alarm1 s code) := by
  unfold alarm1
  have h : ∀ x : SecState, Only alarmParts alarmRegs s { logAlarm s code 1 with sec := x } := fun x =>
    ((only_logAlarm s code 1).mono (by decide) (by decide)).trans ((only_sec _ x).mono (by decide) (by simp))
  dsimp only
  split
  · exact (h _).trans (only_alarmLock _ 4)
  · exact h _

/-- A field that an alarm of class 1 or 2 does not write: any of another register, and in CTL_STATUS any but crozier_discarded. -/
theorem getF_alarmLock (s : State) (code : Nat) (f : Field) (h1 : f.off ∉ [Off.SEC_ALARM, Off.SEC_ALARM_SLOT, Off.SEC_ALARM_CNT, Off.SEC_STATUS,
    Off.CTL_CROZIER, Off.CTL_CROZIER_SLOT, Off.CTL_CROZIER_CNT, Off.HST_IRQ_PENDING]) (h2 : F.CTL_STATUS_crozier_discarded.apart f = true) :
    getF (alarmLock s code) f = getF s f := by
  simp only [List.mem_cons, List.not_mem_nil, or_false, not_or] at h1
  obtain ⟨a1, a2, a3, a4, a5, a6, a7, a8⟩ := h1
  have h3 : getF (logAlarm s code 2) f = getF s f := by
    apply (only_logAlarm s code 2).field f
    simp [a1, a2, a3, a4, a8]
  have h4 : ∀ x : State, getF (if hasF x F.SEC_STATUS_lock then x else flag x F.SEC_STATUS_lock 12) f = getF x f := by
    intro x
    split
    · rfl
    · exact (only_flag x F.SEC_STATUS_lock 12).field f (by simp [eventRegs, F.SEC_STATUS_lock, a4, a8])
  unfold alarmLock
  rw [← h3, ← h4 (logAlarm s code 2)]
  dsimp only
  rcases lockWithdraw_cases (if hasF (logAlarm s code 2) F.SEC_STATUS_lock then logAlarm s code 2 else flag (logAlarm s code 2) F.SEC_STATUS_lock 12)
    with h | h <;> rw [h]
  exact getF_discardSet _ _ _ f a5 a6 a7 h2 a8

theorem getF_alarm1 (s : State) (code : Nat) (f : Field) (h1 : f.off ∉ [Off.SEC_ALARM, Off.SEC_ALARM_SLOT, Off.SEC_ALARM_CNT, Off.SEC_STATUS,
    Off.CTL_CROZIER, Off.CTL_CROZIER_SLOT, Off.CTL_CROZIER_CNT, Off.HST_IRQ_PENDING]) (h2 : F.CTL_STATUS_crozier_discarded.apart f = true) :
    getF (alarm1 s code) f = getF s f := by
  have h3 : getF (logAlarm s code 1) f = getF s f := by
    apply (only_logAlarm s code 1).field f
    intro h; apply h1; simp only [List.mem_cons, List.not_mem_nil, or_false] at *; tauto
  unfold alarm1
  dsimp only
  split
  · rw [getF_alarmLock _ _ f h1 h2]; exact h3
  · exact h3

theorem alarmLock_prog (s : State) (code : Nat) : (alarmLock s code).ctl.prog = s.ctl.prog := by
  unfold alarmLock
  have h : ∀ x : State, (lockWithdraw x).ctl.prog = x.ctl.prog := by
    intro x
    rcases lockWithdraw_cases x with h | h <;> rw [h]
    exact discardSet_prog x 6 0
  dsimp only
  rw [h]
  split <;> simp [logAlarm]

theorem alarm1_prog (s : State) (code : Nat) : (alarm1 s code).ctl.prog = s.ctl.prog := by
  unfold alarm1
  dsimp only
  split
  · rw [alarmLock_prog]; simp [logAlarm]
  · simp [logAlarm]

theorem only_setWindow (s : State) (off : Nat) (bs : List Byte) :
    Only [] ((List.range ((bs.length + 7) / 8)).map fun i => off + 8 * i) s (setWindow s off bs) := by
  unfold setWindow
  exact foldl_only _ _ _ _ (fun s i hi => (only_setReg s _ _).mono (by simp) (by simpa using hi)) s

end Sys2Proof.Machine
end

