-- ==== Sys2Proof/Laws/Envelope.lean ====
section
/-!
SUPPORT. The frames of the power envelope's operations, and the fields and counters that they leave alone.
-/

namespace Sys2Proof.Machine

theorem only_noteIf (s : State) (c : Bool) (b : Nat) : Only [.pwr] [] s (noteIf s c b) := by
  unfold noteIf
  split
  · exact only_pwr s _
  · exact Only.rfl' _ _ _

theorem only_showLimit (s : State) : Only [] [Off.PWR_GOV, Off.PWR_STATUS] s (showLimit s) := by
  unfold showLimit
  refine Only.trans ?_ ((only_setF _ F.PWR_STATUS_at_floor _).mono (by simp) (by decide))
  refine Only.trans ?_ ((only_setF _ F.PWR_STATUS_sprint_active _).mono (by simp) (by decide))
  exact (only_setF _ F.PWR_GOV_limit_mv _).mono (by simp) (by decide)

theorem only_showGovernor (s : State) : Only [.pwr] [Off.PWR_GOV, Off.PWR_STATUS] s (showGovernor s) := by
  unfold showGovernor
  refine Only.trans ?_ ((only_noteIf _ _ _).mono (by simp) (by simp))
  refine Only.trans ?_ ((only_noteIf _ _ _).mono (by simp) (by simp))
  exact (only_showLimit s).mono (by simp) (by simp)

theorem getF_noteIf (s : State) (c : Bool) (b : Nat) (f : Field) : getF (noteIf s c b) f = getF s f := (only_noteIf s c b).field f (by simp)

theorem getF_showGovernor (s : State) (f : Field) (h1 : F.PWR_GOV_limit_mv.apart f = true) (h2 : F.PWR_STATUS_sprint_active.apart f = true) (h3 : F.PWR_STATUS_at_floor.apart f = true) : getF (showGovernor s) f = getF s f := by
  unfold showGovernor
  rw [getF_noteIf, getF_noteIf]
  unfold showLimit
  rw [getF_setF_other _ _ _ _ (by decide) h3, getF_setF_other _ _ _ _ (by decide) h2, getF_setF_other _ _ _ _ (by decide) h1]

theorem noteIf_stepAt (s : State) (c : Bool) (b : Nat) : (noteIf s c b).pwr.stepAt = s.pwr.stepAt := by unfold noteIf; split <;> rfl

theorem showGovernor_stepAt (s : State) : (showGovernor s).pwr.stepAt = s.pwr.stepAt := by
  unfold showGovernor; rw [noteIf_stepAt, noteIf_stepAt]; rfl

theorem noteIf_energy (s : State) (c : Bool) (b : Nat) : (noteIf s c b).pwr.energy = s.pwr.energy := by unfold noteIf; split <;> rfl

theorem showGovernor_energy (s : State) : (showGovernor s).pwr.energy = s.pwr.energy := by
  unfold showGovernor; rw [noteIf_energy, noteIf_energy]; rfl

theorem only_runSlew (s : State) (m : Bool) : Only [.maint] [Off.SAF_MAINT] s (runSlew s m) := by
  unfold runSlew
  refine Only.trans ?_ ((only_showMaint _).mono (by simp) (by simp))
  exact (only_maint _ _).mono (by simp) (by simp)

theorem only_onRecord (s : State) (f) : Only [.pwr] [] s (onRecord s f) := only_pwr s _

theorem only_powerFlag (s : State) (f : Field) (h : f.off = Off.PWR_STATUS) : Only [.host, .sent] [Off.PWR_STATUS, Off.HST_IRQ_PENDING] s (powerFlag s f) := by
  unfold powerFlag
  refine Only.trans ?_ (Only.mono (only_send _ _) (by decide) (by simp))
  exact (only_flag s f 10).mono (by decide) (by rw [h]; decide)

theorem hasF_powerFlag (s : State) (f : Field) (h1 : f.hi < 64) (h2 : f.lo ≤ f.hi) (h3 : f.off ≠ Off.HST_IRQ_PENDING) : hasF (powerFlag s f) f = true := by
  unfold powerFlag
  exact hasF_flag s f 10 h1 h2 h3

theorem only_moveSetpoint (s : State) (v p : Nat) (m : Bool) : Only [.pwr] [Off.PWR_GOV, Off.ARR_ENVELOPE] s (moveSetpoint s v p m) := by
  unfold moveSetpoint
  refine Only.trans ?_ ((only_setF _ F.ARR_ENVELOPE_ramp_step _).mono (by simp) (by decide))
  refine Only.trans ?_ ((only_setF _ F.PWR_GOV_slewing _).mono (by simp) (by decide))
  refine Only.trans ?_ ((only_setF _ F.PWR_GOV_setpoint_mv _).mono (by simp) (by decide))
  exact (only_pwr _ _).mono (by simp) (by simp)

theorem only_compareMeters (s : State) : Only [.pwr, .host, .sent] ([Off.PWR_STATUS] ++ logRegs s) s (compareMeters s) := by
  unfold compareMeters
  split
  · have o1 : Only [.pwr, .host, .sent] [Off.PWR_STATUS, Off.HST_IRQ_PENDING] s (recordFlag (powerFlag { s with pwr := { s.pwr with meterBad := true } } F.PWR_STATUS_meter_fault) 8) := by
      refine Only.trans ?_ ((only_onRecord _ _).mono (by simp) (by simp))
      refine Only.trans ?_ ((only_powerFlag _ F.PWR_STATUS_meter_fault rfl).mono (by decide) (by decide))
      exact (only_pwr _ _).mono (by simp) (by simp)
    refine Only.trans (o1.mono (fun _ h => h) ?_) ?_
    · intro o h; simp only [logRegs, List.mem_append, List.mem_cons] at *; tauto
    · rw [← logRegs_congr (o1.2 Off.SAF_LOG_HEAD (by decide))]
      exact (only_runFault _ _ _ _ _).mono (by decide) (fun _ h => List.mem_append_right _ h)
  · exact Only.rfl' _ _ _

theorem only_judgePeak (s : State) (b) : Only [.pwr, .host, .sent] ([Off.PWR_STATUS, Off.PWR_BREACH_CNT, Off.HST_IRQ_PENDING]) s (judgePeak s b) := by
  unfold judgePeak
  dsimp only
  split
  · refine Only.trans ?_ ((only_onRecord _ _).mono (by simp) (by simp))
    refine Only.trans ?_ ((only_bumpF _ F.PWR_BREACH_CNT_peak 1).mono (by simp) (by decide))
    refine Only.trans ?_ ((only_powerFlag _ F.PWR_STATUS_over_peak rfl).mono (by decide) (by decide))
    exact (only_pwr _ _).mono (by simp) (by simp)
  · exact (only_pwr _ _).mono (by simp) (by simp)

theorem only_judgeAverage (s : State) : Only [.pwr, .host, .sent] ([Off.PWR_STATUS, Off.PWR_BREACH_CNT, Off.HST_IRQ_PENDING]) s (judgeAverage s) := by
  unfold judgeAverage
  dsimp only
  split
  · refine Only.trans ?_ ((only_onRecord _ _).mono (by simp) (by simp))
    refine Only.trans ?_ ((only_bumpF _ F.PWR_BREACH_CNT_avg 1).mono (by simp) (by decide))
    refine Only.trans ?_ ((only_powerFlag _ F.PWR_STATUS_over_ceiling rfl).mono (by decide) (by decide))
    exact (only_pwr _ _).mono (by simp) (by simp)
  · exact (only_pwr _ _).mono (by simp) (by simp)

theorem only_showDraw (s : State) (a b c d : Nat) : Only [] [Off.PWR_INPUT, Off.PWR_DRAW, Off.PWR_ENERGY] s (showDraw s a b c d) := by
  unfold showDraw
  refine Only.trans ?_ ((only_setF _ F.PWR_ENERGY_mj _).mono (by simp) (by decide))
  refine Only.trans ?_ ((only_setF _ F.PWR_DRAW_ceiling_avg_w _).mono (by simp) (by decide))
  refine Only.trans ?_ ((only_setF _ F.PWR_DRAW_avg_w _).mono (by simp) (by decide))
  refine Only.trans ?_ ((only_setF _ F.PWR_DRAW_block_w _).mono (by simp) (by decide))
  refine Only.trans ?_ ((only_setF _ F.PWR_INPUT_check_w _).mono (by simp) (by decide))
  refine Only.trans ?_ ((only_setF _ F.PWR_INPUT_iin _).mono (by simp) (by decide))
  exact (only_setF _ F.PWR_INPUT_vin _).mono (by simp) (by decide)

theorem compareMeters_energy (s : State) : (compareMeters s).pwr.energy = s.pwr.energy := by
  unfold compareMeters; split
  · simp [recordFlag, onRecord, powerFlag]
  · rfl

theorem judgePeak_energy (s : State) (b) : (judgePeak s b).pwr.energy = s.pwr.energy := by
  unfold judgePeak; dsimp only; split
  · simp [recordFlag, onRecord, powerFlag]
  · rfl

theorem judgeAverage_energy (s : State) : (judgeAverage s).pwr.energy = s.pwr.energy := by
  unfold judgeAverage; dsimp only; split
  · simp [recordFlag, onRecord, powerFlag]
  · rfl

end Sys2Proof.Machine
end

