-- ==== Sys2Proof/Laws/Mem.lean ====
section
/-!
SUPPORT. Laws of memory: a byte read after a write, that every memory operation keeps the canonical form, and that reading a run of
bytes is reading its bytes.
-/

namespace Sys2Proof.Machine

/-- A list in rising order from `lo` has no entry below `lo`. -/
theorem FMap.get_below {α : Type} [DecidableEq α] (d : α) (m : FMap α) (lo k : Nat) (hw : FMap.wfFrom d lo m = true) (h : k < lo) :
    FMap.get d m k = d := by
  induction m generalizing lo with
  | nil => rfl
  | cons p m ih =>
    obtain ⟨j, w⟩ := p
    simp only [FMap.wfFrom, Bool.and_eq_true, decide_eq_true_eq] at hw
    have hj : j ≠ k := by omega
    simp only [FMap.get, hj, if_false]
    exact ih (j + 1) hw.2 (by omega)

theorem FMap.get_append {α : Type} (d : α) (m n : FMap α) (k : Nat) :
    FMap.get d (m ++ n) k = if k ∈ FMap.keys m then FMap.get d m k else FMap.get d n k := by
  induction m with
  | nil => simp [FMap.keys]
  | cons p m ih =>
    obtain ⟨j, w⟩ := p
    simp only [List.cons_append, FMap.get, ih, FMap.keys, List.map_cons, List.mem_cons]
    by_cases hj : j = k
    · simp [hj]
    · have : k ≠ j := fun e => hj e.symm
      simp only [hj, this, if_false, false_or]
      rfl

/-- An entry that is listed is read; one that is not reads as the default. -/
theorem FMap.get_of_not_mem {α : Type} (d : α) (m : FMap α) (k : Nat) (h : k ∉ FMap.keys m) : FMap.get d m k = d := by
  induction m with
  | nil => rfl
  | cons p m ih =>
    obtain ⟨j, w⟩ := p
    simp only [FMap.keys, List.map_cons, List.mem_cons, not_or] at h
    simp only [FMap.get, Ne.symm h.1, if_false]
    exact ih h.2

theorem FMap.wfFrom_append {α : Type} [DecidableEq α] (d : α) (m n : FMap α) (lo mid : Nat) (hm : FMap.wfFrom d lo m = true)
    (hb : ∀ k ∈ FMap.keys m, k < mid) (hn : FMap.wfFrom d mid n = true) (hl : lo ≤ mid) : FMap.wfFrom d lo (m ++ n) = true := by
  induction m generalizing lo with
  | nil => exact FMap.wfFrom_mono d n hl hn
  | cons p m ih =>
    obtain ⟨j, w⟩ := p
    simp only [FMap.wfFrom, List.cons_append, Bool.and_eq_true, decide_eq_true_eq] at hm ⊢
    have hj : j < mid := hb j (by simp [FMap.keys])
    exact ⟨hm.1, ih (j + 1) hm.2 (fun k hk => hb k (by simp only [FMap.keys, List.map_cons, List.mem_cons]; exact Or.inr hk)) (by omega)⟩

theorem FMap.keys_filter_lt {α : Type} (m : FMap α) (p : Nat × α → Bool) (a : Nat) (hp : ∀ c, p c = true → c.1 < a) :
    ∀ k ∈ FMap.keys (m.filter p), k < a := by
  intro k hk
  simp only [FMap.keys, List.mem_map, List.mem_filter] at hk
  obtain ⟨c, ⟨_, hc⟩, rfl⟩ := hk
  exact hp c hc

/-! ### Runs of cells -/

theorem wfFrom_cellsOf (a : Nat) (bs : List Byte) : FMap.wfFrom unlistedByte a (cellsOf a bs) = true := by
  induction bs generalizing a with
  | nil => rfl
  | cons b bs ih =>
    simp only [cellsOf]
    split
    · exact FMap.wfFrom_mono _ _ (by omega) (ih (a + 1))
    · next h => simp [FMap.wfFrom, h, ih]

theorem keys_cellsOf (a : Nat) (bs : List Byte) : ∀ k ∈ FMap.keys (cellsOf a bs), a ≤ k ∧ k < a + bs.length := by
  induction bs generalizing a with
  | nil => intro k hk; simp [cellsOf, FMap.keys] at hk
  | cons b bs ih =>
    intro k hk
    simp only [cellsOf] at hk
    split at hk
    · have := ih (a + 1) k hk
      simp only [List.length_cons]; omega
    · simp only [FMap.keys, List.map_cons, List.mem_cons] at hk
      rcases hk with rfl | hk
      · simp
      · have := ih (a + 1) k hk
        simp only [List.length_cons]; omega

theorem get_cellsOf (a : Nat) (bs : List Byte) (k : Nat) :
    FMap.get unlistedByte (cellsOf a bs) k = if a ≤ k then bs.getD (k - a) unlistedByte else unlistedByte := by
  induction bs generalizing a with
  | nil => simp [cellsOf, FMap.get]
  | cons b bs ih =>
    simp only [cellsOf]
    by_cases hk : a ≤ k
    · simp only [hk, if_true]
      by_cases he : k = a
      · subst he
        by_cases hb : b = unlistedByte
        · simp [hb, ih]
        · simp [hb, FMap.get]
      · have h1 : a + 1 ≤ k := by omega
        have h2 : k - a = (k - (a + 1)) + 1 := by omega
        have h3 : a ≠ k := fun e => he e.symm
        by_cases hb : b = unlistedByte
        · simp [hb, ih, h1, h2]
        · simp [hb, FMap.get, h3, ih, h1, h2]
    · have h1 : ¬(a + 1 ≤ k) := by omega
      have h3 : a ≠ k := by omega
      by_cases hb : b = unlistedByte
      · simp [hb, ih, h1, hk]
      · simp [hb, FMap.get, h3, ih, h1, hk]

/-! ### Writes -/

/-- A write keeps the canonical form. -/
theorem wf_writeBytes (m : Mem) (a : Nat) (bs : List Byte) (hw : Memory.wf m = true) : Memory.wf (writeBytes m a bs) = true := by
  unfold Memory.wf FMap.wf writeBytes at *
  rw [List.append_assoc]
  apply FMap.wfFrom_append unlistedByte _ _ 0 a (FMap.wfFrom_filter _ _ _ _ hw)
  · exact FMap.keys_filter_lt m _ a (fun c hc => by simpa using hc)
  · apply FMap.wfFrom_append unlistedByte _ _ a (a + bs.length) (wfFrom_cellsOf a bs)
    · intro k hk; exact (keys_cellsOf a bs k hk).2
    · revert hw
      generalize 0 = lo
      induction m generalizing lo with
      | nil => intro; rfl
      | cons c m ih =>
        obtain ⟨j, w⟩ := c
        intro hw
        simp only [FMap.wfFrom, Bool.and_eq_true, decide_eq_true_eq] at hw
        simp only [List.filter_cons]
        split
        · next h =>
          simp only [decide_eq_true_eq] at h
          simp only [FMap.wfFrom, Bool.and_eq_true, decide_eq_true_eq]
          exact ⟨⟨h, hw.1.2⟩, FMap.wfFrom_filter _ _ _ _ hw.2⟩
        · exact ih (j + 1) hw.2
    · omega
  · omega

/-- Every byte after a write. -/
theorem readByte_writeBytes (m : Mem) (a : Nat) (bs : List Byte) (k : Nat) :
    readByte (writeBytes m a bs) k = if a ≤ k ∧ k < a + bs.length then bs.getD (k - a) 0 else readByte m k := by
  have h1 : ∀ k, FMap.get unlistedByte (m.filter fun c => decide (c.1 < a)) k
      = if decide (k < a) = true then FMap.get unlistedByte m k else unlistedByte :=
    fun k => FMap.get_filter unlistedByte m (fun j => decide (j < a)) k
  have h2 : ∀ k, FMap.get unlistedByte (m.filter fun c => decide (a + bs.length ≤ c.1)) k
      = if decide (a + bs.length ≤ k) = true then FMap.get unlistedByte m k else unlistedByte :=
    fun k => FMap.get_filter unlistedByte m (fun j => decide (a + bs.length ≤ j)) k
  have hlt : ∀ k ∈ FMap.keys (m.filter fun c => decide (c.1 < a)), k < a :=
    FMap.keys_filter_lt m _ a (fun c hc => by simpa using hc)
  unfold readByte writeBytes
  rw [List.append_assoc, FMap.get_append, FMap.get_append]
  by_cases hk : k < a
  · have hno : k ∉ FMap.keys (cellsOf a bs) := fun h => by have := keys_cellsOf a bs k h; omega
    have hc : ¬(a ≤ k ∧ k < a + bs.length) := by omega
    simp only [hno, if_false, hc, h1, h2]
    split
    · simp [hk]
    · next hn =>
      have : FMap.get unlistedByte m k = unlistedByte := by
        have h3 := FMap.get_of_not_mem unlistedByte _ k hn
        rw [h1] at h3
        simpa [hk] using h3
      have h4 : ¬(a + bs.length ≤ k) := by omega
      simp [h4, this]
  · have hn : k ∉ FMap.keys (m.filter fun c => decide (c.1 < a)) := fun h => hk (hlt k h)
    simp only [hn, if_false]
    by_cases hr : k < a + bs.length
    · have hc : a ≤ k ∧ k < a + bs.length := by omega
      have hak : a ≤ k := hc.1
      have h0 : unlistedByte = (0 : Byte) := rfl
      simp only [hc, and_self, if_true, get_cellsOf, h2]
      have h4 : ¬(a + bs.length ≤ k) := by omega
      split
      · simp [h0]
      · next hn2 =>
        have h3 := FMap.get_of_not_mem unlistedByte _ k hn2
        rw [get_cellsOf] at h3
        simp only [hak, if_true] at h3
        rw [h0] at h3
        rw [h3]
        simp [h4, h0]
    · have hc : ¬(a ≤ k ∧ k < a + bs.length) := by omega
      have hno : k ∉ FMap.keys (cellsOf a bs) := fun h => by have := keys_cellsOf a bs k h; omega
      have h4 : a + bs.length ≤ k := by omega
      simp [hno, hc, h2, h4]

/-- Reading a run gives the bytes of its addresses, for memory in canonical form. -/
theorem readFrom_eq (n a : Nat) (c : Mem) (hw : FMap.wfFrom unlistedByte a c = true) :
    readFrom n a c = (List.range n).map fun i => FMap.get unlistedByte c (a + i) := by
  induction n generalizing a c with
  | zero => cases c <;> rfl
  | succ n ih =>
    rw [List.range_succ_eq_map, List.map_cons, List.map_map]
    have hs : ∀ i, a + (i + 1) = (a + 1) + i := fun i => by omega
    cases c with
    | nil =>
      rw [readFrom, ih (a + 1) [] rfl]
      rfl
    | cons p c =>
      obtain ⟨k, v⟩ := p
      have hw' := hw
      simp only [FMap.wfFrom, Bool.and_eq_true, decide_eq_true_eq] at hw
      simp only [readFrom]
      split
      · next hk =>
        subst hk
        rw [ih (k + 1) c hw.2]
        congr 1
        · simp [FMap.get]
        · apply List.map_congr_left
          intro i _
          have h1 : k ≠ k + (i + 1) := by omega
          show FMap.get unlistedByte c (k + 1 + i) = FMap.get unlistedByte ((k, v) :: c) (k + (i + 1))
          rw [← hs i]
          simp only [FMap.get, h1, if_false]
      · next hk =>
        have hlo : a + 1 ≤ k := by omega
        have hw2 : FMap.wfFrom unlistedByte (a + 1) ((k, v) :: c) = true := by
          simp only [FMap.wfFrom, Bool.and_eq_true, decide_eq_true_eq]
          exact ⟨⟨hlo, hw.1.2⟩, hw.2⟩
        rw [ih (a + 1) _ hw2]
        congr 1
        · exact (FMap.get_below unlistedByte _ (a + 1) a hw2 (by omega)).symm
        · apply List.map_congr_left
          intro i _
          show FMap.get unlistedByte ((k, v) :: c) (a + 1 + i) = FMap.get unlistedByte ((k, v) :: c) (a + (i + 1))
          rw [← hs i]

/-- Reading `n` bytes reads the byte of each address. -/
theorem readBytes_eq (m : Mem) (a n : Nat) : readBytes m a n = (List.range n).map fun i => readByte m (a + i) := by
  unfold readBytes
  dsimp only
  split
  · next hr =>
    rw [readFrom_eq n a _ hr]
    apply List.map_congr_left
    intro i hi
    have hi' : i < n := List.mem_range.mp hi
    unfold FMap.range readByte
    rw [FMap.get_filter unlistedByte m (fun j => decide (a ≤ j) && decide (j < a + n)) (a + i)]
    simp [hi']
  · rfl

theorem length_readBytes (m : Mem) (a n : Nat) : (readBytes m a n).length = n := by
  rw [readBytes_eq m a n]; simp

/-- A run just written reads back. -/
theorem readBytes_writeBytes (m : Mem) (a : Nat) (bs : List Byte) : readBytes (writeBytes m a bs) a bs.length = bs := by
  rw [readBytes_eq]
  apply List.ext_getElem
  · simp
  · intro i h1 h2
    simp only [List.getElem_map, List.getElem_range]
    rw [readByte_writeBytes]
    simp [h2]

/-! ### The tiers -/

/-- A write to a tier keeps both memories in canonical form. -/
theorem wf_wr (s : State) (a : Nat) (bs : List Byte) (h : Memory.wf s.mem = true ∧ Memory.wf s.flash = true) :
    Memory.wf (wr s a bs).mem = true ∧ Memory.wf (wr s a bs).flash = true := by
  unfold wr
  split
  · exact ⟨h.1, wf_writeBytes _ _ _ h.2⟩
  · exact ⟨wf_writeBytes _ _ _ h.1, h.2⟩

/-- Clearing a run keeps both memories in canonical form. -/
theorem wf_clearBytes (s : State) (a n : Nat) (h : Memory.wf s.mem = true ∧ Memory.wf s.flash = true) :
    Memory.wf (clearBytes s a n).mem = true ∧ Memory.wf (clearBytes s a n).flash = true := by
  unfold clearBytes
  dsimp only
  split
  · exact ⟨h.1, FMap.wf_filter _ _ _ h.2⟩
  · exact ⟨FMap.wf_filter _ _ _ h.1, h.2⟩

/-- What a write to a tier changes: the bytes of its run, and nothing else of the state. -/
theorem wr_spec (s : State) (a : Nat) (bs : List Byte) (b : Nat) (hb : decide (flashBase ≤ b) = decide (flashBase ≤ a)) :
    (if flashBase ≤ b then readByte (wr s a bs).flash b else readByte (wr s a bs).mem b)
      = if a ≤ b ∧ b < a + bs.length then bs.getD (b - a) 0
        else if flashBase ≤ b then readByte s.flash b else readByte s.mem b := by
  have hb' : (flashBase ≤ b) ↔ (flashBase ≤ a) := by simpa using hb
  unfold wr
  by_cases ha : flashBase ≤ a
  · simp only [ha, hb'.mpr ha, if_true]
    exact readByte_writeBytes s.flash a bs b
  · simp only [ha, mt hb'.mp ha, if_false]
    exact readByte_writeBytes s.mem a bs b

/-- The memories of the module right after reset are in canonical form. -/
theorem reset_mem_wf : Memory.wf State.reset.mem = true ∧ Memory.wf State.reset.flash = true := ⟨rfl, rfl⟩

end Sys2Proof.Machine
end

