-- ==== Sys2Proof/Laws/Frond.lean ====
section
/-!
SUPPORT. Laws of reads of a tier beside a write, and of the check of a frond: a frond whose check has just been written passes it (R175),
and nothing else of the memory that a unit reads has changed.
-/

namespace Sys2Proof.Machine

/-! ### Runs of bytes -/

theorem rd_eq (s : State) (a n : Nat) :
    rd s a n = (List.range n).map fun i => if flashBase ≤ a then readByte s.flash (a + i) else readByte s.mem (a + i) := by
  unfold rd
  by_cases h : flashBase ≤ a <;> simp only [h, if_true, if_false, readBytes_eq]

theorem length_rd (s : State) (a n : Nat) : (rd s a n).length = n := by rw [rd_eq]; simp

/-- A read apart from a write reads what it read before. -/
theorem rd_wr_apart (s : State) (a : Nat) (bs : List Byte) (b n : Nat) (h : a + bs.length ≤ b ∨ b + n ≤ a) :
    rd (wr s a bs) b n = rd s b n := by
  rw [rd_eq, rd_eq]
  apply List.map_congr_left
  intro i hi
  have hi' : i < n := List.mem_range.mp hi
  have ho : ¬(a ≤ b + i ∧ b + i < a + bs.length) := by omega
  unfold wr
  by_cases ha : flashBase ≤ a <;> by_cases hb : flashBase ≤ b <;>
    simp only [ha, hb, if_true, if_false, readByte_writeBytes, if_neg ho]

/-- A run just written reads back. -/
theorem rd_wr_same (s : State) (a : Nat) (bs : List Byte) : rd (wr s a bs) a bs.length = bs := by
  unfold rd wr
  by_cases ha : flashBase ≤ a <;> simp only [ha, if_true, if_false, readBytes_writeBytes]

/-- A part of a run is the run of that part, on one side of the flash tier's base. -/
theorem take_drop_rd (s : State) (a n i k : Nat) (h : i + k ≤ n) (hs : flashBase ≤ a ∨ a + i < flashBase) :
    ((rd s a n).drop i).take k = rd s (a + i) k := by
  rw [rd_eq, rd_eq]
  apply List.ext_getElem
  · simp; omega
  · intro j h1 h2
    have hab : (flashBase ≤ a) = (flashBase ≤ a + i) := propext (by omega)
    simp [hab, Nat.add_assoc]

/-! ### Little-endian numbers -/

theorem length_leBytes (n v : Nat) : (leBytes n v).length = n := by
  induction n generalizing v with
  | zero => rfl
  | succ n ih => simp [leBytes, ih]

theorem leNat_append (xs ys : List Byte) : leNat (xs ++ ys) = leNat xs + 256 ^ xs.length * leNat ys := by
  induction xs with
  | nil => simp [leNat]
  | cons x xs ih => simp only [List.cons_append, leNat, ih, List.length_cons]; ring

theorem leNat_lt (xs : List Byte) : leNat xs < 256 ^ xs.length := by
  induction xs with
  | nil => simp [leNat]
  | cons x xs ih => have := x.isLt; simp only [leNat, List.length_cons, Nat.pow_succ]; omega

theorem leNat_leBytes (n v : Nat) (h : v < 256 ^ n) : leNat (leBytes n v) = v := by
  induction n generalizing v with
  | zero => simp [leBytes, leNat]; omega
  | succ n ih =>
    rw [Nat.pow_succ] at h
    simp only [leBytes, leNat, ih (v / 256) (by omega), BitVec.toNat_ofNat]
    omega

/-! ### The check of a frond, R175 -/

theorem frondCheck_lt (image : List Byte) : frondCheck image < 256 ^ 4 := by
  have h := (crc32c (image.take (payloadLen + 56) ++ List.replicate 4 0 ++ image.drop (payloadLen + 60))).isLt
  unfold frondCheck
  omega

/-- The low half of word 7 of a header is its check. -/
theorem check_ofBytes (bs : List Byte) (h : 60 ≤ bs.length) : (Header.ofBytes bs).check = leNat ((bs.drop 56).take 4) := by
  have hl : ((bs.drop 56).take 4).length = 4 := by simp; omega
  have hsplit : (bs.drop 56).take 8 = (bs.drop 56).take 4 ++ (bs.drop 60).take 4 := by
    rw [show (8 : Nat) = 4 + 4 from rfl, List.take_add, List.drop_drop]
  have h1 := leNat_lt ((bs.drop 56).take 4)
  have h2 := leNat_lt ((bs.drop 56).take 8)
  have h3 : ((bs.drop 56).take 8).length ≤ 8 := by simp
  have h4 : leNat ((bs.drop 56).take 8) < 2 ^ 64 :=
    lt_of_lt_of_le h2 (by rw [show (2 : Nat) ^ 64 = 256 ^ 8 by norm_num]; exact Nat.pow_le_pow_right (by omega) h3)
  rw [hl] at h1
  show (BitVec.ofNat 64 (leNat ((bs.drop 56).take 8))).toNat / 2 ^ 0 % 2 ^ (31 + 1 - 0) = _
  rw [BitVec.toNat_ofNat, Nat.mod_eq_of_lt h4, hsplit, leNat_append, hl]
  omega

/-- Two images that differ in bytes 56 to 59 of the side band only have one check. -/
theorem frondCheck_congr (x y : List Byte) (h1 : x.take (payloadLen + 56) = y.take (payloadLen + 56))
    (h2 : x.drop (payloadLen + 60) = y.drop (payloadLen + 60)) : frondCheck x = frondCheck y := by
  unfold frondCheck; rw [h1, h2]

/-- Where the check of a frond lies. -/
theorem wr_writeCheck (s : State) (f : Fmt) (a : Nat) :
    writeCheck s f a = wr s (a + payloadLen + 56) (leBytes 4 (frondCheck (frondImage s f a))) := rfl

/-- A read apart from the check bytes of a frond reads what it read before the check was written. -/
theorem rd_writeCheck (s : State) (f : Fmt) (a b n : Nat) (h : a + payloadLen + 60 ≤ b ∨ b + n ≤ a + payloadLen + 56) :
    rd (writeCheck s f a) b n = rd s b n :=
  rd_wr_apart s _ _ b n (by rw [length_leBytes]; omega)

/-- A frond whose check has just been written passes it (R175). -/
theorem checkOk_writeCheck (s : State) (f : Fmt) (a : Nat) (hs : flashBase ≤ a ∨ a + payloadLen + 60 ≤ flashBase) :
    checkOk (writeCheck s f a) f a = true := by
  have hL : payloadLen + 64 ≤ f.imageLen := by unfold Fmt.imageLen Fmt.sideLen; omega
  have himg : frondCheck (frondImage (writeCheck s f a) f a) = frondCheck (frondImage s f a) := by
    apply frondCheck_congr
    · have e1 := take_drop_rd (writeCheck s f a) a f.imageLen 0 (payloadLen + 56) (by omega) (by omega)
      have e2 := take_drop_rd s a f.imageLen 0 (payloadLen + 56) (by omega) (by omega)
      simp only [List.drop_zero, Nat.add_zero] at e1 e2
      unfold frondImage
      rw [e1, e2, rd_writeCheck s f a a (payloadLen + 56) (by omega)]
    · unfold frondImage
      rw [rd_eq, rd_eq]
      apply List.ext_getElem
      · simp
      · intro j h1 h2
        simp only [List.getElem_drop, List.getElem_map, List.getElem_range]
        have ho : ¬(a + payloadLen + 56 ≤ a + (payloadLen + 60 + j) ∧
            a + (payloadLen + 60 + j) < a + payloadLen + 56 + (leBytes 4 (frondCheck (rd s a f.imageLen))).length) := by
          rw [length_leBytes]; omega
        rw [wr_writeCheck]
        unfold wr frondImage
        by_cases hb : flashBase ≤ a
        · have hc : flashBase ≤ a + payloadLen + 56 := by omega
          simp only [hb, hc, if_true, readByte_writeBytes, if_neg ho]
        · have hc : ¬flashBase ≤ a + payloadLen + 56 := by omega
          simp only [hb, hc, if_false, readByte_writeBytes, if_neg ho]
  have hhd : (headerAt (writeCheck s f a) a).check = frondCheck (frondImage s f a) := by
    have e1 : ((rd (writeCheck s f a) (a + payloadLen) 64).drop 56).take 4 = rd (writeCheck s f a) (a + payloadLen + 56) 4 :=
      take_drop_rd _ _ 64 56 4 (by omega) (by omega)
    have e2 : rd (writeCheck s f a) (a + payloadLen + 56) 4 = leBytes 4 (frondCheck (frondImage s f a)) := by
      have := rd_wr_same s (a + payloadLen + 56) (leBytes 4 (frondCheck (frondImage s f a)))
      rwa [length_leBytes] at this
    unfold headerAt
    rw [check_ofBytes _ (by rw [length_rd]; omega), e1, e2, leNat_leBytes 4 _ (frondCheck_lt _)]
  unfold checkOk
  rw [himg, hhd]
  exact beq_self_eq_true _

/-- What passing the check says. -/
theorem frondCheck_of_checkOk {s : State} {f : Fmt} {a : Nat} (h : checkOk s f a = true) :
    frondCheck (frondImage s f a) = (headerAt s a).check := eq_of_beq h

/-- The words of a header before its check stand as the check is written. -/
theorem step_writeCheck (s : State) (f : Fmt) (a : Nat) (hs : flashBase ≤ a ∨ a + payloadLen + 60 ≤ flashBase) :
    (headerAt (writeCheck s f a) a).step = (headerAt s a).step := by
  have e : ∀ t : State, (headerAt t a).step = BitVec.ofNat 64 (leNat (rd t (a + payloadLen + 8) 8)) := fun t => by
    show BitVec.ofNat 64 (leNat (((rd t (a + payloadLen) 64).drop (8 * 1)).take 8)) = _
    rw [take_drop_rd t (a + payloadLen) 64 (8 * 1) 8 (by omega) (by omega)]
  rw [e, e, rd_writeCheck s f a _ 8 (by omega)]

/-- A header apart from the check bytes of a frond stands as the check is written. -/
theorem headerAt_writeCheck (s : State) (f : Fmt) (a b : Nat) (h : a + 60 ≤ b ∨ b + 64 ≤ a + 56) :
    headerAt (writeCheck s f a) b = headerAt s b := by
  unfold headerAt
  rw [rd_writeCheck s f a (b + payloadLen) 64 (by omega)]

/-- The header that an image shows is the header at its address. -/
theorem header_frondImage (s : State) (f : Fmt) (a : Nat) (hs : flashBase ≤ a ∨ a + payloadLen < flashBase) :
    Header.ofBytes (((frondImage s f a).drop payloadLen).take 64) = headerAt s a := by
  have hL : payloadLen + 64 ≤ f.imageLen := by unfold Fmt.imageLen Fmt.sideLen; omega
  unfold frondImage headerAt
  rw [take_drop_rd s a f.imageLen payloadLen 64 hL hs]

/-- The registers stand as bytes are written. -/
theorem getF_wr (s : State) (a : Nat) (bs : List Byte) (f : Field) : getF (wr s a bs) f = getF s f := by
  unfold wr; split <;> rfl

/-- An entry of the frond table apart from a write stands. -/
theorem ftGet_wr (s : State) (a : Nat) (bs : List Byte) (id : Nat)
    (h : a + bs.length ≤ ftPrimary s id ∨ ftPrimary s id + 16 ≤ a) : ftGet (wr s a bs) id = ftGet s id := by
  have hc : ftCount (wr s a bs) = ftCount s := by unfold ftCount; rw [getF_wr]
  have hp : ftPrimary (wr s a bs) id = ftPrimary s id := by unfold ftPrimary; rw [getF_wr]
  unfold ftGet
  rw [hc, hp, rd_wr_apart s a bs _ 16 h]

/-- An entry of the frond table apart from the check bytes of a frond stands as the check is written. -/
theorem ftGet_writeCheck (s : State) (f : Fmt) (a id : Nat)
    (h : a + payloadLen + 60 ≤ ftPrimary s id ∨ ftPrimary s id + 16 ≤ a + payloadLen + 56) :
    ftGet (writeCheck s f a) id = ftGet s id :=
  ftGet_wr s _ _ id (by rw [length_leBytes]; omega)

/-- The home that an entry gives. -/
theorem homeOf_of_ftGet {s : State} {id : Nat} {e : FtEntry} (h : ftGet s id = e) : homeOf s id = e.home := congrArg FtEntry.home h

end Sys2Proof.Machine
end

