-- ==== Sys2Proof/WellFormed.lean ====
section
/-!
DEFINITION. When a command is well formed: its operands lie in the ranges that the spec gives the things they name (units of
R3 to R5, registers of R13, fields of doorbells and messages). A meaning is total: it answers for an ill-formed command too.
-/

namespace Sys2Proof

/-- A strap list of a given width. -/
def strapsOk (x : Straps) : Bool := x.feedId.length == 3 && x.slotId.length == 6

/-- An array, a core, a stack, a port, a link of the chain, an address of the chain. -/
def arrayOk (a : Nat) : Bool := decide (a < 512)
/-- A core of the package. -/
def coreOk (c : Nat) : Bool := decide (c < 256)
/-- A DRAM stack. -/
def stackOk (q : Nat) : Bool := decide (q < 16)
/-- A Serros port. -/
def portOk (k : Nat) : Bool := decide (k < 4)
/-- A chain address. -/
def addressOk (a : Nat) : Bool := decide (a < 64)
/-- A logic die (Table 0.2). -/
def dieOk (d : Nat) : Bool := decide (d < 98)
/-- A BAR0 offset. -/
def offsetOk (o : Nat) : Bool := decide (o < 2 ^ 26)
/-- A tag of a command doorbell. -/
def tagOk (t : Nat) : Bool := decide (t < 2 ^ 48)
/-- A 32-bit count. -/
def word32Ok (n : Nat) : Bool := decide (n < 2 ^ 32)
/-- An upset of an accumulator cell. -/
def upsetOk : Option Upset → Bool
  | some u => decide (u.row < 32) && decide (u.col < 128) && decide (u.bitNo < 32)
  | none => true
/-- A chain message (Table 9.4). -/
def msgOk (m : ChainMsg) : Bool := decide (m.kind < 256) && addressOk m.source && decide (m.dest < 64)

/-- The operand ranges of each command. -/
def Instr.wf : Instr → Bool
  | .perstNDeassert x => strapsOk x
  | .bringupPhaseEnd n r => decide (1 ≤ n) && decide (n ≤ 7) && decide (r.failCode < 8) && decide (r.die < 128)
  | .deviceReady ms mv _ => decide (ms < 65536) && decide (mv < 1024)
  | .launchBegin u | .launchComplete u => decide (u < 808)
  | .arrayStep a u | .drain a u => arrayOk a && upsetOk u
  | .intermediateCheck a | .tileRestart a | .drainFault a => arrayOk a
  | .vectorEngineFault c => coreOk c
  | .batchLaunch q | .requestDescriptor q | .rowAccepted q => decide (q < 256)
  | .moveFrond q | .viewCopy q | .updateGroup q | .sweepTimeout q | .updateEngineFault q | .groupRepair q => stackOk q
  | .failedRead _ _ d c _ _ => decide (d < 128) && decide (c < 32)
  | .onfiChannelFail h => decide (h < 32)
  | .flitReceive k _ t q a => portOk k && decide (t < 16) && decide (q < 65536) && decide (a < 65536)
  | .replayRequest k a => portOk k && decide (a < 65536)
  | .idleFlit k | .portDown k | .portTraining k _ | .linkRetrain k _ | .skipProbeTimeout k | .linkImpedanceCalibration k => portOk k
  | .addressToken k _ _ | .closure k _ _ => portOk k
  | .skipProbe k a => portOk k && addressOk a
  | .errorNotice c a => decide (c < 16) && addressOk a
  | .rejoinToken a n _ => addressOk a && decide (n ≤ 64)
  | .rejoinCheck e => addressOk e
  | .healNotice l r _ => addressOk l && addressOk r
  | .acknowledgement a _ | .ackSend a | .messageResend a => addressOk a
  | .messageDeliver m | .messageForward m => msgOk m
  | .syncMsg a o _ => addressOk a && decide (o < 8192)
  | .normMsg a n p _ _ _ _ => addressOk a && word32Ok n && addressOk p
  | .digestMsg a s n d => addressOk a && word32Ok s && word32Ok n && d.length == 32
  | .partnerRequest a f t _ => addressOk a && word32Ok f && word32Ok t
  | .partnerReply f t _ _ => word32Ok f && word32Ok t
  | .layoutMsg a n _ _ _ => addressOk a && word32Ok n
  | .feedAnnounce a f => addressOk a && decide (f < 8)
  | .lossReport a b c n _ => addressOk a && addressOk b && addressOk c && word32Ok n
  | .countMsg a n _ => addressOk a && word32Ok n
  | .collectiveData a _ _ g h _ _ _ => addressOk a && decide (g < 4) && addressOk h
  | .credit a _ _ _ => addressOk a
  | .load t | .start t | .stop t | .resume t | .endPlan t => tagOk t
  | .commandReserved c t => decide (c < 16) && tagOk t
  | .release k q => decide (k < 65536) && word32Ok q
  | .requestTail q t => decide (q < 256) && word32Ok t
  | .bar2InvalidWrite o n => decide (o < 2 ^ 41) && decide (n ≤ 64)
  | .bar0BadAccess o n _ | .registerWrite o n _ | .stWrite o n _ => offsetOk o && decide (n ≤ 64)
  | .apertureAccess _ o n w => decide (o < 2 ^ 41) && (match w with | some bs => bs.length == n | none => true)
  | .numRingTail t | .lchTsRingTail t | .intSubTail t | .intEvTail t => word32Ok t
  | .lchSyncSignal o v => decide (o < 8192) && decide (v.toNat < 2 ^ 48)
  | .commitRequest _ t => decide (t < 2 ^ 56)
  | .cfgProgram n => decide (n < 2 ^ 25)
  | .safResume v => decide (v.toNat < 2 ^ 14)
  | .safBistCmd k u => decide (k < 8) && decide (u < 2 ^ 21)
  | .attest t | .keyLoad t | .erase t | .lifecycleToken t | .raiseFloor t | .storeCertificate t => tagOk t
  | .secCommandReserved o t => (o == 0 || o == 6 || (decide (8 ≤ o) && decide (o < 16))) && tagOk t
  | .irqCoalesceExpiry v => decide (v < 16)
  | .meterBlock v i w c => decide (v < 65536) && decide (i < 65536) && decide (w < 65536) && decide (c < 65536)
  | .inputRange v => decide (v < 65536)
  | .entdaa a => decide (a < 128)
  | .read o n => offsetOk o && decide (n < 256)
  | .write o _ => offsetOk o
  | .sensorRead d _ _ | .junctionHold d _ | .junctionTrip d | .dieSilent d | .packageLinkError d | .sensorCalibration d => dieOk d
  | .heartbeat d => d == 96 || d == 97
  | .syncObjectFailed o => decide (o < 8192)
  | .maintenanceStart a k u => decide (a < 9) && decide (k < 5) && decide (u < 2 ^ 21)
  | .bistSliceEnd v => decide (1 ≤ v) && decide (v ≤ 3)
  | .refDeviationWindow p => decide (-32768 ≤ p) && decide (p ≤ 32767)
  | .meshMeasure a b _ => decide (a < 65536) && decide (b < 65536)
  | .pldm p _ => decide (p < 64)
  | .mctpOtherDrop m => decide (m < 128) && m != 0 && m != 1 && m != 0x7F
  | .pwrEnRise _ _ _ | .pwrEnFall | .perstNAssert | .bringupTimeout | .slotBoundary | .crozierCommit | .signalTakesEffect
  | .anchorSet | .launchIssue _ | .waitTimeout _ _ _ | .passRestart | .sramUncorrectable _ _ | .viewRemake _ _
  | .partnerFetchTimeout _ | .flashPageRead _ _ _ _ | .pageRebuild _ _ | .stripeWrite _ | .ledgerStore | .flashWearMove _
  | .dramScrub _ _ _ | .reduceAdd _ | .reduceAdderFault _ | .finalQuantisation _ | .normMessageSend | .normDecision
  | .normTimeout | .digestCompute _ | .digestEngineFault _ | .digestRepair _ _ | .snapshotWrite _ | .addressingTimeout
  | .permuteDecision | .permuteTransfer _ _ | .lossReportTimeout | .reReduce _ | .countMessageSend | .sampleDescriptor
  | .sampleTimeout _ _ | .imageSample _ _ | .textPack _ | .pressureWindow | .commandOverrun | .arrInject _ | .numClear _
  | .lchClear _ | .hostClaim | .hostRelease | .claimTimeout | .commitAbort | .crozierAck | .crozierAckTimeout
  | .cfgProgramDone _ | .secCommandOverrun | .envelopeHold | .setpointStep _ _ _ | .depthChange _ | .minuteBoundary
  | .energySigning | .journalWrite | .mctpControl _ | .sensorUpdate | .claim | .releaseClaim | .overcurrentTrip _
  | .overvoltageTrip _ | .railTrip | .coreRailUnder | .flowRead _ | .coolantFlowLow | .missingEdge _ | .refclkLoss
  | .controlDisagree | .selfCheckEnd _ _ _ | .singleControlCheck _ | .watchdogExpiry | .keyRotation | .glitchDetector
  | .refclkReturn | .inputPowerLoss | .keyStoreIntegrityFail => true

end Sys2Proof
end

