-- ==== Sys2Proof/Tests/Slice0.lean ====
section
/-!
SUPPORT. Tests: the checks of WellFormed.lean, worked examples of the spec, one step each, and for every statement of
Certificates/Slice0/Obligations.lean a concrete state and operands that meet the hypotheses of each of its clauses (`meets_…`).
-/

section

set_option Elab.async false

open Sys2Proof Sys2Proof.Machine
namespace Sys2Proof.Tests

/-- A plan header in which only the places that a test needs are named. -/
def hdr0 : PlanHeader :=
  { seed := 0, startStep := 0, startT := 0, normObj := 1, reduceObj := 2, digestObj := 3, orderObj := 4, policyAbandon := false, ceiling := 0,
    normTimeout := 0, sweepTimeout := 0, partnerTimeout := 0, sampleTimeout := 0, restore := 0, ftPrimary := 0x1000000, ftSize := 6,
    ftMirror := 0x2000000, snapBase := 0, snapInterval := 0, snapPages := 0, subBase := 0x4000000, subSize := 4, payloadBase := 0x5000000,
    payloadGranules := 16, evBase := 0, evSize := 0, scalarBase := 0x6000000, scalarRows := 4, reportBase := 0, reportWords := 0,
    reportFirst := 0, reportCount := 0 }

/-- An empty training plan. -/
def plan0 : Plan :=
  { training := true, iterations := 0, header := hdr0, anchors := [], launches := [], syncInit := [], exports := [], tiles := [], vectors := [],
    moves := [], colls := [], updates := [], layouts := [], fronds := [], stackDescs := [], layers := [], intakes := [], queues := [] }

/-- A launch of a kind at slot 2 of anchor 0, with no wait and no signal. -/
def launch0 (k : LaunchKind) (launcher body : Nat) : Launch :=
  ⟨2, 0, k, false, false, false, launcher, body, 0, [], [], [], 0⟩

/-- The module up with bring-up phases 1 to 7 ended. -/
def up0 : State := { State.reset with pwr := { PwrState.init with phases := [1, 2, 3, 4, 5, 6, 7] } }

/-- The module ready. -/
def ready : State := setF (setF up0 F.HST_STATUS_device_ready 1) F.CTL_STATUS_device_ready 1

/-- A ready module at a slot. -/
def atSlot (n : Nat) : State := setF ready F.LCH_SLOT_slot n

/-- A ready module with a plan, in a plan state. -/
def withPlan (p : Plan) (st : Nat) : State := { setF (atSlot 1000) F.HST_STATUS_plan_state st with plan := some p }

/-- A batch queue with a ring of 16 entries. -/
def queue0 : BatchQueue :=
  { q := 1, wait := 4, quiet := 0, holdArray := 1, quietArray := 0, ringBase := 0x7000000, ringSize := 4, rowBytes := 64, outRegion := 0x7100000,
    outLen := 64, queueArea := 0x7200000, entries := 8, listFirst := 0, listCount := 1, resultLaunch := 0 }

/-- The claim held by a source. -/
def claimed (src : Nat) : State := setF ready F.CTL_CLAIM_owner src

/-- The row of PWR_THROTTLE. -/
def throttleRow : RegRow := (rowAt Off.PWR_THROTTLE).getD ⟨"", 0, 0, 0, 0, 0, []⟩

/-- A set that lowers vmax, with its slot c. -/
def set0 (c : Option Nat) : Crozier := ⟨[(Off.PWR_THROTTLE, some 600)], false, 0, 2, 1, c⟩

/-- The host holds the claim and the set is frozen. -/
def frozen (c : Option Nat) : State := { setF (claimed 1) F.CTL_CROZIER_state 1 with ctl := { CtlState.init with frozen := some (set0 c) } }

/-- A tile on array 5 with one BF16 operand pair of reduction length 64. -/
def tile0 : TileProgram :=
  { array := 5, k := 64, bank := 0, clear := true, rowMask := 0xFFFFFFFF, cols := 128, a := ⟨[1], 0, 0, .bf16, .bf16, .direct⟩,
    b := ⟨[2], 0, 0, .bf16, .bf16, .direct⟩, drain := none }

/-- A vector program of core 0 that adds two registers. -/
def vec0 : VectorProgram := ⟨0, [.add false 0 1 2], [], []⟩

/-- A plan with two anchors and one launch of each of the kinds tile, vector and move. -/
def plan1 : Plan :=
  { plan0 with anchors := [⟨0, [], 0⟩, ⟨10, [⟨7, .waitGe, 0, 0, 5⟩], 20⟩],
               launches := [{ launch0 .tile 5 0 with pass := 0xFFFF }, { launch0 .vector 0 0 with pass := 0xFFFF, signals := [⟨9, .signal, 0, 0, 2⟩] },
                 { launch0 .move 256 0 with pass := 0xFFFF, waits := [⟨7, .waitGe, 0, 30, 5⟩] }],
               tiles := [tile0], vectors := [vec0], moves := [⟨1, 1, false, 0x200000⟩] }

/-- Plan 1 running, with anchor 0 set at slot 990 and the next anchor planned from there. -/
def running1 : State :=
  let s := withPlan plan1 3
  { s with lch := { LchState.init with anchors := [(0, 991)], next := 1, base := 990 } }

/-- A ready module with a frond table of 64 entries. -/
def withTable (s : State) : State :=
  setF (setF (setF s F.MEM_FT_BASE_base 0x10000) F.MEM_FT_MIRROR_base 0x20000) F.MEM_FT_SIZE_ft_size 6

/-- An entry of the table. -/
def entry0 (home : Nat) (f : Fmt) (cls : Nat) : FtEntry := ⟨home, true, false, false, f, cls, 0, 0⟩

/-- A unit with a launch in its waiting place, and one with a launch that it runs. -/
def waits (s : State) (u k : Nat) : State := { s with lch := { s.lch with units := [(u, ⟨some k, 0, none, 0⟩)] } }
def runs (s : State) (u k : Nat) : State := { s with lch := { s.lch with units := [(u, ⟨none, 0, some k, 0⟩)] } }

/-- A frond of zeros with its header and check. -/
def putFrond (s : State) (id home : Nat) (f : Fmt) (cls : Nat) : State :=
  writeHeader (ftSet s id (entry0 home f cls)) home ⟨id, f, cls, false, 0, 0, 0, 0, 0⟩

/-- The table of a running module, a move engine that moves frond 1, or makes a view of it. -/
def moving (view : Bool) : State :=
  runs (withTable (withPlan { plan1 with moves := [⟨1, 1, view, 0x200000⟩] } 3)) 768 2

/-- Array 5 as described, with bank 0 as given, while plan 1 runs with the issue cap up. -/
def array5 (r : ArrayRun) (b : Bank) : State :=
  { setF (withTable running1) F.PWR_GOV_cap 65536 with arr := { ArrState.init with arrays := [(5, r)], banks := [(20, b)] } }

/-- Array 5 feeds launch 0. -/
def feeds (n : Nat) : ArrayRun := { ArrayRun.idle with feeding := some 0, step := n, level := 65536 }

/-- A drain into frond 3 in FP32 that clears its bank. -/
def drain0 : DrainProgram :=
  ⟨true, none, none, none, none, none, none, none, ⟨0x300000, .fp32, false, 11, 3, 0, 7, 0, 0, 0, 0, 128, false, none⟩, none⟩

/-- Array 5 waits for the drain of launch 0. -/
def draining : State :=
  { array5 { ArrayRun.idle with drains := [0] } Bank.clear with plan := some { plan1 with tiles := [{ tile0 with drain := some drain0 }] } }

/-- A request descriptor of queue 1 with its row, its checks right. -/
def withRequest : State :=
  let row := List.replicate 64 1#8
  let d := wordBytes [77, 0x7300000 / 256, 4, 64 + 2 ^ 32 * (crc32c row).toNat, 0, 0, 0]
  let s := setF (withPlan { plan1 with queues := [queue0] } 3) (F.HST_REQ_HEAD_tail 1) 1
  wr (wr s 0x7000000 (d ++ wordBytes [(crc32c d).toNat])) 0x7300000 row

/-- A shard of one parameter frond in position 0, without moments or residual, with its parts in fronds 8 and on. -/
def shard0 : Shard :=
  { id := 1, paramFirst := 8, paramCount := 1, stack := 0, program := 0, flashHomed := false, skipZero := false, moments := 0, bf16Moment := false,
    residual := false, m1First := 12, m2First := 16, gradFirst := 20, resFirst := 24, gradTid := 0, resTid := 0, m1Tid := 0, m2Tid := 0,
    elemBase := 0, position := 0, home := 0 }

/-- A plan with one sweep of stack 0, a layout of s positions and p groups with shard 0, and a ledger for frond 20 and on. -/
def plan2 (s p : Nat) : Plan :=
  { plan0 with layouts := [⟨s, p, [shard0], []⟩], launches := [{ launch0 .sweep 272 0 with pass := 0xFFFF }], updates := [⟨[], []⟩],
               stackDescs := [⟨0x10000000, 0, 0, 0, 0, 0x8000000, 4, 0x500000, 20, 8⟩] }

/-- Plan 2 running with its frond table; frond 20 has its gradient, frond 8 its master weight. -/
def job (s p : Nat) : State :=
  ftSet (ftSet (withTable (withPlan (plan2 s p) 3)) 20 (entry0 0x100000 .g8 3)) 8 (entry0 0x180000 .fp32 1)

/-- A job of n modules in a row of groups, the module at address 0 with every port up. -/
def chained (n : Nat) : State :=
  let s := job 1 n
  let s := setF (setF (setF (setF s (F.CHN_PORT_state 0) 2) (F.CHN_PORT_state 1) 2) (F.CHN_PORT_state 2) 2) (F.CHN_PORT_state 3) 2
  { setF s F.CHN_ADDR_length n with chn := { ChnState.init with closed := true, roles := (List.range n).map fun a => (a, 4096 + a) } }

/-- A sealed incoming frond for frond 20. -/
def add0 : AddJob :=
  ⟨0x600000, ⟨20, 3, 0⟩, [], ⟨0x600000, .g8, true, 0, 20, 0, 3, 0, 0, 0, 0, 256, false, none⟩, 0⟩

/-- The job of one module, its norm message of step 0 sent. -/
def decides : State :=
  let s := job 1 1
  { s with trn := { s.trn with normSent := true, haveParts := [1], norms := [⟨0, 0, 0, false, false, false, 0, false⟩], counts := [(0, 0, 4)] },
           chn := { s.chn with roles := [(0, 4096)] } }

/-- A sweep of stack 0 that runs, after step 0 was decided. -/
def sweeping (outcome : Nat) : State :=
  let s := runs (job 1 1) 784 0
  setF { s with trn := { s.trn with cur := if outcome = 0 then 0 else 1 } } F.UPD_LAST_OUTCOME_outcome outcome

/-- A gather step of descriptor 0 and a permute, each with its run. -/
def coll0 : CollDesc := ⟨.gather, 0, false, 4, 30, 0, 0, 0x900000, 0xA00000, none, none, 0, 0⟩
def run0 : CollRun := ⟨0, 0, 0, 0, false, true, [], [], [], [], [], [], false⟩
def perm0 (lay : Nat) (go : Option Bool) : PermRun := ⟨0, 5, lay, [(0, 4096), (1, 4097)], go, [], []⟩

/-- The chain of n modules with a collective step under way. -/
def gathers (n : Nat) : State :=
  let s := chained n
  { s with plan := some { plan2 1 n with colls := [coll0] }, chn := { s.chn with colls := [run0] } }

/-- A loss of module 2 that module 1 stands in for. -/
def loss0 : LossRun := ⟨2, 500, 1, [], none, true⟩
def lost0 (n : Nat) (l : LossRun) : State := let s := setF (chained 3) F.LCH_SLOT_slot n; { s with chn := { s.chn with loss := some l } }

/-- An image batch and a text batch of one sample each. -/
def batch0 (text : Bool) : IntakeBatch := ⟨0, text, .bf16, 1, true, 0, 1, 16, 16, 1, 64, 100, 0xB00000, 0xB80000, 0⟩

/-- A plan with one intake launch. -/
def plan4 (text : Bool) : Plan :=
  { plan0 with launches := [{ launch0 .intake 288 0 with pass := 0xFFFF }], intakes := [batch0 text] }

/-- The intake launch of plan 4 running. -/
def taking (text : Bool) : State := runs (withTable (withPlan (plan4 text) 3)) 804 0

/-- A descriptor of an image of 16 by 16 pixels in raw form, in the payload area, its check right. -/
def desc0 : List Byte :=
  let d := wordBytes [5, 0, 2 ^ 54, 0x5000000 / 256, 1536 + 2 ^ 32 * 16 + 2 ^ 48 * 16, 0, 0, 0, 0, 0, 0, 0, 0, 0,
    (crc32c (List.replicate 1536 0)).toNat]
  d ++ wordBytes [(crc32c d).toNat]

/-- A sample ring with a descriptor in its first place. -/
def submits (d : List Byte) : State :=
  let s := setF (setF (setF (withPlan (plan4 false) 3) F.INT_SUB_BASE_base 0x4000) F.INT_SUB_SIZE_size 4) F.INT_SUB_TAIL_tail 1
  wr s 0x4000000 d

/-- A one-time store in the first owner life, with an identity. -/
def owned : State := { ready with fuse := { OneTime.blank with t := 2, tCopy := 2, seed := List.replicate 96 7 } }

/-- A ready module with commands that wait. -/
def withQueue (cs : List Instr) : State := { ready with pending := cs }

/-! ### Well-formed commands: for each check of WellFormed.lean an operand just outside its range is refused, the last one inside is not -/

theorem test_wf_refuses_units :
    ([.launchBegin 808, .launchComplete 808, .arrayStep 512 none, .drain 512 none, .intermediateCheck 512, .tileRestart 512, .drainFault 512,
      .vectorEngineFault 256, .moveFrond 16, .viewCopy 16, .updateGroup 16, .sweepTimeout 16, .updateEngineFault 16, .groupRepair 16,
      .batchLaunch 256, .requestDescriptor 256, .rowAccepted 256, .onfiChannelFail 32, .irqCoalesceExpiry 16,
      .drain 0 (some ⟨32, 0, 0⟩), .drain 0 (some ⟨0, 128, 0⟩), .arrayStep 0 (some ⟨0, 0, 32⟩)] : List Instr).all (fun c => !c.wf) = true := by
  decide +kernel

theorem test_wf_accepts_units :
    ([.launchBegin 807, .arrayStep 511 (some ⟨31, 127, 31⟩), .drainFault 511, .vectorEngineFault 255, .moveFrond 15, .batchLaunch 255,
      .onfiChannelFail 31, .irqCoalesceExpiry 15] : List Instr).all Instr.wf = true := by decide +kernel

theorem test_wf_refuses_chain :
    ([.idleFlit 4, .portDown 4, .portTraining 4 false, .linkRetrain 4 false, .skipProbeTimeout 4, .linkImpedanceCalibration 4,
      .flitReceive 4 false 0 0 0, .flitReceive 0 false 16 0 0, .flitReceive 0 false 0 65536 0, .replayRequest 0 65536, .skipProbe 0 64,
      .errorNotice 16 0, .errorNotice 0 64, .rejoinCheck 64, .healNotice 64 0 false, .ackSend 64, .messageResend 64,
      .messageDeliver ⟨256, 0, 0, 0, 0, true, []⟩, .messageForward ⟨0, 64, 0, 0, 0, true, []⟩, .syncMsg 0 8192 0,
      .normMsg 64 0 0 false false false 0, .digestMsg 0 0 0 [1], .partnerRequest 0 (2 ^ 32) 0 0, .feedAnnounce 0 8, .credit 64 0 0 0,
      .lossReport 0 64 0 0 []] : List Instr).all (fun c => !c.wf) = true := by decide +kernel

theorem test_wf_refuses_host :
    ([.load (2 ^ 48), .commandReserved 16 0, .release 65536 0, .requestTail 256 0, .bar2InvalidWrite (2 ^ 41) 8, .registerWrite (2 ^ 26) 8 0,
      .stWrite 0 65 0, .apertureAccess .a 0 2 (some [1]), .numRingTail (2 ^ 32), .lchSyncSignal 8192 0, .commitRequest false (2 ^ 56),
      .cfgProgram (2 ^ 25), .safResume (2 ^ 14), .safBistCmd 8 0, .attest (2 ^ 48), .secCommandReserved 1 0, .write (2 ^ 26) 0, .read 0 256] :
      List Instr).all (fun c => !c.wf) = true := by decide +kernel

theorem test_wf_refuses_supply_and_sensors :
    ([.perstNDeassert ⟨.low, [], []⟩, .bringupPhaseEnd 8 ⟨0, 0, 0, true, true, true⟩, .bringupPhaseEnd 1 ⟨8, 0, 0, true, true, true⟩,
      .deviceReady 65536 0 0, .meterBlock 65536 0 0 0, .inputRange 65536, .entdaa 128, .junctionTrip 98, .dieSilent 98,
      .packageLinkError 98, .sensorCalibration 98, .sensorRead 98 0 0, .heartbeat 95, .syncObjectFailed 8192, .maintenanceStart 9 0 0,
      .bistSliceEnd 0, .refDeviationWindow 32768, .meshMeasure 65536 0 false, .pldm 64 0, .mctpOtherDrop 0,
      .failedRead (.frond 0) .stackEcc 128 0 0 false] : List Instr).all (fun c => !c.wf) = true := by decide +kernel

/-! ### No word spells a command -/

theorem test_decode_none : decodeTableWord 8 0x2A = none ∧ State.reset.withFetchWord 8 0x2A = State.reset := ⟨rfl, rfl⟩

/-! ### The worked examples of the spec -/

/-- 00_scope.md, worked example of R5: array 37.1.0.0 is a quiet array, its neighbour 37.1.0.1 is not. -/
theorem test_quiet_array_37_1_0_0 : isQuiet (8 * 37 + 4) = true ∧ isQuiet (8 * 37 + 5) = false := by decide

/-- R161: cluster store 37.1 begins at 0x0400_E200_0000. -/
theorem test_cluster_store_37_1 : clusterStore (2 * 37 + 1) = 0x0400E2000000 := by decide

/-- 00_scope.md, worked example of R13: LCH offset 0x0_0040 has BAR0 offset 0x050_0040. -/
theorem test_register_blocks : Off.NUM_SELECT = 0x0600008 ∧ Off.UPD_DIGEST = 0x0800038 := by decide

/-- 13_startup_and_configuration.md, worked example: 0x0000_0000_03E8_4002 in NUM_SELECT is rec_mode 2, format_mask bit 6 and
step_interval 1,000. -/
theorem test_num_select_fields :
    let s := setReg ready Off.NUM_SELECT 0x3E84002
    getF s F.NUM_SELECT_rec_mode = 2 ∧ getF s F.NUM_SELECT_format_mask = 2 ^ 6 ∧ getF s F.NUM_SELECT_step_interval = 1000 := by decide +kernel

/-- Units of 2^-300 nearest below a number of hundredths. -/
def hundredths (n : Int) : Machine.Num := .fin (n * 2 ^ 300 / 100)

/-- The block of Table 2.6, its other elements 0.1. -/
def block26 : List Machine.Num :=
  (List.range 32).map fun i => hundredths (if i = 0 then 75 else if i = 1 then -30 else if i = 2 then 5 else if i = 3 then 2 else if i = 9 then 4000 else 10)

/-- Table 2.6, B4: scale byte 0x82, element 9 code 0b0110, every other element 0. -/
theorem test_table_2_6_b4 : convBlock .b4 (fun _ => .nearest) block26 = ⟨(List.replicate 32 0).set 9 6, 0x82, 0⟩ := by decide +kernel

/-- Table 2.6, B4X: scale byte 0x7C, exception word 0x097A, elements 0 to 3 with codes 0b0111, 0b1100, 0b0001 and 0. -/
theorem test_table_2_6_b4x :
    let b := convBlock .b4x (fun _ => .nearest) block26
    b.scale = 0x7C ∧ b.exc = 0x097A ∧ b.elems.take 4 = [7, 12, 1, 0] := by decide +kernel

/-- 02_number_formats.md, worked example of R53: 0x3F80_C000 to BF16 with the draws 0x2A31 and 0x9E07. -/
theorem test_bf16_stochastic :
    (convPlain .bf16 (.stochastic 0x2A31) (ofF32 0x3F80C000)).1 = 0x3F80 ∧ (convPlain .bf16 (.stochastic 0x9E07) (ofF32 0x3F80C000)).1 = 0x3F81 := by
  decide +kernel

/-! ### One step -/

/-- Whether a command answers a next state that satisfies a test. -/
def answers (c : Instr) (s : State) (p : State → Bool) : Bool := match exec c s with | .next t => p t | _ => false

/-- The step after a queue of two commands leaves the second one (log entry 12). -/
theorem test_step_takes_the_front :
    (match step (withQueue [.secCommandOverrun, .slotBoundary]) with | .next t => t.pending == [.slotBoundary] | _ => false) = true := by
  decide +kernel

/-- R337: phase 3 cannot end before phase 2. -/
theorem test_phase_order : phaseDue State.reset 1 = true ∧ phaseDue State.reset 3 = false := by decide +kernel

/-- R132: the slot counter of a module that is ready advances by one. -/
theorem test_slot_advances : answers .slotBoundary ready (fun t => getF t F.LCH_SLOT_slot == getF ready F.LCH_SLOT_slot + 1) = true := by
  decide +kernel

/-- R348: the host takes the claim, and the rack controller takes it over. -/
theorem test_claims :
    answers .hostClaim ready (fun t => getF t F.CTL_CLAIM_owner == 1) = true ∧
      answers .claim (claimed 1) (fun t => getF t F.CTL_CLAIM_owner == 2) = true := by decide +kernel

/-- Table 15.1: a rail trip turns the module off. -/
theorem test_trip_is_off : answers .railTrip ready (fun t => t.pwr.mode == .off) = true := by decide +kernel

/-- R149: a signal of the host to an object without its host flag is refused and not kept. -/
theorem test_host_signal_refused :
    answers (.lchSyncSignal 5 7) ready (fun t => t.lch.signals == [] && hasF t F.LCH_STATUS_host_signal_refused) = true := by decide +kernel

/-! ### Fronds whose check is right

A check over 64 KiB is too long to evaluate; that it passes is the law of Laws/Frond.lean. -/

/-- The state before the check of the frond of `putFrond` is written. -/
def unchecked (s : State) (id home : Nat) (f : Fmt) (cls : Nat) : State :=
  wr (ftSet s id (entry0 home f cls)) (home + payloadLen) (⟨id, f, cls, false, 0, 0, 0, 0, 0⟩ : Header).bytes

theorem moved_entry (view : Bool) (f : Fmt) (hf : f = .bf16 ∨ f = .b8) :
    ftGet (putFrond (moving view) 1 0x100000 f 0) 1 = entry0 0x100000 f 0 := by
  show ftGet (writeCheck (unchecked (moving view) 1 0x100000 f 0) f 0x100000) 1 = _
  rw [ftGet_writeCheck _ _ _ _ (by cases view <;> rcases hf with rfl | rfl <;> decide +kernel)]
  cases view <;> rcases hf with rfl | rfl <;> decide +kernel

theorem moved_check (view : Bool) (f : Fmt) : checkOk (putFrond (moving view) 1 0x100000 f 0) f 0x100000 = true :=
  checkOk_writeCheck (unchecked (moving view) 1 0x100000 f 0) f 0x100000 (by decide)

/-- The first frond of the move of `moving` is frond 1. -/
theorem moved_at (view : Bool) (f : Fmt) (hf : f = .bf16 ∨ f = .b8) :
    ftGet (putFrond (moving view) 1 0x100000 f 0) ((⟨1, 1, view, 0x200000⟩ : MoveDesc).first +
      (unitOf (putFrond (moving view) 1 0x100000 f 0) (768 + 0)).progress) = entry0 0x100000 f 0 := by
  have h : (⟨1, 1, view, 0x200000⟩ : MoveDesc).first + (unitOf (putFrond (moving view) 1 0x100000 f 0) (768 + 0)).progress = 1 := by
    cases view <;> rcases hf with rfl | rfl <;> decide +kernel
  rw [h, moved_entry view f hf]

/-- The header of frond 8, of step 7. -/
def hdr8 : Header := ⟨8, .fp32, 1, false, 7, 0, 0, 0, 0⟩

/-- A sweep over frond 8, its header and check written, and the state before its check. -/
def swept : State := writeHeader (sweeping 1) 0x180000 hdr8
def swept0 : State := wr (sweeping 1) (0x180000 + payloadLen) hdr8.bytes

theorem swept_entry (id : Nat) (h : id < 64) : ftGet swept id = ftGet swept0 id :=
  ftGet_writeCheck swept0 .fp32 0x180000 id (by
    have e : ftPrimary swept0 id = 0x1000000 + 16 * id := congrArg (· + 16 * id) (by decide +kernel : 256 * getF swept0 F.MEM_FT_BASE_base = 0x1000000)
    rw [e]; unfold payloadLen; omega)

theorem swept_8 : ftGet swept 8 = entry0 0x180000 .fp32 1 := (swept_entry 8 (by decide)).trans (by decide +kernel)
theorem swept_20 : ftGet swept 20 = entry0 0x100000 .g8 3 := (swept_entry 20 (by decide)).trans (by decide +kernel)
theorem swept_0 : ftGet swept 0 = FtEntry.ofBytes (List.replicate 16 0) := (swept_entry 0 (by decide)).trans (by decide +kernel)
theorem swept_check : checkOk swept .fp32 0x180000 = true := checkOk_writeCheck swept0 .fp32 0x180000 (by decide)
theorem swept_step : (headerAt swept 0x180000).step = 7 := (step_writeCheck swept0 .fp32 0x180000 (by decide)).trans (by decide +kernel)
theorem swept_head : (headerAt swept 0x100000).frondId = 0 :=
  (congrArg Header.frondId (headerAt_writeCheck swept0 .fp32 0x180000 0x100000 (by decide))).trans (by decide +kernel)

/-- The group of frond 8 that is repaired, and the state before its check. -/
def repaired0 : State :=
  let s := setF (sweeping 1) F.SAF_HOLD_pending 2
  { s with trn := { s.trn with repair := [0] } }
def repaired : State := writeCheck repaired0 .fp32 0x180000

theorem repaired_8 : ftGet repaired 8 = entry0 0x180000 .fp32 1 :=
  (ftGet_writeCheck repaired0 .fp32 0x180000 8 (by decide +kernel)).trans (by decide +kernel)
theorem repaired_home : homeOf repaired 8 = 0x180000 := homeOf_of_ftGet repaired_8
theorem repaired_check : checkOk repaired .fp32 0x180000 = true := checkOk_writeCheck repaired0 .fp32 0x180000 (by decide)
theorem repaired_step : (headerAt repaired 0x180000).step = 0 := (step_writeCheck repaired0 .fp32 0x180000 (by decide)).trans (by decide +kernel)

/-- A module that holds frond 20 whole. -/
def serves : State := writeCheck (chained 3) .g8 0x100000

theorem serves_20 : ftGet serves 20 = entry0 0x100000 .g8 3 :=
  (ftGet_writeCheck (chained 3) .g8 0x100000 20 (by decide +kernel)).trans (by decide +kernel)
theorem serves_check : checkOk serves .g8 0x100000 = true := checkOk_writeCheck (chained 3) .g8 0x100000 (by decide)

/-- The image of frond 20 in a reply. -/
def image20 : List Byte := frondImage serves .g8 0x100000

theorem image20_header : Header.ofBytes ((image20.drop payloadLen).take 64) = headerAt serves 0x100000 :=
  header_frondImage serves .g8 0x100000 (by decide)

theorem image20_length : image20.length = Fmt.g8.imageLen := by unfold image20 frondImage; exact length_rd _ _ _

theorem image20_check : frondCheck image20 = (headerAt serves 0x100000).check := frondCheck_of_checkOk serves_check

/-- The chain of `permutes` before the check of its frond 8 is written. -/
def permutes0 : State :=
  let s := chained 2
  let old : Layout := ⟨2, 1, [shard0], []⟩
  let new : Layout := ⟨2, 1, [{ shard0 with position := 1, paramFirst := 8 }], []⟩
  let s := { s with plan := some { plan2 2 1 with layouts := [old, new] } }
  { s with chn := { s.chn with roles := [(0, 4096), (1, 4160)], perm := some { perm0 1 (some true) with roles := [(0, 4096), (1, 4160)] },
                               colls := [{ run0 with credit := [(1, 4)] }] } }
def permutes : State := writeCheck permutes0 .fp32 0x180000

theorem permutes_8 : ftGet permutes 8 = entry0 0x180000 .fp32 1 :=
  (ftGet_writeCheck permutes0 .fp32 0x180000 8 (by decide +kernel)).trans (by decide +kernel)
theorem permutes_check : checkOk permutes .fp32 0x180000 = true := checkOk_writeCheck permutes0 .fp32 0x180000 (by decide)

/-! ### What meets the hypotheses of the statements -/

/-- The clauses of Obligations.SupplyAndResetPinsMoveTheModule with hypotheses: 1, 2, 3, 4, 5, 6. -/
theorem meets_SupplyAndResetPinsMoveTheModule :
    (∃ (s : State) (lowMs : Nat), s.pwr.pwrEn = false ∧ (s.pwr.tripped = false ∨ 1000 ≤ lowMs)) ∧
    (∃ (s : State) (a : Bool) (b : Bool) (lowMs : Nat), s.pwr.pwrEn = false ∧ (s.pwr.tripped = false ∨ 1000 ≤ lowMs) ∧ (a && b) = false) ∧
    (∃ (c : Instr), (c = .pwrEnFall ∨ c = .inputPowerLoss)) ∧
    (∃ (s : State), Up s) ∧
    (∃ (s : State), ¬Up s) ∧
    (∃ (s : State), s.pwr.mode = .inReset) :=
  ⟨⟨{ State.reset with pwr := { PwrState.init with mode := .unpowered, pwrEn := false } }, 0, by decide +kernel, by decide +kernel⟩,
    ⟨{ State.reset with pwr := { PwrState.init with mode := .off, pwrEn := false, tripped := true } }, true, false, 1000, by decide +kernel,
      by decide +kernel, by decide +kernel⟩,
    ⟨.pwrEnFall, by decide +kernel⟩,
    ⟨withPlan plan0 3, rfl⟩,
    ⟨{ State.reset with pwr := { PwrState.init with mode := .inReset } }, by unfold Up; decide +kernel⟩,
    ⟨{ State.reset with pwr := { PwrState.init with mode := .inReset, trip := 5 } }, by decide +kernel⟩⟩

/-- The clauses of Obligations.SupplyIsMeteredAndLimited with hypotheses: 1, 2, 3, 4. -/
theorem meets_SupplyIsMeteredAndLimited :
    (∃ (s : State), Up s) ∧
    (∃ (s : State), (s.pwr.mode = .unpowered ∨ s.pwr.mode = .off)) ∧
    (∃ (s : State) (vin : Nat), Up s ∧ (vin < 5500 ∨ 6500 < vin)) ∧
    (∃ (s : State), Up s ∧ 10000 ≤ s.pwr.floorRun ∧ s.pwr.avgBroken = true) :=
  ⟨⟨ready, rfl⟩,
    ⟨{ State.reset with pwr := { PwrState.init with mode := .off } }, by decide +kernel⟩,
    ⟨withPlan plan0 3, 5000, rfl, by decide +kernel⟩,
    ⟨{ withPlan plan0 3 with pwr := { up0.pwr with floorRun := 10000, avgBroken := true } }, rfl, by decide +kernel, by decide +kernel⟩⟩

/-- The clauses of Obligations.GovernorStepsTheSetpoint with hypotheses: 1, 2, 3, 4. -/
theorem meets_GovernorStepsTheSetpoint :
    (∃ (s : State), Up s ∧ hasF s F.HST_STATUS_device_ready = true ∧ s.pwr.stepAt + 4883 ≤ slot s ∧ getF s F.PWR_GOV_depth = 0 ∧
      getF s F.PWR_GOV_setpoint_mv + 5 ≤ voltageLimit s) ∧
    (∃ (s : State), Up s ∧ hasF s F.HST_STATUS_device_ready = true ∧ s.pwr.stepAt + 4883 ≤ slot s ∧ 555 ≤ getF s F.PWR_GOV_setpoint_mv) ∧
    (∃ (s : State), Up s ∧ getF s F.PWR_GOV_setpoint_mv = 550 ∧ capReached s = true ∧ getF s F.PWR_GOV_depth < 63) ∧
    (∃ (s : State), Up s ∧ getF s F.PWR_GOV_setpoint_mv = 550 ∧ capReached s = true ∧ 0 < getF s F.PWR_GOV_depth) :=
  ⟨⟨setF (atSlot 5000) F.PWR_GOV_setpoint_mv 600, rfl, by decide +kernel, by decide +kernel, by decide +kernel, by decide +kernel⟩,
    ⟨setF (atSlot 5000) F.PWR_GOV_setpoint_mv 600, rfl, by decide +kernel, by decide +kernel, by decide +kernel⟩,
    ⟨setF (setF (atSlot 5000) F.PWR_GOV_setpoint_mv 550) F.PWR_GOV_cap 65536, rfl, by decide +kernel, by decide +kernel, by decide +kernel⟩,
    ⟨setF (setF (setF (atSlot 5000) F.PWR_GOV_setpoint_mv 550) F.PWR_GOV_cap 64512) F.PWR_GOV_depth 1, rfl, by decide +kernel, by decide +kernel,
      by decide +kernel⟩⟩

/-- The clauses of Obligations.EnergyRecordsCloseSignAndStore with hypotheses: 1, 2, 3. -/
theorem meets_EnergyRecordsCloseSignAndStore :
    (∃ (s : State), Up s ∧ hasF s F.HST_STATUS_device_ready = true ∧ getF s F.PWR_MINUTE_SLOT_slot + 234375000 ≤ slot s) ∧
    (∃ (s : State) (i : Nat) (rest : List Nat), Up s ∧ s.pwr.sigWait = i :: rest ∧ seedPresent s.fuse = true ∧ lifecycle s ≠ 5 ∧ ⟨8, 0,
      0⟩ ∉ s.maint.running) ∧
    (∃ (s : State), Up s ∧ s.pwr.unstored.length ≤ 2048) :=
  ⟨⟨atSlot 234375000, rfl, by decide +kernel, by decide +kernel⟩,
    ⟨{ ready with fuse := { OneTime.blank with seed := List.replicate 96 7, t := 1, tCopy := 1 }, pwr := { up0.pwr with sigWait := [9, 19] } }, 9,
      [19], rfl, by decide +kernel, by decide +kernel, by decide +kernel, by decide +kernel⟩,
    ⟨{ ready with pwr := { up0.pwr with unstored := [0, 1] } }, rfl, by decide +kernel⟩⟩

/-- The clauses of Obligations.BringupRunsToReadyOrHeld with hypotheses: 1, 2, 3, 4, 5, 6, 7. -/
theorem meets_BringupRunsToReadyOrHeld :
    (∃ (s : State) (n : Nat), Up s ∧ phaseDue s n = false) ∧
    (∃ (s : State) (n : Nat), Up s ∧ phaseDue s n = true) ∧
    (∃ (s : State) (r : PhaseReport), Up s ∧ phaseDue s 6 = true ∧ r.failCode ≠ 5) ∧
    (∃ (s : State), Up s ∧ phaseDue s 3 = true ∧ hasF s F.LCH_REF_STATUS_refclk_absent = false) ∧
    (∃ (s : State), Up s ∧ phaseDue s 2 = true) ∧
    (∃ (s : State), Up s ∧ hasF s F.CTL_STATUS_device_ready = false ∧ hasF s F.CTL_STATUS_bringup_fail = false ∧ s.pwr.pairBad = false) ∧
    (∃ (s : State), Up s ∧ (∀ n, n ∈ [1, 2, 3, 4, 5, 6, 7] → phaseEnded s n = true) ∧ hasF s F.CTL_STATUS_bringup_fail = false ∧
      s.pwr.pairBad = false ∧ hasF s F.CTL_STATUS_device_ready = false) :=
  ⟨⟨State.reset, 3, rfl, by decide +kernel⟩,
    ⟨State.reset, 1, rfl, by decide +kernel⟩,
    ⟨{ State.reset with mem := [(5, 7)], pwr := { PwrState.init with phases := [1, 2] } }, ⟨0, 0, 0, true, true, true⟩, rfl, by decide +kernel,
      by decide +kernel⟩,
    ⟨{ State.reset with pwr := { PwrState.init with phases := [1, 2] } }, rfl, by decide +kernel, by decide +kernel⟩,
    ⟨{ State.reset with pwr := { PwrState.init with phases := [1] } }, rfl, by decide +kernel⟩,
    ⟨{ State.reset with pwr := { PwrState.init with phases := [1, 2] } }, rfl, by decide +kernel, by decide +kernel, by decide +kernel⟩,
    ⟨up0, rfl, by decide +kernel, by decide +kernel, by decide +kernel, by decide +kernel⟩⟩

/-- The clauses of Obligations.ConfigurationCopiesAreProgrammed with hypotheses: 1, 2, 3. -/
theorem meets_ConfigurationCopiesAreProgrammed :
    (∃ (s : State) (n : Nat), HostUp s ∧ n ≤ 16777216 ∧ s.ctl.prog = none ∧ lifecycle s ≠ 5 ∧
      getF s F.CTL_STATUS_config_source ≠ (if hasF s F.CTL_CFG_PROG_copy then 2 else 1) ∧ inStackTier (4096 * getF s F.CTL_CFG_PROG_addr) n = true) ∧
    (∃ (s : State) (j : CfgJob), Up s ∧ s.ctl.prog = some j) ∧
    (∃ (s : State) (j : CfgJob), Up s ∧ s.ctl.prog = some j) :=
  ⟨⟨ready, 64, ⟨rfl, by decide +kernel⟩, by decide +kernel, by decide +kernel, by decide +kernel, by decide +kernel, by decide +kernel⟩,
    ⟨{ ready with ctl := { ready.ctl with prog := some ⟨true, [1, 2]⟩ } }, ⟨true, [1, 2]⟩, rfl, by decide +kernel⟩,
    ⟨{ ready with ctl := { ready.ctl with prog := some ⟨true, [1, 2]⟩ } }, ⟨true, [1, 2]⟩, rfl, by decide +kernel⟩⟩

/-- The clauses of Obligations.PlansAreLoadedAndRemoved with hypotheses: 1, 2, 3. -/
theorem meets_PlansAreLoadedAndRemoved :
    (∃ (s : State), HostUp s ∧ s.host.cmd = none ∧ planState s = .empty) ∧
    (∃ (s : State), HostUp s ∧ s.host.cmd = none ∧ planState s ∈ [.loaded, .stopped, .held, .ended] ∧ stepsInFlight s = false) ∧
    (∃ (s : State), HostUp s ∧ s.host.cmd = none ∧ planState s ∈ [.loaded, .stopped, .held, .ended] ∧ stepsInFlight s = true) :=
  ⟨⟨setF (setF up0 F.CTL_STATUS_config_source 1) F.CHN_STATUS_addressed 1, ⟨rfl, by decide +kernel⟩, by decide +kernel, by decide +kernel⟩,
    ⟨setF (withPlan plan0 5) F.SAF_HOLD_pending 0x60, ⟨rfl, by decide +kernel⟩, by decide +kernel, by decide +kernel, by decide +kernel⟩,
    ⟨{ withPlan plan0 4 with lch := { LchState.init with units := [(801, ⟨none, 0, some 5, 0⟩)] } }, ⟨rfl, by decide +kernel⟩, by decide +kernel,
      by decide +kernel, by decide +kernel⟩⟩

/-- The clauses of Obligations.CommandsMoveThePlanOrAreRefused with hypotheses: 1, 2, 3, 4, 5, 6. -/
theorem meets_CommandsMoveThePlanOrAreRefused :
    (∃ (s : State), HostUp s ∧ s.host.cmd = none ∧ planState s = .loaded) ∧
    (∃ (s : State), HostUp s ∧ s.host.cmd = none ∧ planState s = .running) ∧
    (∃ (s : State), HostUp s ∧ s.host.cmd = none ∧ planState s = .stopped) ∧
    (∃ (s : State) (code : Nat), HostUp s ∧ s.host.cmd = none ∧ (code % 16 = 0 ∨ 5 < code % 16)) ∧
    (∃ (s : State), HostUp s) ∧
    (∃ (s : State), HostUp s ∧ s.host.cmd = none ∧ planState s ≠ .loaded) :=
  ⟨⟨withPlan plan0 2, ⟨rfl, by decide +kernel⟩, by decide +kernel, by decide +kernel⟩,
    ⟨withPlan plan0 3, ⟨rfl, by decide +kernel⟩, by decide +kernel, by decide +kernel⟩,
    ⟨setF (withPlan plan0 4) F.HST_STATUS_stop_in_force 1, ⟨rfl, by decide +kernel⟩, by decide +kernel, by decide +kernel⟩,
    ⟨ready, 6, ⟨rfl, by decide +kernel⟩, by decide +kernel, by decide +kernel⟩,
    ⟨ready, ⟨rfl, by decide +kernel⟩⟩,
    ⟨ready, ⟨rfl, by decide +kernel⟩, by decide +kernel, by decide +kernel⟩⟩

/-- The clauses of Obligations.ResultSlotsAndRequestTails with hypotheses: 1, 2, 3, 4, 5. -/
theorem meets_ResultSlotsAndRequestTails :
    (∃ (s : State) (k : Nat) (seq : Nat), HostUp s ∧ k < 2048 ∧ slotReady s k = true ∧ leNat (rd s (resultAddr k) 6) = seq ∧ s.host.reports = []) ∧
    (∃ (s : State) (k : Nat) (seq : Nat), HostUp s ∧ (2048 ≤ k ∨ slotReady s k = false ∨ leNat (rd s (resultAddr k) 6) ≠ seq)) ∧
    (∃ (s : State) (q : Nat) (t0 : Nat) (b : BatchQueue), HostUp s ∧ q < 256 ∧ queueDesc s q = some b ∧
      (t0 % 2 ^ 32 + 2 ^ 32 - getF s (F.HST_REQ_HEAD_head q)) % 2 ^ 32 ≤ 2 ^ b.ringSize ∧
      (getF s (F.HST_REQ_HEAD_tail q) + 2 ^ 32 - getF s (F.HST_REQ_HEAD_head q)) % 2 ^ 32 ≤ (t0 % 2 ^ 32 + 2 ^ 32 - getF s (F.HST_REQ_HEAD_head q)) % 2 ^ 32) ∧
    (∃ (s : State) (q : Nat) (t0 : Nat) (b : BatchQueue), HostUp s ∧ queueDesc s q = some b ∧
      2 ^ b.ringSize < (t0 % 2 ^ 32 + 2 ^ 32 - getF s (F.HST_REQ_HEAD_head q)) % 2 ^ 32) ∧
    (∃ (s : State) (q : Nat), HostUp s ∧ queueDesc s q = none) :=
  ⟨⟨{ setReg ready (Off.HST_RESULT_READY 0) 0x8 with mem := [(resultAddr 3, 9)] }, 3, 9, ⟨rfl, by decide +kernel⟩, by decide +kernel,
      by decide +kernel, by decide +kernel, by decide +kernel⟩,
    ⟨ready, 3, 9, ⟨rfl, by decide +kernel⟩, by decide +kernel⟩,
    ⟨withPlan { plan0 with queues := [queue0] } 3, 1, 4, queue0, ⟨rfl, by decide +kernel⟩, by decide +kernel, by decide +kernel, by decide +kernel,
      by decide +kernel⟩,
    ⟨withPlan { plan0 with queues := [queue0] } 3, 1, 17, queue0, ⟨rfl, by decide +kernel⟩, by decide +kernel, by decide +kernel⟩,
    ⟨ready, 1, ⟨rfl, by decide +kernel⟩, by decide +kernel⟩⟩

/-- The clauses of Obligations.HostAccessesReachOrAreDiscarded with hypotheses: 1, 2, 3, 4, 5, 6, 7. -/
theorem meets_HostAccessesReachOrAreDiscarded :
    (∃ (s : State) (off : Nat) (size : Nat), HostUp s ∧ (isDoorbell off && size == 8) = false) ∧
    (∃ (s : State) (off : Nat) (size : Nat), HostUp s ∧ bar0Ok off size (holdsWo off) = false) ∧
    (∃ (s : State) (off : Nat) (size : Nat), HostUp s ∧ bar0Ok off size false = false) ∧
    (∃ (s : State) (off : Nat) (size : Nat), HostUp s ∧
      (stackEnd < apertureAddr s .a off + size ∨ touchesResults (apertureAddr s .a off) size = true)) ∧
    (∃ (s : State) (off : Nat) (size : Nat) (bs : List Byte), HostUp s ∧ apertureAddr s .a off + size ≤ stackEnd ∧
      touchesResults (apertureAddr s .a off) size = false ∧ bs.length = size) ∧
    (∃ (s : State) (off : Nat) (size : Nat), HostUp s ∧ apertureAddr s .a off + size ≤ stackEnd ∧
      touchesResults (apertureAddr s .a off) size = false) ∧
    (∃ (s : State), HostUp s ∧ getF s F.HST_STATUS_pcie_mode = 0) :=
  ⟨⟨ready, 0x10, 8, ⟨rfl, by decide +kernel⟩, by decide +kernel⟩,
    ⟨ready, 4, 8, ⟨rfl, by decide +kernel⟩, by decide +kernel⟩,
    ⟨ready, 4, 8, ⟨rfl, by decide +kernel⟩, by decide +kernel⟩,
    ⟨ready, stackEnd - 2, 4, ⟨rfl, by decide +kernel⟩, by decide +kernel⟩,
    ⟨ready, 100, 4, [1, 2, 3, 4], ⟨rfl, by decide +kernel⟩, by decide +kernel, by decide +kernel, by decide +kernel⟩,
    ⟨ready, 100, 4, ⟨rfl, by decide +kernel⟩, by decide +kernel, by decide +kernel⟩,
    ⟨ready, ⟨rfl, by decide +kernel⟩, by decide +kernel⟩⟩

/-- The clauses of Obligations.RegistersAreWrittenStagedAndClaimed with hypotheses: 1, 2, 3, 4, 5, 6, 7, 8, 9. -/
theorem meets_RegistersAreWrittenStagedAndClaimed :
    (∃ (s : State) (off : Nat) (r : RegRow), HostUp s ∧ off % 8 = 0 ∧ rowAt off = some r ∧ ownRow off = false ∧ off ≠ Off.CTL_COMMIT ∧
      off ≠ Off.CTL_CFG_LEN) ∧
    (∃ (s : State) (off : Nat) (size : Nat), HostUp s ∧ bar0Ok off size (holdsWo off) = false) ∧
    (∃ (s : State) (off : Nat) (r : RegRow), HostUp s ∧ off % 8 = 0 ∧ rowAt off = some r ∧ r.isStaged = true ∧ mayStage s 1 = true) ∧
    (∃ (s : State) (off : Nat) (r : RegRow), HostUp s ∧ off % 8 = 0 ∧ rowAt off = some r ∧ r.isStaged = true ∧ mayStage s 1 = false) ∧
    (∃ (s : State), HostUp s ∧ getF s F.CTL_CLAIM_owner = 0) ∧
    (∃ (s : State), HostUp s ∧ getF s F.CTL_CLAIM_owner ≠ 0) ∧
    (∃ (s : State), HostUp s ∧ getF s F.CTL_CLAIM_owner = 1) ∧
    (∃ (s : State), Up s ∧ getF s F.CTL_CLAIM_owner ≠ 0 ∧ s.ctl.wroteAt + 3906250 ≤ slot s) ∧
    (∃ (s : State), Up s ∧ slot s < s.ctl.wroteAt + 3906250) :=
  ⟨⟨ready, Off.HST_ERR_STATUS, ((rowAt Off.HST_ERR_STATUS).get (by decide +kernel)), ⟨rfl, by decide +kernel⟩, by decide +kernel, by decide +kernel,
      by decide +kernel, by decide +kernel, by decide +kernel⟩,
    ⟨ready, 4, 8, ⟨rfl, by decide +kernel⟩, by decide +kernel⟩,
    ⟨claimed 1, Off.PWR_THROTTLE, throttleRow, ⟨rfl, by decide +kernel⟩, by decide +kernel, by decide +kernel, by decide +kernel, by decide +kernel⟩,
    ⟨ready, Off.PWR_THROTTLE, throttleRow, ⟨rfl, by decide +kernel⟩, by decide +kernel, by decide +kernel, by decide +kernel, by decide +kernel⟩,
    ⟨ready, ⟨rfl, by decide +kernel⟩, by decide +kernel⟩,
    ⟨claimed 2, ⟨rfl, by decide +kernel⟩, by decide +kernel⟩,
    ⟨{ claimed 1 with ctl := { CtlState.init with staged := [(Off.PWR_THROTTLE, some 700)] } }, ⟨rfl, by decide +kernel⟩, by decide +kernel⟩,
    ⟨setF (claimed 2) F.LCH_SLOT_slot 3906250, rfl, by decide +kernel, by decide +kernel⟩,
    ⟨claimed 2, rfl, by decide +kernel⟩⟩

/-- The clauses of Obligations.CroziersFreezeAndCommit with hypotheses: 1, 2, 3, 4, 5, 6, 7. -/
theorem meets_CroziersFreezeAndCommit :
    (∃ (s : State), HostUp s ∧ mayStage s 1 = true ∧ s.ctl.frozen = none) ∧
    (∃ (s : State), HostUp s ∧ mayStage s 1 = true ∧ s.ctl.frozen.isSome = true) ∧
    (∃ (s : State) (z : Crozier), Up s ∧ s.ctl.frozen = some z ∧ z.commit = none ∧ z.atSlot = false) ∧
    (∃ (s : State) (z : Crozier), Up s ∧ s.ctl.frozen = some z ∧ z.commit = none ∧ z.atSlot = true ∧ slot s + 6 ≤ z.target) ∧
    (∃ (s : State) (z : Crozier), Up s ∧ s.ctl.frozen = some z ∧ z.commit = none ∧ z.atSlot = true ∧ z.target < slot s + 6) ∧
    (∃ (s : State) (z : Crozier), Up s ∧ s.ctl.frozen = some z ∧ z.commit = none) ∧
    (∃ (s : State) (z : Crozier) (c : Nat), Up s ∧ s.ctl.frozen = some z ∧ z.commit = some c ∧ c ≤ slot s + 1) :=
  ⟨⟨{ claimed 1 with ctl := { CtlState.init with staged := [(Off.PWR_THROTTLE, some 600)] } }, ⟨rfl, by decide +kernel⟩, by decide +kernel,
      by decide +kernel⟩,
    ⟨frozen none, ⟨rfl, by decide +kernel⟩, by decide +kernel, by decide +kernel⟩,
    ⟨frozen none, set0 none, rfl, by decide +kernel, by decide +kernel, by decide +kernel⟩,
    ⟨{ frozen none with ctl := { CtlState.init with frozen := some { set0 none with atSlot := true, target := 9 } } },
      { set0 none with atSlot := true, target := 9 }, rfl, by decide +kernel, by decide +kernel, by decide +kernel, by decide +kernel⟩,
    ⟨{ frozen none with ctl := { CtlState.init with frozen := some { set0 none with atSlot := true, target := 5 } } },
      { set0 none with atSlot := true, target := 5 }, rfl, by decide +kernel, by decide +kernel, by decide +kernel, by decide +kernel⟩,
    ⟨frozen none, set0 none, rfl, by decide +kernel, by decide +kernel⟩,
    ⟨frozen (some 1), set0 (some 1), 1, rfl, by decide +kernel, by decide +kernel, by decide +kernel⟩⟩

/-- The clauses of Obligations.AbortWithdrawsASetBeforeItsSlot with hypotheses: 1, 2, 3, 4, 5. -/
theorem meets_AbortWithdrawsASetBeforeItsSlot :
    (∃ (s : State) (z : Crozier), HostUp s ∧ mayStage s 1 = true ∧ s.ctl.frozen = some z ∧ z.commit = none) ∧
    (∃ (s : State) (z : Crozier) (c : Nat), HostUp s ∧ mayStage s 1 = true ∧ s.ctl.frozen = some z ∧ z.commit = some c ∧ slot s + 2 < c) ∧
    (∃ (s : State) (z : Crozier) (c : Nat), HostUp s ∧ mayStage s 1 = true ∧ s.ctl.frozen = some z ∧ z.commit = some c ∧ c ≤ slot s + 2) ∧
    (∃ (s : State) (v : Word) (z : Crozier) (c : Nat), RackUp s ∧ bits v 1 0 = 2 ∧ mayStage s 2 = true ∧ s.ctl.frozen = some z ∧
      (z.commit = none ∨ (z.commit = some c ∧ slot s + 2 < c))) ∧
    (∃ (s : State) (v : Word) (z : Crozier) (c : Nat), RackUp s ∧ bits v 1 0 = 2 ∧ mayStage s 2 = true ∧ s.ctl.frozen = some z ∧ z.commit = some c ∧
      c ≤ slot s + 2) :=
  ⟨⟨frozen none, set0 none, ⟨rfl, by decide +kernel⟩, by decide +kernel, by decide +kernel, by decide +kernel⟩,
    ⟨frozen (some 9), set0 (some 9), 9, ⟨rfl, by decide +kernel⟩, by decide +kernel, by decide +kernel, by decide +kernel, by decide +kernel⟩,
    ⟨frozen (some 2), set0 (some 2), 2, ⟨rfl, by decide +kernel⟩, by decide +kernel, by decide +kernel, by decide +kernel, by decide +kernel⟩,
    ⟨setF (frozen (some 9)) F.CTL_CLAIM_owner 2, 2, set0 (some 9), 9, ⟨rfl, by decide +kernel⟩, by decide +kernel, by decide +kernel,
      by decide +kernel, by decide +kernel⟩,
    ⟨setF (frozen (some 2)) F.CTL_CLAIM_owner 2, 2, set0 (some 2), 2, ⟨rfl, by decide +kernel⟩, by decide +kernel, by decide +kernel,
      by decide +kernel, by decide +kernel, by decide +kernel⟩⟩

/-- The clauses of Obligations.NumericRingTailIsKeptBehindTheHead with hypotheses: 1, 2. -/
theorem meets_NumericRingTailIsKeptBehindTheHead :
    (∃ (s : State) (t0 : Nat), HostUp s ∧
      (t0 % 2 ^ 32 + 2 ^ 32 - getF s F.NUM_RING_TAIL_tail) % 2 ^ 32 ≤ (getF s F.NUM_RING_HEAD_head + 2 ^ 32 - getF s F.NUM_RING_TAIL_tail) % 2 ^ 32) ∧
    (∃ (s : State) (t0 : Nat), HostUp s ∧
      (getF s F.NUM_RING_HEAD_head + 2 ^ 32 - getF s F.NUM_RING_TAIL_tail) % 2 ^ 32 < (t0 % 2 ^ 32 + 2 ^ 32 - getF s F.NUM_RING_TAIL_tail) % 2 ^ 32) :=
  ⟨⟨setF ready F.NUM_RING_HEAD_head 3, 2, ⟨rfl, by decide +kernel⟩, by decide +kernel⟩,
    ⟨setF ready F.NUM_RING_HEAD_head 3, 4, ⟨rfl, by decide +kernel⟩, by decide +kernel⟩⟩

/-- The clauses of Obligations.HostSignalsNeedTheHostFlag with hypotheses: 1, 2. -/
theorem meets_HostSignalsNeedTheHostFlag :
    (∃ (s : State) (o : Nat), HostUp s ∧ o < 8192 ∧ (syncFlags s o).host = true) ∧
    (∃ (s : State) (o : Nat), HostUp s ∧ o < 8192 ∧ (syncFlags s o).host = false) :=
  ⟨⟨{ ready with lch := { LchState.init with flags := [(5, ⟨true, false, false, false⟩)] } }, 5, ⟨rfl, by decide +kernel⟩, by decide +kernel,
      by decide +kernel⟩,
    ⟨ready, 5, ⟨rfl, by decide +kernel⟩, by decide +kernel, by decide +kernel⟩⟩

/-- The clauses of Obligations.SmallHostWritesAct with hypotheses: 1, 2, 3, 4, 5, 6, 7, 8, 9. -/
theorem meets_SmallHostWritesAct :
    (∃ (s : State) (t0 : Nat), HostUp s ∧
      (t0 % 2 ^ 32 + 2 ^ 32 - getF s F.LCH_TS_RING_TAIL_tail) % 2 ^ 32 ≤ (getF s F.LCH_TS_RING_HEAD_head + 2 ^ 32 - getF s F.LCH_TS_RING_TAIL_tail) % 2 ^ 32) ∧
    (∃ (s : State) (t0 : Nat), HostUp s ∧
      (t0 % 2 ^ 32 + 2 ^ 32 - getF s F.INT_EV_TAIL_tail) % 2 ^ 32 ≤ (getF s F.INT_EV_HEAD_head + 2 ^ 32 - getF s F.INT_EV_TAIL_tail) % 2 ^ 32) ∧
    (∃ (s : State) (t0 : Nat), HostUp s ∧ getF s F.INT_SUB_SIZE_size ≠ 0 ∧
      (t0 % 2 ^ 32 + 2 ^ 32 - getF s F.INT_SUB_HEAD_head) % 2 ^ 32 ≤ 2 ^ getF s F.INT_SUB_SIZE_size ∧
      (getF s F.INT_SUB_TAIL_tail % 2 ^ 32 + 2 ^ 32 - getF s F.INT_SUB_HEAD_head) % 2 ^ 32 ≤ (t0 % 2 ^ 32 + 2 ^ 32 - getF s F.INT_SUB_HEAD_head) % 2 ^ 32) ∧
    (∃ (s : State) (v : Word), HostUp s ∧ bit v 0 = true) ∧
    (∃ (s : State) (v : Word), HostUp s ∧ bit v 0 = true) ∧
    (∃ (s : State), HostUp s ∧ getF s F.SEC_LIFECYCLE_state ∈ [0, 3, 4]) ∧
    (∃ (s : State), HostUp s ∧ getF s F.SEC_LIFECYCLE_state ∉ [0, 3, 4]) ∧
    (∃ (s : State) (v : Nat), Up s ∧ FMap.get false s.host.irqWait v = true) ∧
    (∃ (s : State) (v : Nat), Up s ∧ FMap.get false s.host.irqWait v = false) :=
  ⟨⟨setF ready F.LCH_TS_RING_HEAD_head 3, 2, ⟨rfl, by decide +kernel⟩, by decide +kernel⟩,
    ⟨setF ready F.INT_EV_HEAD_head 3, 2, ⟨rfl, by decide +kernel⟩, by decide +kernel⟩,
    ⟨setF ready F.INT_SUB_SIZE_size 4, 2, ⟨rfl, by decide +kernel⟩, by decide +kernel, by decide +kernel, by decide +kernel⟩,
    ⟨ready, 1, ⟨rfl, by decide +kernel⟩, by decide +kernel⟩,
    ⟨ready, 1, ⟨rfl, by decide +kernel⟩, by decide +kernel⟩,
    ⟨ready, ⟨rfl, by decide +kernel⟩, by decide +kernel⟩,
    ⟨setF ready F.SEC_LIFECYCLE_state 2, ⟨rfl, by decide +kernel⟩, by decide +kernel⟩,
    ⟨{ ready with host := { HostState.init with irqWait := [(2, true)] } }, 2, rfl, by decide +kernel⟩,
    ⟨ready, 2, rfl, by decide +kernel⟩⟩

/-- The clauses of Obligations.SlotsAdvanceAndAnchorsAreSet with hypotheses: 1, 2, 3, 4. -/
theorem meets_SlotsAdvanceAndAnchorsAreSet :
    (∃ (s : State), Up s ∧ phaseEnded s 4 = true ∧ s.host.cmd = none ∧ slot s + 1 < 2 ^ 56) ∧
    (∃ (s : State), Up s ∧ phaseEnded s 4 = true ∧ s.host.cmd = none ∧ inHold s = true ∧ slot s + 1 < 2 ^ 56) ∧
    (∃ (s : State) (p : Plan) (i : Nat) (k : Nat) (a : Anchor), Up s ∧ s.plan = some p ∧ nextAnchor s = some (i, k, a) ∧ anchorDue s = true ∧ 0 < k ∧
      k < 2 ^ 16 ∧ i < 2 ^ 32 ∧ (∀ y ∈ p.layers, y.anchor ≠ k)) ∧
    (∃ (s : State), Up s ∧ anchorDue s = false) :=
  ⟨⟨{ running1 with lch := { running1.lch with clearReq := true, numClear := true } }, rfl, by decide +kernel, by decide +kernel, by decide +kernel⟩,
    ⟨setF (setF running1 F.PWR_GOV_cap 65536) F.SAF_HOLD_pending 2, rfl, by decide +kernel, by decide +kernel, by decide +kernel, by decide +kernel⟩,
    ⟨{ running1 with regs := (setReg running1 (Off.LCH_SYNC 7) 5).regs }, plan1, 0, 1, ⟨10, [⟨7, .waitGe, 0, 0, 5⟩], 20⟩, rfl, by decide +kernel,
      by decide +kernel, by decide +kernel, by decide +kernel, by decide +kernel, by decide +kernel, by decide +kernel⟩,
    ⟨running1, rfl, by decide +kernel⟩⟩

/-- The clauses of Obligations.SignalsTakeEffectAndWaitsExpire with hypotheses: 1, 2, 3, 4, 5, 6. -/
theorem meets_SignalsTakeEffectAndWaitsExpire :
    (∃ (s : State) (g : Signal), Up s ∧ s.lch.signals = [g] ∧ g.effect ≤ slot s ∧ (syncFlags s g.object).failed = false ∧ (∀ p, s.plan = some p →
      p.exports.find? (fun e => e.localObj == g.object) = none) ∧ syncValue s g.object + g.amount < 2 ^ 64) ∧
    (∃ (s : State) (g : Signal), Up s ∧ s.lch.signals = [g] ∧ g.effect ≤ slot s ∧ (syncFlags s g.object).failed = true) ∧
    (∃ (s : State), Up s ∧ (∀ g ∈ s.lch.signals, slot s < g.effect)) ∧
    (∃ (s : State) (op : Nat) (obj : Nat) (k : Nat), Up s ∧ inHold s = false ∧ stopInForce s = false ∧ planState s = .running ∧
      gateTimedOut s op = some (obj, k)) ∧
    (∃ (s : State) (k : Nat) (op : Nat) (obj : Nat), Up s ∧ inHold s = false ∧ stopInForce s = false ∧ planState s = .running ∧
      launchTimedOut s k op = some obj) ∧
    (∃ (s : State), Up s ∧ (inHold s = true ∨ stopInForce s = true)) :=
  ⟨⟨{ atSlot 10 with lch := { LchState.init with signals := [⟨9, 5, 3⟩] } }, ⟨9, 5, 3⟩, rfl, by decide +kernel, by decide +kernel,
      by decide +kernel, by decide +kernel, by decide +kernel⟩,
    ⟨{ atSlot 10 with lch := { LchState.init with signals := [⟨9, 5, 3⟩], flags := [(5, ⟨false, false, false, true⟩)] } }, ⟨9, 5, 3⟩, rfl,
      by decide +kernel, by decide +kernel, by decide +kernel⟩,
    ⟨{ atSlot 10 with lch := { LchState.init with signals := [⟨12, 5, 3⟩] } }, rfl, by decide +kernel⟩,
    ⟨setF running1 F.LCH_SLOT_slot 1020, 0, 7, 1, rfl, by decide +kernel, by decide +kernel, by decide +kernel, by decide +kernel⟩,
    ⟨setF running1 F.LCH_SLOT_slot 1022, 2, 0, 7, rfl, by decide +kernel, by decide +kernel, by decide +kernel, by decide +kernel⟩,
    ⟨setF (setF running1 F.LCH_SLOT_slot 1022) F.SAF_HOLD_pending 2, rfl, by decide +kernel⟩⟩

/-- The clauses of Obligations.LaunchesIssueBeginAndComplete with hypotheses: 1, 2, 3, 4, 5, 6, 7, 8. -/
theorem meets_LaunchesIssueBeginAndComplete :
    (∃ (s : State) (k : Nat) (u : Nat) (a : Nat) (due : Nat) (l : Launch), Up s ∧ launchOf s k = some l ∧ anchorSlot s k l = some a ∧
      dueOf s k l = some due ∧ launchDue s k l = true ∧ voidLaunch s k l = false ∧ passedOver s k = false ∧ blockLayer s k = none ∧
      unreachable s l = none ∧ writesFlash s l = false ∧ l.kind ≠ .collective ∧ unitFor s k l = some u) ∧
    (∃ (s : State) (k : Nat) (l : Launch), Up s ∧ launchOf s k = some l ∧ launchDue s k l = false) ∧
    (∃ (s : State) (u : Nat) (k : Nat) (l : Launch) (t0 : TileProgram), Up s ∧ (unitOf s u).waiting = some k ∧ launchOf s k = some l ∧
      stopFor s k = false ∧ l.kind = .tile ∧ tileOf s l = some t0 ∧ tileCanBegin s u t0 = true) ∧
    (∃ (s : State) (u : Nat) (k : Nat) (l : Launch), Up s ∧ (unitOf s u).waiting = some k ∧ (unitOf s u).running = none ∧ launchOf s k = some l ∧
      stopFor s k = false ∧ l.kind ∈ [.move, .sweep, .collective, .intake]) ∧
    (∃ (s : State) (u : Nat), Up s ∧ (unitOf s u).waiting = none) ∧
    (∃ (s : State) (u : Nat) (k : Nat) (d : Nat) (a : Nat) (b : Nat) (l : Launch) (v : VectorProgram), Up s ∧ 512 ≤ u ∧
      (unitOf s u).waiting = some k ∧ (unitOf s u).running = none ∧ launchOf s k = some l ∧ stopFor s k = false ∧ l.kind = .vector ∧
      veFenced s (u - 512) = false ∧ vectorOf s l = some v ∧ v.code = [.add false d a b]) ∧
    (∃ (s : State) (u : Nat) (k : Nat) (l : Launch), Up s ∧ finishing s u = some k ∧ launchOf s k = some l ∧ launchOver s u k l = true ∧
      (runOf s k).completed = false ∧ (runOf s k).signalled = false ∧ keyQueue k = none ∧ s.host.cmd = none ∧ l.kind ∈ [.tile, .vector, .move,
      .intake]) ∧
    (∃ (s : State) (u : Nat), Up s ∧ finishing s u = none) :=
  ⟨⟨running1, 1, 512, 990, 992, { launch0 .vector 0 0 with pass := 0xFFFF, signals := [⟨9, .signal, 0, 0, 2⟩] }, rfl, by decide +kernel,
      by decide +kernel, by decide +kernel, by decide +kernel, by decide +kernel, by decide +kernel, by decide +kernel, by decide +kernel,
      by decide +kernel, by decide +kernel, by decide +kernel⟩,
    ⟨running1, 2, { launch0 .move 256 0 with pass := 0xFFFF, waits := [⟨7, .waitGe, 0, 30, 5⟩] }, rfl, by decide +kernel, by decide +kernel⟩,
    ⟨waits running1 5 0, 5, 0, { launch0 .tile 5 0 with pass := 0xFFFF }, tile0, rfl, by decide +kernel, by decide +kernel, by decide +kernel,
      by decide +kernel, by decide +kernel, by decide +kernel⟩,
    ⟨waits running1 768 2, 768, 2, { launch0 .move 256 0 with pass := 0xFFFF, waits := [⟨7, .waitGe, 0, 30, 5⟩] }, rfl, by decide +kernel,
      by decide +kernel, by decide +kernel, by decide +kernel, by decide +kernel⟩,
    ⟨running1, 768, rfl, by decide +kernel⟩,
    ⟨{ waits running1 512 1 with arr := { ArrState.init with vregs := [(512, 0x3F800000), (1024, 0x40000000)] } }, 512, 1, 0, 1, 2,
      { launch0 .vector 0 0 with pass := 0xFFFF, signals := [⟨9, .signal, 0, 0, 2⟩] }, vec0, rfl, by decide +kernel, by decide +kernel,
      by decide +kernel, by decide +kernel, by decide +kernel, by decide +kernel, by decide +kernel, by decide +kernel, by decide +kernel⟩,
    ⟨runs running1 512 1, 512, 1, { launch0 .vector 0 0 with pass := 0xFFFF, signals := [⟨9, .signal, 0, 0, 2⟩] }, rfl, by decide +kernel,
      by decide +kernel, by decide +kernel, by decide +kernel, by decide +kernel, by decide +kernel, by decide +kernel, by decide +kernel⟩,
    ⟨running1, 512, rfl, by decide +kernel⟩⟩

/-- The clauses of Obligations.MovesAndViewsCopyTheFrond with hypotheses: 1, 2, 3. -/
theorem meets_MovesAndViewsCopyTheFrond :
    (∃ (s : State) (stack : Nat) (k : Nat) (m : MoveDesc), let i := (unitOf s (768 + stack)).progress; let id := m.first + i; let e := ftGet s id;
      let d := moveDest s m i; Up s ∧ runningMove s (768 + stack) = some (k, m) ∧ m.isView = false ∧ movesHeld s = false ∧
      (unitOf s (768 + stack)).progress < m.count ∧ e.valid = true ∧ e.home ≠ d ∧ e.inMove = false ∧ e.poisoned = false ∧
      checkOk s e.fmt e.home = true ∧ (flashBase ≤ d → flashKib e.fmt ≤ s.fls.granted) ∧ d % 256 = 0 ∧ d < 2 ^ 48 ∧ EntryApart s id ∧
      (d + e.fmt.imageLen ≤ ftPrimary s id ∨ ftPrimary s id + 16 ≤ d)) ∧
    (∃ (s : State), Up s ∧ movesHeld s = true) ∧
    (∃ (s : State) (stack : Nat) (k : Nat) (m : MoveDesc), let i := (unitOf s (768 + stack)).progress; let e := ftGet s (m.first + i); Up s ∧
      runningMove s (768 + stack) = some (k, m) ∧ m.isView = true ∧ movesHeld s = false ∧ (unitOf s (768 + stack)).progress < m.count ∧
      e.valid = true ∧ e.inMove = false ∧ e.cls ≠ 7 ∧ e.poisoned = false ∧ checkOk s e.fmt e.home = true) :=
  ⟨⟨putFrond (moving false) 1 0x100000 .bf16 0, 0, 2, ⟨1, 1, false, 0x200000⟩, rfl, by decide +kernel, by decide +kernel, by decide +kernel,
      by decide +kernel, by rw [moved_at false .bf16 (.inl rfl)]; decide +kernel, by rw [moved_at false .bf16 (.inl rfl)]; decide +kernel,
      by rw [moved_at false .bf16 (.inl rfl)]; decide +kernel, by rw [moved_at false .bf16 (.inl rfl)]; decide +kernel,
      by rw [moved_at false .bf16 (.inl rfl)]; exact moved_check false .bf16, by rw [moved_at false .bf16 (.inl rfl)]; decide +kernel,
      by decide +kernel, by decide +kernel, by unfold EntryApart Apart; decide +kernel, by rw [moved_at false .bf16 (.inl rfl)]; decide +kernel⟩,
    ⟨setF (moving false) F.SAF_HOLD_pending 2, rfl, by decide +kernel⟩,
    ⟨putFrond (moving true) 1 0x100000 .b8 0, 0, 2, ⟨1, 1, true, 0x200000⟩, rfl, by decide +kernel, by decide +kernel, by decide +kernel,
      by decide +kernel, by rw [moved_at true .b8 (.inr rfl)]; decide +kernel, by rw [moved_at true .b8 (.inr rfl)]; decide +kernel,
      by rw [moved_at true .b8 (.inr rfl)]; decide +kernel, by rw [moved_at true .b8 (.inr rfl)]; decide +kernel,
      by rw [moved_at true .b8 (.inr rfl)]; exact moved_check true .b8⟩⟩

/-- The clauses of Obligations.FailedReadsAreResolved with hypotheses: 1, 2, 3, 4, 5, 6, 7, 8, 9. -/
theorem meets_FailedReadsAreResolved :
    (∃ (s : State) (die : Nat) (ch : Nat), Up s ∧ die < 128 ∧ ch < 32) ∧
    (∃ (s : State) (id : Nat), Up s ∧ id < ftCount s ∧ (ftGet s id).valid = true ∧ (ftGet s id).cls = 7 ∧ EntryApart s id) ∧
    (∃ (s : State), Up s) ∧
    (∃ (s : State) (addr : Nat) (a : Nat), Up s ∧ sramPlaceOf s addr = some a ∧ (headerAt s a).view = true) ∧
    (∃ (s : State) (a : Nat), Up s ∧ a ∈ s.trn.remake ∧ (∀ p, s.plan = some p → ∀ m ∈ p.moves, m.isView = false)) ∧
    (∃ (s : State) (a : Nat) (p : Plan) (m : MoveDesc), Up s ∧ a ∈ s.trn.remake ∧ s.plan = some p ∧ p.moves = [m] ∧ m.isView = true ∧ m.count = 1 ∧
      m.dest = a ∧ (ftGet s m.first).poisoned = false) ∧
    (∃ (s : State) (a : Nat), Up s ∧ a ∈ s.trn.remake) ∧
    (∃ (s : State) (id : Nat) (p : Plan) (j : FetchJob), Up s ∧ s.plan = some p ∧ s.trn.fetches.find? (fun x => x.frond == id) = some j ∧
      j.start + (if p.header.partnerTimeout = 0 then 390625 else p.header.partnerTimeout) ≤ slot s ∧ s.chn.reqs = []) ∧
    (∃ (s : State) (id : Nat) (p : Plan) (j : FetchJob), Up s ∧ s.plan = some p ∧ s.trn.fetches.find? (fun x => x.frond == id) = some j ∧
      slot s < j.start + (if p.header.partnerTimeout = 0 then 390625 else p.header.partnerTimeout)) :=
  ⟨⟨setF ready (F.UPD_SNAP_valid 1) 1, 66, 3, rfl, by decide +kernel, by decide +kernel⟩,
    ⟨ftSet (withTable running1) 3 (entry0 0x100000 .b8 7), 3, rfl, by decide +kernel, by decide +kernel, by decide +kernel,
      by unfold EntryApart Apart; decide +kernel⟩,
    ⟨running1, rfl⟩,
    ⟨{ wr running1 (sramBase + 65536) ({ frondId := 0xFFFFFFFF, fmt := .b8, cls := 0, view := true, step := 0, fragment := 0, tensorId := 0, tile := 0, check := 0 } : Header).bytes with lch := { running1.lch with seals := [(sramBase, 5)] } },
      sramBase + 100, sramBase, rfl, by decide +kernel, by decide +kernel⟩,
    ⟨{ running1 with trn := { TrnState.init with remake := [sramBase] } }, sramBase, rfl, by decide +kernel, by decide +kernel⟩,
    ⟨{ moving true with trn := { TrnState.init with remake := [0x200000] } }, 0x200000, { plan1 with moves := [⟨1, 1, true, 0x200000⟩] },
      ⟨1, 1, true, 0x200000⟩, rfl, by decide +kernel, by decide +kernel, by decide +kernel, by decide +kernel, by decide +kernel, by decide +kernel,
      by decide +kernel⟩,
    ⟨{ running1 with trn := { TrnState.init with remake := [sramBase] } }, sramBase, rfl, by decide +kernel⟩,
    ⟨{ setF running1 F.LCH_SLOT_slot 400000 with trn := { TrnState.init with fetches := [⟨3, 0, 0x100000, 0, 10, false, 2, 0⟩] } }, 3, plan1,
      ⟨3, 0, 0x100000, 0, 10, false, 2, 0⟩, rfl, by decide +kernel, by decide +kernel, by decide +kernel, by decide +kernel⟩,
    ⟨{ running1 with trn := { TrnState.init with fetches := [⟨3, 0, 0x100000, 0, 10, false, 2, 0⟩] } }, 3, plan1,
      ⟨3, 0, 0x100000, 0, 10, false, 2, 0⟩, rfl, by decide +kernel, by decide +kernel, by decide +kernel⟩⟩

/-- The clauses of Obligations.FlashPagesAndCreditAreKept with hypotheses: 1, 2, 3, 4, 5, 6, 7, 8, 9. -/
theorem meets_FlashPagesAndCreditAreKept :
    (∃ (s : State) (p : Nat), Up s ∧ channelFenced s (pageChannel p) = false) ∧
    (∃ (s : State) (p : Nat), Up s ∧ channelFenced s (pageChannel p) = false) ∧
    (∃ (s : State) (p : Nat), Up s ∧ channelFenced s (pageChannel p) = false) ∧
    (∃ (s : State) (p : Nat), Up s ∧ p ∈ s.fls.failed ∧ hasF s F.FLS_STATUS_flash_closed = false) ∧
    (∃ (s : State) (p : Nat), Up s ∧ p ∈ s.fls.failed) ∧
    (∃ (s : State) (mib : Nat), Up s ∧ hasF s F.FLS_STATUS_flash_closed = false ∧ getF s F.FLS_CH_FENCED_fenced = 0 ∧ mib ≤ getF s F.FLS_CREDIT_mib) ∧
    (∃ (s : State) (mib : Nat), Up s ∧ hasF s F.FLS_STATUS_flash_closed = false ∧ getF s F.FLS_CH_FENCED_fenced = 0 ∧ getF s F.FLS_CREDIT_mib < mib) ∧
    (∃ (s : State), Up s ∧ (65536 ≤ s.fls.debited ∨ s.fls.storedAt + 2343750000 ≤ slot s)) ∧
    (∃ (s : State), Up s ∧ s.fls.debited < 65536 ∧ slot s < s.fls.storedAt + 2343750000) :=
  ⟨⟨ready, 77, rfl, by decide +kernel⟩,
    ⟨ready, 77, rfl, by decide +kernel⟩,
    ⟨ready, 77, rfl, by decide +kernel⟩,
    ⟨{ setF ready F.FLS_STATUS_flash_closed 0 with fls := { FlsState.init with failed := [77] } }, 77, rfl, by decide +kernel, by decide +kernel⟩,
    ⟨{ ready with fls := { FlsState.init with failed := [77] } }, 77, rfl, by decide +kernel⟩,
    ⟨setF (setF ready F.FLS_STATUS_flash_closed 0) F.FLS_CREDIT_mib 100, 64, rfl, by decide +kernel, by decide +kernel, by decide +kernel⟩,
    ⟨setF (setF ready F.FLS_STATUS_flash_closed 0) F.FLS_CREDIT_mib 10, 64, rfl, by decide +kernel, by decide +kernel, by decide +kernel⟩,
    ⟨{ ready with fls := { FlsState.init with debited := 65536 } }, rfl, by decide +kernel⟩,
    ⟨ready, rfl, by decide +kernel, by decide +kernel⟩⟩

/-- The clauses of Obligations.FlashAndDramWearIsHandled with hypotheses: 1, 2, 3, 4. -/
theorem meets_FlashAndDramWearIsHandled :
    (∃ (s : State) (h : Nat), Up s ∧ h < 32 ∧ channelFenced s h = false) ∧
    (∃ (s : State), Up s ∧ hasF s F.FLS_STATUS_flash_closed = false) ∧
    (∃ (s : State), Up s) ∧
    (∃ (s : State) (a : Nat), Up s ∧ ⟨1, 0, stackOf a⟩ ∉ s.maint.running) :=
  ⟨⟨setF (setF ready F.FLS_STATUS_flash_closed 0) F.FLS_CH_FENCED_fenced 4, 5, rfl, by decide +kernel, by decide +kernel⟩,
    ⟨{ setF ready F.FLS_STATUS_flash_closed 0 with maint := ⟨[⟨2, 0, 0⟩], []⟩ }, rfl, by decide +kernel⟩,
    ⟨{ ready with maint := ⟨[⟨1, 0, 0⟩], []⟩ }, rfl⟩,
    ⟨ready, 0x1000, rfl, by decide +kernel⟩⟩

/-- The clauses of Obligations.ArraysStepAndAccumulate with hypotheses: 1, 2, 3, 4, 5. -/
theorem meets_ArraysStepAndAccumulate :
    (∃ (s : State) (a : Nat) (k : Nat) (t0 : TileProgram), Up s ∧ fenced s a = false ∧ (arrayOf s a).heldTest = false ∧
      (arrayOf s a).feeding = some k ∧ tileOfKey s k = some t0 ∧ getF s F.PWR_GOV_cap ≠ 0 ∧ checkDue s a t0 = false ∧ isQuiet a = false ∧
      (arrayOf s a).step + 1 < kLength t0.a.deliver t0.k ∧ ((arrayOf s a).step + 1) % t0.a.deliver.groupSteps ≠ 0) ∧
    (∃ (s : State) (a : Nat), Up s ∧ fenced s a = false ∧ (arrayOf s a).heldTest = false ∧ (arrayOf s a).feeding = none ∧ (arrayOf s a).level ≠ 0) ∧
    (∃ (s : State) (a : Nat) (k : Nat) (t0 : TileProgram), Up s ∧ fenced s a = false ∧ (arrayOf s a).heldTest = false ∧
      (arrayOf s a).feeding = some k ∧ tileOfKey s k = some t0 ∧ getF s F.PWR_GOV_cap = 0) ∧
    (∃ (s : State) (a : Nat), Up s ∧ (fenced s a = true ∨ (arrayOf s a).heldTest = true)) ∧
    (∃ (s : State) (a : Nat) (k : Nat) (c : Nat) (t0 : TileProgram), Up s ∧ fenced s a = false ∧ (arrayOf s a).heldTest = false ∧
      (arrayOf s a).feeding = some k ∧ tileOfKey s k = some t0 ∧ getF s F.PWR_GOV_cap ≠ 0 ∧ checkDue s a t0 = false ∧ isQuiet a = false ∧
      t0.a.mode = .direct ∧ t0.b.mode = .direct ∧ (arrayOf s a).step + 1 < kLength t0.a.deliver t0.k ∧
      ((arrayOf s a).step + 1) % t0.a.deliver.groupSteps = 0 ∧ c < 4096) :=
  ⟨⟨array5 (feeds 3) Bank.clear, 5, 0, tile0, rfl, by decide +kernel, by decide +kernel, by decide +kernel, by decide +kernel, by decide +kernel,
      by decide +kernel, by decide +kernel, by decide +kernel, by decide +kernel⟩,
    ⟨array5 { ArrayRun.idle with level := 65536 } Bank.clear, 5, rfl, by decide +kernel, by decide +kernel, by decide +kernel, by decide +kernel⟩,
    ⟨setF (array5 (feeds 3) Bank.clear) F.PWR_GOV_cap 0, 5, 0, tile0, rfl, by decide +kernel, by decide +kernel, by decide +kernel,
      by decide +kernel, by decide +kernel⟩,
    ⟨array5 { feeds 3 with heldTest := true } Bank.clear, 5, rfl, by decide +kernel⟩,
    ⟨wr (wr (ftSet (ftSet (array5 (feeds 63) Bank.clear) 1 (entry0 0x100000 .bf16 0)) 2 (entry0 0x180000 .bf16 0)) 0x100000 [0x80, 0x3F]) 0x180000 [0x00, 0x40],
      5, 0, 0, tile0, rfl, by decide +kernel, by decide +kernel, by decide +kernel, by decide +kernel, by decide +kernel, by decide +kernel,
      by decide +kernel, by decide +kernel, by decide +kernel, by decide +kernel, by decide +kernel, by decide +kernel⟩⟩

/-- The clauses of Obligations.ChecksPassOrFence with hypotheses: 1, 2, 3, 4, 5, 6. -/
theorem meets_ChecksPassOrFence :
    (∃ (s : State) (a : Nat) (k : Nat) (t0 : TileProgram), Up s ∧ (arrayOf s a).feeding = some k ∧ tileOfKey s k = some t0 ∧ checkDue s a t0 = true ∧
      (arrayOf s a).inject = none ∧ failingLine (bankOf s a t0.bank) = none) ∧
    (∃ (s : State) (a : Nat) (k : Nat) (x : Nat) (t0 : TileProgram) (row : Bool), Up s ∧ a < 512 ∧ (arrayOf s a).feeding = some k ∧
      tileOfKey s k = some t0 ∧ checkDue s a t0 = true ∧ (arrayOf s a).inject = some row ∧ x ∈ arrayOrder a ∧ x ≠ a ∧ fenced s x = false ∧ x < 512) ∧
    (∃ (s : State) (a : Nat), Up s ∧ (arrayOf s a).feeding = none) ∧
    (∃ (s : State) (core : Nat), Up s ∧ (unitOf s (512 + core)).running = none ∧ (unitOf s (512 + core)).waiting = none ∧
      veFenced s (core / 2 * 2 + (1 - core % 2)) = false) ∧
    (∃ (s : State) (p : Nat), Up s ∧ inHold s = false ∧ stopInForce s = false ∧ (passOf s p).stopped = true ∧ (∀ pl, s.plan = some pl →
      pl.layers = [])) ∧
    (∃ (s : State), Up s ∧ (inHold s = true ∨ stopInForce s = true)) :=
  ⟨⟨array5 (feeds 3) { Bank.clear with steps := 16384 }, 5, 0, tile0, rfl, by decide +kernel, by decide +kernel, by decide +kernel,
      by decide +kernel, by decide +kernel⟩,
    ⟨array5 { feeds 3 with inject := some true } { Bank.clear with steps := 16384 }, 5, 0, 6, tile0, true, rfl, by decide +kernel, by decide +kernel,
      by decide +kernel, by decide +kernel, by decide +kernel, by decide +kernel, by decide +kernel, by decide +kernel, by decide +kernel⟩,
    ⟨running1, 5, rfl, by decide +kernel⟩,
    ⟨running1, 3, rfl, by decide +kernel, by decide +kernel, by decide +kernel⟩,
    ⟨{ running1 with lch := { running1.lch with passes := [(4, { PassRun.fresh with stopped := true, stopFrom := 900 })] } }, 4, rfl,
      by decide +kernel, by decide +kernel, by decide +kernel, by decide +kernel⟩,
    ⟨setF running1 F.SAF_HOLD_pending 2, rfl, by decide +kernel⟩⟩

/-- The clauses of Obligations.DrainsReleaseOrRestart with hypotheses: 1, 2, 3, 4. -/
theorem meets_DrainsReleaseOrRestart :
    (∃ (s : State) (a : Nat) (k : Nat) (ks : List Nat) (t0 : TileProgram) (d : DrainProgram), Up s ∧ (arrayOf s a).drains = k :: ks ∧
      tileOfKey s k = some t0 ∧ t0.drain = some d ∧ sidesReady s (finalDrain s d) = true ∧ (arrayOf s a).inject = none ∧
      failingLine (bankOf s a t0.bank) = none) ∧
    (∃ (s : State) (a : Nat) (k : Nat) (ks : List Nat) (t0 : TileProgram) (d : DrainProgram), Up s ∧ (arrayOf s a).drains = k :: ks ∧
      tileOfKey s k = some t0 ∧ t0.drain = some d ∧ finalAtDrain s = false ∧ d.stash = none ∧ d.rowStats = none ∧ d.residual = none ∧
      sidesReady s d = true ∧ (arrayOf s a).inject = none ∧ failingLine (bankOf s a t0.bank) = none ∧ d.primary.row0 + 32 ≤ d.primary.fmt.rows ∧
      d.primary.col0 + 128 ≤ d.primary.fmt.rowElems ∧ t0.cols ≤ 128) ∧
    (∃ (s : State) (a : Nat) (k : Nat) (x : Nat) (ks : List Nat) (t0 : TileProgram), Up s ∧ a < 512 ∧ (arrayOf s a).drains = k :: ks ∧
      tileOfKey s k = some t0 ∧ x ∈ arrayOrder a ∧ x ≠ a ∧ fenced s x = false ∧ x < 512) ∧
    (∃ (s : State) (a : Nat) (k : Nat) (sub : Nat) (ks : List Nat) (t0 : TileProgram), Up s ∧ FMap.get [] s.arr.restarts a = k :: ks ∧
      standIn s a = some sub ∧ tileOfKey s k = some t0 ∧ (arrayOf s sub).feeding = none ∧ (arrayOf s sub).rerun = []) :=
  ⟨⟨draining, 5, 0, [], { tile0 with drain := some drain0 }, drain0, rfl, by decide +kernel, by decide +kernel, by decide +kernel,
      by decide +kernel, by decide +kernel, by decide +kernel⟩,
    ⟨draining, 5, 0, [], { tile0 with drain := some drain0 }, drain0, rfl, by decide +kernel, by decide +kernel, by decide +kernel,
      by decide +kernel, by decide +kernel, by decide +kernel, by decide +kernel, by decide +kernel, by decide +kernel, by decide +kernel,
      by decide +kernel, by decide +kernel, by decide +kernel⟩,
    ⟨draining, 5, 0, 6, [], { tile0 with drain := some drain0 }, rfl, by decide +kernel, by decide +kernel, by decide +kernel, by decide +kernel,
      by decide +kernel, by decide +kernel, by decide +kernel⟩,
    ⟨{ setReg running1 (Off.ARR_FENCED 0) 0x20 with arr := { ArrState.init with restarts := [(5, [0])] } }, 5, 0, 4, [], tile0, rfl,
      by decide +kernel, by decide +kernel, by decide +kernel, by decide +kernel, by decide +kernel⟩⟩

/-- The clauses of Obligations.RequestsBecomeBatches with hypotheses: 1, 2, 3, 4, 5, 6, 7. -/
theorem meets_RequestsBecomeBatches :
    (∃ (s : State) (q : Nat) (b : BatchQueue), let d := rd s (b.ringBase + 64 * (getF s (F.HST_REQ_HEAD_head q) % 2 ^ b.ringSize)) 64; Up s ∧
      queueDesc s q = some b ∧ readsRequests s = true ∧ q < 256 ∧ getF s (F.HST_REQ_HEAD_head q) ≠ getF s (F.HST_REQ_HEAD_tail q) ∧
      (crc32c (d.take 56)).toNat ≠ bits (wordAt d 7) 31 0) ∧
    (∃ (s : State) (q : Nat) (e : Nat) (b : BatchQueue), let d := rd s (b.ringBase + 64 * (getF s (F.HST_REQ_HEAD_head q) % 2 ^ b.ringSize)) 64;
      let row := 256 * bits (wordAt d 1) 39 0; Up s ∧ queueDesc s q = some b ∧ b.q = q ∧ readsRequests s = true ∧ q < 256 ∧
      getF s (F.HST_REQ_HEAD_head q) ≠ getF s (F.HST_REQ_HEAD_tail q) ∧ (crc32c (d.take 56)).toNat = bits (wordAt d 7) 31 0 ∧
      freeEntry s b = some e ∧ (queueOf s q).rows.length + (queueOf s q).copying.length < 256 ∧ slotFree s (bits (wordAt d 2) 10 0) = true ∧
      inStackTier row b.rowBytes = true ∧ touchesResults row b.rowBytes = false ∧ bits (wordAt d 3) 31 0 = b.rowBytes ∧
      (crc32c (rd s row b.rowBytes)).toNat = bits (wordAt d 3) 63 32) ∧
    (∃ (s : State), Up s ∧ readsRequests s = false) ∧
    (∃ (s : State) (q : Nat) (x : QueueRow) (xs : List QueueRow), Up s ∧ (queueOf s q).copying = x :: xs) ∧
    (∃ (s : State) (q : Nat), Up s ∧ (queueOf s q).copying = []) ∧
    (∃ (s : State) (q : Nat) (a : Nat) (b : BatchQueue), let rows := (seenRows s q).take 32; Up s ∧ queueDesc s q = some b ∧ planState s = .running ∧
      stopInForce s = false ∧ inHold s = false ∧ batchDue s b = true ∧ s.lch.skipped = false ∧
      standIn s (if rows.length ≤ b.quiet then b.quietArray else b.holdArray) = some a ∧ unitFree s a = true) ∧
    (∃ (s : State) (q : Nat) (b : BatchQueue), Up s ∧ queueDesc s q = some b ∧ batchDue s b = false) :=
  ⟨⟨setF (withPlan { plan1 with queues := [queue0] } 3) (F.HST_REQ_HEAD_tail 1) 2, 1, queue0, rfl, by decide +kernel, by decide +kernel,
      by decide +kernel, by decide +kernel, by decide +kernel⟩,
    ⟨withRequest, 1, 0, queue0, rfl, by decide +kernel, by decide +kernel, by decide +kernel, by decide +kernel, by decide +kernel,
      by decide +kernel, by decide +kernel, by decide +kernel, by decide +kernel, by decide +kernel, by decide +kernel, by decide +kernel,
      by decide +kernel⟩,
    ⟨ready, rfl, by decide +kernel⟩,
    ⟨{ running1 with arr := { ArrState.init with queues := [(1, { QueueRun.empty with copying := [⟨0, 5, 2, 0⟩, ⟨1, 6, 3, 0⟩] })] } }, 1,
      ⟨0, 5, 2, 0⟩, [⟨1, 6, 3, 0⟩], rfl, by decide +kernel⟩,
    ⟨running1, 1, rfl, by decide +kernel⟩,
    ⟨{ withPlan { plan1 with queues := [queue0] } 3 with arr := { ArrState.init with queues := [(1, { QueueRun.empty with rows := [⟨0, 5, 2, 990⟩] })] } },
      1, 1, queue0, rfl, by decide +kernel, by decide +kernel, by decide +kernel, by decide +kernel, by decide +kernel, by decide +kernel,
      by decide +kernel, by decide +kernel⟩,
    ⟨withPlan { plan1 with queues := [queue0] } 3, 1, queue0, rfl, by decide +kernel, by decide +kernel⟩⟩

/-- The clauses of Obligations.GradientsAreAddedAndQuantised with hypotheses: 1, 2, 3, 4. -/
theorem meets_GradientsAreAddedAndQuantised :
    (∃ (s : State) (i : Nat) (j : AddJob), Up s ∧ s.trn.adds[i]? = some j ∧ (∀ e ∈ s.trn.adds.take i, e.target.frond ≠ j.target.frond) ∧
      (ledgerGet s j.target.frond j.step).2.testBit j.target.mb = true) ∧
    (∃ (s : State) (i : Nat) (la : Nat) (j : AddJob), Up s ∧ s.trn.adds[i]? = some j ∧ (∀ e ∈ s.trn.adds.take i, e.target.frond ≠ j.target.frond) ∧
      (ledgerGet s j.target.frond j.step).2.testBit j.target.mb = false ∧ ledgerAddr s j.target.frond = some la ∧ j.target.mb < 64 ∧
      (la + 16 ≤ flashBase ∨ flashBase ≤ la) ∧ Apart (homeOf s j.target.frond) Fmt.g8.imageLen (ftPrimary s j.target.frond) 16 ∧
      Apart la 16 (ftPrimary s j.target.frond) 16) ∧
    (∃ (s : State) (f : Nat), Up s ∧ f < ftCount s ∧ EntryApart s f) ∧
    (∃ (s : State) (id : Nat) (h : Shard), Up s ∧ (ownShards s).find? (fun x => x.id == id) = some h ∧ jobSize s ≠ 1 ∧ h.flashHomed = false ∧
      h.skipZero = false ∧ id ∉ s.trn.haveParts ∧ (∀ i, i < h.gradCount → gradKey h i ∉ s.trn.quant ∧ ∃ r ∈ s.trn.sums, r.shard = h.id ∧ r.idx = i)) :=
  ⟨⟨{ ledgerSet (job 1 2) 20 0 1 8 with trn := { TrnState.init with adds := [add0] } }, 0, add0, rfl, by decide +kernel, by decide +kernel,
      by decide +kernel⟩,
    ⟨{ job 1 2 with trn := { TrnState.init with adds := [add0] } }, 0, 0x500000, add0, rfl, by decide +kernel, by decide +kernel, by decide +kernel,
      by decide +kernel, by decide +kernel, by decide +kernel, by unfold Apart; decide +kernel, by unfold Apart; decide +kernel⟩,
    ⟨job 1 2, 20, rfl, by decide +kernel, by unfold EntryApart Apart; decide +kernel⟩,
    ⟨{ job 1 2 with trn := { TrnState.init with sums := [⟨1, 0, 0, 2 ^ 80, List.replicate 65536 0⟩] } }, 1, shard0, rfl, by decide +kernel,
      by decide +kernel, by decide +kernel, by decide +kernel, by decide +kernel, by decide +kernel⟩⟩

/-- The clauses of Obligations.NormMessagesAndTimeouts with hypotheses: 1, 2, 3, 4, 5, 6. -/
theorem meets_NormMessagesAndTimeouts :
    (∃ (s : State), Up s ∧ s.trn.normSent = false ∧ normReady s = true ∧ others s = []) ∧
    (∃ (s : State) (a : Nat) (k : Nat), Up s ∧ s.trn.normSent = false ∧ normReady s = true ∧ others s = [a] ∧ route s a false = some k) ∧
    (∃ (s : State), Up s ∧ (s.trn.normSent = true ∨ normReady s = false)) ∧
    (∃ (s : State) (p : Plan), Up s ∧ s.plan = some p ∧ inHold s = false ∧ s.trn.normFrom ≠ 0 ∧
      s.trn.normFrom - 1 + (if p.header.normTimeout = 0 then 390625 else p.header.normTimeout) ≤ slot s) ∧
    (∃ (s : State) (q : Nat) (p : Plan), Up s ∧ s.plan = some p ∧ inHold s = false ∧ FMap.get 0 s.trn.sweepFrom q ≠ 0 ∧
      FMap.get 0 s.trn.sweepFrom q - 1 + (if p.header.sweepTimeout = 0 then 390625 else p.header.sweepTimeout) < slot s) ∧
    (∃ (s : State), Up s ∧ inHold s = true) :=
  ⟨⟨{ job 1 1 with trn := { TrnState.init with haveParts := [1] } }, rfl, by decide +kernel, by decide +kernel, by decide +kernel⟩,
    ⟨{ setReg (chained 2) (Off.LCH_SYNC 2) 1 with trn := { TrnState.init with haveParts := [1] } }, 1, 1, rfl, by decide +kernel, by decide +kernel,
      by decide +kernel, by decide +kernel⟩,
    ⟨ready, rfl, by decide +kernel⟩,
    ⟨{ setF (withPlan plan1 3) F.LCH_SLOT_slot 500000 with trn := { TrnState.init with normFrom := 1 } }, plan1, rfl, by decide +kernel,
      by decide +kernel, by decide +kernel, by decide +kernel⟩,
    ⟨{ setF (withPlan plan1 3) F.LCH_SLOT_slot 500000 with trn := { TrnState.init with sweepFrom := [(0, 1)] } }, 0, plan1, rfl, by decide +kernel,
      by decide +kernel, by decide +kernel, by decide +kernel⟩,
    ⟨setF ready F.SAF_HOLD_pending 1, rfl, by decide +kernel⟩⟩

/-- The clauses of Obligations.TheStepIsDecided with hypotheses: 1, 2. -/
theorem meets_TheStepIsDecided :
    (∃ (s : State) (p : Plan) (d : Nat), Up s ∧ s.plan = some p ∧ p.training = true ∧ lossOpen s = false ∧ s.trn.normSent = true ∧
      partsReady s = true ∧ (∀ a ∈ awaited s s.trn.cur, (normOf s a s.trn.cur).isSome = true) ∧ divisorOf s s.trn.cur = some d ∧
      p.header.reportCount = 0) ∧
    (∃ (s : State), Up s ∧ s.trn.normSent = false) :=
  ⟨⟨decides, plan2 1 1, 4, rfl, by decide +kernel, by decide +kernel, by decide +kernel, by decide +kernel, by decide +kernel, by decide +kernel,
      by decide +kernel, by decide +kernel⟩,
    ⟨ready, rfl, by decide +kernel⟩⟩

/-- The clauses of Obligations.SweepsUpdateOrFault with hypotheses: 1, 2, 3, 4, 5. -/
theorem meets_SweepsUpdateOrFault :
    (∃ (s : State) (p : Plan) (q : Nat) (k : Nat) (l : Launch) (h : Shard) (g : Nat), Up s ∧ s.plan = some p ∧ runningSweep s q = some (k, l) ∧
      stopInForce s = false ∧ inHold s = false ∧ FMap.get false s.trn.fencedUpd q = false ∧ outcomeOf s (stepOf s (keyIter k)) ∈ [1, 2] ∧
      (sweepWork s l)[(unitOf s (784 + q)).progress]? = some (h, g) ∧ h.id ∉ s.trn.zeroShards ∧ (g = 0 → shardReady s h q = true) ∧
      poisonedAt s (homeOf s (h.gradFirst + g)) = false ∧ (∀ st ∈ h.streams, ∀ id ∈ h.groupFronds st g, checkOk s (h.fmtOf st) (homeOf s id) = true ∧
      (headerAt s (homeOf s id)).step.toNat ≠ stepOf s (keyIter k))) ∧
    (∃ (s : State) (p : Plan) (q : Nat) (k : Nat) (l : Launch) (h : Shard) (g : Nat), Up s ∧ s.plan = some p ∧ runningSweep s q = some (k, l) ∧
      stopInForce s = false ∧ inHold s = false ∧ FMap.get false s.trn.fencedUpd q = false ∧ outcomeOf s (stepOf s (keyIter k)) ∈ [1, 2] ∧
      (sweepWork s l)[(unitOf s (784 + q)).progress]? = some (h, g) ∧ h.id ∈ s.trn.zeroShards) ∧
    (∃ (s : State) (p : Plan) (q : Nat) (k : Nat) (l : Launch), Up s ∧ s.plan = some p ∧ runningSweep s q = some (k, l) ∧ stopInForce s = false ∧
      inHold s = false ∧ FMap.get false s.trn.fencedUpd q = false ∧ outcomeOf s (stepOf s (keyIter k)) = 0) ∧
    (∃ (s : State) (p : Plan) (q : Nat) (k : Nat) (l : Launch), Up s ∧ s.plan = some p ∧ runningSweep s q = some (k, l) ∧ stopInForce s = false ∧
      inHold s = false ∧ FMap.get false s.trn.fencedUpd q = false ∧ 2 < outcomeOf s (stepOf s (keyIter k))) ∧
    (∃ (s : State), Up s) :=
  ⟨⟨swept, plan2 1 1, 0, 0, { launch0 .sweep 272 0 with pass := 0xFFFF }, shard0, 0, rfl, by decide +kernel, by decide +kernel, by decide +kernel,
      by decide +kernel, by decide +kernel, by decide +kernel, by decide +kernel, by decide +kernel,
      fun _ => by unfold shardReady; simp only [show Shard.stateFronds shard0 = [8] by decide +kernel, List.all_cons, List.all_nil, swept_8]; decide +kernel,
      by rw [show shard0.gradFirst + 0 = 20 from rfl, homeOf_of_ftGet swept_20, show (entry0 0x100000 .g8 3).home = 0x100000 from rfl]; unfold poisonedAt; rw [swept_head, swept_0]; decide +kernel,
      by
        intro st hst id hid
        have h0 : st = 0 := by simpa [show Shard.streams shard0 = [0] by decide +kernel] using hst
        subst h0
        have h8 : id = 8 := by simpa [show Shard.groupFronds shard0 0 0 = [8] by decide +kernel] using hid
        subst h8
        rw [homeOf_of_ftGet swept_8, show (entry0 0x180000 .fp32 1).home = 0x180000 from rfl, swept_step]
        exact ⟨swept_check, by decide +kernel⟩⟩,
    ⟨(let s := sweeping 1; { s with trn := { s.trn with zeroShards := [1] } }), plan2 1 1, 0, 0, { launch0 .sweep 272 0 with pass := 0xFFFF },
      shard0, 0, rfl, by decide +kernel, by decide +kernel, by decide +kernel, by decide +kernel, by decide +kernel, by decide +kernel,
      by decide +kernel, by decide +kernel⟩,
    ⟨sweeping 0, plan2 1 1, 0, 0, { launch0 .sweep 272 0 with pass := 0xFFFF }, rfl, by decide +kernel, by decide +kernel, by decide +kernel,
      by decide +kernel, by decide +kernel, by decide +kernel⟩,
    ⟨sweeping 4, plan2 1 1, 0, 0, { launch0 .sweep 272 0 with pass := 0xFFFF }, rfl, by decide +kernel, by decide +kernel, by decide +kernel,
      by decide +kernel, by decide +kernel, by decide +kernel⟩,
    ⟨ready, rfl⟩⟩

/-- The clauses of Obligations.DigestsAreComparedAndRepaired with hypotheses: 1, 2, 3, 4, 5, 6, 7, 8. -/
theorem meets_DigestsAreComparedAndRepaired :
    (∃ (s : State) (id : Nat) (a : Nat) (k : Nat) (h : Shard), Up s ∧ (ownShards s).find? (fun x => x.id == id) = some h ∧ id ∈ s.trn.owed ∧
      otherOwners s = [a] ∧ route s a false = some k ∧ (digestOf s id (s.trn.committed - 1)).got = []) ∧
    (∃ (s : State) (p : Plan) (id : Nat) (h : Shard), Up s ∧ s.plan = some p ∧ (ownShards s).find? (fun x => x.id == id) = some h ∧
      s.trn.owed = [id] ∧ s.trn.digests = [] ∧ otherOwners s = []) ∧
    (∃ (s : State) (id : Nat), Up s ∧ id ∈ s.trn.owed) ∧
    (∃ (s : State) (id : Nat), Up s ∧ id ∉ s.trn.owed) ∧
    (∃ (s : State) (id : Nat) (src : Nat) (k : Nat) (h : Shard) (own : List Byte) (mj : List Byte), Up s ∧
      (ownShards s).find? (fun x => x.id == id) = some h ∧ (digestOf s id (s.trn.committed - 1)).own = some own ∧
      (digestOf s id (s.trn.committed - 1)).round = 0 ∧ majorityOf (own :: (digestOf s id (s.trn.committed - 1)).got.map (·.2)) = some mj ∧
      own ≠ mj ∧ (ownersByGroup s).find? (fun a => (digestOf s id (s.trn.committed - 1)).got.any fun g => g.1 == a && g.2 == mj) = some src ∧
      route s src false = some k) ∧
    (∃ (s : State) (id : Nat) (h : Shard) (own : List Byte), Up s ∧ (ownShards s).find? (fun x => x.id == id) = some h ∧
      (digestOf s id (s.trn.committed - 1)).own = some own ∧ (digestOf s id (s.trn.committed - 1)).round = 0 ∧
      (∃ g ∈ (digestOf s id (s.trn.committed - 1)).got, g.2 ≠ own) ∧ majorityOf (own :: (digestOf s id (s.trn.committed - 1)).got.map (·.2)) = none) ∧
    (∃ (s : State) (q : Nat) (n : Nat) (g : Nat) (h : Shard), Up s ∧ groupAt s q = some (n, h, g) ∧ inHold s = true ∧ q ∈ s.trn.repair ∧
      (∀ j ∈ s.trn.fetches, j.why ≠ 2) ∧ (∀ st ∈ h.streams, ∀ id ∈ h.groupFronds st g, checkOk s (stateFmt h id) (homeOf s id) = true ∧
      (headerAt s (homeOf s id)).step.toNat = n)) ∧
    (∃ (s : State) (q : Nat), Up s ∧ q ∉ s.trn.repair) :=
  ⟨⟨{ chained 2 with trn := { TrnState.init with owed := [1], committed := 1 } }, 1, 1, 1, shard0, rfl, by decide +kernel, by decide +kernel,
      by decide +kernel, by decide +kernel, by decide +kernel⟩,
    ⟨(let s := job 1 1; { s with trn := { TrnState.init with owed := [1], committed := 1 }, maint := ⟨[⟨5, 0, 0⟩], []⟩ }), plan2 1 1, 1, shard0, rfl,
      by decide +kernel, by decide +kernel, by decide +kernel, by decide +kernel, by decide +kernel⟩,
    ⟨{ job 1 1 with trn := { TrnState.init with owed := [1], committed := 1 } }, 1, rfl, by decide +kernel⟩,
    ⟨ready, 1, rfl, by decide +kernel⟩,
    ⟨{ chained 3 with trn := { TrnState.init with committed := 1, digests := [⟨1, 0, some [1], [(1, [2]), (2, [2])], 0, 0, 0⟩] } }, 1, 1, 1, shard0,
      [1], [2], rfl, by decide +kernel, by decide +kernel, by decide +kernel, by decide +kernel, by decide +kernel, by decide +kernel,
      by decide +kernel⟩,
    ⟨{ chained 2 with trn := { TrnState.init with committed := 1, digests := [⟨1, 0, some [1], [(1, [2])], 0, 0, 0⟩] } }, 1, shard0, [1], rfl,
      by decide +kernel, by decide +kernel, by decide +kernel, by decide +kernel, by decide +kernel⟩,
    ⟨repaired, 0, 0, 0, shard0, rfl, by decide +kernel, by decide +kernel, by decide +kernel, by decide +kernel,
      by
        intro st hst id hid
        have h0 : st = 0 := by simpa [show Shard.streams shard0 = [0] by decide +kernel] using hst
        subst h0
        have h8 : id = 8 := by simpa [show Shard.groupFronds shard0 0 0 = [8] by decide +kernel] using hid
        subst h8
        rw [repaired_home, repaired_step]
        exact ⟨repaired_check, by decide +kernel⟩⟩,
    ⟨ready, 0, rfl, by decide +kernel⟩⟩

/-- The clauses of Obligations.SnapshotsGoToTheirSlot with hypotheses: 1, 2, 3. -/
theorem meets_SnapshotsGoToTheirSlot :
    (∃ (s : State) (n : Nat), let kib := (snapFronds s).foldl (fun t x => t + flashKib x.2) 4; Up s ∧ s.trn.snapOwed = some n ∧
      hasF s F.FLS_STATUS_flash_closed = false ∧ kib ≤ s.fls.granted) ∧
    (∃ (s : State) (n : Nat), Up s ∧ s.trn.snapOwed = some n) ∧
    (∃ (s : State), Up s ∧ s.trn.snapOwed = none) :=
  ⟨⟨(let s := setF (setF (setF (chained 2) F.UPD_SNAP_CFG_base 0x800000000) F.UPD_SNAP_SIZE_pages 100) F.FLS_STATUS_flash_closed 0; { s with trn := { TrnState.init with snapOwed := some 5 }, fls := { s.fls with granted := 1000 } }),
      5, rfl, by decide +kernel, by decide +kernel, by decide +kernel⟩,
    ⟨(let s := setF (setF (chained 2) F.UPD_SNAP_CFG_base 0x800000000) F.UPD_SNAP_SIZE_pages 100; { s with trn := { TrnState.init with snapOwed := some 5 } }),
      5, rfl, by decide +kernel⟩,
    ⟨ready, rfl, by decide +kernel⟩⟩

/-- The clauses of Obligations.FlitsKeepTheirOrder with hypotheses: 1, 2, 3, 4, 5, 6. -/
theorem meets_FlitsKeepTheirOrder :
    (∃ (s : State) (k : Nat), Up s ∧ k < 4 ∧ portUp s k = true) ∧
    (∃ (s : State) (k : Nat) (ft : Nat), Up s ∧ k < 4 ∧ portUp s k = true ∧ ft ≠ 2) ∧
    (∃ (s : State) (k : Nat) (seq : Nat), Up s ∧ k < 4 ∧ portUp s k = true ∧ seq ≠ (portRun s k).rxNext) ∧
    (∃ (s : State) (k : Nat) (ack : Nat), Up s ∧ k < 4 ∧ portUp s k = true ∧ (ack + 1) % 2 ^ 24 ≠ (portRun s k).txSeq ∧
      ((portRun s k).txSeq + 2 ^ 24 - (ack + 1) % 2 ^ 24) % 2 ^ 24 ≤ 512 ∧ (portRun s k).replays < 63) ∧
    (∃ (s : State) (k : Nat), Up s ∧ k < 4 ∧ portUp s k = true) ∧
    (∃ (s : State) (k : Nat), Up s ∧ portUp s k = false) :=
  ⟨⟨chained 3, 1, rfl, by decide +kernel, by decide +kernel⟩,
    ⟨chained 3, 1, 0, rfl, by decide +kernel, by decide +kernel, by decide +kernel⟩,
    ⟨chained 3, 1, 5, rfl, by decide +kernel, by decide +kernel, by decide +kernel⟩,
    ⟨(let s := chained 3; { s with chn := { s.chn with ports := [(1, { PortRun.fresh with txSeq := 9 })] } }), 1, 5, rfl, by decide +kernel,
      by decide +kernel, by decide +kernel, by decide +kernel, by decide +kernel⟩,
    ⟨chained 3, 0, rfl, by decide +kernel, by decide +kernel⟩,
    ⟨ready, 0, rfl, by decide +kernel⟩⟩

/-- The clauses of Obligations.PortsComeUpAndGoDown with hypotheses: 1, 2, 3, 4, 5, 6. -/
theorem meets_PortsComeUpAndGoDown :
    (∃ (s : State) (k : Nat), Up s ∧ phaseEnded s 5 = true ∧ k < 4 ∧ portUp s k = false ∧ getF s (F.CHN_PORT_state k) ≠ 3 ∧
      (portRun s k).failed = false ∧ s.chn.closed = true) ∧
    (∃ (s : State) (k : Nat), Up s ∧ phaseEnded s 5 = true ∧ k < 4 ∧ portUp s k = false ∧ getF s (F.CHN_PORT_state k) ≠ 3 ∧
      (portRun s k).failed = false ∧ s.chn.closed = true) ∧
    (∃ (s : State), Up s ∧ phaseEnded s 5 = true ∧ portUp s 1 = false ∧ getF s (F.CHN_PORT_state 1) ≠ 3 ∧ (portRun s 1).failed = false ∧
      (portRun s 0).failed = false ∧ isHead s = true ∧ addressing s = true ∧ s.chn.tokenAt = none) ∧
    (∃ (s : State) (k : Nat), Up s ∧ (k = 2 ∨ k = 3) ∧ portUp s k = true) ∧
    (∃ (s : State) (k : Nat), Up s ∧ (k = 2 ∨ k = 3) ∧ ⟨3, 0, k⟩ ∈ s.maint.running) ∧
    (∃ (s : State) (k : Nat), Up s ∧ ⟨3, 0, k⟩ ∉ s.maint.running) :=
  ⟨⟨setF (chained 3) (F.CHN_PORT_state 1) 0, 1, rfl, by decide +kernel, by decide +kernel, by decide +kernel, by decide +kernel, by decide +kernel,
      by decide +kernel⟩,
    ⟨setF (chained 3) (F.CHN_PORT_state 1) 0, 1, rfl, by decide +kernel, by decide +kernel, by decide +kernel, by decide +kernel, by decide +kernel,
      by decide +kernel⟩,
    ⟨setF ready F.CHN_ADDR_head 1, rfl, by decide +kernel, by decide +kernel, by decide +kernel, by decide +kernel, by decide +kernel,
      by decide +kernel, by decide +kernel, by decide +kernel⟩,
    ⟨setF (chained 3) F.SAF_POLICY_auto_retrain 1, 2, rfl, by decide +kernel, by decide +kernel⟩,
    ⟨{ setF (chained 3) (F.CHN_PORT_state 2) 0 with maint := ⟨[⟨3, 0, 2⟩], []⟩ }, 2, rfl, by decide +kernel, by decide +kernel⟩,
    ⟨ready, 2, rfl, by decide +kernel⟩⟩

/-- The clauses of Obligations.AddressingGivesEachModuleAnAddress with hypotheses: 1, 2, 3, 4, 5, 6. -/
theorem meets_AddressingGivesEachModuleAnAddress :
    (∃ (s : State) (v : Nat), Up s ∧ isHead s = false ∧ addressing s = true ∧ s.chn.origin = none ∧ v < 64) ∧
    (∃ (s : State) (n : Nat) (o : Word), Up s ∧ isHead s = false ∧ addressing s = true ∧ s.chn.origin = some o ∧ myAddr s < n ∧ n ≤ 64 ∧ (∀ a,
      linkLost s a = false)) ∧
    (∃ (s : State) (code : Nat), Up s ∧ 1 ≤ code ∧ code ≤ 6 ∧ getF s F.CHN_ADDR_error = 0) ∧
    (∃ (s : State) (t0 : Nat), Up s ∧ addressing s = true ∧ isHead s = false ∧ s.chn.trainAt = some t0 ∧ s.chn.origin = none ∧ t0 + 7812500 ≤ slot s) ∧
    (∃ (s : State) (t0 : Nat), Up s ∧ addressing s = true ∧ isHead s = true ∧ s.chn.tokenAt = some t0 ∧ t0 + 7812500 ≤ slot s) ∧
    (∃ (s : State), Up s ∧ addressing s = false) :=
  ⟨⟨ready, 5, rfl, by decide +kernel, by decide +kernel, by decide +kernel, by decide +kernel⟩,
    ⟨{ ready with chn := { ChnState.init with origin := some 77 } }, 2, 77, rfl, by decide +kernel, by decide +kernel, by decide +kernel,
      by decide +kernel, by decide +kernel, fun _ => rfl⟩,
    ⟨ready, 3, rfl, by decide +kernel, by decide +kernel, by decide +kernel⟩,
    ⟨{ atSlot 7812500 with chn := { ChnState.init with trainAt := some 0 } }, 0, rfl, by decide +kernel, by decide +kernel, by decide +kernel,
      by decide +kernel, by decide +kernel⟩,
    ⟨{ setF (atSlot 7812500) F.CHN_ADDR_head 1 with chn := { ChnState.init with tokenAt := some 0 } }, 0, rfl, by decide +kernel, by decide +kernel,
      by decide +kernel, by decide +kernel⟩,
    ⟨chained 3, rfl, by decide +kernel⟩⟩

/-- The clauses of Obligations.TheChainProbesAndHeals with hypotheses: 1, 2, 3, 4, 5, 6, 7, 8. -/
theorem meets_TheChainProbesAndHeals :
    (∃ (s : State) (port : Nat), Up s ∧ s.chn.closed = true ∧ 3 ≤ chainLen s ∧ (port = 2 ∨ port = 3)) ∧
    (∃ (s : State) (port : Nat) (a : Nat), Up s ∧ s.chn.closed = true ∧ 3 ≤ chainLen s ∧ (port = 2 ∨ port = 3) ∧ a ≠ skipNeighbour s port) ∧
    (∃ (s : State) (port : Nat), Up s ∧ s.chn.closed = true ∧ 3 ≤ chainLen s ∧ (port = 2 ∨ port = 3) ∧ port ∉ s.chn.probed ∧
      s.chn.closedAt + 390625 ≤ slot s ∧ getF s (F.CHN_PORT_state port) ≠ 3) ∧
    (∃ (s : State) (a : Nat) (n : Nat), Up s ∧ s.chn.closed = false ∧ a < n ∧ n ≤ 64) ∧
    (∃ (s : State), Up s ∧ s.chn.closed = true ∧ s.chn.rejoined = false ∧ (∀ a, linkLost s a = false)) ∧
    (∃ (s : State) (e : Nat), Up s ∧ s.chn.closed = true ∧ s.chn.rejoined = false ∧ e ≠ (myAddr s + 1) % chainLen s ∧ getF s F.CHN_ADDR_error = 0) ∧
    (∃ (s : State) (link : Nat), Up s ∧ link < chainLen s ∧ 2 ≤ chainLen s ∧ (∀ a, linkLost s a = false) ∧ s.chn.unacked = []) ∧
    (∃ (s : State) (link : Nat), Up s ∧ linkLost s link = true) :=
  ⟨⟨chained 3, 2, rfl, by decide +kernel, by decide +kernel, by decide +kernel⟩,
    ⟨chained 3, 2, 2, rfl, by decide +kernel, by decide +kernel, by decide +kernel, by decide +kernel⟩,
    ⟨setF (chained 3) F.LCH_SLOT_slot 400000, 3, rfl, by decide +kernel, by decide +kernel, by decide +kernel, by decide +kernel, by decide +kernel,
      by decide +kernel⟩,
    ⟨ready, 2, 5, rfl, by decide +kernel, by decide +kernel, by decide +kernel⟩,
    ⟨chained 3, rfl, by decide +kernel, by decide +kernel, fun _ => rfl⟩,
    ⟨chained 3, 2, rfl, by decide +kernel, by decide +kernel, by decide +kernel, by decide +kernel⟩,
    ⟨chained 3, 1, rfl, by decide +kernel, by decide +kernel, fun _ => rfl, by decide +kernel⟩,
    ⟨(let s := chained 3; { s with chn := { s.chn with lost := [(1, true)] } }), 1, rfl, by decide +kernel⟩⟩

/-- The clauses of Obligations.MessagesAreKeptAndDelivered with hypotheses: 1, 2, 3, 4, 5, 6, 7, 8. -/
theorem meets_MessagesAreKeptAndDelivered :
    (∃ (s : State) (src : Nat) (k : Nat), Up s ∧ FMap.get 0 s.chn.ackDue src ≠ 0 ∧ src ≠ myAddr s ∧ route s src false = some k) ∧
    (∃ (s : State), Up s ∧ (∀ u ∈ s.chn.unacked, u.msg.kind ≠ 0x20)) ∧
    (∃ (s : State) (dest : Nat) (k : Nat) (u : Unacked), Up s ∧ s.chn.unacked = [u] ∧ u.dest = dest ∧ u.sent + 3907 ≤ slot s ∧
      u.msg.dest ≠ myAddr s ∧ route s u.msg.dest (skips s u.msg.kind u.msg.body) = some k) ∧
    (∃ (s : State) (dest : Nat), Up s ∧ (∀ u ∈ s.chn.unacked, u.dest ≠ dest)) ∧
    (∃ (s : State) (m : ChainMsg), Up s ∧ s.chn.closed = true ∧ m.dest = myAddr s ∧ m.headOk = true ∧ m.kind = 0x10 ∧ m.source < chainLen s ∧
      m.seq = FMap.get 0 s.chn.rxNext m.source ∧ m.seq < 2 ^ 32 ∧ m.jobTag = getF s F.CHN_JOB_job_tag ∧ s.chn.held = [] ∧
      FMap.get 0 s.chn.rxCount m.source < 15 ∧ (syncFlags s (bits (wordAt m.body 0) 24 12)).imp = true) ∧
    (∃ (s : State) (m : ChainMsg), Up s ∧ s.chn.closed = true ∧ m.dest = myAddr s ∧ m.headOk = true ∧ 7 < m.kind ∧ m.source < chainLen s ∧
      0 < (m.seq + 2 ^ 32 - FMap.get 0 s.chn.rxNext m.source) % 2 ^ 32 ∧ (m.seq + 2 ^ 32 - FMap.get 0 s.chn.rxNext m.source) % 2 ^ 32 < 2 ^ 31 ∧
      (∀ x ∈ s.chn.held, x.source = m.source → x.seq ≠ m.seq)) ∧
    (∃ (s : State) (m : ChainMsg), Up s ∧ s.chn.closed = true ∧ m.dest = myAddr s ∧ m.headOk = false ∧ 7 ≤ m.kind) ∧
    (∃ (s : State) (m : ChainMsg) (k : Nat), Up s ∧ s.chn.closed = true ∧ m.dest ≠ myAddr s ∧ m.dest < chainLen s ∧
      route s m.dest (skips s m.kind m.body) = some k) :=
  ⟨⟨(let s := chained 3; { s with chn := { s.chn with ackDue := [(1, 1)] } }), 1, 1, rfl, by decide +kernel, by decide +kernel, by decide +kernel⟩,
    ⟨(let s := chained 3; { s with chn := { s.chn with unacked := [⟨1, 4, 0, ⟨0x10, 0, 1, 4, 0, true, []⟩⟩, ⟨1, 6, 0, ⟨0x10, 0, 1, 6, 0, true, []⟩⟩] } }),
      rfl, by decide +kernel⟩,
    ⟨(let s := setF (chained 3) F.LCH_SLOT_slot 5000; { s with chn := { s.chn with unacked := [⟨1, 4, 0, ⟨0x10, 0, 1, 4, 0, true, []⟩⟩] } }), 1, 1,
      ⟨1, 4, 0, ⟨0x10, 0, 1, 4, 0, true, []⟩⟩, rfl, by decide +kernel, by decide +kernel, by decide +kernel, by decide +kernel, by decide +kernel⟩,
    ⟨ready, 1, rfl, by decide +kernel⟩,
    ⟨{ chained 3 with lch := { LchState.init with flags := [(7, ⟨false, true, false, false⟩)] } }, ⟨0x10, 1, 0, 0, 0, true, wordBytes [7 * 4096, 5]⟩,
      rfl, by decide +kernel, by decide +kernel, by decide +kernel, by decide +kernel, by decide +kernel, by decide +kernel, by decide +kernel,
      by decide +kernel, by decide +kernel, by decide +kernel, by decide +kernel⟩,
    ⟨chained 3, ⟨0x10, 1, 0, 3, 0, true, wordBytes [7 * 4096, 5]⟩, rfl, by decide +kernel, by decide +kernel, by decide +kernel, by decide +kernel,
      by decide +kernel, by decide +kernel, by decide +kernel, by decide +kernel⟩,
    ⟨chained 3, ⟨0x10, 1, 0, 0, 0, false, wordBytes [7 * 4096, 5]⟩, rfl, by decide +kernel, by decide +kernel, by decide +kernel, by decide +kernel⟩,
    ⟨chained 3, ⟨0x10, 2, 1, 0, 0, true, wordBytes [7 * 4096, 5]⟩, 1, rfl, by decide +kernel, by decide +kernel, by decide +kernel, by decide +kernel⟩⟩

/-- The clauses of Obligations.MessagesOfEachKindAreTakenIn with hypotheses: 1, 2, 3, 4, 5, 6, 7. -/
theorem meets_MessagesOfEachKindAreTakenIn :
    (∃ (s : State) (o : Nat), Up s ∧ (syncFlags s o).imp = true) ∧
    (∃ (s : State) (o : Nat), Up s ∧ (syncFlags s o).imp = false) ∧
    (∃ (s : State) (n : Nat) (m : Nat), Up s ∧ nearStep s n = some m ∧ s.chn.loss = none) ∧
    (∃ (s : State) (n : Nat) (m : Nat), Up s ∧ nearStep s n = some m) ∧
    (∃ (s : State), Up s) ∧
    (∃ (s : State) (sh : Nat) (n : Nat), Up s ∧ (digestOf s sh n).own = none ∧ s.trn.owed ≠ []) ∧
    (∃ (s : State) (sh : Nat) (n : Nat) (own : List Byte) (dg : List Byte), Up s ∧ (digestOf s sh n).own = some own ∧ (digestOf s sh n).round = 0 ∧
      own ≠ dg ∧ s.trn.owed ≠ []) :=
  ⟨⟨{ ready with lch := { LchState.init with flags := [(7, ⟨false, true, false, false⟩)] } }, 7, rfl, by decide +kernel⟩,
    ⟨ready, 7, rfl, by decide +kernel⟩,
    ⟨{ ready with trn := { TrnState.init with cur := 2 ^ 32 - 1 } }, 0, 2 ^ 32, rfl, by decide +kernel, by decide +kernel⟩,
    ⟨ready, 1, 1, rfl, by decide +kernel⟩,
    ⟨ready, rfl⟩,
    ⟨{ ready with trn := { TrnState.init with owed := [1] } }, 2, 3, rfl, by decide +kernel, by decide +kernel⟩,
    ⟨{ ready with trn := { TrnState.init with owed := [1], digests := [⟨2, 3, some [4], [], 0, 0, 0⟩] } }, 2, 3, [4], [5], rfl, by decide +kernel,
      by decide +kernel, by decide +kernel, by decide +kernel⟩⟩

set_option maxRecDepth 1000000 in
/-- The clauses of Obligations.PartnersServeEachOther with hypotheses: 1, 2, 3, 4, 5, 6. -/
theorem meets_PartnersServeEachOther :
    (∃ (s : State) (id : Nat), Up s ∧ (ftGet s id).valid = true ∧ (ftGet s id).inMove = true) ∧
    (∃ (s : State) (src : Nat) (id : Nat) (k : Nat), Up s ∧ (ftGet s id).valid = false ∧ src ≠ myAddr s ∧ route s src false = some k) ∧
    (∃ (s : State) (src : Nat) (id : Nat) (k : Nat), Up s ∧ (ftGet s id).valid = true ∧ (ftGet s id).inMove = false ∧ (ftGet s id).poisoned = false ∧
      checkOk s (ftGet s id).fmt (ftGet s id).home = true ∧ src ≠ myAddr s ∧ route s src false = some k) ∧
    (∃ (s : State) (id : Nat) (tag : Nat) (data : List Byte) (j : FetchJob), Up s ∧
      s.trn.fetches.find? (fun j => j.tag == tag && j.frond == id) = some j ∧ j.why = 0 ∧ j.move = false ∧ data.length = (ftGet s id).fmt.imageLen ∧
      s.chn.reqs = [] ∧ (Header.ofBytes ((data.drop payloadLen).take 64)).step = j.step ∧
      frondCheck data = (Header.ofBytes ((data.drop payloadLen).take 64)).check) ∧
    (∃ (s : State), Up s ∧ s.trn.fetches = []) ∧
    (∃ (s : State) (a : Nat), Up s ∧ a < 64) :=
  ⟨⟨ftSet (chained 3) 20 { entry0 0x100000 .g8 3 with inMove := true }, 20, rfl, by decide +kernel, by decide +kernel⟩,
    ⟨chained 3, 1, 21, 1, rfl, by decide +kernel, by decide +kernel, by decide +kernel⟩,
    ⟨serves, 1, 20, 1, rfl, by rw [serves_20]; decide +kernel, by rw [serves_20]; decide +kernel, by rw [serves_20]; decide +kernel,
      by rw [serves_20]; exact serves_check, by decide +kernel, by decide +kernel⟩,
    ⟨{ chained 3 with trn := { TrnState.init with fetches := [⟨20, 5, 0xC00000, 0, 0, false, 1, 0⟩] } }, 20, 5, image20,
      ⟨20, 5, 0xC00000, 0, 0, false, 1, 0⟩, rfl, by decide +kernel, by decide +kernel, by decide +kernel, by rw [image20_length]; decide +kernel,
      by decide +kernel, by rw [image20_header]; exact (step_writeCheck (chained 3) .g8 0x100000 (by decide)).trans (by decide +kernel),
      by rw [image20_header]; exact image20_check⟩,
    ⟨ready, rfl, by decide +kernel⟩,
    ⟨chained 3, 13, rfl, by decide +kernel⟩⟩

/-- The clauses of Obligations.LossReportsDecideTheStep with hypotheses: 1, 2, 3, 4, 5, 6. -/
theorem meets_LossReportsDecideTheStep :
    (∃ (s : State), Up s ∧ s.chn.loss = none) ∧
    (∃ (s : State) (r : Nat) (l : LossRun), Up s ∧ s.chn.loss = some l ∧ r ∉ l.heard) ∧
    (∃ (s : State) (l : LossRun), Up s ∧ s.chn.loss = some l ∧ l.open0 = true ∧ l.at0 + 3907 ≤ slot s) ∧
    (∃ (s : State) (l : LossRun), Up s ∧ s.chn.loss = some l ∧ slot s < l.at0 + 3907) ∧
    (∃ (s : State) (p : Plan) (l : LossRun) (m : Nat) (n : Nat), Up s ∧ s.plan = some p ∧ s.chn.loss = some l ∧ l.dropped = some m ∧ m ≤ n ∧
      oldReduces s (n - p.header.startStep) l.at0 = []) ∧
    (∃ (s : State), Up s ∧ s.chn.loss = none) :=
  ⟨⟨chained 3, rfl, by decide +kernel⟩,
    ⟨lost0 1000 loss0, 1, loss0, rfl, by decide +kernel, by decide +kernel⟩,
    ⟨lost0 5000 loss0, loss0, rfl, by decide +kernel, by decide +kernel, by decide +kernel⟩,
    ⟨lost0 1000 loss0, loss0, rfl, by decide +kernel, by decide +kernel⟩,
    ⟨lost0 1000 { loss0 with dropped := some 3 }, plan2 1 3, { loss0 with dropped := some 3 }, 3, 4, rfl, by decide +kernel, by decide +kernel,
      by decide +kernel, by decide +kernel, by decide +kernel⟩,
    ⟨ready, rfl, by decide +kernel⟩⟩

/-- The clauses of Obligations.CollectivesAndPermutesMoveFronds with hypotheses: 1, 2, 3, 4, 5, 6, 7. -/
theorem meets_CollectivesAndPermutesMoveFronds :
    (∃ (s : State) (src : Nat) (d : Nat) (iter : Nat) (idx : Nat) (k : Nat) (r : CollRun) (c : CollDesc), Up s ∧ s.chn.loss = none ∧
      collRun s d iter false = some r ∧ descOf s d = some c ∧ r.direct = true ∧ r.queue = [] ∧ idx ∉ r.sealed ∧ c.regather = none ∧
      c.versionIdx = none ∧ src ≠ myAddr s ∧ route s src false = some k) ∧
    (∃ (s : State), Up s ∧ s.chn.loss = none ∧ s.chn.colls = []) ∧
    (∃ (s : State), Up s ∧ s.chn.colls = []) ∧
    (∃ (s : State) (r : CollRun), Up s ∧ s.chn.colls = [r] ∧ r.queue = []) ∧
    (∃ (s : State) (r : PermRun), Up s ∧ s.chn.perm = some r ∧ r.go = none ∧ others s = []) ∧
    (∃ (s : State) (r : PermRun) (a : Nat) (m : LayoutRec), Up s ∧ s.chn.perm = some r ∧ r.go = none ∧ others s = [a] ∧
      s.chn.layouts.find? (fun m => m.source == a && m.step == r.step % 2 ^ 32) = some m ∧ m.layout ≠ r.layout) ∧
    (∃ (s : State) (r : PermRun) (c : CollRun) (sh : Nat) (i : Nat) (b : Nat) (id : Nat) (cl : Nat) (k : Nat) (h : Shard) (f : Fmt), Up s ∧
      permRunOf s = some (r, c) ∧ r.go = some true ∧ permMoves s r = [(h, myAddr s, b)] ∧ h.id = sh ∧ (permFronds h)[i]? = some (id, f, cl) ∧
      64 * id + b ∉ r.sentF ∧ b ≠ myAddr s ∧ checkOk s f (homeOf s id) = true ∧ c.queue = [] ∧ 0 < FMap.get 0 c.credit b ∧
      route s b (skips s 0x20 (dataBody c 4 0 id (frondImage s f (homeOf s id)))) = some k) :=
  ⟨⟨gathers 3, 1, 0, 0, 2, 1, run0, coll0, rfl, by decide +kernel, by decide +kernel, by decide +kernel, by decide +kernel, by decide +kernel,
      by decide +kernel, by decide +kernel, by decide +kernel, by decide +kernel, by decide +kernel⟩,
    ⟨chained 3, rfl, by decide +kernel, by decide +kernel⟩,
    ⟨chained 3, rfl, by decide +kernel⟩,
    ⟨gathers 3, run0, rfl, by decide +kernel, by decide +kernel⟩,
    ⟨(let s := job 1 1; { s with chn := { s.chn with roles := [(0, 4096)], perm := some (perm0 1 none) } }), perm0 1 none, rfl, by decide +kernel,
      by decide +kernel, by decide +kernel⟩,
    ⟨(let s := chained 2; { s with chn := { s.chn with perm := some (perm0 1 none), layouts := [⟨1, 5, 2, 0, 0⟩] } }), perm0 1 none, 1,
      ⟨1, 5, 2, 0, 0⟩, rfl, by decide +kernel, by decide +kernel, by decide +kernel, by decide +kernel, by decide +kernel⟩,
    ⟨permutes, { perm0 1 (some true) with roles := [(0, 4096), (1, 4160)] }, { run0 with credit := [(1, 4)] }, 1, 0, 1, 8, 0, 1,
      { shard0 with position := 1 }, .fp32, rfl, by decide +kernel, by decide +kernel, by decide +kernel, by decide +kernel, by decide +kernel,
      by decide +kernel, by decide +kernel, by rw [homeOf_of_ftGet permutes_8]; exact permutes_check, by decide +kernel, by decide +kernel,
      by decide +kernel⟩⟩

set_option maxRecDepth 1000000 in
/-- The clauses of Obligations.SamplesAreFiledAndCounted with hypotheses: 1, 2, 3, 4, 5, 6. -/
theorem meets_SamplesAreFiledAndCounted :
    (∃ (s : State), Up s ∧ s.plan.isSome = true ∧ getF s F.INT_SUB_HEAD_head ≠ getF s F.INT_SUB_TAIL_tail ∧ descOk (nextDesc s) = false) ∧
    (∃ (s : State), Up s ∧ s.plan.isSome = true ∧ getF s F.INT_SUB_HEAD_head ≠ getF s F.INT_SUB_TAIL_tail ∧ descOk (nextDesc s) = true ∧
      2 ≤ (descStep (nextDesc s) + 2 ^ 32 - s.trn.cur % 2 ^ 32) % 2 ^ 32 ∧ (descStep (nextDesc s) + 2 ^ 32 - s.trn.cur % 2 ^ 32) % 2 ^ 32 < 2 ^ 31) ∧
    (∃ (s : State) (b : IntakeBatch) (i : Nat), Up s ∧ s.plan.isSome = true ∧ getF s F.INT_SUB_HEAD_head ≠ getF s F.INT_SUB_TAIL_tail ∧
      descOk (nextDesc s) = true ∧ (descStep (nextDesc s) + 2 ^ 32 - s.trn.cur % 2 ^ 32) % 2 ^ 32 = i ∧ i < 2 ∧
      batchFor s (descM (nextDesc s)) (descSlot (nextDesc s)) = some b ∧
      filedOf s (s.trn.cur + i) (descM (nextDesc s)) (descSlot (nextDesc s)) = none ∧
      doneOf s (s.trn.cur + i) (descM (nextDesc s)) (descSlot (nextDesc s)) = none) ∧
    (∃ (s : State), Up s) ∧
    (∃ (s : State) (p : Plan), Up s ∧ s.plan = some p ∧ p.training = true ∧ s.int.sent ≤ s.trn.cur ∧ p.iterations = 0 ∧
      countReady s p (s.trn.cur - p.header.startStep) = true ∧ others s = []) ∧
    (∃ (s : State) (p : Plan), Up s ∧ s.plan = some p ∧ s.int.sent ≤ s.trn.cur ∧ countReady s p (s.trn.cur - p.header.startStep) = false) :=
  ⟨⟨submits (List.replicate 128 9), rfl, by decide +kernel, by decide +kernel, by decide +kernel⟩,
    ⟨submits (let d := wordBytes [5, 0, 2 ^ 54 + 9, 0, 0, 0, 0, 0, 0, 0, 0, 0, 0, 0, 0]; d ++ wordBytes [(crc32c d).toNat]), rfl, by decide +kernel,
      by decide +kernel, by decide +kernel, by decide +kernel, by decide +kernel⟩,
    ⟨submits desc0, batch0 false, 0, rfl, by decide +kernel, by decide +kernel, by decide +kernel, by decide +kernel, by decide +kernel,
      by decide +kernel, by decide +kernel, by decide +kernel⟩,
    ⟨{ ready with int := { IntState.init with window := 320000000, filed := [⟨0, 0, 0, 0, [], 160000, false⟩] } }, rfl⟩,
    ⟨(let s := setF (job 1 1) F.CHN_ADDR_address 0; { s with chn := { s.chn with roles := [(0, 4096)] }, lch := { s.lch with anchors := [(0, 5)] }, int := { IntState.init with slots := [⟨0, 0, 0, 0, 0, 3⟩] } }),
      plan2 1 1, rfl, by decide +kernel, by decide +kernel, by decide +kernel, by decide +kernel, by decide +kernel, by decide +kernel⟩,
    ⟨job 1 1, plan2 1 1, rfl, by decide +kernel, by decide +kernel, by decide +kernel⟩⟩

set_option maxRecDepth 1000000 in
/-- The clauses of Obligations.SlotsOfABatchComplete with hypotheses: 1, 2, 3, 4. -/
theorem meets_SlotsOfABatchComplete :
    (∃ (s : State) (batch : Nat) (k : Nat) (b : IntakeBatch) (p : Plan) (i : Nat), Up s ∧ s.plan = some p ∧ runningIntake s batch = some (k, b) ∧
      b.first ≤ i ∧ i < b.first + b.count ∧ filedOf s (stepOf s (keyIter k)) b.m i = none ∧ doneOf s (stepOf s (keyIter k)) b.m i = none ∧
      (runOf s k).issueSlot + (if p.header.sampleTimeout = 0 then 390625 else p.header.sampleTimeout) ≤ slot s) ∧
    (∃ (s : State) (batch : Nat) (k : Nat) (b : IntakeBatch) (p : Plan), Up s ∧ s.plan = some p ∧ runningIntake s batch = some (k, b) ∧
      slot s < (runOf s k).issueSlot + (if p.header.sampleTimeout = 0 then 390625 else p.header.sampleTimeout)) ∧
    (∃ (s : State) (batch : Nat) (k : Nat) (b : IntakeBatch) (p : Plan) (i : Nat) (x : Sample), Up s ∧ s.plan = some p ∧
      runningIntake s batch = some (k, b) ∧ b.text = false ∧ b.first ≤ i ∧ i < b.first + b.count ∧ filedOf s (stepOf s (keyIter k)) b.m i = some x ∧
      x.done = false ∧ doneOf s (stepOf s (keyIter k)) b.m i = none) ∧
    (∃ (s : State) (batch : Nat) (k : Nat) (b : IntakeBatch) (p : Plan), Up s ∧ s.plan = some p ∧ runningIntake s batch = some (k, b) ∧
      b.text = true ∧ s.int.packed.contains k = false ∧ (∀ i, i < b.count →
      (filedOf s (stepOf s (keyIter k)) b.m (b.first + i)).isSome = true ∨ (doneOf s (stepOf s (keyIter k)) b.m (b.first + i)).isSome = true)) :=
  ⟨⟨setF (taking true) F.LCH_SLOT_slot 400000, 0, 0, batch0 true, plan4 true, 0, rfl, by decide +kernel, by decide +kernel, by decide +kernel,
      by decide +kernel, by decide +kernel, by decide +kernel, by decide +kernel⟩,
    ⟨taking true, 0, 0, batch0 true, plan4 true, rfl, by decide +kernel, by decide +kernel, by decide +kernel⟩,
    ⟨{ taking false with int := { IntState.init with filed := [⟨0, 0, 0, 0, desc0, 9, false⟩] } }, 0, 0, batch0 false, plan4 false, 0,
      ⟨0, 0, 0, 0, desc0, 9, false⟩, rfl, by decide +kernel, by decide +kernel, by decide +kernel, by decide +kernel, by decide +kernel,
      by decide +kernel, by decide +kernel, by decide +kernel⟩,
    ⟨{ taking true with int := { IntState.init with slots := [⟨0, 0, 0, 0, 10, 0⟩] } }, 0, 0, batch0 true, plan4 true, rfl, by decide +kernel,
      by decide +kernel, by decide +kernel, by decide +kernel, by decide +kernel⟩⟩

/-- The clauses of Obligations.FaultsTripOrHoldTheModule with hypotheses: 1, 2, 3, 4, 5, 6, 7, 8, 9, 10, 11. -/
theorem meets_FaultsTripOrHoldTheModule :
    (∃ (s : State) (c : Instr) (both : Bool) (die : Nat) (code : Nat), (s.pwr.mode = .up ∨ s.pwr.mode = .inReset) ∧ ((c = .overcurrentTrip both ∧
      code = 1) ∨ (c = .overvoltageTrip both ∧ code = 2) ∨ (c = .railTrip ∧ code = 5) ∨ (c = .junctionTrip die ∧ code = 8) ∨ (c = .watchdogExpiry ∧
      code = 0x16 ∧ Up s ∧ (s.saf.muted = true ∨ s.saf.beatAt + 391 ≤ slot s)))) ∧
    (∃ (s : State) (c : Instr) (both : Bool) (die : Nat), (s.pwr.mode = .off ∨ s.pwr.mode = .unpowered) ∧ c ∈ [.overcurrentTrip both,
      .overvoltageTrip both, .railTrip, .junctionTrip die, .watchdogExpiry]) ∧
    (∃ (s : State), Up s ∧ s.saf.muted = false ∧ slot s < s.saf.beatAt + 391) ∧
    (∃ (s : State) (c : Instr) (die : Nat), Up s ∧ c ∈ [.coreRailUnder, .dieSilent die, .packageLinkError die]) ∧
    (∃ (s : State) (c : Int), Up s ∧ 105 < c) ∧
    (∃ (s : State) (c : Int), Up s ∧ c ≤ 105) ∧
    (∃ (s : State), Up s ∧ hasF s F.HST_STATUS_device_ready = true ∧ 10 ≤ s.saf.flowLow) ∧
    (∃ (s : State) (m : Bool), Up s ∧ phaseEnded s 4 = true ∧ (m && hasF s F.SAF_STATUS_single_control) = false) ∧
    (∃ (s : State) (ppm : Int), Up s ∧ phaseEnded s 4 = true ∧ hasF s F.LCH_REF_STATUS_refclk_absent = false ∧ (1000 < ppm ∨ ppm < -1000)) ∧
    (∃ (s : State) (ppm : Int), Up s ∧ phaseEnded s 4 = true ∧ hasF s F.LCH_REF_STATUS_refclk_absent = false ∧ ppm ≤ 1000 ∧ -1000 ≤ ppm) ∧
    (∃ (s : State) (o : Nat), Up s ∧ o < 8192) :=
  ⟨⟨ready, .railTrip, true, 4, 5, by decide +kernel, Or.inr (Or.inr (Or.inl ⟨rfl, rfl⟩))⟩,
    ⟨{ ready with pwr := { PwrState.init with mode := .off } }, .railTrip, true, 4, by decide +kernel, by decide +kernel⟩,
    ⟨ready, rfl, by decide +kernel, by decide +kernel⟩,
    ⟨ready, .dieSilent 5, 5, rfl, by decide +kernel⟩,
    ⟨ready, 106, rfl, by decide +kernel⟩,
    ⟨ready, 105, rfl, by decide +kernel⟩,
    ⟨{ ready with saf := { SafState.init with flowLow := 10 } }, rfl, by decide +kernel, by decide +kernel⟩,
    ⟨ready, false, rfl, by decide +kernel, by decide +kernel⟩,
    ⟨ready, -1001, rfl, by decide +kernel, by decide +kernel, by decide +kernel⟩,
    ⟨ready, -1000, rfl, by decide +kernel, by decide +kernel, by decide +kernel, by decide +kernel⟩,
    ⟨ready, 8191, rfl, by decide +kernel⟩⟩

/-- The clauses of Obligations.SensorsAreShownAndJudged with hypotheses: 1, 2, 3, 4, 5, 6, 7, 8. -/
theorem meets_SensorsAreShownAndJudged :
    (∃ (s : State) (d : Nat) (t0 : Int) (t1 : Int), Up s ∧ phaseEnded s 1 = true ∧ ⟨6, 0, d⟩ ∉ s.maint.running ∧ implausible s d (t0, t1) = false ∧
      -200 ≤ t0 ∧ -200 ≤ t1) ∧
    (∃ (s : State) (d : Nat) (t0 : Int) (t1 : Int), Up s ∧ phaseEnded s 1 = true ∧ ⟨6, 0, d⟩ ∉ s.maint.running ∧ implausible s d (t0, t1) = true) ∧
    (∃ (s : State) (d : Nat) (t0 : Int) (t1 : Int), Up s ∧ phaseEnded s 1 = true ∧ ⟨6, 0, d⟩ ∉ s.maint.running ∧ implausible s d (t0, t1) = false ∧
      t0 < -200 ∧ t1 < -200 ∧ (FMap.get noTemp s.saf.temps d = noTemp ∨ -200 ≤ dieTemp s d)) ∧
    (∃ (s : State) (x : Nat), Up s ∧ 50 ≤ x ∧ x < 65536 ∧ flowMin s ≤ x) ∧
    (∃ (s : State) (x : Nat), Up s ∧ x < 50 ∧ 0 < flowMin s) ∧
    (∃ (s : State), Up s) ∧
    (∃ (s : State), Up s) ∧
    (∃ (s : State), Up s) :=
  ⟨⟨ready, 5, 600, 610, rfl, by decide +kernel, by decide +kernel, by decide +kernel, by decide +kernel, by decide +kernel⟩,
    ⟨ready, 5, 600, 2000, rfl, by decide +kernel, by decide +kernel, by decide +kernel⟩,
    ⟨ready, 5, -201, -202, rfl, by decide +kernel, by decide +kernel, by decide +kernel, by decide +kernel, by decide +kernel, by decide +kernel⟩,
    ⟨ready, 5000, rfl, by decide +kernel, by decide +kernel, by decide +kernel⟩,
    ⟨setF ready F.SAF_POLICY_flow_min 20, 49, rfl, by decide +kernel, by decide +kernel⟩,
    ⟨ready, rfl⟩,
    ⟨ready, rfl⟩,
    ⟨ready, rfl⟩⟩

/-- The clauses of Obligations.TheControlPairDecides with hypotheses: 1, 2, 3, 4, 5, 6, 7, 8, 9. -/
theorem meets_TheControlPairDecides :
    (∃ (s : State), Up s ∧ phaseEnded s 1 = true ∧ hasF s F.SAF_STATUS_single_control = false) ∧
    (∃ (s : State), Up s ∧ s.saf.checking = true) ∧
    (∃ (s : State), Up s ∧ s.saf.checking = true) ∧
    (∃ (s : State), Up s ∧ s.saf.checking = true) ∧
    (∃ (s : State), Up s ∧ s.saf.checking = true) ∧
    (∃ (s : State), Up s ∧ s.saf.checking = false) ∧
    (∃ (s : State), Up s ∧ hasF s F.SAF_STATUS_single_control = true) ∧
    (∃ (s : State), Up s) ∧
    (∃ (s : State) (die : Nat), Up s ∧ (die = 96 ∨ die = 97) ∧ getF s F.SAF_CONTROL_fenced_die ≠ die ∧ s.saf.muted = false) :=
  ⟨⟨ready, rfl, by decide +kernel, by decide +kernel⟩,
    ⟨{ ready with saf := { SafState.init with checking := true } }, rfl, by decide +kernel⟩,
    ⟨{ ready with saf := { SafState.init with checking := true } }, rfl, by decide +kernel⟩,
    ⟨{ ready with saf := { SafState.init with checking := true } }, rfl, by decide +kernel⟩,
    ⟨{ ready with saf := { SafState.init with checking := true } }, rfl, by decide +kernel⟩,
    ⟨ready, rfl, by decide +kernel⟩,
    ⟨setF ready F.SAF_STATUS_single_control 1, rfl, by decide +kernel⟩,
    ⟨ready, rfl⟩,
    ⟨ready, 96, rfl, by decide +kernel, by decide +kernel, by decide +kernel⟩⟩

/-- The clauses of Obligations.ResumeReleasesTheCauses with hypotheses: 1, 2, 3. -/
theorem meets_ResumeReleasesTheCauses :
    (∃ (s : State) (v : Word), HostUp s ∧ (∀ c, c < 14 → bit v c = true → (getF s F.SAF_HOLD_pending).testBit c = true ∧ releaseOk s c = true) ∧
      getF s F.SAF_HOLD_pending &&& bits v 13 0 ≠ getF s F.SAF_HOLD_pending) ∧
    (∃ (s : State) (v : Word), HostUp s ∧ (∀ c, c < 14 → bit v c = true → (getF s F.SAF_HOLD_pending).testBit c = true ∧ releaseOk s c = true) ∧
      getF s F.SAF_HOLD_pending ≠ 0 ∧ getF s F.SAF_HOLD_pending &&& bits v 13 0 = getF s F.SAF_HOLD_pending ∧ planState s = .held ∧ (∀ p,
      s.plan = some p → p.layers = [])) ∧
    (∃ (s : State) (v : Word) (c : Nat), HostUp s ∧ c < 14 ∧ bit v c = true ∧
      ((getF s F.SAF_HOLD_pending).testBit c = false ∨ releaseOk s c = false)) :=
  ⟨⟨setF ready F.SAF_HOLD_pending 0x1001, 1, ⟨rfl, by decide +kernel⟩, by decide +kernel, by decide +kernel⟩,
    ⟨setF (withPlan plan1 5) F.SAF_HOLD_pending 0x11, 0x11, ⟨rfl, by decide +kernel⟩, by decide +kernel, by decide +kernel, by decide +kernel,
      by decide +kernel, by decide +kernel⟩,
    ⟨setF ready F.SAF_HOLD_pending 0x1001, 0x1001, 12, ⟨rfl, by decide +kernel⟩, by decide +kernel, by decide +kernel, by decide +kernel⟩⟩

/-- The clauses of Obligations.HostSlicesNeedManufactureOrReturn with hypotheses: 1, 2. -/
theorem meets_HostSlicesNeedManufactureOrReturn :
    (∃ (s : State) (k : Nat) (u : Nat), HostUp s ∧ (lifecycle s = 0 ∨ lifecycle s = 4) ∧ k < 5 ∧ u < 2 ^ 21) ∧
    (∃ (s : State), HostUp s ∧ lifecycle s ≠ 0 ∧ lifecycle s ≠ 4) :=
  ⟨⟨ready, 0, 5, ⟨rfl, by decide +kernel⟩, by decide +kernel, by decide +kernel, by decide +kernel⟩,
    ⟨owned, ⟨rfl, by decide +kernel⟩, by decide +kernel, by decide +kernel⟩⟩

/-- The clauses of Obligations.MaintenanceRunsAndEnds with hypotheses: 1, 2, 3, 4, 5, 6. -/
theorem meets_MaintenanceRunsAndEnds :
    (∃ (s : State) (a : Nat) (k : Nat) (u : Nat), Up s ∧ ⟨a, k, u⟩ ∈ s.maint.waiting ∧ mayStart s ⟨a, k, u⟩ = true ∧
      (∀ y ∈ s.maint.waiting.takeWhile (· != ⟨a, k, u⟩), mayStart s y = false)) ∧
    (∃ (s : State) (u : Nat), Up s ∧ s.maint.running = [⟨0, 0, u⟩] ∧ u < 512 ∧ fenced s u = true) ∧
    (∃ (s : State) (u : Nat), Up s ∧ s.maint.running = [⟨0, 0, u⟩] ∧ u < 512 ∧ fenced s u = false) ∧
    (∃ (s : State) (x : Activity), Up s ∧ s.maint.running = [x] ∧ x.act = 0) ∧
    (∃ (s : State) (d : Nat) (t0 : Int) (t1 : Int), Up s ∧ ⟨6, 0, d⟩ ∈ s.maint.running ∧ FMap.get noTemp s.saf.temps d = (t0, t1) ∧ (t0,
      t1) ≠ noTemp ∧ FMap.get none s.saf.alone d = none ∧ FMap.get (0, 0) s.saf.doubt d = (2, 0) ∧ outOfRange t0 = true ∧ outOfRange t1 = false) ∧
    (∃ (s : State), Up s) :=
  ⟨⟨{ ready with maint := ⟨[], [⟨6, 0, 4⟩]⟩ }, 6, 0, 4, rfl, by decide +kernel, by decide +kernel, by decide +kernel⟩,
    ⟨{ setReg ready (Off.ARR_FENCED 0) 0x20 with maint := ⟨[⟨0, 0, 5⟩], []⟩ }, 5, rfl, by decide +kernel, by decide +kernel, by decide +kernel⟩,
    ⟨{ ready with maint := ⟨[⟨0, 0, 5⟩], []⟩ }, 5, rfl, by decide +kernel, by decide +kernel, by decide +kernel⟩,
    ⟨{ ready with maint := ⟨[⟨0, 0, 5⟩], []⟩ }, ⟨0, 0, 5⟩, rfl, by decide +kernel, by decide +kernel⟩,
    ⟨{ ready with maint := ⟨[⟨6, 0, 4⟩], []⟩, saf := { SafState.init with temps := [(4, (2000, 600))], doubt := [(4, (2, 0))] } }, 4, 2000, 600, rfl,
      by decide +kernel, by decide +kernel, by decide +kernel, by decide +kernel, by decide +kernel, by decide +kernel, by decide +kernel⟩,
    ⟨{ ready with maint := ⟨[⟨4, 0, 1⟩], []⟩ }, rfl⟩⟩

/-- The clauses of Obligations.AttestationAndCertificates with hypotheses: 1, 2, 3, 4. -/
theorem meets_AttestationAndCertificates :
    (∃ (s : State), HostUp s ∧ (lifecycle s = 5 ∨ seedPresent s.fuse = false)) ∧
    (∃ (s : State), HostUp s ∧ lifecycle s ≠ 5 ∧ seedPresent s.fuse = true ∧ (secBlock s 32).length = 32) ∧
    (∃ (s : State), HostUp s ∧ lifecycle s ≠ 0 ∧ lifecycle s ≠ 4) ∧
    (∃ (s : State), HostUp s ∧ (lifecycle s = 0 ∨ lifecycle s = 4)) :=
  ⟨⟨ready, ⟨rfl, by decide +kernel⟩, by decide +kernel⟩,
    ⟨owned, ⟨rfl, by decide +kernel⟩, by decide +kernel, by decide +kernel, by decide +kernel⟩,
    ⟨owned, ⟨rfl, by decide +kernel⟩, by decide +kernel, by decide +kernel⟩,
    ⟨ready, ⟨rfl, by decide +kernel⟩, by decide +kernel⟩⟩

/-- The clauses of Obligations.KeysAreLoadedAndErased with hypotheses: 1, 2, 3, 4, 5. -/
theorem meets_KeysAreLoadedAndErased :
    (∃ (s : State), HostUp s ∧ (lifecycle s = 1 ∨ lifecycle s = 5)) ∧
    (∃ (s : State), HostUp s ∧ lifecycle s ≠ 1 ∧ lifecycle s ≠ 5 ∧ hasF s F.SEC_STATUS_lock = true) ∧
    (∃ (s : State), HostUp s ∧ lifecycle s ≠ 1 ∧ lifecycle s ≠ 5 ∧ hasF s F.SEC_STATUS_lock = false ∧ s.sec.tenant.isSome = true) ∧
    (∃ (s : State), HostUp s ∧ lifecycle s ≠ 1 ∧ lifecycle s ≠ 5 ∧ hasF s F.SEC_STATUS_lock = false ∧ s.sec.tenant = none ∧ tierUsable s = true ∧
      keyBlockOk (secBlock s 1704) = true ∧ s.sec.session.isSome = true ∧ wordAt (secBlock s 1704) 1 = s.sec.sessionId ∧ s.nv.commitment = none) ∧
    (∃ (s : State), HostUp s ∧ movingFlash s = none) :=
  ⟨⟨{ owned with fuse := { OneTime.blank with t := 1, tCopy := 1 } }, ⟨rfl, by decide +kernel⟩, by decide +kernel⟩,
    ⟨setF owned F.SEC_STATUS_lock 1, ⟨rfl, by decide +kernel⟩, by decide +kernel, by decide +kernel, by decide +kernel⟩,
    ⟨{ owned with sec := { SecState.init with tenant := some [1] } }, ⟨rfl, by decide +kernel⟩, by decide +kernel, by decide +kernel,
      by decide +kernel, by decide +kernel⟩,
    ⟨wr { owned with sec := { SecState.init with session := some [1], sessionId := 9 } } 0 (wordBytes [0x594B4E57 + 2 ^ 32, 9, 4]),
      ⟨rfl, by decide +kernel⟩, by decide +kernel, by decide +kernel, by decide +kernel, by decide +kernel, by decide +kernel, by decide +kernel,
      by decide +kernel, by decide +kernel, by decide +kernel⟩,
    ⟨{ owned with sec := { SecState.init with tenant := some [1] } }, ⟨rfl, by decide +kernel⟩, by decide +kernel⟩⟩

/-- The clauses of Obligations.TokensMoveTheLifecycle with hypotheses: 1, 2, 3, 4, 5, 6, 7. -/
theorem meets_TokensMoveTheLifecycle :
    (∃ (s : State), HostUp s ∧ readToken (secBlock s 29984) = none) ∧
    (∃ (s : State) (k : Token), HostUp s ∧ readToken (secBlock s 29984) = some k) ∧
    (∃ (s : State), HostUp s ∧ hasF s F.SEC_STATUS_lock = true) ∧
    (∃ (s : State), HostUp s ∧ hasF s F.SEC_STATUS_lock = false ∧ (secBlock s 8).length = 8 ∧
      bits (wordAt (secBlock s 8) 0) 31 0 ≤ rollbackFloor s.fuse) ∧
    (∃ (s : State) (l : Nat), HostUp s ∧ hasF s F.SEC_STATUS_lock = false ∧ (secBlock s 8).length = 8 ∧ getF s F.CTL_STATUS_config_source ≠ 0 ∧
      rollbackFloor s.fuse < bits (wordAt (secBlock s 8) 0) 31 0 ∧ bits (wordAt (secBlock s 8) 0) 31 0 ≤ selectedSeq s ∧ ownerLife s.fuse = some l ∧
      l < s.fuse.floors.length ∧ (floorSlots s.fuse).length < 16) ∧
    (∃ (s : State), HostUp s) ∧
    (∃ (s : State), HostUp s) :=
  ⟨⟨ready, ⟨rfl, by decide +kernel⟩, by decide +kernel⟩,
    ⟨wr owned 0 (wordBytes [0x4B544E57 + 2 ^ 32 + 2 ^ 48, 0, 0, 0x42]), ⟨1, false, 0, 0, 2, 4, List.replicate 32 0⟩, ⟨rfl, by decide +kernel⟩,
      by decide +kernel⟩,
    ⟨setF ready F.SEC_STATUS_lock 1, ⟨rfl, by decide +kernel⟩, by decide +kernel⟩,
    ⟨ready, ⟨rfl, by decide +kernel⟩, by decide +kernel, by decide +kernel, by decide +kernel⟩,
    ⟨wr { setF owned F.CTL_STATUS_config_source 1 with nv := { owned.nv with copyA := wordBytes [0, 9, 0] } } 0 (wordBytes [7]), 0,
      ⟨rfl, by decide +kernel⟩, by decide +kernel, by decide +kernel, by decide +kernel, by decide +kernel, by decide +kernel, by decide +kernel,
      by decide +kernel, by decide +kernel⟩,
    ⟨ready, ⟨rfl, by decide +kernel⟩⟩,
    ⟨ready, ⟨rfl, by decide +kernel⟩⟩⟩

/-- The clauses of Obligations.TamperErasesTheKeys with hypotheses: 1, 2, 3, 4, 5, 6, 7, 8. -/
theorem meets_TamperErasesTheKeys :
    (∃ (s : State), Up s ∧ (∀ t0, s.sec.glitch = some t0 → t0 + 3906250 ≤ slot s) ∧ s.sec.class1.length < 7) ∧
    (∃ (s : State) (t0 : Nat), Up s ∧ s.sec.glitch = some t0 ∧ slot s < t0 + 3906250) ∧
    (∃ (s : State), Up s) ∧
    (∃ (s : State) (shorted : Bool), Up s ∧ (shorted = true ∨ s.fuse.breach = true)) ∧
    (∃ (s : State), ¬Up s ∧ s.fuse.breach = false) ∧
    (∃ (s : State), Up s ∧ ⟨8, 0, 0⟩ ∈ s.maint.running ∧ s.sec.session = none) ∧
    (∃ (s : State) (dk : List Byte), Up s ∧ ⟨8, 0, 0⟩ ∈ s.maint.running ∧ s.sec.session = some dk) ∧
    (∃ (s : State), Up s ∧ ⟨8, 0, 0⟩ ∉ s.maint.running) :=
  ⟨⟨ready, rfl, fun t0 h => absurd h (by decide +revert), by decide +kernel⟩,
    ⟨{ ready with sec := { SecState.init with glitch := some 5, tenant := some [1] } }, 5, rfl, by decide +kernel, by decide +kernel⟩,
    ⟨ready, rfl⟩,
    ⟨owned, true, rfl, by decide +kernel⟩,
    ⟨{ owned with pwr := { PwrState.init with mode := .unpowered } }, by unfold Up; decide +kernel, by decide +kernel⟩,
    ⟨{ ready with maint := ⟨[⟨8, 0, 0⟩], []⟩ }, rfl, by decide +kernel, by decide +kernel⟩,
    ⟨{ ready with maint := ⟨[⟨8, 0, 0⟩], []⟩, sec := { SecState.init with session := some [1], sessionId := 2 ^ 32 * 3 + 9 } }, [1], rfl,
      by decide +kernel, by decide +kernel⟩,
    ⟨ready, rfl, by decide +kernel⟩⟩

/-- The clauses of Obligations.TheRackControllerIsAnswered with hypotheses: 1, 2, 3, 4, 5, 6, 7, 8, 9, 10, 11, 12, 13, 14, 15, 16. -/
theorem meets_TheRackControllerIsAnswered :
    (∃ (s : State), RackUp s) ∧
    (∃ (s : State), RackUp s) ∧
    (∃ (s : State) (p : Nat), RackUp s ∧ (p = 0 ∨ p = 2)) ∧
    (∃ (s : State) (p : Nat), RackUp s ∧ p ≠ 0 ∧ p ≠ 2) ∧
    (∃ (s : State), RackUp s) ∧
    (∃ (s : State), Up s) ∧
    (∃ (s : State) (off : Nat) (n : Nat), RackUp s ∧ off % 8 = 0 ∧ 0 < n ∧ n ≤ 8 ∧ off + 8 * n ≤ 2 ^ 26) ∧
    (∃ (s : State) (off : Nat) (n : Nat), RackUp s ∧ (off % 8 ≠ 0 ∨ n = 0 ∨ 8 < n ∨ 2 ^ 26 < off + 8 * n)) ∧
    (∃ (s : State) (off : Nat) (r : RegRow), RackUp s ∧ off % 8 = 0 ∧ off < 2 ^ 26 ∧ off ≠ Off.CTL_COMMIT ∧ rowAt off = some r ∧ r.isStaged = true ∧
      mayStage s 2 = true) ∧
    (∃ (s : State) (off : Nat) (r : RegRow), RackUp s ∧ off % 8 = 0 ∧ off < 2 ^ 26 ∧ off ≠ Off.CTL_COMMIT ∧ rowAt off = some r ∧ r.isStaged = true ∧
      mayStage s 2 = false) ∧
    (∃ (s : State) (v : Word), RackUp s ∧ bits v 1 0 = 1 ∧ mayStage s 2 = true ∧ s.ctl.frozen = none) ∧
    (∃ (s : State) (off : Nat) (r : RegRow), RackUp s ∧ off % 8 = 0 ∧ off < 2 ^ 26 ∧ off ≠ Off.CTL_COMMIT ∧ rowAt off = some r ∧ r.isStaged = false) ∧
    (∃ (s : State) (off : Nat), RackUp s ∧ (off % 8 ≠ 0 ∨ 2 ^ 26 ≤ off)) ∧
    (∃ (s : State), RackUp s) ∧
    (∃ (s : State), RackUp s ∧ getF s F.CTL_CLAIM_owner = 2) ∧
    (∃ (s : State), RackUp s ∧ getF s F.CTL_CLAIM_owner ≠ 2) :=
  ⟨⟨ready, ⟨rfl, by decide +kernel⟩⟩,
    ⟨ready, ⟨rfl, by decide +kernel⟩⟩,
    ⟨ready, 2, ⟨rfl, by decide +kernel⟩, by decide +kernel⟩,
    ⟨ready, 1, ⟨rfl, by decide +kernel⟩, by decide +kernel, by decide +kernel⟩,
    ⟨ready, ⟨rfl, by decide +kernel⟩⟩,
    ⟨ready, rfl⟩,
    ⟨ready, 0, 8, ⟨rfl, by decide +kernel⟩, by decide +kernel, by decide +kernel, by decide +kernel, by decide +kernel⟩,
    ⟨ready, 4, 1, ⟨rfl, by decide +kernel⟩, by decide +kernel⟩,
    ⟨claimed 2, Off.PWR_THROTTLE, throttleRow, ⟨rfl, by decide +kernel⟩, by decide +kernel, by decide +kernel, by decide +kernel, by decide +kernel,
      by decide +kernel, by decide +kernel⟩,
    ⟨claimed 1, Off.PWR_THROTTLE, throttleRow, ⟨rfl, by decide +kernel⟩, by decide +kernel, by decide +kernel, by decide +kernel, by decide +kernel,
      by decide +kernel, by decide +kernel⟩,
    ⟨claimed 2, 1, ⟨rfl, by decide +kernel⟩, by decide +kernel, by decide +kernel, by decide +kernel⟩,
    ⟨ready, Off.HST_STATUS, (rowAt Off.HST_STATUS).getD throttleRow, ⟨rfl, by decide +kernel⟩, by decide +kernel, by decide +kernel,
      by decide +kernel, by decide +kernel, by decide +kernel⟩,
    ⟨ready, 4, ⟨rfl, by decide +kernel⟩, by decide +kernel⟩,
    ⟨claimed 1, ⟨rfl, by decide +kernel⟩⟩,
    ⟨claimed 2, ⟨rfl, by decide +kernel⟩, by decide +kernel⟩,
    ⟨claimed 1, ⟨rfl, by decide +kernel⟩, by decide +kernel⟩⟩

/-- The clauses of Obligations.CommandsReachOnlyWhatTheyMay with hypotheses: 2, 3, 4, 5. -/
theorem meets_CommandsReachOnlyWhatTheyMay :
    (∃ (c : Instr) (s : State), ¬Up s ∧ alwaysOn c = false) ∧
    (∃ (c : Instr) (s : State), hostLink s = false ∧ hostCommand c = true) ∧
    (∃ (c : Instr) (s : State) (a : Nat) (p : Nat) (m : Nat) (off : Nat) (n : Nat) (v : Word) (rq : List Byte), rackUp s = false ∧ c ∈ [.entdaa a,
      .mctpControl rq, .pldm p n, .mctpOtherDrop m, .read off n, .write off v, .claim, .releaseClaim]) ∧
    (∃ (c : Instr), programsStore c = false) :=
  ⟨⟨.slotBoundary, { State.reset with pwr := { PwrState.init with mode := .off } }, by unfold Up; decide +kernel, by decide +kernel⟩,
    ⟨.numClear 0, State.reset, by decide +kernel, by decide +kernel⟩,
    ⟨.claim, { State.reset with pwr := { PwrState.init with mode := .off } }, 0, 0, 0, 0, 0, 0, [], by decide +kernel, by decide +kernel⟩,
    ⟨.slotBoundary, by decide +kernel⟩⟩

end Sys2Proof.Tests

end
end

section
/-!
PROOFS. Register writes, staging writes and the claim (R14, R17, R348), and the values that reset leaves (R20, R336).
-/

namespace Sys2Proof.Machine

/-! ### How a host access settles -/

/-- A host access of a module that the host reaches answers its effect, when that keeps the queue and the one-time store. -/
theorem does_hostStep {c : Instr} {s : State} {f : State → State} {p : State → Prop} {ps : List Part} {l : List Nat}
    (he : exec c s = settle s (hostStep s f)) (h : HostUp s) (ho : Only ps l s (f s)) (hq : Part.pending ∉ ps) (hf : Part.fuse ∉ ps)
    (hp : p (f s)) : Does c s p := by
  have hl : hostStep s f = f s := if_pos h.2
  exact does_settle (he.trans (congrArg (settle s) hl)) h.1 (ho.pending hq) (ho.fuse hf) hp

/-! ### Accesses of R14 -/

theorem bar0Ok_aligned {off : Nat} (h : off % 8 = 0) (wo : Bool) : bar0Ok off 8 wo = true := by simp [bar0Ok, h]

/-- An aligned 64-bit access falls on the register at its own offset. -/
theorem base_of_aligned {off : Nat} (h : off % 8 = 0) : off / 8 * 8 = off := Nat.div_mul_cancel (Nat.dvd_of_mod_eq_zero h)

@[simp] theorem placed_eight (off : Nat) (v : Word) : placed off 8 v = v := rfl

@[simp] theorem reachOf_eight (off : Nat) : reachOf off 8 = BitVec.allOnes 64 := rfl

theorem only_recordAccess (s : State) (bar : Nat) (write : Bool) (size off : Nat) :
    Only [] [Off.HST_ACCESS_ERR] s (recordAccess s bar write size off) := only_setReg s _ _

theorem only_refusedWrite (s : State) (off size : Nat) :
    Only eventParts [Off.HST_ERR_STATUS, Off.HST_ACCESS_ERR, Off.HST_IRQ_PENDING] s (bar0Refused s off size true) :=
  ((only_hostErr s F.HST_ERR_STATUS_access_error).mono (fun _ h => h) (by decide)).trans
    ((only_recordAccess _ 0 true size off).mono (by simp) (by decide))

theorem hasF_refusedWrite (s : State) (off size : Nat) :
    hasF (bar0Refused s off size true) F.HST_ERR_STATUS_access_error = true := by
  have hkeep : getF (bar0Refused s off size true) F.HST_ERR_STATUS_access_error =
      getF (hostErr s F.HST_ERR_STATUS_access_error) F.HST_ERR_STATUS_access_error :=
    (only_recordAccess _ 0 true size off).field _ (by decide)
  unfold hasF
  rw [hkeep]
  exact hasF_flag s _ 3 (by decide) (by decide) (by decide)

/-! ### Writes by access code, R17 -/

theorem bit_and (a b : Word) (i : Nat) : bit (a &&& b) i = (bit a i && bit b i) := BitVec.getLsbD_and

theorem bit_or (a b : Word) (i : Nat) : bit (a ||| b) i = (bit a i || bit b i) := BitVec.getLsbD_or

theorem bit_not (a : Word) {i : Nat} (h : i < 64) : bit (~~~a) i = !bit a i := by simp [bit, h]

theorem only_writeFields (s : State) (off : Nat) (r : RegRow) (v reach : Word) : Only [] [off] s (writeFields s off r v reach) :=
  only_setReg s off _

/-- A bit after a write by access codes: W1C bits written 1 clear, RW bits take the value, every other bit stands. -/
theorem bit_writeFields (s : State) (off : Nat) (r : RegRow) (v : Word) (i : Nat) (h : i < 64) :
    bit (getReg (writeFields s off r v (BitVec.allOnes 64)) off) i =
      (if bit (accMask r .w1c) i && bit v i then false else if bit (accMask r .rw) i then bit v i else bit (getReg s off) i) := by
  unfold writeFields
  rw [getReg_setReg_self]
  simp only [BitVec.and_allOnes, bit_and, bit_or, bit_not _ h]
  rw [Bool.and_comm (bit (accMask r .w1c) i)]
  split
  · next hclear => simp [hclear]
  · next hclear =>
    rw [Bool.eq_false_iff.mpr hclear]
    split
    · next hrw => simp [hrw]
    · next hrw => simp [hrw]

/-- An aligned 64-bit write of a register without rows of its own acts by the access codes of its fields. -/
theorem registerWrite_aligned (s : State) {off : Nat} (v : Word) {r : RegRow} (ha : off % 8 = 0) (hr : rowAt off = some r)
    (ho : ownRow off = false) (hc : off ≠ Off.CTL_COMMIT) (hl : off ≠ Off.CTL_CFG_LEN) :
    registerWrite s off 8 v = writeFields s off r v (BitVec.allOnes 64) := by
  simp [registerWrite, base_of_aligned ha, bar0Ok_aligned ha, ho, hc, hl, hr]

theorem registerWrite_refused (s : State) {off size : Nat} (v : Word) (h : bar0Ok off size (holdsWo off) = false) :
    registerWrite s off size v = bar0Refused s off size true := by simp [registerWrite, h]

/-! ### Staging writes, R348 -/

/-- An aligned 64-bit staging write of the host, of a register with ST fields. -/
theorem stWrite_aligned (s : State) {off : Nat} (v : Word) {r : RegRow} (ha : off % 8 = 0) (hr : rowAt off = some r)
    (hs : r.isStaged = true) : stWrite s off 8 v = stageWrite s 1 off v (BitVec.allOnes 64) := by
  simp [stWrite, base_of_aligned ha, bar0Ok_aligned ha, hr, hs]

/-- The staged word that a write of a whole register leaves: its ST bits from the value, the others as staged before. -/
def stagedBy (s : State) (off : Nat) (r : RegRow) (v : Word) : Word :=
  (stagedWord s off &&& ~~~(accMask r .st)) ||| (v &&& accMask r .st)

/-- What a source that may stage leaves: the staged word and the slot of its write. -/
theorem stageWrite_granted {s : State} {src off : Nat} {r : RegRow} (v : Word) (hm : mayStage s src = true) (hr : rowAt off = some r) :
    stageWrite s src off v (BitVec.allOnes 64) =
      { s with ctl := { s.ctl with staged := FMap.set none s.ctl.staged off (some (stagedBy s off r v)), wroteAt := slot s } } := by
  simp only [stageWrite, stagedBy, hm, hr, Bool.not_true, Bool.false_eq_true, if_false, BitVec.and_allOnes]

theorem stageWrite_refused {s : State} {src : Nat} (off : Nat) (v reach : Word) (hm : mayStage s src = false) :
    stageWrite s src off v reach = stageRefused s := by simp [stageWrite, hm]

/-- A word staged since the last freeze is the one that a read shows. -/
theorem stagedWord_of_staged {t : State} {off : Nat} {w : Word} (h : FMap.get none t.ctl.staged off = some w) :
    stagedWord t off = w := by simp [stagedWord, h]

/-! ### The claim, R348 -/

/-- The two fields of CTL_CLAIM written, as both ends of a claim do. -/
theorem only_setClaim (s : State) (src h : Nat) :
    Only [] [Off.CTL_CLAIM] s (setF (setF s F.CTL_CLAIM_owner src) F.CTL_CLAIM_host_claim h) :=
  (only_setF s F.CTL_CLAIM_owner src).trans (only_setF _ F.CTL_CLAIM_host_claim h)

theorem owner_setClaim (s : State) (src h : Nat) :
    getF (setF (setF s F.CTL_CLAIM_owner src) F.CTL_CLAIM_host_claim h) F.CTL_CLAIM_owner = src % 4 :=
  (getF_setF_other _ _ _ h (by decide) (by decide)).trans (getF_setF_same s _ src (by decide))

theorem only_takeClaim (s : State) (src : Nat) : Only [.ctl] [Off.CTL_CLAIM] s (takeClaim s src) :=
  ((only_setClaim s src _).mono (by simp) (fun _ h => h)).trans ((only_ctl _ _).mono (fun _ h => h) (by simp))

theorem owner_takeClaim (s : State) (src : Nat) : getF (takeClaim s src) F.CTL_CLAIM_owner = src % 4 :=
  owner_setClaim s src _

/-- The claim that the host takes shows in host_claim. -/
theorem host_claim_takeClaim (s : State) : hasF (takeClaim s 1) F.CTL_CLAIM_host_claim = true :=
  hasF_setF_one (setF s F.CTL_CLAIM_owner 1) F.CTL_CLAIM_host_claim (by decide) (by decide)

/-- Taking the claim counts as the holder's first write. -/
theorem wroteAt_takeClaim (s : State) (src : Nat) : (takeClaim s src).ctl.wroteAt = slot s :=
  (only_setClaim s src _).field F.LCH_SLOT_slot (by decide)

theorem only_endClaim (s : State) : Only [.ctl] [Off.CTL_CLAIM] s (endClaim s) :=
  ((only_setClaim s 0 0).mono (by simp) (fun _ h => h)).trans ((only_ctl _ _).mono (fun _ h => h) (by simp))

/-- After the end of a claim no source holds it, nothing is staged, and a frozen set stands. -/
theorem endClaim_spec (s : State) :
    getF (endClaim s) F.CTL_CLAIM_owner = 0 ∧ (endClaim s).ctl.staged = [] ∧ (endClaim s).ctl.frozen = s.ctl.frozen ∧
      Only [.ctl] [Off.CTL_CLAIM] s (endClaim s) :=
  ⟨owner_setClaim s 0 0, rfl, rfl, only_endClaim s⟩

theorem hostClaim_free {s : State} (h : getF s F.CTL_CLAIM_owner = 0) : hostClaim s = takeClaim s 1 := if_pos h

theorem hostClaim_held {s : State} (h : getF s F.CTL_CLAIM_owner ≠ 0) : hostClaim s = s := if_neg h

theorem hostRelease_own {s : State} (h : getF s F.CTL_CLAIM_owner = 1) : hostRelease s = endClaim s := if_pos h

theorem claimTimeout_due {s : State} (h : getF s F.CTL_CLAIM_owner ≠ 0) (hw : s.ctl.wroteAt + 3906250 ≤ slot s) :
    claimTimeout s = endClaim s := if_pos ⟨h, hw⟩

theorem claimTimeout_early {s : State} (h : slot s < s.ctl.wroteAt + 3906250) : claimTimeout s = s :=
  if_neg fun ⟨_, hw⟩ => absurd hw (Nat.not_le.mpr h)

/-! ### The clauses of REGISTER_WRITE, ST_WRITE and the claim -/

theorem does_registerWrite_aligned (s : State) (off : Nat) (v : Word) (r : RegRow) (h : HostUp s) (ha : off % 8 = 0)
    (hr : rowAt off = some r) (ho : ownRow off = false) (hc : off ≠ Off.CTL_COMMIT) (hl : off ≠ Off.CTL_CFG_LEN) :
    Does (.registerWrite off 8 v) s fun t =>
      (∀ i, i < 64 → bit (getReg t off) i =
        (if bit (accMask r .w1c) i && bit v i then false else if bit (accMask r .rw) i then bit v i else bit (getReg s off) i)) ∧
      Only [] [off] s t := by
  have hw := registerWrite_aligned s v ha hr ho hc hl
  have hf : Only [] [off] s (registerWrite s off 8 v) := hw ▸ only_writeFields s off r v _
  refine does_hostStep rfl h hf (by decide) (by decide) ⟨fun i hi => ?_, hf⟩
  rw [hw]
  exact bit_writeFields s off r v i hi

theorem does_registerWrite_refused (s : State) (off size : Nat) (v : Word) (h : HostUp s) (hb : bar0Ok off size (holdsWo off) = false) :
    Does (.registerWrite off size v) s fun t => hasF t F.HST_ERR_STATUS_access_error = true ∧
      Only eventParts [Off.HST_ERR_STATUS, Off.HST_ACCESS_ERR, Off.HST_IRQ_PENDING] s t := by
  have hw := registerWrite_refused s v hb
  have hf := hw ▸ only_refusedWrite s off size
  exact does_hostStep rfl h hf (by decide) (by decide) ⟨hw ▸ hasF_refusedWrite s off size, hf⟩

theorem does_stWrite_granted (s : State) (off : Nat) (v : Word) (r : RegRow) (h : HostUp s) (ha : off % 8 = 0)
    (hr : rowAt off = some r) (hs : r.isStaged = true) (hm : mayStage s 1 = true) :
    Does (.stWrite off 8 v) s fun t => stagedWord t off = (stagedWord s off &&& ~~~(accMask r .st)) ||| (v &&& accMask r .st) ∧
      t.ctl.wroteAt = slot s ∧ t.regs = s.regs ∧ Only [.ctl] [] s t := by
  have hw := (stWrite_aligned s v ha hr hs).trans (stageWrite_granted v hm hr)
  have hf : Only [.ctl] [] s (stWrite s off 8 v) := hw ▸ only_ctl s _
  refine does_hostStep rfl h hf (by decide) (by decide) ?_
  rw [hw] at hf ⊢
  exact ⟨stagedWord_of_staged (FMap.get_set_self none s.ctl.staged off (some (stagedBy s off r v))), rfl, rfl, hf⟩

theorem does_stWrite_refused (s : State) (off : Nat) (v : Word) (r : RegRow) (h : HostUp s) (ha : off % 8 = 0)
    (hr : rowAt off = some r) (hs : r.isStaged = true) (hm : mayStage s 1 = false) :
    Does (.stWrite off 8 v) s fun t => hasF t F.CTL_STATUS_stage_refused = true ∧ Only [] [Off.CTL_STATUS] s t := by
  have hw := (stWrite_aligned s v ha hr hs).trans (stageWrite_refused off v _ hm)
  have hf : Only [] [Off.CTL_STATUS] s (stWrite s off 8 v) := hw ▸ only_setF s F.CTL_STATUS_stage_refused 1
  exact does_hostStep rfl h hf (by decide) (by decide) ⟨hw ▸ hasF_setF_one s _ (by decide) (by decide), hf⟩

theorem does_hostClaim_free (s : State) (h : HostUp s) (hc : getF s F.CTL_CLAIM_owner = 0) :
    Does .hostClaim s fun t => getF t F.CTL_CLAIM_owner = 1 ∧ hasF t F.CTL_CLAIM_host_claim = true ∧ t.ctl.wroteAt = slot s ∧
      Only [.ctl] [Off.CTL_CLAIM] s t := by
  have hf := only_takeClaim s 1
  have hw := hostClaim_free hc
  exact does_hostStep rfl h (hw ▸ hf) (by decide) (by decide)
    (hw ▸ ⟨owner_takeClaim s 1, host_claim_takeClaim s, wroteAt_takeClaim s 1, hf⟩)

theorem does_hostClaim_held (s : State) (h : HostUp s) (hc : getF s F.CTL_CLAIM_owner ≠ 0) : Does .hostClaim s fun t => t = s := by
  have hw := hostClaim_held hc
  have hf : Only [] [] s (hostClaim s) := hw.symm ▸ Only.rfl' [] [] s
  exact does_hostStep rfl h hf (by decide) (by decide) hw

theorem does_hostRelease (s : State) (h : HostUp s) (hc : getF s F.CTL_CLAIM_owner = 1) :
    Does .hostRelease s fun t => getF t F.CTL_CLAIM_owner = 0 ∧ t.ctl.staged = [] ∧ t.ctl.frozen = s.ctl.frozen ∧
      Only [.ctl] [Off.CTL_CLAIM] s t :=
  have hw := hostRelease_own hc
  does_hostStep rfl h (hw ▸ only_endClaim s) (by decide) (by decide) (hw ▸ endClaim_spec s)

theorem does_claimTimeout_due (s : State) (h : Up s) (hc : getF s F.CTL_CLAIM_owner ≠ 0) (hw : s.ctl.wroteAt + 3906250 ≤ slot s) :
    Does .claimTimeout s fun t => getF t F.CTL_CLAIM_owner = 0 ∧ t.ctl.staged = [] ∧ t.ctl.frozen = s.ctl.frozen ∧
      Only [.ctl] [Off.CTL_CLAIM] s t :=
  does_settle (congrArg (settle s) (claimTimeout_due hc hw)) h rfl rfl (endClaim_spec s)

theorem does_claimTimeout_early (s : State) (h : Up s) (hw : slot s < s.ctl.wroteAt + 3906250) : Does .claimTimeout s fun t => t = s :=
  does_settle (congrArg (settle s) (claimTimeout_early hw)) h rfl rfl rfl

/-- Settles O11, clause by clause: each command comes down to one operation of the model, whose frame and values are stated above. -/
theorem registersAreWrittenStagedAndClaimed : Obligations.RegistersAreWrittenStagedAndClaimed :=
  ⟨does_registerWrite_aligned, does_registerWrite_refused, does_stWrite_granted, does_stWrite_refused, does_hostClaim_free,
    does_hostClaim_held, does_hostRelease, does_claimTimeout_due, does_claimTimeout_early⟩

/-! ### Reset, R20 and R336 -/

/-- Whether a field shows its Reset value; a field that the table gives none (a strap, the image, a number fixed per device) may show
anything. -/
def Field.showsReset (s : State) (f : Field) : Bool :=
  match f.reset with
  | .val v => getF s f == v
  | _ => true

theorem getF_of_showsReset {s : State} {f : Field} {v : Nat} (h : f.showsReset s = true) (hv : f.reset = .val v) : getF s f = v := by
  simpa [Field.showsReset, hv] using h

/-- `resetRegs` against the Reset column, over the whole map: a field of a register that is not listed there reads 0, so its Reset
value must be 0, and a listed register must give each of its fields its own value. -/
theorem regTable_showsReset : ∀ r ∈ regTable, ∀ f ∈ r.fields, f.showsReset State.reset = true := by decide +kernel

/-- Settles O60: the state's parts by definition, the register fields by `regTable_showsReset`. -/
theorem resetLeavesTheResetValues : Obligations.ResetLeavesTheResetValues := by
  have hmem : memSound State.reset := reset_mem_wf
  have hfuse : State.reset.fuse.sound := ⟨rfl, by decide⟩
  have hplan : planState State.reset = .empty := by decide +kernel
  have hhold : inHold State.reset = false := by decide +kernel
  exact ⟨rfl, rfl, rfl, rfl, hmem, hfuse, hplan, hhold, fun r hr f hf _ hv => getF_of_showsReset (regTable_showsReset r hr f hf) hv⟩

end Sys2Proof.Machine
end

section
/-!
PROOFS. The tail of a record ring (R69, R143): when a write of it takes effect, when the old tail stands, and what each leaves alone.
-/

namespace Sys2Proof.Machine

/-- The ring_full bits are one bit of each status register. -/
theorem only_showRings (s : State) : Only [] [Off.NUM_STATUS, Off.LCH_STATUS] s (showRings s) :=
  ((only_setF s F.NUM_STATUS_ring_full _).mono (by simp) (by decide)).trans
    ((only_setF _ F.LCH_STATUS_ts_ring_full _).mono (by simp) (by decide))

/-! ### A tail write, in both rings alike -/

section
variable {c : Instr} {s : State} {head tail err : Field} {t : Nat}

theorem ringTail_of_within
    (hle : (t % 2 ^ 32 + 2 ^ 32 - getF s tail) % 2 ^ 32 ≤ (getF s head + 2 ^ 32 - getF s tail) % 2 ^ 32) :
    ringTail s head tail err t = showRings (setF s tail t) := if_neg (Nat.not_lt.mpr hle)

theorem ringTail_of_beyond
    (hlt : (getF s head + 2 ^ 32 - getF s tail) % 2 ^ 32 < (t % 2 ^ 32 + 2 ^ 32 - getF s tail) % 2 ^ 32) :
    ringTail s head tail err t = setF s err 1 := if_pos hlt

/-- A tail that does not pass the head takes effect; besides, only the ring_full bits follow it. -/
theorem does_ringTail_of_within
    (he : exec c s = settle s (hostStep s fun s => ringTail s head tail err t)) (h : HostUp s)
    (hhi : tail.hi = 31) (hlo : tail.lo = 0) (hoff : tail.off ∉ [Off.NUM_STATUS, Off.LCH_STATUS])
    (hle : (t % 2 ^ 32 + 2 ^ 32 - getF s tail) % 2 ^ 32 ≤ (getF s head + 2 ^ 32 - getF s tail) % 2 ^ 32) :
    Does c s fun u => getF u tail = t % 2 ^ 32 ∧ Only [] [tail.off, Off.NUM_STATUS, Off.LCH_STATUS] s u := by
  have hw : ringTail s head tail err t = showRings (setF s tail t) := ringTail_of_within hle
  have hwritten : getF (setF s tail t) tail = t % 2 ^ 32 := by
    rw [getF_setF_same s tail t (by omega), hhi, hlo]
  have hshown : getF (showRings (setF s tail t)) tail = t % 2 ^ 32 := ((only_showRings _).field tail hoff).trans hwritten
  have hframe : Only [] [tail.off, Off.NUM_STATUS, Off.LCH_STATUS] s (showRings (setF s tail t)) :=
    ((only_setF s tail t).mono (by simp) (by simp)).trans ((only_showRings _).mono (by simp) (by simp))
  exact does_hostStep he h (hw ▸ hframe) (by decide) (by decide) (hw ▸ ⟨hshown, hframe⟩)

/-- A tail that passes the head sets the error bit and changes nothing else. -/
theorem does_ringTail_of_beyond
    (he : exec c s = settle s (hostStep s fun s => ringTail s head tail err t)) (h : HostUp s)
    (hhi : err.hi < 64) (hlo : err.lo ≤ err.hi)
    (hlt : (getF s head + 2 ^ 32 - getF s tail) % 2 ^ 32 < (t % 2 ^ 32 + 2 ^ 32 - getF s tail) % 2 ^ 32) :
    Does c s fun u => hasF u err = true ∧ Only [] [err.off] s u := by
  have hw : ringTail s head tail err t = setF s err 1 := ringTail_of_beyond hlt
  have hframe : Only [] [err.off] s (setF s err 1) := only_setF s err 1
  exact does_hostStep he h (hw ▸ hframe) (by decide) (by decide) (hw ▸ ⟨hasF_setF_one s err hhi hlo, hframe⟩)

end

/-- Settles O14: NUM_RING_TAIL is the tail write of the numeric ring, and R69's comparison decides between its two outcomes. -/
theorem numericRingTailIsKeptBehindTheHead : Obligations.NumericRingTailIsKeptBehindTheHead :=
  ⟨fun _ _ h hle => does_ringTail_of_within rfl h rfl rfl (by decide) hle,
    fun _ _ h hlt => does_ringTail_of_beyond rfl h (by decide) (by decide) hlt⟩

end Sys2Proof.Machine
end

section
/-!
PROOFS. ARRAY_STEP (R57, R58, R71, R96, R98): what a step counts, when it ends a group, and what the group adds to its bank.
-/

namespace Sys2Proof.Machine

/-! ### Sparse maps updated key by key -/

theorem FMap.get_foldl_set_range {α : Type} [DecidableEq α] (d : α) (f : Nat → α → α) (m : FMap α) (n k : Nat) :
    FMap.get d ((List.range n).foldl (fun m c => FMap.set d m c (f c (FMap.get d m c))) m) k =
      if k < n then f k (FMap.get d m k) else FMap.get d m k := by
  induction n with
  | zero => simp
  | succ n ih =>
    simp only [List.range_succ, List.foldl_append, List.foldl_cons, List.foldl_nil, FMap.get_set]
    by_cases hk : k = n
    · subst hk
      simp [ih]
    · simp [hk, ih, show k < n + 1 ↔ k < n by omega]

/-! ### Arrays and banks, read after a write -/

@[simp] theorem arrayOf_setArray_self (s : State) (a : Nat) (r : ArrayRun) : arrayOf (setArray s a r) a = r :=
  FMap.get_set_self ArrayRun.idle s.arr.arrays a r

theorem arrayOf_setArray_other (s : State) {a b : Nat} (r : ArrayRun) (h : b ≠ a) : arrayOf (setArray s a r) b = arrayOf s b :=
  FMap.get_set_other ArrayRun.idle s.arr.arrays r h

@[simp] theorem bankOf_setBank_self (s : State) (a b : Nat) (k : Bank) : bankOf (setBank s a b k) a b = k :=
  FMap.get_set_self Bank.clear s.arr.banks (4 * a + b) k

theorem arrayOf_congr {s t : State} (h : t.arr = s.arr) (a : Nat) : arrayOf t a = arrayOf s a := by unfold arrayOf; rw [h]

theorem bankOf_congr {s t : State} (h : t.arr = s.arr) (a b : Nat) : bankOf t a b = bankOf s a b := by unfold bankOf; rw [h]

/-! ### Operands read alike in states that differ in registers other than those of the frond table -/

section
variable {s t : State} {l : List Nat} (h : Only [] l s t) (hb : Off.MEM_FT_BASE ∉ l) (hz : Off.MEM_FT_SIZE ∉ l)
include h

theorem Only.rd_eq_rd (a n : Nat) : rd t a n = rd s a n := by
  have hmem : ∀ x, readByte t.mem x = readByte s.mem x := h.1 .mem (by simp)
  have hflash : ∀ x, readByte t.flash x = readByte s.flash x := h.1 .flash (by simp)
  simp only [rd_eq, hmem, hflash]

theorem Only.rowOn_eq (k : Nat) (t0 : TileProgram) (i : Nat) : rowOn t k t0 i = rowOn s k t0 i := by
  have harr : t.arr = s.arr := h.1 .arr (by simp)
  simp only [rowOn, batchOf, queueOf, harr]

include hb hz

theorem Only.ftGet_eq (id : Nat) : ftGet t id = ftGet s id := by
  have hcount : ftCount t = ftCount s := by unfold ftCount; rw [h.field F.MEM_FT_SIZE_ft_size hz]
  have hplace : ftPrimary t id = ftPrimary s id := by unfold ftPrimary; rw [h.field F.MEM_FT_BASE_base hb]
  unfold ftGet
  rw [hcount, hplace, h.rd_eq_rd]

theorem Only.poisonedAt_eq (a : Nat) : poisonedAt t a = poisonedAt s a := by
  unfold poisonedAt headerAt
  rw [h.rd_eq_rd, h.ftGet_eq hb hz]

theorem Only.feed_eq (o : Operand) (r k : Nat) : feed t o r k = feed s o r k := by
  simp only [feed, elemAt, elemCode, scaleAt, excAt, h.rd_eq_rd, h.poisonedAt_eq hb hz]

theorem Only.aRow_eq (a k : Nat) (t0 : TileProgram) (i k0 g : Nat) : aRow t a k t0 i k0 g = aRow s a k t0 i k0 g := by
  have harr : t.arr = s.arr := h.1 .arr (by simp)
  have hplan : t.plan = s.plan := h.1 .plan (by simp)
  simp only [aRow, h.rowOn_eq, h.feed_eq hb hz, batchOf, queueOf, harr, queueElem, entryAddr, hplan, h.rd_eq_rd]

theorem Only.bCol_eq (a : Nat) (t0 : TileProgram) (j k0 g : Nat) : bCol t a t0 j k0 g = bCol s a t0 j k0 g := by
  simp only [bCol, h.feed_eq hb hz]

end

/-! ### Counters of R62 -/

theorem numCnt_mem_numRegs (f : Fmt) {k : Nat} (h : k < 5) : Off.NUM_CNT f.code k ∈ numRegs := by
  refine List.mem_flatMap.mpr ⟨f.code, List.mem_range.mpr ?_, List.mem_map_of_mem (List.mem_range.mpr h)⟩
  cases f <;> decide

theorem only_bumpNum (s : State) (f : Fmt) (cs : List Nat) : Only [] numRegs s (bumpNum s f cs) := by
  unfold bumpNum
  refine foldl_only _ _ _ _ (fun s k hk => ?_) s
  dsimp only
  split
  · exact Only.rfl' _ _ _
  · refine (only_bumpF s (F.NUM_CNT_count f.code k) _).mono (by simp) fun o ho => ?_
    rw [List.mem_singleton.mp ho]
    exact numCnt_mem_numRegs f (List.mem_range.mp hk)

theorem only_noteReads (s : State) (f : Fmt) (codes : List Nat) : Only [] numRegs s (noteReads s f codes) := by
  unfold noteReads
  split
  · exact only_bumpNum s _ _
  · exact Only.rfl' _ _ _

/-- Only elements of BF16 count when they are read. -/
theorem noteReads_of_ne_bf16 (s : State) {f : Fmt} (codes : List Nat) (h : f ≠ .bf16) : noteReads s f codes = s := if_neg h

/-! ### A group enters a bank, R57 and R58 -/

theorem noteIntEq_entry (s : State) (a k : Nat) (t0 : TileProgram) (bk : Bank) (k0 g : Nat) :
    (noteIntEq s a k t0 bk k0 g).entry = bk.entry := by
  unfold noteIntEq
  dsimp only
  split <;> rfl

theorem noteIntEq_n (s : State) (a k : Nat) (t0 : TileProgram) (bk : Bank) (k0 g : Nat) : (noteIntEq s a k t0 bk k0 g).n = bk.n := by
  unfold noteIntEq
  dsimp only
  split <;> rfl

/-- Each entry takes the exact sum of its row and column over the group, in one rounding. -/
theorem get_entry_addGroup (bk : Bank) (as bs : List (List Num)) (g : Nat) {c : Nat} (h : c < 4096) :
    FMap.get 0 (addGroup bk as bs g).entry c = accAdd (FMap.get 0 bk.entry c) (dot (as.getD (c / 128) []) (bs.getD (c % 128) [])) := by
  unfold addGroup
  dsimp only
  rw [FMap.get_foldl_set_range 0 fun c v => accAdd v (dot (as.getD (c / 128) []) (bs.getD (c % 128) []))]
  exact if_pos h

/-- The rows and columns of a group as the feeders deliver them. -/
def groupRows (s : State) (a k : Nat) (t0 : TileProgram) (k0 g : Nat) : List (List Num) := (List.range 32).map fun i => aRow s a k t0 i k0 g

def groupCols (s : State) (a : Nat) (t0 : TileProgram) (k0 g : Nat) : List (List Num) := (List.range 128).map fun j => bCol s a t0 j k0 g

/-- The bank of a tile after a group. -/
def groupBank (s : State) (a k : Nat) (t0 : TileProgram) (k0 g : Nat) : Bank :=
  addGroup (noteIntEq s a k t0 (bankOf s a t0.bank) k0 g) (groupRows s a k t0 k0 g) (groupCols s a t0 k0 g) g

theorem getD_map_range {α : Type} (f : Nat → α) (d : α) {n i : Nat} (h : i < n) : ((List.range n).map f).getD i d = f i := by
  simp [h]

theorem get_entry_groupBank (s : State) (a k : Nat) (t0 : TileProgram) (k0 g : Nat) {c : Nat} (h : c < 4096) :
    FMap.get 0 (groupBank s a k t0 k0 g).entry c =
      accAdd (FMap.get 0 (bankOf s a t0.bank).entry c) (dot (aRow s a k t0 (c / 128) k0 g) (bCol s a t0 (c % 128) k0 g)) := by
  have hrow : (groupRows s a k t0 k0 g).getD (c / 128) [] = aRow s a k t0 (c / 128) k0 g := getD_map_range _ _ (by omega)
  have hcol : (groupCols s a t0 k0 g).getD (c % 128) [] = bCol s a t0 (c % 128) k0 g := getD_map_range _ _ (by omega)
  unfold groupBank
  rw [get_entry_addGroup _ _ _ _ h, hrow, hcol, noteIntEq_entry]

theorem n_groupBank (s : State) (a k : Nat) (t0 : TileProgram) (k0 g : Nat) :
    (groupBank s a k t0 k0 g).n = (bankOf s a t0.bank).n + 1 :=
  congrArg (· + 1) (noteIntEq_n s a k t0 _ k0 g)

/-- With both operands fed as stored no feeder converts, so a group leaves its bank and the counts of the BF16 elements read. -/
theorem feedGroup_direct (s : State) (a k : Nat) (t0 : TileProgram) (g0 : Nat) (ha : t0.a.mode = .direct) (hb : t0.b.mode = .direct) :
    ∃ xs ys, feedGroup s a k t0 g0 = noteReads (noteReads
      (setBank s a t0.bank (groupBank s a k t0 (g0 * t0.a.deliver.group) t0.a.deliver.group)) t0.a.stored xs) t0.b.stored ys := by
  refine ⟨((List.range 32).filter (rowOn s k t0)).flatMap fun i => aCodes s k t0 i (g0 * t0.a.deliver.group) t0.a.deliver.group,
    feedCodes s t0.b (List.range t0.cols) (g0 * t0.a.deliver.group) t0.a.deliver.group, ?_⟩
  unfold feedGroup
  simp only [ha, hb, reduceCtorEq, if_false, List.append_nil, List.isEmpty_nil, if_true]
  rfl

/-! ### What a step of an array comes to, R71 -/

/-- Only a quiet array skips groups (R97). -/
theorem skipGroups_of_not_quiet (n : Nat) (s : State) {a : Nat} (k : Nat) (t0 : TileProgram) (h : isQuiet a = false) :
    skipGroups n s a k t0 = s := by
  cases n with
  | zero => rfl
  | succ n => simp [skipGroups, skipGroup, h]

theorem arrayStep_of_shut {s : State} {a : Nat} (u : Option Upset) (h : fenced s a = true ∨ (arrayOf s a).heldTest = true) :
    arrayStep s a u = s := if_pos (Bool.or_eq_true_iff.mpr h)

section
variable {s : State} {a : Nat} (hf : fenced s a = false) (hh : (arrayOf s a).heldTest = false)
include hf hh

theorem arrayStep_of_idle (u : Option Upset) (hfeed : (arrayOf s a).feeding = none) (hl : (arrayOf s a).level ≠ 0) :
    arrayStep s a u = bumpF s F.ARR_STEP_DUMMY_count 1 := by
  simp [arrayStep, hf, hh, hfeed, dummyStep, hl]

variable {k : Nat} {t0 : TileProgram} (hfeed : (arrayOf s a).feeding = some k) (ht : tileOfKey s k = some t0)
include hfeed ht

theorem arrayStep_of_cap_zero (u : Option Upset) (hc : getF s F.PWR_GOV_cap = 0) :
    arrayStep s a u = bumpF s F.ARR_RAMP_STALL_count 1 := by
  simp [arrayStep, hf, hh, hfeed, ht, hc]

theorem arrayStep_of_feeding (u : Option Upset) (hc : getF s F.PWR_GOV_cap ≠ 0) (hd : checkDue s a t0 = false) (hq : isQuiet a = false)
    (hlen : (arrayOf s a).step + 1 < kLength t0.a.deliver t0.k) : arrayStep s a u = usefulStep s a k t0 u := by
  have hmore : ¬ kLength t0.a.deliver t0.k ≤ (arrayOf s a).step := by omega
  simp [arrayStep, hf, hh, hfeed, ht, hc, hd, skipGroups_of_not_quiet _ _ _ _ hq, hmore]

end

/-- A step of the feed counted in the bank and in the record of the array. -/
def countStep (s : State) (a : Nat) (r : ArrayRun) (t0 : TileProgram) : State :=
  setArray (setBank s a t0.bank { bankOf s a t0.bank with steps := (bankOf s a t0.bank).steps + 1 }) a
    { r with step := r.step + 1, lastFeed := slot s }

@[simp] theorem arrayOf_countStep_self (s : State) (a : Nat) (r : ArrayRun) (t0 : TileProgram) :
    arrayOf (countStep s a r t0) a = { r with step := r.step + 1, lastFeed := slot s } := arrayOf_setArray_self _ a _

theorem arrayOf_countStep_other (s : State) {a b : Nat} (r : ArrayRun) (t0 : TileProgram) (h : b ≠ a) :
    arrayOf (countStep s a r t0) b = arrayOf s b := arrayOf_setArray_other _ _ h

@[simp] theorem bankOf_countStep (s : State) (a : Nat) (r : ArrayRun) (t0 : TileProgram) :
    bankOf (countStep s a r t0) a t0.bank = { bankOf s a t0.bank with steps := (bankOf s a t0.bank).steps + 1 } :=
  bankOf_setBank_self s a t0.bank _

theorem only_countStep (s : State) (a : Nat) (r : ArrayRun) (t0 : TileProgram) : Only [.arr] [] s (countStep s a r t0) :=
  (only_setBank s a t0.bank _).trans (only_setArray _ a _)

section
variable {s : State} {a : Nat} (k : Nat) {t0 : TileProgram} (hlen : (arrayOf s a).step + 1 < kLength t0.a.deliver t0.k)
include hlen

/-- A step within a group counts, and no value enters the bank. -/
theorem usefulStep_within_group (hg : ((arrayOf s a).step + 1) % t0.a.deliver.groupSteps ≠ 0) :
    usefulStep s a k t0 none = countStep (bumpF s F.ARR_STEP_USEFUL_count 1) a (arrayOf s a) t0 := by
  have hmore : ¬ kLength t0.a.deliver t0.k ≤ (arrayOf s a).step + 1 := by omega
  simp only [usefulStep, if_neg hg, ge_iff_le, if_neg hmore]
  rfl

/-- The last step of a group that is not the last of its tile counts after the group has entered. -/
theorem usefulStep_ends_group (hg : ((arrayOf s a).step + 1) % t0.a.deliver.groupSteps = 0) :
    usefulStep s a k t0 none = countStep (feedGroup (bumpF s F.ARR_STEP_USEFUL_count 1) a k t0
      ((arrayOf s a).step / t0.a.deliver.groupSteps)) a (arrayOf s a) t0 := by
  have hmore : ¬ kLength t0.a.deliver t0.k ≤ (arrayOf s a).step + 1 := by omega
  simp only [usefulStep, if_pos hg, ge_iff_le, if_neg hmore]
  rfl

end

/-! ### A group fed as stored -/

section
variable {s : State} {a k : Nat} {t0 : TileProgram} {g0 : Nat} (ha : t0.a.mode = .direct) (hb : t0.b.mode = .direct)
include ha hb

theorem only_feedGroup : Only [.arr] numRegs s (feedGroup s a k t0 g0) := by
  obtain ⟨xs, ys, he⟩ := feedGroup_direct s a k t0 g0 ha hb
  have hreads : ∀ (u : State) (f : Fmt) (cs : List Nat), Only [.arr] numRegs u (noteReads u f cs) := fun u f cs =>
    (only_noteReads u f cs).mono (by simp) (fun _ h => h)
  rw [he]
  exact ((only_setBank s a t0.bank _).mono (fun _ h => h) (by simp)).trans ((hreads _ _ _).trans (hreads _ _ _))

theorem bankOf_feedGroup : bankOf (feedGroup s a k t0 g0) a t0.bank = groupBank s a k t0 (g0 * t0.a.deliver.group) t0.a.deliver.group := by
  obtain ⟨xs, ys, he⟩ := feedGroup_direct s a k t0 g0 ha hb
  have harr : ∀ (u : State) (f : Fmt) (cs : List Nat), (noteReads u f cs).arr = u.arr := fun u f cs =>
    (only_noteReads u f cs).1 .arr (by simp)
  rw [he, bankOf_congr (harr _ _ _), bankOf_congr (harr _ _ _), bankOf_setBank_self]

/-- Where neither operand is stored as BF16 no register changes. -/
theorem regs_feedGroup (hna : t0.a.stored ≠ .bf16) (hnb : t0.b.stored ≠ .bf16) : (feedGroup s a k t0 g0).regs = s.regs := by
  obtain ⟨xs, ys, he⟩ := feedGroup_direct s a k t0 g0 ha hb
  rw [he, noteReads_of_ne_bf16 _ _ hnb, noteReads_of_ne_bf16 _ _ hna]
  rfl

end

/-! ### The clauses of ARRAY_STEP -/

/-- A step that raises one counter alone. -/
theorem does_arrayStep_bump {s : State} {a : Nat} {u : Option Upset} (h : Up s) (f : Field) (hf : f.hi < 64)
    (he : arrayStep s a u = bumpF s f 1) :
    Does (.arrayStep a u) s fun t => getF t f = min (Field.max f) (getF s f + 1) ∧ Only [] [f.off] s t :=
  does_settle (congrArg (settle s) he) h rfl rfl ⟨getF_bumpF_same s f 1 hf, only_bumpF s f 1⟩

theorem does_arrayStep_within_group (s : State) (a k : Nat) (t0 : TileProgram) (h : Up s) (hf : fenced s a = false)
    (hh : (arrayOf s a).heldTest = false) (hfeed : (arrayOf s a).feeding = some k) (ht : tileOfKey s k = some t0)
    (hc : getF s F.PWR_GOV_cap ≠ 0) (hd : checkDue s a t0 = false) (hq : isQuiet a = false)
    (hlen : (arrayOf s a).step + 1 < kLength t0.a.deliver t0.k) (hg : ((arrayOf s a).step + 1) % t0.a.deliver.groupSteps ≠ 0) :
    Does (.arrayStep a none) s fun t => (arrayOf t a).step = (arrayOf s a).step + 1 ∧ (arrayOf t a).feeding = some k ∧
      (arrayOf t a).lastFeed = slot s ∧ bankOf t a t0.bank = { bankOf s a t0.bank with steps := (bankOf s a t0.bank).steps + 1 } ∧
      getF t F.ARR_STEP_USEFUL_count = min (Field.max F.ARR_STEP_USEFUL_count) (getF s F.ARR_STEP_USEFUL_count + 1) ∧
      (∀ b, b ≠ a → arrayOf t b = arrayOf s b) ∧ Only [.arr] [Off.ARR_STEP_USEFUL] s t := by
  have he := (arrayStep_of_feeding hf hh hfeed ht none hc hd hq hlen).trans (usefulStep_within_group k hlen hg)
  have hbump : Only [] [Off.ARR_STEP_USEFUL] s (bumpF s F.ARR_STEP_USEFUL_count 1) := only_bumpF s _ 1
  have hcount := only_countStep (bumpF s F.ARR_STEP_USEFUL_count 1) a (arrayOf s a) t0
  have hslot : slot (bumpF s F.ARR_STEP_USEFUL_count 1) = slot s := hbump.field F.LCH_SLOT_slot (by decide)
  refine does_settle (congrArg (settle s) he) h rfl rfl ⟨?_, ?_, ?_, ?_, ?_, fun b hb => ?_, ?_⟩
  · rw [arrayOf_countStep_self]
  · rw [arrayOf_countStep_self, ← hfeed]
  · rw [arrayOf_countStep_self, ← hslot]
  · exact bankOf_countStep _ a _ t0
  · exact (hcount.field _ (by simp)).trans (getF_bumpF_same s F.ARR_STEP_USEFUL_count 1 (by decide))
  · exact arrayOf_countStep_other _ _ t0 hb
  · exact (hbump.mono (by simp) (fun _ h => h)).trans (hcount.mono (fun _ h => h) (by simp))

theorem does_arrayStep_ends_group (s : State) (a k c : Nat) (t0 : TileProgram) (h : Up s) (hf : fenced s a = false)
    (hh : (arrayOf s a).heldTest = false) (hfeed : (arrayOf s a).feeding = some k) (ht : tileOfKey s k = some t0)
    (hc : getF s F.PWR_GOV_cap ≠ 0) (hd : checkDue s a t0 = false) (hq : isQuiet a = false) (ha : t0.a.mode = .direct)
    (hb : t0.b.mode = .direct) (hlen : (arrayOf s a).step + 1 < kLength t0.a.deliver t0.k)
    (hg : ((arrayOf s a).step + 1) % t0.a.deliver.groupSteps = 0) (hcell : c < 4096) :
    let g := t0.a.deliver.group
    let k0 := (arrayOf s a).step / t0.a.deliver.groupSteps * g
    Does (.arrayStep a none) s fun t =>
      FMap.get 0 (bankOf t a t0.bank).entry c =
        accAdd (FMap.get 0 (bankOf s a t0.bank).entry c) (dot (aRow s a k t0 (c / 128) k0 g) (bCol s a t0 (c % 128) k0 g)) ∧
      (bankOf t a t0.bank).n = (bankOf s a t0.bank).n + 1 ∧ (arrayOf t a).step = (arrayOf s a).step + 1 ∧
      Only [.arr] (Off.ARR_STEP_USEFUL :: numRegs) s t ∧
      (t0.a.stored ≠ .bf16 → t0.b.stored ≠ .bf16 → RegsBut [Off.ARR_STEP_USEFUL] s t) := by
  intro g k0
  have he := (arrayStep_of_feeding hf hh hfeed ht none hc hd hq hlen).trans (usefulStep_ends_group k hlen hg)
  have hbump : Only [] [Off.ARR_STEP_USEFUL] s (bumpF s F.ARR_STEP_USEFUL_count 1) := only_bumpF s _ 1
  generalize hs1 : bumpF s F.ARR_STEP_USEFUL_count 1 = s1 at he hbump
  generalize hs2 : feedGroup s1 a k t0 ((arrayOf s a).step / t0.a.deliver.groupSteps) = s2 at he
  have hbank : bankOf s2 a t0.bank = groupBank s1 a k t0 k0 g := hs2 ▸ bankOf_feedGroup ha hb
  have hold : bankOf s1 a t0.bank = bankOf s a t0.bank := bankOf_congr (hbump.1 .arr (by simp)) a t0.bank
  have hcount := only_countStep s2 a (arrayOf s a) t0
  have hframe : Only [.arr] (Off.ARR_STEP_USEFUL :: numRegs) s (countStep s2 a (arrayOf s a) t0) :=
    ((hbump.mono (by simp) (by simp)).trans ((hs2 ▸ only_feedGroup ha hb : Only [.arr] numRegs s1 s2).mono (fun _ h => h)
      fun _ h => List.mem_cons_of_mem _ h)).trans (hcount.mono (fun _ h => h) (by simp))
  refine does_settle (congrArg (settle s) he) h (hframe.pending (by decide)) (hframe.fuse (by decide)) ⟨?_, ?_, ?_, hframe, fun hna hnb => ?_⟩
  · rw [bankOf_countStep, hbank, get_entry_groupBank _ _ _ _ _ _ hcell, hold, hbump.aRow_eq (by decide) (by decide),
      hbump.bCol_eq (by decide) (by decide)]
  · rw [bankOf_countStep, hbank, n_groupBank, hold]
  · rw [arrayOf_countStep_self]
  · have hregs : s2.regs = s1.regs := hs2 ▸ regs_feedGroup ha hb hna hnb
    exact fun o ho => ((hcount.2 o (by simp)).trans (getReg_congr hregs o)).trans (hbump.2 o ho)

/-- Settles O24: the step that ends a group by `get_entry_groupBank`, the others by the branch of ARRAY_STEP that their conditions pick. -/
theorem arraysStepAndAccumulate : Obligations.ArraysStepAndAccumulate :=
  ⟨does_arrayStep_within_group,
    fun _ _ u h hf hh hfeed hl => does_arrayStep_bump h _ (by decide) (arrayStep_of_idle hf hh u hfeed hl),
    fun _ _ _ _ u h hf hh hfeed ht hc => does_arrayStep_bump h _ (by decide) (arrayStep_of_cap_zero hf hh hfeed ht u hc),
    fun s _ u h hshut => does_settle (congrArg (settle s) (arrayStep_of_shut u hshut)) h rfl rfl rfl,
    does_arrayStep_ends_group⟩

end Sys2Proof.Machine
end

section
/-!
PROOFS. INTERMEDIATE_CHECK, VECTOR_ENGINE_FAULT and PASS_RESTART (R88, R89, R104, R109, R119): what fences a unit, what a failed
comparison records and moves, and what ends the stop of a pass.
-/

namespace Sys2Proof.Machine

/-! ### Maintenance requests and log entries -/

theorem Only.hasF_eq {ps : List Part} {l : List Nat} {s t : State} (h : Only ps l s t) (f : Field) (hn : f.off ∉ l) :
    hasF t f = hasF s f := by
  unfold hasF; rw [h.field f hn]

theorem only_requestActivity (s : State) (x : Activity) : Only [.maint] [Off.SAF_MAINT] s (requestActivity s x) := by
  unfold requestActivity
  split
  · exact Only.rfl' _ _ _
  · exact ((only_maint s _).mono (fun _ h => h) (by simp)).trans ((only_showMaint _).mono (by simp) (fun _ h => h))

/-- An activity asked for waits or runs. -/
theorem mem_requestActivity (s : State) (x : Activity) :
    x ∈ (requestActivity s x).maint.waiting ∨ x ∈ (requestActivity s x).maint.running := by
  unfold requestActivity
  split
  · next h => simpa [Bool.or_eq_true] using h
  · exact .inl (by simp)

/-- A fault in the log is seen in SAF_STATUS. -/
theorem hasF_fault_seen_logFault (s : State) (code oc die unit detail : Nat) :
    hasF (logFault s code oc die unit detail) F.SAF_STATUS_fault_seen = true :=
  hasF_flag _ F.SAF_STATUS_fault_seen 11 (by decide) (by decide) (by decide)

/-! ### The fence of an array, R89 and R90 -/

theorem fenced_of_regsBut {s t : State} {l : List Nat} (h : RegsBut l s t) {a : Nat} (ha : Off.ARR_FENCED (a / 64) ∉ l) :
    fenced t a = fenced s a := by unfold fenced; rw [h _ ha]

/-- The bit of an array set in ARR_FENCED. -/
def setFence (s : State) (a : Nat) : State :=
  setReg s (Off.ARR_FENCED (a / 64)) (getReg s (Off.ARR_FENCED (a / 64)) ||| BitVec.ofNat 64 (2 ^ (a % 64)))

theorem bit_two_pow (n : Nat) {i : Nat} (h : i < 64) : bit (BitVec.ofNat 64 (2 ^ n)) i = decide (n = i) := by
  unfold bit
  rw [BitVec.getLsbD_ofNat, Nat.testBit_two_pow]
  simp [h]

theorem fenced_setFence (s : State) (a x : Nat) : fenced (setFence s a) x = (decide (a = x) || fenced s x) := by
  unfold fenced setFence
  by_cases hword : x / 64 = a / 64
  · have hsame : a % 64 = x % 64 ↔ a = x := by omega
    rw [hword, getReg_setReg_self, bit_or, bit_two_pow _ (by omega), Bool.or_comm]
    simp only [hsame]
  · have hne : a ≠ x := fun h => hword (h ▸ rfl)
    rw [getReg_setReg_other _ _ _ _ (by simp only [Off.ARR_FENCED]; omega)]
    simp [hne]

theorem fenceOff_not_mem {i : Nat} (h : i < 8) : Off.ARR_FENCED i ∉ [Off.ARR_STATUS, Off.SAF_MAINT] := by
  simp only [Off.ARR_FENCED, Off.ARR_STATUS, Off.SAF_MAINT, List.mem_cons, List.not_mem_nil, or_false, not_or]
  omega

/-- The fence shown and the BIST slice asked for. -/
def showFence (s : State) (a : Nat) : State := requestActivity (setF (setFence s a) F.ARR_STATUS_fence_changed 1) ⟨0, 0, a⟩

theorem fenceArray_eq (s : State) (a : Nat) : fenceArray s a =
    if (arrayOrder a).all (fenced (showFence s a)) then holdFault (flag (showFence s a) F.ARR_STATUS_cluster_lost 4) 0x0E 5 (a / 8) a 0
    else showFence s a := rfl

theorem only_showFence (s : State) (a : Nat) :
    Only [.maint] [Off.ARR_FENCED (a / 64), Off.ARR_STATUS, Off.SAF_MAINT] s (showFence s a) := by
  refine Only.trans ?_ ((only_requestActivity _ _).mono (fun _ h => h) (by simp))
  refine Only.trans ?_ ((only_setF _ F.ARR_STATUS_fence_changed 1).mono (by simp) (by simp [F.ARR_STATUS_fence_changed]))
  exact (only_setReg s _ _).mono (by simp) (by simp)

theorem fenced_showFence (s : State) (a : Nat) {x : Nat} (h : x < 512) : fenced (showFence s a) x = (decide (a = x) || fenced s x) := by
  rw [← fenced_setFence]
  exact fenced_of_regsBut (((only_setF _ F.ARR_STATUS_fence_changed 1).2.mono (by decide)).trans
    ((only_requestActivity _ _).2.mono (by simp))) (fenceOff_not_mem (by omega))

theorem fence_changed_showFence (s : State) (a : Nat) : hasF (showFence s a) F.ARR_STATUS_fence_changed = true :=
  ((only_requestActivity _ _).hasF_eq _ (by decide)).trans (hasF_setF_one _ F.ARR_STATUS_fence_changed (by decide) (by decide))

/-- A field that a fence does not write. -/
theorem getF_showFence (s : State) (a : Nat) {f : Field} (h1 : F.ARR_STATUS_fence_changed.apart f = true)
    (h2 : f.off ≠ Off.ARR_FENCED (a / 64)) (h3 : f.off ≠ Off.SAF_MAINT) : getF (showFence s a) f = getF s f := by
  unfold showFence
  rw [(only_requestActivity _ _).field f (by simpa using h3), getF_setF_other _ _ _ _ (by decide) h1]
  exact (only_setReg s _ _).field f (by simpa using h2)

/-- While another array of the cluster serves, a fence goes no further. -/
theorem fenceArray_of_standIn {s : State} {a x : Nat} (hx : x ∈ arrayOrder a) (hne : x ≠ a) (hfree : fenced s x = false)
    (hlt : x < 512) : fenceArray s a = showFence s a := by
  have hserves : fenced (showFence s a) x = false := by simp [fenced_showFence s a hlt, hfree, Ne.symm hne]
  rw [fenceArray_eq, List.all_eq_false.mpr ⟨x, hx, by simp [hserves]⟩]
  rfl

/-! ### The tiles of a fenced array, R89 -/

theorem only_moveTiles (s : State) (a bank k : Nat) : Only [.lch, .arr] [] s (moveTiles s a bank k) := by
  unfold moveTiles
  dsimp only
  refine Only.trans ?_ ((only_arr _ _).mono (by simp) (by simp))
  refine Only.trans ?_ ((only_setBank _ _ _ _).mono (by simp) (by simp))
  refine Only.trans ?_ ((only_setArray _ _ _).mono (by simp) (by simp))
  exact (only_setUnit s _ _).mono (by simp) (by simp)

/-- The array feeds nothing, and its other records stand but for the tile that failed. -/
theorem arrayOf_moveTiles_self (s : State) (a bank k : Nat) : arrayOf (moveTiles s a bank k) a =
    { arrayOf s a with feeding := none, step := 0, rerun := [], drains := (arrayOf s a).drains.filter (fun j => j != k) } :=
  arrayOf_setArray_self _ a _

theorem failed_mem_restarts_moveTiles (s : State) (a bank k : Nat) : k ∈ FMap.get [] (moveTiles s a bank k).arr.restarts a := by
  unfold moveTiles
  dsimp only
  rw [FMap.get_set_self]
  simp

/-! ### A failed comparison, R89 and R108 -/

/-- What a failed comparison shows in the registers of the arrays. -/
def markMismatch (s : State) (a : Nat) (row : Bool) (idx : Nat) (point intEq injected : Bool) : State :=
  let s := setReg s Off.ARR_LAST_MISMATCH (BitVec.ofNat 64
    (a + 2 ^ 9 * b2n row + 2 ^ 10 * idx + 2 ^ 17 * b2n point + 2 ^ 18 * b2n intEq + 2 ^ 19 * b2n injected))
  let s := setF s F.ARR_LAST_MISMATCH_SLOT_slot (slot s)
  flag (bumpF s F.ARR_MISMATCH_CNT_count 1) F.ARR_STATUS_mismatch_seen 4

/-- The record of Table 3.11 and the log entry of a failed comparison. -/
def recordMismatch (s : State) (a : Nat) (row : Bool) (idx : Nat) (point intEq injected : Bool) : State :=
  logFault (markMismatch s a row idx point intEq injected) 0x0B 1 (a / 8) a 0

/-- The registers that a failed comparison shows itself in, before its log entry. -/
def mismatchRegs : List Nat :=
  [Off.ARR_LAST_MISMATCH, Off.ARR_LAST_MISMATCH_SLOT, Off.ARR_MISMATCH_CNT, Off.ARR_STATUS, Off.HST_IRQ_PENDING]

section
variable (s : State) (a : Nat) (row : Bool) (idx : Nat) (point intEq injected : Bool)

theorem only_markMismatch : Only eventParts mismatchRegs s (markMismatch s a row idx point intEq injected) := by
  unfold markMismatch
  refine Only.trans ?_ ((only_flag _ F.ARR_STATUS_mismatch_seen 4).mono (fun _ h => h) (by decide))
  refine Only.trans ?_ ((only_bumpF _ F.ARR_MISMATCH_CNT_count 1).mono (by simp) (by decide))
  refine Only.trans ?_ ((only_setF _ F.ARR_LAST_MISMATCH_SLOT_slot _).mono (by simp) (by decide))
  exact (only_setReg s _ _).mono (by simp) (by decide)

theorem only_recordMismatch : Only eventParts (mismatchRegs ++ logRegs s) s (recordMismatch s a row idx point intEq injected) :=
  (only_markMismatch s a row idx point intEq injected).logFault (by decide) (by decide) (by decide) _ _ _ _ _

/-- The log entry leaves the registers of the arrays. -/
theorem getF_recordMismatch {f : Field} (h : f.off ∈ mismatchRegs) (hp : f.off ≠ Off.HST_IRQ_PENDING) :
    getF (recordMismatch s a row idx point intEq injected) f = getF (markMismatch s a row idx point intEq injected) f := by
  have hlow : ∀ o ∈ mismatchRegs, o ≠ Off.HST_IRQ_PENDING →
      (o ≠ Off.SAF_LOG_HEAD ∧ o ≠ Off.SAF_FAULT_CNT ∧ o ≠ Off.SAF_STATUS ∧ o ≠ Off.HST_IRQ_PENDING) ∧ (o < 0x310000 ∨ 0x311000 ≤ o) := by
    decide
  obtain ⟨hnamed, hentry⟩ := hlow f.off h hp
  exact (only_logFault _ _ _ _ _ _).field f (not_mem_logRegs _ _ hnamed hentry)

theorem slot_markMismatch : getF (markMismatch s a row idx point intEq injected) F.ARR_LAST_MISMATCH_SLOT_slot = slot s := by
  unfold markMismatch
  dsimp only
  rw [getF_flag_other _ _ _ _ (by decide) (by decide) (by decide), getF_bumpF_other _ _ _ _ (by decide) (by decide),
    getF_setF_same _ _ _ (by decide)]
  have hslot : slot (setReg s Off.ARR_LAST_MISMATCH (BitVec.ofNat 64
      (a + 2 ^ 9 * b2n row + 2 ^ 10 * idx + 2 ^ 17 * b2n point + 2 ^ 18 * b2n intEq + 2 ^ 19 * b2n injected))) = slot s :=
    (only_setReg s _ _).field F.LCH_SLOT_slot (by decide)
  rw [hslot]
  exact Nat.mod_eq_of_lt (getF_lt s F.LCH_SLOT_slot)

end

theorem fenceOff_not_mem_mismatchRegs (i : Nat) : Off.ARR_FENCED i ∉ mismatchRegs := by
  simp only [mismatchRegs, List.mem_cons, List.not_mem_nil, or_false, not_or, Off.ARR_FENCED, Off.ARR_LAST_MISMATCH,
    Off.ARR_LAST_MISMATCH_SLOT, Off.ARR_MISMATCH_CNT, Off.ARR_STATUS, Off.HST_IRQ_PENDING]
  omega

theorem fenceOff_not_mem_logRegs (s : State) (i : Nat) : Off.ARR_FENCED i ∉ logRegs s := by
  refine not_mem_logRegs s _ ?_ (.inr ?_) <;>
    simp only [Off.ARR_FENCED, Off.SAF_LOG_HEAD, Off.SAF_FAULT_CNT, Off.SAF_STATUS, Off.HST_IRQ_PENDING] <;> omega

/-- The state of a failed comparison before the fence. -/
def beforeFence (s : State) (a bank k : Nat) (row : Bool) (idx : Nat) (point intEq injected : Bool) : State :=
  moveTiles (recordMismatch s a row idx point intEq injected) a bank k

section
variable (s : State) (a bank k : Nat) (row : Bool) (idx : Nat) (point intEq injected : Bool)

theorem only_beforeFence : Only ([.lch, .arr] ++ eventParts) (mismatchRegs ++ logRegs s) s
    (beforeFence s a bank k row idx point intEq injected) :=
  ((only_recordMismatch s a row idx point intEq injected).mono (by simp [eventParts]) (fun _ h => h)).trans
    ((only_moveTiles _ a bank k).mono (by simp) (by simp))

theorem fenced_beforeFence (x : Nat) : fenced (beforeFence s a bank k row idx point intEq injected) x = fenced s x :=
  fenced_of_regsBut (only_beforeFence s a bank k row idx point intEq injected).2
    (List.mem_append.not.mpr (not_or.mpr ⟨fenceOff_not_mem_mismatchRegs _, fenceOff_not_mem_logRegs s _⟩))

theorem getF_beforeFence (f : Field) : getF (beforeFence s a bank k row idx point intEq injected) f =
    getF (recordMismatch s a row idx point intEq injected) f := (only_moveTiles _ a bank k).field f (by simp)

theorem arrayOf_beforeFence_self : arrayOf (beforeFence s a bank k row idx point intEq injected) a =
    { arrayOf s a with feeding := none, step := 0, rerun := [], drains := (arrayOf s a).drains.filter (fun j => j != k) } := by
  have hrec : arrayOf (recordMismatch s a row idx point intEq injected) a = arrayOf s a :=
    arrayOf_congr ((only_recordMismatch s a row idx point intEq injected).1 .arr (by decide)) a
  unfold beforeFence
  rw [arrayOf_moveTiles_self, hrec]

variable {s a} {x : Nat} (hx : x ∈ arrayOrder a) (hne : x ≠ a) (hfree : fenced s x = false) (hlt : x < 512)
include hx hne hfree hlt

/-- While another array of the cluster serves, a failed comparison is recorded, moves the tiles, and fences the array. -/
theorem mismatch_of_standIn :
    mismatch s a bank k row idx point intEq injected = showFence (beforeFence s a bank k row idx point intEq injected) a :=
  fenceArray_of_standIn hx hne ((fenced_beforeFence s a bank k row idx point intEq injected x).trans hfree) hlt

theorem fenced_mismatch {y : Nat} (hy : y < 512) :
    fenced (mismatch s a bank k row idx point intEq injected) y = (decide (a = y) || fenced s y) := by
  rw [mismatch_of_standIn bank k row idx point intEq injected hx hne hfree hlt, fenced_showFence _ a hy, fenced_beforeFence]

theorem arr_mismatch : (mismatch s a bank k row idx point intEq injected).arr = (beforeFence s a bank k row idx point intEq injected).arr := by
  rw [mismatch_of_standIn bank k row idx point intEq injected hx hne hfree hlt]
  exact (only_showFence _ a).1 .arr (by decide)

theorem arrayOf_mismatch_self : arrayOf (mismatch s a bank k row idx point intEq injected) a =
    { arrayOf s a with feeding := none, step := 0, rerun := [], drains := (arrayOf s a).drains.filter (fun j => j != k) } :=
  (arrayOf_congr (arr_mismatch bank k row idx point intEq injected hx hne hfree hlt) a).trans (arrayOf_beforeFence_self ..)

theorem failed_mem_restarts_mismatch : k ∈ FMap.get [] (mismatch s a bank k row idx point intEq injected).arr.restarts a := by
  rw [arr_mismatch bank k row idx point intEq injected hx hne hfree hlt]
  exact failed_mem_restarts_moveTiles _ a bank k

/-- The fence and the log entry leave what the comparison shows, but for fence_changed. -/
theorem getF_mismatch {f : Field} (h : f.off ∈ mismatchRegs) (hp : f.off ≠ Off.HST_IRQ_PENDING)
    (hc : F.ARR_STATUS_fence_changed.apart f = true) :
    getF (mismatch s a bank k row idx point intEq injected) f = getF (markMismatch s a row idx point intEq injected) f := by
  have hfence : f.off ≠ Off.ARR_FENCED (a / 64) := fun e => fenceOff_not_mem_mismatchRegs _ (e ▸ h)
  have hmaint : f.off ≠ Off.SAF_MAINT := fun e => absurd (e ▸ h) (by decide)
  rw [mismatch_of_standIn bank k row idx point intEq injected hx hne hfree hlt, getF_showFence _ a hc hfence hmaint, getF_beforeFence,
    getF_recordMismatch s a row idx point intEq injected h hp]

theorem mismatch_seen_mismatch : hasF (mismatch s a bank k row idx point intEq injected) F.ARR_STATUS_mismatch_seen = true := by
  unfold hasF
  rw [getF_mismatch bank k row idx point intEq injected hx hne hfree hlt (by decide) (by decide) (by decide)]
  exact hasF_flag _ F.ARR_STATUS_mismatch_seen 4 (by decide) (by decide) (by decide)

theorem fence_changed_mismatch : hasF (mismatch s a bank k row idx point intEq injected) F.ARR_STATUS_fence_changed = true := by
  rw [mismatch_of_standIn bank k row idx point intEq injected hx hne hfree hlt]
  exact fence_changed_showFence _ a

theorem slot_mismatch : getF (mismatch s a bank k row idx point intEq injected) F.ARR_LAST_MISMATCH_SLOT_slot = slot s := by
  rw [getF_mismatch bank k row idx point intEq injected hx hne hfree hlt (by decide) (by decide) (by decide)]
  exact slot_markMismatch s a row idx point intEq injected

theorem only_mismatch : Only ([.lch, .arr, .maint] ++ eventParts) ([Off.ARR_LAST_MISMATCH, Off.ARR_LAST_MISMATCH_SLOT,
    Off.ARR_MISMATCH_CNT, Off.ARR_STATUS, Off.ARR_FENCED (a / 64), Off.SAF_MAINT] ++ logRegs s) s
    (mismatch s a bank k row idx point intEq injected) := by
  rw [mismatch_of_standIn bank k row idx point intEq injected hx hne hfree hlt]
  refine ((only_beforeFence s a bank k row idx point intEq injected).mono (by decide) ?_).trans ((only_showFence _ a).mono (by decide) ?_)
  · simp only [mismatchRegs, logRegs, List.mem_append, List.mem_cons, List.not_mem_nil, or_false]
    tauto
  · simp only [List.mem_append, List.mem_cons, List.not_mem_nil, or_false]
    tauto

end

/-! ### An intermediate check, R88 -/

section
variable {s : State} {a k : Nat} {t0 : TileProgram}

theorem intermediateStep_of_idle (hfeed : (arrayOf s a).feeding = none) : intermediateStep s a = s := by
  simp [intermediateStep, hfeed]

variable (hfeed : (arrayOf s a).feeding = some k) (ht : tileOfKey s k = some t0) (hd : checkDue s a t0 = true)
include hfeed ht hd

/-- A bank whose lines agree is marked with the steps that it has taken. -/
theorem intermediateStep_of_agree (hi : (arrayOf s a).inject = none) (hl : failingLine (bankOf s a t0.bank) = none) :
    intermediateStep s a = setBank (bumpF s F.ARR_CHECK_SKIP_CNT_count (skippedLines (bankOf s a t0.bank))) a t0.bank
      { bankOf s a t0.bank with checked := (bankOf s a t0.bank).steps } := by
  simp only [intermediateStep, hfeed, ht, hd, compareBank, hi, hl, if_true]
  rfl

/-- An injected mismatch fails the comparison, and is used up by it. -/
theorem intermediateStep_of_inject {row : Bool} (hi : (arrayOf s a).inject = some row) :
    intermediateStep s a = mismatch (setArray s a { arrayOf s a with inject := none }) a t0.bank k row 0 true
      (bankOf s a t0.bank).intEq true := by
  simp [intermediateStep, hfeed, ht, hd, compareBank, hi]

end

theorem does_intermediateCheck_agree (s : State) (a k : Nat) (t0 : TileProgram) (h : Up s) (hfeed : (arrayOf s a).feeding = some k)
    (ht : tileOfKey s k = some t0) (hd : checkDue s a t0 = true) (hi : (arrayOf s a).inject = none)
    (hl : failingLine (bankOf s a t0.bank) = none) :
    Does (.intermediateCheck a) s fun t => (bankOf t a t0.bank).checked = (bankOf s a t0.bank).steps ∧
      (bankOf t a t0.bank).entry = (bankOf s a t0.bank).entry ∧ Only [.arr] [Off.ARR_CHECK_SKIP_CNT] s t := by
  refine does_settle (congrArg (settle s) (intermediateStep_of_agree hfeed ht hd hi hl)) h rfl rfl ⟨?_, ?_, ?_⟩
  · rw [bankOf_setBank_self]
  · rw [bankOf_setBank_self]
  · exact ((only_bumpF s F.ARR_CHECK_SKIP_CNT_count _).mono (by simp) (by decide)).trans
      ((only_setBank _ a t0.bank _).mono (fun _ h => h) (by simp))

theorem does_intermediateCheck_inject (s : State) (a k x : Nat) (t0 : TileProgram) (row : Bool) (h : Up s) (ha : a < 512)
    (hfeed : (arrayOf s a).feeding = some k) (ht : tileOfKey s k = some t0) (hd : checkDue s a t0 = true)
    (hi : (arrayOf s a).inject = some row) (hx : x ∈ arrayOrder a) (hne : x ≠ a) (hfree : fenced s x = false) (hlt : x < 512) :
    Does (.intermediateCheck a) s fun t => fenced t a = true ∧ fenced t x = false ∧ (arrayOf t a).feeding = none ∧
      (arrayOf t a).inject = none ∧ k ∈ FMap.get [] t.arr.restarts a ∧ hasF t F.ARR_STATUS_mismatch_seen = true ∧
      hasF t F.ARR_STATUS_fence_changed = true ∧ getF t F.ARR_LAST_MISMATCH_SLOT_slot = slot s ∧
      Only ([.lch, .arr, .maint] ++ eventParts) ([Off.ARR_LAST_MISMATCH, Off.ARR_LAST_MISMATCH_SLOT, Off.ARR_MISMATCH_CNT,
        Off.ARR_STATUS, Off.ARR_FENCED (a / 64), Off.SAF_MAINT] ++ logRegs s) s t := by
  have he := intermediateStep_of_inject hfeed ht hd hi
  have hused := only_setArray s a { arrayOf s a with inject := none }
  have hfree' : fenced (setArray s a { arrayOf s a with inject := none }) x = false := hfree
  have harray := arrayOf_mismatch_self t0.bank k row 0 true (bankOf s a t0.bank).intEq true hx hne hfree' hlt
  have hframe := (hused.mono (by simp) (by simp)).trans
    (only_mismatch t0.bank k row 0 true (bankOf s a t0.bank).intEq true hx hne hfree' hlt)
  rw [arrayOf_setArray_self] at harray
  refine does_settle (congrArg (settle s) he) h (hframe.pending (by decide)) (hframe.fuse (by decide))
    ⟨?_, ?_, ?_, ?_, ?_, ?_, ?_, ?_, hframe⟩
  · simp [fenced_mismatch _ k _ _ _ _ _ hx hne hfree' hlt ha]
  · simp [fenced_mismatch _ k _ _ _ _ _ hx hne hfree' hlt hlt, hfree', Ne.symm hne]
  · rw [harray]
  · rw [harray]
  · exact failed_mem_restarts_mismatch _ k _ _ _ _ _ hx hne hfree' hlt
  · exact mismatch_seen_mismatch _ k _ _ _ _ _ hx hne hfree' hlt
  · exact fence_changed_mismatch _ k _ _ _ _ _ hx hne hfree' hlt
  · exact slot_mismatch _ k _ _ _ _ _ hx hne hfree' hlt

/-! ### A vector engine fenced, R119 -/

/-- The mark of a fenced vector engine. -/
def setVeFence (s : State) (core : Nat) : State := { s with arr := { s.arr with veFenced := FMap.set false s.arr.veFenced core true } }

theorem veFenced_setVeFence_self (s : State) (core : Nat) : veFenced (setVeFence s core) core = true :=
  FMap.get_set_self false s.arr.veFenced core true

theorem veFenced_setVeFence_other (s : State) {core o : Nat} (h : o ≠ core) : veFenced (setVeFence s core) o = veFenced s o :=
  FMap.get_set_other false s.arr.veFenced true h

theorem veFenced_congr {s t : State} (h : t.arr = s.arr) (core : Nat) : veFenced t core = veFenced s core := by unfold veFenced; rw [h]

/-- The other engine of the cluster serves a fenced one while it is not fenced itself. -/
theorem veFor_of_partner {s : State} {core : Nat} (h : veFenced s core = true) (ho : veFenced s (core / 2 * 2 + (1 - core % 2)) = false) :
    veFor s core = some (core / 2 * 2 + (1 - core % 2)) := by
  simp [veFor, h, ho]

section
variable {s : State} {core : Nat} (ho : veFenced s (core / 2 * 2 + (1 - core % 2)) = false)
include ho

theorem veFor_requestActivity_setVeFence (x : Activity) :
    veFor (requestActivity (setVeFence s core) x) core = some (core / 2 * 2 + (1 - core % 2)) := by
  have harr : (requestActivity (setVeFence s core) x).arr = (setVeFence s core).arr := requestActivity_arr _ _
  refine veFor_of_partner ?_ ?_
  · rw [veFenced_congr harr, veFenced_setVeFence_self]
  · rw [veFenced_congr harr, veFenced_setVeFence_other _ (by omega), ho]

/-- An engine without a waiting program is fenced and asks for its slice; the other engine takes nothing over. -/
theorem fenceVe_of_partner (hw : (unitOf s (512 + core)).waiting = none) :
    fenceVe s core = requestActivity (setVeFence s core) ⟨0, 1, core⟩ := by
  have hunit : unitOf (requestActivity (setVeFence s core) ⟨0, 1, core⟩) (512 + core) = unitOf s (512 + core) := by
    unfold unitOf; rw [requestActivity_lch]; rfl
  have hfor := veFor_requestActivity_setVeFence ho ⟨0, 1, core⟩
  unfold fenceVe
  simp only [setVeFence] at hfor hunit ⊢
  rw [hfor]
  simp only [hunit, hw]

end

/-- A fault of an engine that runs and waits for nothing stops no pass: it is logged, and the engine is fenced. -/
theorem veFault_of_free {s : State} {core : Nat} (hr : (unitOf s (512 + core)).running = none)
    (hw : (unitOf s (512 + core)).waiting = none) : veFault s core = fenceVe (logFault s 0x0C 1 (core / 4) core 0) core := by
  have hunit : unitOf (logFault s 0x0C 1 (core / 4) core 0) (512 + core) = unitOf s (512 + core) := by
    unfold unitOf; rw [logFault_lch]
  simp [veFault, hunit, hr, hw]

theorem does_vectorEngineFault (s : State) (core : Nat) (h : Up s) (hr : (unitOf s (512 + core)).running = none)
    (hw : (unitOf s (512 + core)).waiting = none) (ho : veFenced s (core / 2 * 2 + (1 - core % 2)) = false) :
    Does (.vectorEngineFault core) s fun t => veFenced t core = true ∧ (⟨0, 1, core⟩ ∈ t.maint.waiting ∨ ⟨0, 1, core⟩ ∈ t.maint.running) ∧
      veFor t core = some (core / 2 * 2 + (1 - core % 2)) ∧ hasF t F.SAF_STATUS_fault_seen = true ∧
      Only ([.arr, .maint] ++ eventParts) (Off.SAF_MAINT :: logRegs s) s t := by
  have hlog := only_logFault s 0x0C 1 (core / 4) core 0
  have hseen := hasF_fault_seen_logFault s 0x0C 1 (core / 4) core 0
  have hstep := veFault_of_free hr hw
  generalize logFault s 0x0C 1 (core / 4) core 0 = u at hlog hseen hstep
  have hou : veFenced u (core / 2 * 2 + (1 - core % 2)) = false := (veFenced_congr (hlog.1 .arr (by decide)) _).trans ho
  have hwu : (unitOf u (512 + core)).waiting = none := by
    have hlch : u.lch = s.lch := hlog.1 .lch (by decide)
    unfold unitOf at hw ⊢
    rw [hlch, hw]
  have he := hstep.trans (fenceVe_of_partner hou hwu)
  have hask := only_requestActivity (setVeFence u core) ⟨0, 1, core⟩
  have hfenced : Only [.arr, .maint] [Off.SAF_MAINT] u (requestActivity (setVeFence u core) ⟨0, 1, core⟩) :=
    ((only_arr u _).mono (by simp) (by simp)).trans (hask.mono (by simp) (fun _ h => h))
  have hframe : Only ([.arr, .maint] ++ eventParts) (Off.SAF_MAINT :: logRegs s) s (requestActivity (setVeFence u core) ⟨0, 1, core⟩) :=
    (hlog.mono (by decide) (fun _ h => List.mem_cons_of_mem _ h)).trans (hfenced.mono (by decide) (by simp))
  refine does_settle (congrArg (settle s) he) h (hframe.pending (by decide)) (hframe.fuse (by decide)) ⟨?_, ?_, ?_, ?_, hframe⟩
  · rw [veFenced_congr (hask.1 .arr (by decide)), veFenced_setVeFence_self]
  · exact mem_requestActivity _ _
  · exact veFor_requestActivity_setVeFence hou _
  · exact (hfenced.hasF_eq F.SAF_STATUS_fault_seen (by decide)).trans hseen

/-! ### The restart boundary, R104 -/

/-- A pass at a restart boundary: a stop ends and joins the pauses. -/
def PassRun.restarted (r : PassRun) (now : Nat) : PassRun :=
  if r.stopped then { r with stopped := false, restartAt := now, pauses := r.pauses ++ [(r.stopFrom, now)] } else r

theorem PassRun.restarted_restarted (r : PassRun) (now : Nat) : (r.restarted now).restarted now = r.restarted now := by
  unfold PassRun.restarted
  cases h : r.stopped <;> simp [h]

/-- One pass at a restart boundary. -/
def restartPass (s : State) (p : Nat) : State :=
  let r := passOf s p
  if r.stopped then setPass s p { r with stopped := false, restartAt := slot s, pauses := r.pauses ++ [(r.stopFrom, slot s)] } else s

theorem restartPasses_eq (s : State) : restartPasses s = (FMap.keys s.lch.passes).foldl restartPass s := rfl

theorem only_restartPass (s : State) (p : Nat) : Only [.lch] [] s (restartPass s p) := by
  unfold restartPass
  dsimp only
  split
  · exact only_setPass s p _
  · exact Only.rfl' _ _ _

theorem passOf_restartPass (s : State) (p q : Nat) :
    passOf (restartPass s p) q = if q = p then (passOf s p).restarted (slot s) else passOf s q := by
  by_cases hs : (passOf s p).stopped = true
  · have hset : restartPass s p = setPass s p ((passOf s p).restarted (slot s)) := by simp [restartPass, PassRun.restarted, hs]
    rw [hset]
    exact FMap.get_set PassRun.fresh s.lch.passes p q _
  · have hsame : restartPass s p = s := by simp [restartPass, hs]
    have hkeep : (passOf s p).restarted (slot s) = passOf s p := if_neg hs
    rw [hsame, hkeep]
    split
    · next hq => rw [hq]
    · rfl

theorem passOf_foldl_restartPass (ps : List Nat) (s : State) (q : Nat) :
    passOf (ps.foldl restartPass s) q = if q ∈ ps then (passOf s q).restarted (slot s) else passOf s q := by
  induction ps generalizing s with
  | nil => rfl
  | cons p ps ih =>
    have hslot : slot (restartPass s p) = slot s := (only_restartPass s p).field F.LCH_SLOT_slot (by simp)
    rw [List.foldl_cons, ih, hslot, passOf_restartPass]
    by_cases hq : q = p
    · subst hq
      simp [PassRun.restarted_restarted]
    · simp [hq]

theorem only_restartPasses (s : State) : Only [.lch] [] s (restartPasses s) :=
  foldl_only _ _ _ _ (fun s p _ => only_restartPass s p) s

theorem FMap.get_of_not_mem_keys {α : Type} (d : α) (m : FMap α) {k : Nat} (h : k ∉ FMap.keys m) : FMap.get d m k = d := by
  induction m with
  | nil => rfl
  | cons p m ih =>
    obtain ⟨hne, hm⟩ : k ≠ p.1 ∧ k ∉ FMap.keys m := by simpa [FMap.keys] using h
    exact (if_neg (Ne.symm hne)).trans (ih hm)

/-- A pass without a record is not stopped. -/
theorem mem_keys_of_stopped {s : State} {p : Nat} (h : (passOf s p).stopped = true) : p ∈ FMap.keys s.lch.passes := by
  by_contra hn
  have hfresh : passOf s p = PassRun.fresh := FMap.get_of_not_mem_keys _ _ hn
  rw [hfresh] at h
  exact absurd h (by decide)

theorem passOf_restartPasses_of_stopped {s : State} {p : Nat} (h : (passOf s p).stopped = true) :
    passOf (restartPasses s) p =
      { passOf s p with stopped := false, restartAt := slot s, pauses := (passOf s p).pauses ++ [((passOf s p).stopFrom, slot s)] } := by
  rw [restartPasses_eq, passOf_foldl_restartPass, if_pos (mem_keys_of_stopped h)]
  exact if_pos h

/-- A plan without layers has nothing to decide again. -/
theorem decideAgain_of_no_layers {s : State} (h : ∀ pl, s.plan = some pl → pl.layers = []) (p : Nat) : decideAgain s p = s := by
  unfold decideAgain
  split
  · rfl
  · next pl hpl => simp [h pl hpl]

theorem passRestart_of_no_layers {s : State} (hh : inHold s = false) (hs : stopInForce s = false)
    (hl : ∀ pl, s.plan = some pl → pl.layers = []) : passRestart s = restartPasses s := by
  have hplan : (restartPasses s).plan = s.plan := (only_restartPasses s).1 .plan (by decide)
  have hkeep : ∀ p, decideAgain (restartPasses s) p = restartPasses s := decideAgain_of_no_layers (hplan ▸ hl)
  simp only [passRestart, hh, hs, Bool.or_self, Bool.false_eq_true, if_false, restartAll]
  exact List.foldl_fixed' hkeep _

theorem passRestart_waits {s : State} (h : inHold s = true ∨ stopInForce s = true) : passRestart s = s :=
  if_pos (Bool.or_eq_true_iff.mpr h)

theorem does_passRestart (s : State) (p : Nat) (h : Up s) (hh : inHold s = false) (hs : stopInForce s = false)
    (hp : (passOf s p).stopped = true) (hl : ∀ pl, s.plan = some pl → pl.layers = []) :
    Does .passRestart s fun t => (passOf t p).stopped = false ∧ (passOf t p).restartAt = slot s ∧
      (passOf t p).pauses = (passOf s p).pauses ++ [((passOf s p).stopFrom, slot s)] ∧ Only [.lch] [] s t := by
  have hframe := only_restartPasses s
  refine does_settle (congrArg (settle s) (passRestart_of_no_layers hh hs hl)) h (hframe.pending (by decide)) (hframe.fuse (by decide)) ?_
  rw [passOf_restartPasses_of_stopped hp]
  exact ⟨rfl, rfl, rfl, hframe⟩

/-- Settles O25: each command comes down to one operation of the model, and the fold over the passes to one lemma about a pass. -/
theorem checksPassOrFence : Obligations.ChecksPassOrFence :=
  ⟨does_intermediateCheck_agree, does_intermediateCheck_inject,
    fun s _ h hfeed => does_settle (congrArg (settle s) (intermediateStep_of_idle hfeed)) h rfl rfl rfl, does_vectorEngineFault,
    does_passRestart, fun s h hw => does_settle (congrArg (settle s) (passRestart_waits hw)) h rfl rfl rfl⟩

end Sys2Proof.Machine
end

section
/-!
PROOFS. DRAIN, DRAIN_FAULT and TILE_RESTART (R87, R89, R120 to R128): what a drain releases and where its bytes lie, what a fault of a
drain fences, and what the substitute feeds first.
-/

namespace Sys2Proof.Machine

/-! ### Bytes that stand -/

theorem BytesBut.rfl' (rs : List (Nat × Nat)) (s : State) : BytesBut rs s s := fun _ _ => ⟨rfl, rfl⟩

theorem BytesBut.trans {rs : List (Nat × Nat)} {s t u : State} (h : BytesBut rs s t) (g : BytesBut rs t u) : BytesBut rs s u :=
  fun a ha => ⟨(g a ha).1.trans (h a ha).1, (g a ha).2.trans (h a ha).2⟩

theorem BytesBut.mono {rs qs : List (Nat × Nat)} {s t : State} (h : BytesBut rs s t) (hs : ∀ r ∈ rs, r ∈ qs) : BytesBut qs s t :=
  fun a ha => h a fun r hr => ha r (hs r hr)

/-- A frame that lists no memory. -/
theorem Only.bytesBut {ps : List Part} {l : List Nat} {s t : State} (h : Only ps l s t) (hm : Part.mem ∉ ps) (hf : Part.flash ∉ ps)
    (rs : List (Nat × Nat)) : BytesBut rs s t :=
  fun a _ => ⟨h.1 .mem hm a, h.1 .flash hf a⟩

/-- A write within a range leaves every byte outside it. -/
theorem bytesBut_wr (s : State) {a n b : Nat} {bs : List Byte} (hlo : a ≤ b) (hhi : b + bs.length ≤ a + n) :
    BytesBut [(a, n)] s (wr s b bs) := by
  intro x hx
  have hout : x < a ∨ a + n ≤ x := hx (a, n) (List.mem_singleton_self _)
  have hmiss : ¬(b ≤ x ∧ x < b + bs.length) := by omega
  unfold wr
  split
  · exact ⟨rfl, (readByte_writeBytes s.flash b bs x).trans (if_neg hmiss)⟩
  · exact ⟨(readByte_writeBytes s.mem b bs x).trans (if_neg hmiss), rfl⟩

/-! ### Where an element, a scale byte and an exception word lie in a frond image, R170 to R172 -/

theorem payloadLen_lt_imageLen (f : Fmt) : payloadLen + 64 ≤ f.imageLen := by unfold Fmt.imageLen Fmt.sideLen; omega

theorem codes_end_le_imageLen {f : Fmt} {row col n : Nat} (hr : row < f.rows) (hc : col + n ≤ f.rowElems) :
    f.rowBytes * row + f.elemBits * col / 8 + n * f.elemBits / 8 ≤ f.imageLen := by
  have hpayload : f.rowBytes * row + f.elemBits * col / 8 + n * f.elemBits / 8 ≤ payloadLen := by
    cases f <;> simp only [Fmt.rows, Fmt.rowElems, Fmt.rowBytes, Fmt.elemBits, payloadLen] at hr hc ⊢ <;> omega
  have := payloadLen_lt_imageLen f
  omega

theorem scale_lt_imageLen {f : Fmt} {row blk : Nat} (hf : f.isBlock = true) (hr : row < f.rows) (hb : 32 * blk + 32 ≤ f.rowElems) :
    payloadLen + 64 + f.rowBlocks * row + blk < f.imageLen := by
  have hblk : blk < f.rowBlocks := by
    rw [Fmt.rowBlocks, if_pos hf]
    omega
  have hrow : f.rowBlocks * (row + 1) ≤ f.rows * f.rowBlocks := Nat.mul_comm f.rows _ ▸ Nat.mul_le_mul_left _ hr
  rw [Nat.mul_succ] at hrow
  unfold Fmt.imageLen Fmt.sideLen
  omega

theorem exception_end_le_imageLen {row blk : Nat} (hr : row < Fmt.b4x.rows) (hb : 32 * blk + 32 ≤ Fmt.b4x.rowElems) :
    57344 + 13 * (14 * row + blk) / 8 + 3 ≤ Fmt.b4x.imageLen := by
  have := payloadLen_lt_imageLen .b4x
  simp only [Fmt.rows, Fmt.rowElems, payloadLen] at hr hb this
  omega

/-! ### A row of an output written, R123 -/

theorem only_writeCodes (s : State) (f : Fmt) (a row col : Nat) (codes : List Nat) :
    Only [.mem, .flash] [] s (writeCodes s f a row col codes) := only_wr s _ _

theorem bytesBut_writeCodes (s : State) {f : Fmt} (a : Nat) {row col : Nat} {codes : List Nat} (hr : row < f.rows)
    (hc : col + codes.length ≤ f.rowElems) : BytesBut [(a, f.imageLen)] s (writeCodes s f a row col codes) := by
  have hend := codes_end_le_imageLen hr hc
  exact bytesBut_wr s (by omega) (by rw [length_leBytes]; omega)

theorem only_writeBlock (s : State) (f : Fmt) (a row blk : Nat) (b : Block) : Only [.mem, .flash] [] s (writeBlock s f a row blk b) := by
  have hcodes : Only [.mem, .flash] [] s (if b.elems.isEmpty then s else writeCodes s f a row (32 * blk) b.elems) := by
    split
    · exact Only.rfl' _ _ s
    · exact only_writeCodes s f a row _ _
  have hscale := hcodes.trans (only_wr _ (a + payloadLen + 64 + f.rowBlocks * row + blk) (leBytes 1 b.scale))
  unfold writeBlock
  dsimp only
  split
  · exact hscale.trans (only_wr _ _ _)
  · exact hscale

theorem bytesBut_writeBlock (s : State) {f : Fmt} (a : Nat) {row blk : Nat} {b : Block} (hf : f.isBlock = true) (hr : row < f.rows)
    (hb : 32 * blk + 32 ≤ f.rowElems) (hlen : b.elems.length ≤ 32) : BytesBut [(a, f.imageLen)] s (writeBlock s f a row blk b) := by
  have hcodes : BytesBut [(a, f.imageLen)] s (if b.elems.isEmpty then s else writeCodes s f a row (32 * blk) b.elems) := by
    split
    · exact BytesBut.rfl' _ s
    · exact bytesBut_writeCodes s a hr (by omega)
  have hplace := scale_lt_imageLen hf hr hb
  have hscale := hcodes.trans (bytesBut_wr _ (b := a + payloadLen + 64 + f.rowBlocks * row + blk) (bs := leBytes 1 b.scale) (by omega)
    (by rw [length_leBytes]; omega))
  unfold writeBlock
  dsimp only
  split
  · next hx =>
    subst hx
    have hend := exception_end_le_imageLen hr hb
    exact hscale.trans (bytesBut_wr _ (by omega) (by rw [length_leBytes]; omega))
  · exact hscale

theorem Block.length_elems_ite_le {c : Prop} [Decidable c] {x y : Block} {n : Nat} (hx : x.elems.length ≤ n) (hy : y.elems.length ≤ n) :
    (if c then x else y).elems.length ≤ n := by
  split
  · exact hx
  · exact hy

/-- A block holds 32 elements, or none when it is poisoned or a zero block. -/
theorem length_elems_convBlock_le (f : Fmt) (rnd : Nat → Rnd) (xs : List Num) : (convBlock f rnd xs).elems.length ≤ 32 := by
  have hline : ∀ (q : Nat → Nat) (sc x : Nat), (Block.mk ((List.range 32).map q) sc x).elems.length ≤ 32 := fun q _ _ => by simp
  have hnone : ∀ sc x : Nat, (Block.mk [] sc x).elems.length ≤ 32 := fun _ _ => Nat.zero_le _
  exact Block.length_elems_ite_le (hnone _ _) (Block.length_elems_ite_le (hnone _ _) (Block.length_elems_ite_le
    (Block.length_elems_ite_le (hnone _ _) (hline _ _ _)) (Block.length_elems_ite_le (hnone _ _) (hline _ _ _))))

theorem only_writeOutRow (s : State) (o : Output) (seed : Word) (n i cols : Nat) (v : Nat → Num) :
    Only [.mem, .flash] [] s (writeOutRow s o seed n i cols v).1 := by
  unfold writeOutRow
  dsimp only
  split
  · refine List.foldlRecOn (motive := fun st : State × List Nat => Only [.mem, .flash] [] s st.1) _ _ (Only.rfl' _ _ s) ?_
    rintro ⟨u, cs⟩ hu b -
    exact hu.trans (only_writeBlock u _ _ _ _ _)
  · exact only_writeCodes s _ _ _ _ _

/-- A row of at most 128 columns that starts within the frond stays in its image. -/
theorem bytesBut_writeOutRow (s : State) (o : Output) (seed : Word) (n : Nat) {i cols : Nat} (v : Nat → Num) (hr : o.row0 + i < o.fmt.rows)
    (hc : o.col0 + 128 ≤ o.fmt.rowElems) (hcols : cols ≤ 128) : BytesBut [(o.addr, o.fmt.imageLen)] s (writeOutRow s o seed n i cols v).1 := by
  unfold writeOutRow
  dsimp only
  split
  · next hf =>
    refine List.foldlRecOn (motive := fun st : State × List Nat => BytesBut [(o.addr, o.fmt.imageLen)] s st.1) _ _ (BytesBut.rfl' _ s) ?_
    rintro ⟨u, cs⟩ hu b hb
    have hlt : b < (cols + 31) / 32 := List.mem_range.mp hb
    exact hu.trans (bytesBut_writeBlock u o.addr hf hr (by omega) (length_elems_convBlock_le _ _ _))
  · exact bytesBut_writeCodes s o.addr hr (by simp only [List.length_map, List.length_range]; omega)

/-! ### A row of a drain, Table 4.5 -/

/-- The stash tap of a row. -/
def writeDrainTap (s : State) (d : DrainProgram) (seed : Word) (n i cols : Nat) (on : Bool) (v : Nat → Num) : State × List Nat :=
  match d.stash with
  | some o => if on then writeOutRow s o seed n i cols v else (s, zeroCounts)
  | none => (s, zeroCounts)

/-- The row statistics of a row. -/
def writeDrainStats (s : State) (d : DrainProgram) (i : Nat) (vs : List Word32) : State :=
  match d.rowStats with | some a => wr s (a + 16 * i) (rowStats vs) | none => s

/-- The residual of a row. -/
def writeDrainResidual (s : State) (d : DrainProgram) (seed : Word) (n i cols : Nat) (vs : List Word32) : State × List Nat :=
  match d.residual with
  | some o => writeOutRow s { o with stoch := true } seed n i cols fun j => (residualRow s d.primary i vs).getD j (.fin 0)
  | none => (s, zeroCounts)

/-- The state after the tap and the statistics of a row, before its primary output. -/
def beforePrimary (s : State) (k : Nat) (t : TileProgram) (d : DrainProgram) (bk : Bank) (on : Bool) (i : Nat) : State :=
  writeDrainStats (writeDrainTap s d (jobSeed s) (runStep s k) i t.cols on fun j => ofF32 ((drainRow s bk d t.cols i).1.getD j 0)).1 d i
    (drainRow s bk d t.cols i).2

theorem releaseRow_fst (s : State) (k : Nat) (t : TileProgram) (d : DrainProgram) (bk : Bank) (on : Bool) (i : Nat) (acc : List (List Nat)) :
    (releaseRow s k t d bk on i acc).1 =
      (writeDrainResidual (writeOutRow (beforePrimary s k t d bk on i) d.primary (jobSeed s) (runStep s k) i t.cols
        fun j => ofF32 ((drainRow s bk d t.cols i).2.getD j 0)).1 d (jobSeed s) (runStep s k) i t.cols (drainRow s bk d t.cols i).2).1 := rfl

theorem only_writeDrainTap (s : State) (d : DrainProgram) (seed : Word) (n i cols : Nat) (on : Bool) (v : Nat → Num) :
    Only [.mem, .flash] [] s (writeDrainTap s d seed n i cols on v).1 := by
  unfold writeDrainTap
  split
  · split
    · exact only_writeOutRow s _ _ _ _ _ _
    · exact Only.rfl' _ _ s
  · exact Only.rfl' _ _ s

theorem only_writeDrainStats (s : State) (d : DrainProgram) (i : Nat) (vs : List Word32) : Only [.mem, .flash] [] s (writeDrainStats s d i vs) := by
  unfold writeDrainStats
  split
  · exact only_wr s _ _
  · exact Only.rfl' _ _ s

theorem only_writeDrainResidual (s : State) (d : DrainProgram) (seed : Word) (n i cols : Nat) (vs : List Word32) :
    Only [.mem, .flash] [] s (writeDrainResidual s d seed n i cols vs).1 := by
  unfold writeDrainResidual
  split
  · exact only_writeOutRow s _ _ _ _ _ _
  · exact Only.rfl' _ _ s

theorem only_releaseRow (s : State) (k : Nat) (t : TileProgram) (d : DrainProgram) (bk : Bank) (on : Bool) (i : Nat) (acc : List (List Nat)) :
    Only [.mem, .flash] [] s (releaseRow s k t d bk on i acc).1 := by
  rw [releaseRow_fst]
  refine Only.trans ?_ (only_writeDrainResidual _ d _ _ _ _ _)
  refine Only.trans ?_ (only_writeOutRow _ d.primary _ _ _ _ _)
  exact (only_writeDrainTap s d _ _ _ _ _ _).trans (only_writeDrainStats _ d i _)

/-- The rows of a drain change memory alone. -/
theorem only_drainRows (s : State) (k : Nat) (t : TileProgram) (d : DrainProgram) (bk : Bank) :
    Only [.mem, .flash] [] s (drainRows s k t d bk).1 :=
  List.foldlRecOn (motive := fun st : State × List (List Nat) => Only [.mem, .flash] [] s st.1) _ _ (Only.rfl' _ _ s)
    fun st hst i _ => hst.trans (only_releaseRow st.1 k t d bk _ i st.2)

section
variable {d : DrainProgram} (hstash : d.stash = none) (hstats : d.rowStats = none) (hres : d.residual = none)
  (hrows : d.primary.row0 + 32 ≤ d.primary.fmt.rows) (hcols : d.primary.col0 + 128 ≤ d.primary.fmt.rowElems)
include hstash hstats hres hrows hcols

/-- A drain without tap, statistics and residual writes its rows into the image of its primary output. -/
theorem bytesBut_drainRows (s : State) (k : Nat) {t : TileProgram} (bk : Bank) (ht : t.cols ≤ 128) :
    BytesBut [(d.primary.addr, d.primary.fmt.imageLen)] s (drainRows s k t d bk).1 := by
  refine List.foldlRecOn (motive := fun st : State × List (List Nat) => BytesBut [(d.primary.addr, d.primary.fmt.imageLen)] s st.1) _ _
    (BytesBut.rfl' _ s) fun st hst i hi => hst.trans ?_
  have hlt : i < 32 := List.mem_range.mp (List.mem_of_mem_filter hi)
  have hrow : (releaseRow st.1 k t d bk (tapOn s k) i st.2).1 = (writeOutRow st.1 d.primary (jobSeed st.1) (runStep st.1 k) i t.cols
      fun j => ofF32 ((drainRow st.1 bk d t.cols i).2.getD j 0)).1 := by
    simp [releaseRow_fst, beforePrimary, writeDrainTap, writeDrainStats, writeDrainResidual, hstash, hstats, hres]
  rw [hrow]
  exact bytesBut_writeOutRow _ d.primary _ _ _ (by omega) hcols ht

end

/-! ### An output sealed, R87 -/

theorem only_writeHeader (s : State) (a : Nat) (h : Header) : Only [.mem, .flash] [] s (writeHeader s a h) := by
  rw [writeHeader, wr_writeCheck]
  exact (only_wr s _ _).trans (only_wr _ _ _)

theorem length_header_bytes (h : Header) : h.bytes.length = 64 := by simp [Header.bytes, wordBytes, length_leBytes]

theorem length_ftEntry_bytes (e : FtEntry) : e.bytes.length = 16 := by simp [FtEntry.bytes, wordBytes, length_leBytes]

theorem bytesBut_writeHeader (s : State) (a : Nat) (h : Header) (f : Fmt) : BytesBut [(a, f.imageLen)] s (writeHeader s a h) := by
  have hlen := payloadLen_lt_imageLen f
  rw [writeHeader, wr_writeCheck]
  exact (bytesBut_wr s (by omega) (by rw [length_header_bytes]; omega)).trans
    (bytesBut_wr _ (by omega) (by rw [length_leBytes]; omega))

theorem entryBytes_congr {s t : State} (h : ∀ o ∈ [Off.MEM_FT_BASE, Off.MEM_FT_MIRROR], getReg t o = getReg s o) (id : Nat) :
    entryBytes t id = entryBytes s id := by
  have hbase : getF t F.MEM_FT_BASE_base = getF s F.MEM_FT_BASE_base := congrArg (bits · _ _) (h Off.MEM_FT_BASE (by simp))
  have hmirror : getF t F.MEM_FT_MIRROR_base = getF s F.MEM_FT_MIRROR_base := congrArg (bits · _ _) (h Off.MEM_FT_MIRROR (by simp))
  unfold entryBytes ftPrimary ftMirror
  rw [hbase, hmirror]

theorem bytesBut_ftSet (s : State) (id : Nat) (e : FtEntry) : BytesBut (entryBytes s id) s (ftSet s id e) := by
  unfold ftSet
  split
  · have hmirror : ftMirror (wr s (ftPrimary s id) e.bytes) id = ftMirror s id := by unfold ftMirror; rw [getF_wr]
    have hfirst : BytesBut [(ftPrimary s id, 16)] s (wr s (ftPrimary s id) e.bytes) :=
      bytesBut_wr s le_rfl (by rw [length_ftEntry_bytes])
    have hsecond : BytesBut [(ftMirror s id, 16)] (wr s (ftPrimary s id) e.bytes) (wr (wr s (ftPrimary s id) e.bytes) (ftMirror s id) e.bytes) :=
      bytesBut_wr _ le_rfl (by rw [length_ftEntry_bytes])
    exact (hfirst.mono (by simp [entryBytes])).trans (hsecond.mono (by simp [entryBytes]))
  · exact BytesBut.rfl' _ s

/-- A frond homed in the frond table is no longer poisoned once it is written whole. -/
def healEntry (s : State) (o : Output) : State :=
  let e := ftGet s o.frondId
  if e.valid && e.home == o.addr && e.poisoned then ftSet s o.frondId { e with poisoned := false } else s

theorem only_healEntry (s : State) (o : Output) : Only [.mem, .flash] [] s (healEntry s o) := by
  unfold healEntry
  dsimp only
  split
  · exact only_ftSet s _ _
  · exact Only.rfl' _ _ s

theorem bytesBut_healEntry (s : State) (o : Output) : BytesBut (entryBytes s o.frondId) s (healEntry s o) := by
  unfold healEntry
  dsimp only
  split
  · exact bytesBut_ftSet s _ _
  · exact BytesBut.rfl' _ s

/-- The header and the seal of an output, and its entry healed. -/
def sealedOutput (s : State) (k : Nat) (o : Output) : State :=
  healEntry (sealAt (writeHeader s o.addr (outHeader o (runStep s k))) o.addr) o

theorem only_watchLoss (s : State) (o : Output) : Only [.trn] [] s (watchLoss s o) := by
  unfold watchLoss
  split
  · exact only_trn s _
  · exact Only.rfl' _ _ s

/-- An in-place accumulation target waits for the reduce adder. -/
def queueAdd (s : State) (o : Output) (writers : List Nat) (step : Nat) : State :=
  match o.acc with
  | some t => { s with trn := { s.trn with adds := s.trn.adds ++ [⟨o.addr, t, writers, o, step⟩] } }
  | none => s

theorem only_queueAdd (s : State) (o : Output) (writers : List Nat) (step : Nat) : Only [.trn] [] s (queueAdd s o writers step) := by
  unfold queueAdd
  split
  · exact only_trn s _
  · exact Only.rfl' _ _ s

theorem sealOutput_eq (s : State) (k : Nat) (o : Output) : sealOutput s k o =
    if (writersOf s k o.addr).all fun j => j == k || (runOf s j).released then
      queueAdd (watchLoss (sealedOutput s k o) o) o (writersOf s k o.addr) (runStep s k)
    else s := by
  unfold sealOutput queueAdd sealedOutput healEntry
  rfl

/-- An output whose writers have not all released it stands; else it is sealed, and besides only the training state may change. -/
theorem sealOutput_cases (s : State) (k : Nat) (o : Output) :
    sealOutput s k o = s ∨ Only [.trn] [] (sealedOutput s k o) (sealOutput s k o) := by
  rw [sealOutput_eq]
  split
  · exact .inr ((only_watchLoss _ o).trans (only_queueAdd _ o _ _))
  · exact .inl rfl

theorem only_sealedOutput (s : State) (k : Nat) (o : Output) : Only [.lch, .mem, .flash] [] s (sealedOutput s k o) := by
  refine Only.trans ?_ ((only_healEntry _ o).mono (by decide) (by simp))
  refine Only.trans ?_ ((only_sealAt _ _).mono (by decide) (by simp))
  exact (only_writeHeader s _ _).mono (by decide) (by simp)

theorem runs_sealAt (s : State) (a : Nat) : (sealAt s a).lch.runs = s.lch.runs := rfl

theorem runs_sealedOutput (s : State) (k : Nat) (o : Output) : (sealedOutput s k o).lch.runs = s.lch.runs := by
  have hheal : ∀ u : State, (healEntry u o).lch = u.lch := fun u => (only_healEntry u o).1 .lch (by decide)
  have hheader : (writeHeader s o.addr (outHeader o (runStep s k))).lch = s.lch := (only_writeHeader s _ _).1 .lch (by decide)
  rw [sealedOutput, hheal, runs_sealAt, hheader]

theorem bytesBut_sealedOutput (s : State) (k : Nat) (o : Output) :
    BytesBut ((o.addr, o.fmt.imageLen) :: entryBytes s o.frondId) s (sealedOutput s k o) := by
  have hheader : Only [.lch, .mem, .flash] [] s (sealAt (writeHeader s o.addr (outHeader o (runStep s k))) o.addr) :=
    ((only_writeHeader s _ _).mono (by decide) (by simp)).trans ((only_sealAt _ _).mono (by decide) (by simp))
  have hheal := bytesBut_healEntry (sealAt (writeHeader s o.addr (outHeader o (runStep s k))) o.addr) o
  rw [entryBytes_congr (fun r _ => hheader.2 r (by simp))] at hheal
  refine BytesBut.trans ?_ (hheal.mono fun _ h => List.mem_cons_of_mem _ h)
  exact ((bytesBut_writeHeader s o.addr (outHeader o (runStep s k)) o.fmt).mono (by simp)).trans
    ((only_sealAt _ _).bytesBut (by decide) (by decide) _)

theorem only_sealOutput (s : State) (k : Nat) (o : Output) : Only [.lch, .mem, .flash, .trn] [] s (sealOutput s k o) := by
  rcases sealOutput_cases s k o with h | h
  · rw [h]; exact Only.rfl' _ _ s
  · exact ((only_sealedOutput s k o).mono (by decide) (by simp)).trans (h.mono (by decide) (by simp))

theorem runs_sealOutput (s : State) (k : Nat) (o : Output) : (sealOutput s k o).lch.runs = s.lch.runs := by
  rcases sealOutput_cases s k o with h | h
  · rw [h]
  · have hlch : (sealOutput s k o).lch = (sealedOutput s k o).lch := h.1 .lch (by decide)
    rw [hlch, runs_sealedOutput]

theorem bytesBut_sealOutput (s : State) (k : Nat) (o : Output) :
    BytesBut ((o.addr, o.fmt.imageLen) :: entryBytes s o.frondId) s (sealOutput s k o) := by
  rcases sealOutput_cases s k o with h | h
  · rw [h]; exact BytesBut.rfl' _ s
  · exact (bytesBut_sealedOutput s k o).trans (h.bytesBut (by decide) (by decide) _)

/-! ### The outputs of a drain released, R87 and R127 -/

/-- A drain begins: its side inputs count as read, and the seal of its primary output is broken. -/
def openedDrain (s : State) (k : Nat) (t : TileProgram) (d : DrainProgram) : State :=
  breakSeal (noteSides s d ((List.range 32).filter (rowOn s k t)) t.cols) d.primary.addr

/-- Its rows written. -/
def writtenDrain (s : State) (a k : Nat) (t : TileProgram) (d : DrainProgram) : State × List (List Nat) :=
  drainRows (openedDrain s k t d) k t d (bankOf s a t.bank)

/-- The conversions of one output counted for its format and its launch. -/
def countOutput (k : Nat) (cs : List (List Nat)) (s : State) (x : Output × Nat) : State :=
  noteOp (bumpNum s x.1.fmt (cs.getD x.2 zeroCounts)) k x.1.tensorId x.1.fmt (cs.getD x.2 zeroCounts)

/-- Its conversions counted. -/
def countedDrain (s : State) (a k : Nat) (t : TileProgram) (d : DrainProgram) : State :=
  (drainOutputs s k d).foldl (countOutput k (writtenDrain s a k t d).2) (writtenDrain s a k t d).1

/-- Its launch marked as released. -/
def markedDrain (s : State) (a k : Nat) (t : TileProgram) (d : DrainProgram) : State :=
  setRun (countedDrain s a k t d) k { runOf (countedDrain s a k t d) k with released := true }

/-- Its outputs sealed. -/
def sealedDrain (s : State) (a k : Nat) (t : TileProgram) (d : DrainProgram) : State :=
  (drainOutputs s k d).foldl (fun s x => sealOutput s k x.1) (markedDrain s a k t d)

/-- The bank that a drain leaves. -/
def drainedBank (d : DrainProgram) (bk : Bank) : Bank := if d.clear then Bank.clear else { bk with steps := 0, checked := 0 }

/-- The record of the array that a drain leaves. -/
def drainedArray (d : DrainProgram) (k : Nat) (r : ArrayRun) : ArrayRun :=
  { r with drains := r.drains.drop 1, ready := if d.primary.acc.isSome then r.ready else r.ready ++ [k] }

theorem releaseDrain_eq (s : State) (a k : Nat) (t : TileProgram) (d : DrainProgram) : releaseDrain s a k t d =
    setArray (setBank (sealedDrain s a k t d) a t.bank (drainedBank d (bankOf s a t.bank))) a
      (drainedArray d k (arrayOf (sealedDrain s a k t d) a)) := by
  unfold releaseDrain sealedDrain markedDrain countedDrain writtenDrain openedDrain
  rfl

theorem only_noteSides (s : State) (d : DrainProgram) (rows : List Nat) (cols : Nat) : Only [] numRegs s (noteSides s d rows cols) := by
  have hone : ∀ (v : State) (o : Option SideInput) (codes : SideInput → List Nat),
      Only [] numRegs v (match o with | some o => noteReads v o.fmt (codes o) | none => v) := by
    intro v o codes
    cases o with
    | none => exact Only.rfl' _ _ v
    | some o => exact only_noteReads v _ _
  exact (hone s d.s0 _).trans (hone _ _ _)

theorem only_openedDrain (s : State) (k : Nat) (t : TileProgram) (d : DrainProgram) : Only [.lch] numRegs s (openedDrain s k t d) :=
  ((only_noteSides s d _ _).mono (by simp) (fun _ h => h)).trans ((only_breakSeal _ _).mono (fun _ h => h) (by simp))

theorem only_countOutput (k : Nat) (cs : List (List Nat)) (s : State) (x : Output × Nat) : Only [.lch] numRegs s (countOutput k cs s x) :=
  ((only_bumpNum s _ _).mono (by simp) (fun _ h => h)).trans ((only_setRun _ k _).mono (fun _ h => h) (by simp))

/-- Counting the conversions and marking the launch changes no memory. -/
theorem only_markedDrain_of_written (s : State) (a k : Nat) (t : TileProgram) (d : DrainProgram) :
    Only [.lch] numRegs (writtenDrain s a k t d).1 (markedDrain s a k t d) :=
  (foldl_only _ _ _ _ (fun u x _ => only_countOutput k _ u x) _).trans ((only_setRun _ k _).mono (fun _ h => h) (by simp))

theorem only_markedDrain (s : State) (a k : Nat) (t : TileProgram) (d : DrainProgram) :
    Only [.lch, .mem, .flash] numRegs s (markedDrain s a k t d) := by
  refine Only.trans ?_ ((only_markedDrain_of_written s a k t d).mono (by decide) (fun _ h => h))
  exact ((only_openedDrain s k t d).mono (by decide) (fun _ h => h)).trans ((only_drainRows _ k t d _).mono (by decide) (by simp))

theorem only_sealedDrain (s : State) (a k : Nat) (t : TileProgram) (d : DrainProgram) :
    Only [.lch, .mem, .flash, .trn] numRegs s (sealedDrain s a k t d) :=
  ((only_markedDrain s a k t d).mono (by decide) (fun _ h => h)).trans
    (foldl_only _ _ _ _ (fun u x _ => (only_sealOutput u k x.1).mono (fun _ h => h) (by simp)) _)

theorem released_sealedDrain (s : State) (a k : Nat) (t : TileProgram) (d : DrainProgram) :
    (runOf (sealedDrain s a k t d) k).released = true := by
  have hruns : (sealedDrain s a k t d).lch.runs = (markedDrain s a k t d).lch.runs :=
    List.foldlRecOn (motive := fun u : State => u.lch.runs = (markedDrain s a k t d).lch.runs) _ _ rfl
      fun u hu x _ => (runs_sealOutput u k x.1).trans hu
  have hmarked : runOf (markedDrain s a k t d) k = { runOf (countedDrain s a k t d) k with released := true } :=
    FMap.get_set_self LaunchRun.fresh (countedDrain s a k t d).lch.runs k _
  unfold runOf at hmarked ⊢
  rw [hruns, hmarked]

theorem only_releaseDrain (s : State) (a k : Nat) (t : TileProgram) (d : DrainProgram) :
    Only [.lch, .arr, .mem, .flash, .trn] numRegs s (releaseDrain s a k t d) := by
  rw [releaseDrain_eq]
  refine Only.trans ?_ ((only_setArray _ a _).mono (by decide) (by simp))
  exact ((only_sealedDrain s a k t d).mono (by decide) (fun _ h => h)).trans ((only_setBank _ a _ _).mono (by decide) (by simp))

theorem released_releaseDrain (s : State) (a k : Nat) (t : TileProgram) (d : DrainProgram) :
    (runOf (releaseDrain s a k t d) k).released = true := by
  rw [releaseDrain_eq]
  exact released_sealedDrain s a k t d

theorem drains_releaseDrain (s : State) (a k : Nat) (t : TileProgram) (d : DrainProgram) :
    (arrayOf (releaseDrain s a k t d) a).drains = (arrayOf s a).drains.drop 1 := by
  have harray : arrayOf (sealedDrain s a k t d) a = arrayOf s a := arrayOf_congr ((only_sealedDrain s a k t d).1 .arr (by decide)) a
  rw [releaseDrain_eq, arrayOf_setArray_self, harray]
  rfl

theorem bankOf_releaseDrain (s : State) (a k : Nat) (t : TileProgram) (d : DrainProgram) :
    bankOf (releaseDrain s a k t d) a t.bank = drainedBank d (bankOf s a t.bank) := by
  rw [releaseDrain_eq]
  exact bankOf_setBank_self _ a t.bank _

theorem drainedBank_of_clear {d : DrainProgram} (h : d.clear = true) (bk : Bank) : drainedBank d bk = Bank.clear := if_pos h

theorem entry_drainedBank_of_not_clear {d : DrainProgram} (h : d.clear = false) (bk : Bank) : (drainedBank d bk).entry = bk.entry := by
  simp [drainedBank, h]

section
variable {d : DrainProgram} (hstash : d.stash = none) (hstats : d.rowStats = none) (hres : d.residual = none)
  (hrows : d.primary.row0 + 32 ≤ d.primary.fmt.rows) (hcols : d.primary.col0 + 128 ≤ d.primary.fmt.rowElems)
include hstash hstats hres hrows hcols

theorem bytesBut_releaseDrain (s : State) (a k : Nat) {t : TileProgram} (ht : t.cols ≤ 128) :
    BytesBut ((d.primary.addr, d.primary.fmt.imageLen) :: entryBytes s d.primary.frondId) s (releaseDrain s a k t d) := by
  have hrowsWritten : BytesBut [(d.primary.addr, d.primary.fmt.imageLen)] s (writtenDrain s a k t d).1 :=
    ((only_openedDrain s k t d).bytesBut (by decide) (by decide) _).trans
      (bytesBut_drainRows hstash hstats hres hrows hcols _ k _ ht)
  have hmarked : BytesBut [(d.primary.addr, d.primary.fmt.imageLen)] s (markedDrain s a k t d) :=
    hrowsWritten.trans ((only_markedDrain_of_written s a k t d).bytesBut (by decide) (by decide) _)
  have hsealed : sealedDrain s a k t d = sealOutput (markedDrain s a k t d) k d.primary := by
    simp [sealedDrain, drainOutputs, hstash, hres]
  have hseal := bytesBut_sealOutput (markedDrain s a k t d) k d.primary
  have hentry : ∀ o ∈ [Off.MEM_FT_BASE, Off.MEM_FT_MIRROR], o ∉ numRegs := by decide
  rw [entryBytes_congr (fun o ho => (only_markedDrain s a k t d).2 o (hentry o ho)), ← hsealed] at hseal
  have hleft : Only [.arr] [] (sealedDrain s a k t d) (releaseDrain s a k t d) := (only_setBank _ a _ _).trans (only_setArray _ a _)
  exact ((hmarked.mono (by simp)).trans hseal).trans (hleft.bytesBut (by decide) (by decide) _)

end

/-! ### A drain whose comparison passes, R120 -/

/-- Final quantisation at the drain changes only where a drain reads and writes. -/
theorem finalDrain_clear (s : State) (d : DrainProgram) : (finalDrain s d).clear = d.clear := by
  unfold finalDrain
  split <;> rfl

theorem finalDrain_of_elsewhere {s : State} (h : finalAtDrain s = false) (d : DrainProgram) : finalDrain s d = d := by
  simp [finalDrain, h]

/-- The comparison of a drain that passes counts the lines that it skipped. -/
def comparedDrain (s : State) (a : Nat) (t0 : TileProgram) : State :=
  bumpF s F.ARR_CHECK_SKIP_CNT_count (skippedLines (bankOf s a t0.bank))

theorem only_comparedDrain (s : State) (a : Nat) (t0 : TileProgram) : Only [] [Off.ARR_CHECK_SKIP_CNT] s (comparedDrain s a t0) :=
  only_bumpF s _ _

section
variable {s : State} {a k : Nat} {ks : List Nat} {t0 : TileProgram} {d : DrainProgram} (hd : (arrayOf s a).drains = k :: ks)
  (ht : tileOfKey s k = some t0) (hdrain : t0.drain = some d) (hside : sidesReady s (finalDrain s d) = true)
  (hi : (arrayOf s a).inject = none) (hl : failingLine (bankOf s a t0.bank) = none)
include hd ht hdrain hside hi hl

/-- The oldest bank that waits, with its side inputs sealed and its lines agreeing, is released. -/
theorem drainStep_of_agree : drainStep s a none = releaseDrain (comparedDrain s a t0) a k t0 (finalDrain s d) := by
  simp [drainStep, hd, ht, hdrain, hside, compareBank, hi, hl, comparedDrain]

theorem only_drainStep : Only [.lch, .arr, .mem, .flash, .trn] (Off.ARR_CHECK_SKIP_CNT :: numRegs) s (drainStep s a none) := by
  rw [drainStep_of_agree hd ht hdrain hside hi hl]
  exact ((only_comparedDrain s a t0).mono (by simp) (by simp)).trans
    ((only_releaseDrain _ a k t0 _).mono (fun _ h => h) (fun _ h => List.mem_cons_of_mem _ h))

end

theorem does_drain (s : State) (a k : Nat) (ks : List Nat) (t0 : TileProgram) (d : DrainProgram) (h : Up s)
    (hd : (arrayOf s a).drains = k :: ks) (ht : tileOfKey s k = some t0) (hdrain : t0.drain = some d)
    (hside : sidesReady s (finalDrain s d) = true) (hi : (arrayOf s a).inject = none) (hl : failingLine (bankOf s a t0.bank) = none) :
    Does (.drain a none) s fun t => (runOf t k).released = true ∧ (arrayOf t a).drains = ks ∧
      (d.clear = true → bankOf t a t0.bank = Bank.clear) ∧ (d.clear = false → (bankOf t a t0.bank).entry = (bankOf s a t0.bank).entry) ∧
      Only [.lch, .arr, .mem, .flash, .trn] (Off.ARR_CHECK_SKIP_CNT :: numRegs) s t := by
  have hframe := only_drainStep hd ht hdrain hside hi hl
  have he := drainStep_of_agree hd ht hdrain hside hi hl
  have harr : (comparedDrain s a t0).arr = s.arr := (only_comparedDrain s a t0).1 .arr (by simp)
  refine does_settle rfl h (hframe.pending (by decide)) (hframe.fuse (by decide)) ⟨?_, ?_, fun hc => ?_, fun hc => ?_, hframe⟩
  · rw [he]
    exact released_releaseDrain _ a k t0 _
  · rw [he, drains_releaseDrain, arrayOf_congr harr, hd]
    rfl
  · rw [he, bankOf_releaseDrain, drainedBank_of_clear ((finalDrain_clear s d).trans hc)]
  · rw [he, bankOf_releaseDrain, entry_drainedBank_of_not_clear ((finalDrain_clear s d).trans hc), bankOf_congr harr]

theorem does_drain_primary_alone (s : State) (a k : Nat) (ks : List Nat) (t0 : TileProgram) (d : DrainProgram) (h : Up s)
    (hd : (arrayOf s a).drains = k :: ks) (ht : tileOfKey s k = some t0) (hdrain : t0.drain = some d) (hfinal : finalAtDrain s = false)
    (hstash : d.stash = none) (hstats : d.rowStats = none) (hres : d.residual = none) (hside : sidesReady s d = true)
    (hi : (arrayOf s a).inject = none) (hl : failingLine (bankOf s a t0.bank) = none)
    (hrows : d.primary.row0 + 32 ≤ d.primary.fmt.rows) (hcols : d.primary.col0 + 128 ≤ d.primary.fmt.rowElems) (hc : t0.cols ≤ 128) :
    Does (.drain a none) s fun t => BytesBut ((d.primary.addr, d.primary.fmt.imageLen) :: entryBytes s d.primary.frondId) s t := by
  have hsame : finalDrain s d = d := finalDrain_of_elsewhere hfinal d
  have hside' : sidesReady s (finalDrain s d) = true := hsame.symm ▸ hside
  have hframe := only_drainStep hd ht hdrain hside' hi hl
  have hcompared := only_comparedDrain s a t0
  have hbytes := bytesBut_releaseDrain hstash hstats hres hrows hcols (comparedDrain s a t0) a k hc
  have hentry : ∀ o ∈ [Off.MEM_FT_BASE, Off.MEM_FT_MIRROR], o ∉ [Off.ARR_CHECK_SKIP_CNT] := by decide
  rw [entryBytes_congr fun o ho => hcompared.2 o (hentry o ho)] at hbytes
  refine does_settle rfl h (hframe.pending (by decide)) (hframe.fuse (by decide)) ?_
  rw [drainStep_of_agree hd ht hdrain hside' hi hl, hsame]
  exact (hcompared.bytesBut (by simp) (by simp) _).trans hbytes

/-! ### A drain stage fails its residue check, R128 -/

/-- The state of a failed drain before the fence: the fault logged and the tiles listed. -/
def faultedDrain (s : State) (a bank k : Nat) : State := moveTiles (logFault s 0x0D 1 (a / 8) a 0) a bank k

theorem only_faultedDrain (s : State) (a bank k : Nat) : Only (.lch :: .arr :: eventParts) (logRegs s) s (faultedDrain s a bank k) :=
  ((only_logFault s 0x0D 1 (a / 8) a 0).mono (by decide) (fun _ h => h)).trans ((only_moveTiles _ a bank k).mono (by decide) (by simp))

theorem drainFaultStep_of_standIn {s : State} {a k x : Nat} {ks : List Nat} {t0 : TileProgram} (hd : (arrayOf s a).drains = k :: ks)
    (ht : tileOfKey s k = some t0) (hx : x ∈ arrayOrder a) (hne : x ≠ a) (hfree : fenced s x = false) (hlt : x < 512) :
    drainFaultStep s a = showFence (faultedDrain s a t0.bank k) a := by
  have hserves : fenced (faultedDrain s a t0.bank k) x = false :=
    (fenced_of_regsBut (only_faultedDrain s a t0.bank k).2 (fenceOff_not_mem_logRegs s _)).trans hfree
  rw [← fenceArray_of_standIn hx hne hserves hlt]
  simp only [drainFaultStep, hd, ht, faultedDrain]

theorem does_drainFault (s : State) (a k x : Nat) (ks : List Nat) (t0 : TileProgram) (h : Up s) (ha : a < 512)
    (hd : (arrayOf s a).drains = k :: ks) (ht : tileOfKey s k = some t0) (hx : x ∈ arrayOrder a) (hne : x ≠ a) (hfree : fenced s x = false)
    (hlt : x < 512) :
    Does (.drainFault a) s fun t => fenced t a = true ∧ k ∈ FMap.get [] t.arr.restarts a ∧ k ∉ (arrayOf t a).drains ∧
      hasF t F.SAF_STATUS_fault_seen = true ∧
      Only ([.lch, .arr, .maint] ++ eventParts) ([Off.ARR_STATUS, Off.ARR_FENCED (a / 64), Off.SAF_MAINT] ++ logRegs s) s t := by
  have he := drainFaultStep_of_standIn hd ht hx hne hfree hlt
  have hfence := only_showFence (faultedDrain s a t0.bank k) a
  have harr : (showFence (faultedDrain s a t0.bank k) a).arr = (faultedDrain s a t0.bank k).arr := hfence.1 .arr (by decide)
  have hstatus : Off.SAF_STATUS ∉ [Off.ARR_FENCED (a / 64), Off.ARR_STATUS, Off.SAF_MAINT] := by
    simp only [List.mem_cons, List.not_mem_nil, or_false, not_or, Off.SAF_STATUS, Off.ARR_FENCED, Off.ARR_STATUS, Off.SAF_MAINT]
    omega
  have hframe : Only ([.lch, .arr, .maint] ++ eventParts) ([Off.ARR_STATUS, Off.ARR_FENCED (a / 64), Off.SAF_MAINT] ++ logRegs s) s
      (showFence (faultedDrain s a t0.bank k) a) := by
    refine ((only_faultedDrain s a t0.bank k).mono (by decide) fun _ h => List.mem_append_right _ h).trans (hfence.mono (by decide) ?_)
    simp only [List.mem_append, List.mem_cons, List.not_mem_nil, or_false]
    tauto
  refine does_settle (congrArg (settle s) he) h (hframe.pending (by decide)) (hframe.fuse (by decide)) ⟨?_, ?_, ?_, ?_, hframe⟩
  · simp [fenced_showFence _ a ha]
  · rw [harr]
    exact failed_mem_restarts_moveTiles _ a t0.bank k
  · rw [arrayOf_congr harr, faultedDrain, arrayOf_moveTiles_self]
    simp
  · rw [hfence.hasF_eq F.SAF_STATUS_fault_seen hstatus, faultedDrain, (only_moveTiles _ a t0.bank k).hasF_eq _ (by simp)]
    exact hasF_fault_seen_logFault s 0x0D 1 (a / 8) a 0

/-! ### The tiles of a fenced array begin again, R89 and R90 -/

theorem tileOfKey_congr {s t : State} (h : t.plan = s.plan) (k : Nat) : tileOfKey t k = tileOfKey s k := by
  simp only [tileOfKey, launchOf, tileOf, h]

/-- The bank of a tile cleared on an array. -/
def clearBank (a : Nat) (s : State) (j : Nat) : State :=
  match tileOfKey s j with | some t => setBank s a t.bank Bank.clear | none => s

/-- Clearing the banks of a list of tiles changes the banks alone. -/
theorem foldl_clearBank_eq (a : Nat) (js : List Nat) (s : State) :
    ∃ m, js.foldl (clearBank a) s = { s with arr := { s.arr with banks := m } } := by
  refine List.foldlRecOn (motive := fun u : State => ∃ m, u = { s with arr := { s.arr with banks := m } }) js (clearBank a)
    ⟨s.arr.banks, rfl⟩ ?_
  rintro _ ⟨m, rfl⟩ j -
  unfold clearBank
  split
  · exact ⟨_, rfl⟩
  · exact ⟨m, rfl⟩

/-- A bank that is clear stays clear. -/
theorem bankOf_foldl_clearBank {a b : Nat} (js : List Nat) {s : State} (h : bankOf s a b = Bank.clear) :
    bankOf (js.foldl (clearBank a) s) a b = Bank.clear := by
  refine List.foldlRecOn (motive := fun u : State => bankOf u a b = Bank.clear) js (clearBank a) h fun u hu j _ => ?_
  unfold clearBank
  split
  · refine (FMap.get_set Bank.clear u.arr.banks _ _ Bank.clear).trans ?_
    split
    · rfl
    · exact hu
  · exact hu

/-- An array that feeds nothing takes the first tile that it has to run again. -/
theorem startRerun_of_waiting {s : State} {a k : Nat} {ks : List Nat} {t0 : TileProgram} (hfeed : (arrayOf s a).feeding = none)
    (hrerun : (arrayOf s a).rerun = k :: ks) (ht : tileOfKey s k = some t0) :
    startRerun s a = setBank (setArray s a { arrayOf s a with feeding := some k, step := 0, rerun := ks }) a t0.bank
      { bankOf s a t0.bank with tiles := (bankOf s a t0.bank).tiles ++ [k] } := by
  have ht' : ∀ r, tileOfKey (setArray s a r) k = some t0 := fun r => (tileOfKey_congr rfl k).trans ht
  simp only [startRerun, hfeed, hrerun, ht']
  rfl

/-- The tiles listed for an array taken off its list. -/
def takeRestarts (s : State) (a : Nat) : State := { s with arr := { s.arr with restarts := FMap.set [] s.arr.restarts a [] } }

/-- The tiles queued on the substitute, with their banks clear. -/
def queueRestarts (s : State) (sub : Nat) (js : List Nat) : State :=
  setArray (js.foldl (clearBank sub) s) sub
    { arrayOf (js.foldl (clearBank sub) s) sub with rerun := (arrayOf (js.foldl (clearBank sub) s) sub).rerun ++ js }

theorem restartTiles_of_standIn {s : State} {a k sub : Nat} {ks : List Nat} (hr : FMap.get [] s.arr.restarts a = k :: ks)
    (hsub : standIn s a = some sub) : restartTiles s a = startRerun (queueRestarts (takeRestarts s a) sub (k :: ks)) sub := by
  simp only [restartTiles, hr, hsub]
  rfl

theorem arrayOf_queueRestarts (s : State) (sub : Nat) (js : List Nat) :
    arrayOf (queueRestarts s sub js) sub = { arrayOf s sub with rerun := (arrayOf s sub).rerun ++ js } := by
  obtain ⟨m, hm⟩ := foldl_clearBank_eq sub js s
  rw [queueRestarts, arrayOf_setArray_self, hm]
  rfl

theorem restarts_queueRestarts (s : State) (sub : Nat) (js : List Nat) : (queueRestarts s sub js).arr.restarts = s.arr.restarts := by
  obtain ⟨m, hm⟩ := foldl_clearBank_eq sub js s
  rw [queueRestarts, hm]
  rfl

theorem only_queueRestarts (s : State) (sub : Nat) (js : List Nat) : Only [.arr] [] s (queueRestarts s sub js) := by
  obtain ⟨m, hm⟩ := foldl_clearBank_eq sub js s
  rw [queueRestarts, hm]
  exact (only_arr s _).trans (only_setArray _ sub _)

/-- The bank of the first tile queued is clear. -/
theorem bankOf_queueRestarts {s : State} {k : Nat} {t0 : TileProgram} (ht : tileOfKey s k = some t0) (sub : Nat) (ks : List Nat) :
    bankOf (queueRestarts s sub (k :: ks)) sub t0.bank = Bank.clear := by
  have hfirst : clearBank sub s k = setBank s sub t0.bank Bank.clear := by simp only [clearBank, ht]
  have hfold := bankOf_foldl_clearBank ks (bankOf_setBank_self s sub t0.bank Bank.clear)
  rw [← hfirst] at hfold
  exact hfold

theorem does_tileRestart (s : State) (a k sub : Nat) (ks : List Nat) (t0 : TileProgram) (h : Up s)
    (hr : FMap.get [] s.arr.restarts a = k :: ks) (hsub : standIn s a = some sub) (ht : tileOfKey s k = some t0)
    (hfeed : (arrayOf s sub).feeding = none) (hrerun : (arrayOf s sub).rerun = []) :
    Does (.tileRestart a) s fun t => FMap.get [] t.arr.restarts a = [] ∧ (arrayOf t sub).feeding = some k ∧ (arrayOf t sub).step = 0 ∧
      (arrayOf t sub).rerun = ks ∧ (bankOf t sub t0.bank).entry = [] ∧ Only [.arr] [] s t := by
  have htaken : tileOfKey (takeRestarts s a) k = some t0 := (tileOfKey_congr rfl k).trans ht
  have harray := arrayOf_queueRestarts (takeRestarts s a) sub (k :: ks)
  have hqueued := only_queueRestarts (takeRestarts s a) sub (k :: ks)
  have hrestarts := restarts_queueRestarts (takeRestarts s a) sub (k :: ks)
  have hbank := bankOf_queueRestarts htaken sub ks
  have he := restartTiles_of_standIn hr hsub
  generalize queueRestarts (takeRestarts s a) sub (k :: ks) = u at harray hqueued hrestarts hbank he
  have hfeed' : (arrayOf u sub).feeding = none := (congrArg ArrayRun.feeding harray).trans hfeed
  have hrerun' : (arrayOf u sub).rerun = k :: ks := (congrArg ArrayRun.rerun harray).trans (congrArg (· ++ k :: ks) hrerun)
  have ht' : tileOfKey u k = some t0 := (tileOfKey_congr (hqueued.1 .plan (by decide)) k).trans htaken
  rw [startRerun_of_waiting hfeed' hrerun' ht'] at he
  refine does_settle (congrArg (settle s) he) h (hqueued.pending (by decide)) (hqueued.fuse (by decide)) ⟨?_, ?_, ?_, ?_, ?_, ?_⟩
  · exact (congrArg (FMap.get [] · a) hrestarts).trans (FMap.get_set_self [] s.arr.restarts a [])
  · exact congrArg ArrayRun.feeding (arrayOf_setArray_self u sub _)
  · exact congrArg ArrayRun.step (arrayOf_setArray_self u sub _)
  · exact congrArg ArrayRun.rerun (arrayOf_setArray_self u sub _)
  · rw [bankOf_setBank_self]
    exact congrArg Bank.entry hbank
  · exact ((only_arr s _).trans hqueued).trans ((only_setArray u sub _).trans (only_setBank _ sub _ _))

/-- Settles O26: the release by the frame of each of its stages, the fault by the fence of R89, the restart by its first tile. -/
theorem drainsReleaseOrRestart : Obligations.DrainsReleaseOrRestart :=
  ⟨does_drain, does_drain_primary_alone, does_drainFault, does_tileRestart⟩

end Sys2Proof.Machine
end

section
/-!
PROOFS. The small host writes (R68, R109, R143, R149, R155, R291, R305) and the end of an interrupt interval (R332): one condition of
each decides between its effect and its refusal.
-/

namespace Sys2Proof.Machine

/-- A command of a module that is up answers the state that its effect comes to, when that keeps the queue and the one-time store. -/
theorem does_eq {c : Instr} {s t u : State} {p : State → Prop} {ps : List Part} {l : List Nat} (he : exec c s = settle s t) (hw : t = u)
    (h : Up s) (ho : Only ps l s u) (hq : Part.pending ∉ ps) (hf : Part.fuse ∉ ps) (hp : p u) : Does c s p :=
  does_settle (he.trans (congrArg (settle s) hw)) h (ho.pending hq) (ho.fuse hf) hp

/-- The same for a host access of a module that the host reaches. -/
theorem does_hostStep_eq {c : Instr} {s u : State} {f : State → State} {p : State → Prop} {ps : List Part} {l : List Nat}
    (he : exec c s = settle s (hostStep s f)) (hw : f s = u) (h : HostUp s) (ho : Only ps l s u) (hq : Part.pending ∉ ps)
    (hf : Part.fuse ∉ ps) (hp : p u) : Does c s p :=
  does_eq he ((if_pos h.2).trans hw) h.1 ho hq hf hp

/-! ### LCH_SYNC_SIGNAL, R149 -/

theorem hostSignal_accepted {s : State} {o : Nat} (v : Nat) (ho : o < 8192) (hh : (syncFlags s o).host = true) :
    hostSignal s (o % 8192) v = signal s o (v % 2 ^ 48) := by
  rw [Nat.mod_eq_of_lt ho]
  exact if_pos hh

theorem hostSignal_refused {s : State} {o : Nat} (v : Nat) (ho : o < 8192) (hh : (syncFlags s o).host = false) :
    hostSignal s (o % 8192) v = setF s F.LCH_STATUS_host_signal_refused 1 := by
  rw [Nat.mod_eq_of_lt ho]
  exact if_neg (Bool.eq_false_iff.mp hh)

theorem does_lchSyncSignal_accepted (s : State) (o : Nat) (v : Word) (h : HostUp s) (ho : o < 8192) (hh : (syncFlags s o).host = true) :
    Does (.lchSyncSignal o v) s fun t => t.lch.signals = s.lch.signals ++ [⟨slot s + 2, o, v.toNat % 2 ^ 48⟩] ∧ Only [.lch] [] s t :=
  have hframe := only_signal s o (v.toNat % 2 ^ 48)
  does_hostStep_eq rfl (hostSignal_accepted v.toNat ho hh) h hframe (by decide) (by decide) ⟨rfl, hframe⟩

theorem does_lchSyncSignal_refused (s : State) (o : Nat) (v : Word) (h : HostUp s) (ho : o < 8192) (hh : (syncFlags s o).host = false) :
    Does (.lchSyncSignal o v) s fun t => hasF t F.LCH_STATUS_host_signal_refused = true ∧ Only [] [Off.LCH_STATUS] s t :=
  have hframe : Only [] [Off.LCH_STATUS] s (setF s F.LCH_STATUS_host_signal_refused 1) := only_setF s _ 1
  does_hostStep_eq rfl (hostSignal_refused v.toNat ho hh) h hframe (by decide) (by decide)
    ⟨hasF_setF_one s _ (by decide) (by decide), hframe⟩

/-- Settles O15: the host flag of the object decides between the signal and the refusal. -/
theorem hostSignalsNeedTheHostFlag : Obligations.HostSignalsNeedTheHostFlag :=
  ⟨does_lchSyncSignal_accepted, does_lchSyncSignal_refused⟩

/-! ### The tails of the intake rings, R291 and R305 -/

theorem only_showEvRing (s : State) : Only [] [Off.INT_STATUS] s (showEvRing s) := only_setF s F.INT_STATUS_ev_ring_full _

theorem evTail_of_within {s : State} {t : Nat} (hle : (t % 2 ^ 32 + 2 ^ 32 - getF s F.INT_EV_TAIL_tail) % 2 ^ 32
      ≤ (getF s F.INT_EV_HEAD_head + 2 ^ 32 - getF s F.INT_EV_TAIL_tail) % 2 ^ 32) :
    evTail s t = showEvRing (setF s F.INT_EV_TAIL_tail t) := if_neg (Nat.not_lt.mpr hle)

theorem does_intEvTail (s : State) (t0 : Nat) (h : HostUp s)
    (hle : (t0 % 2 ^ 32 + 2 ^ 32 - getF s F.INT_EV_TAIL_tail) % 2 ^ 32
      ≤ (getF s F.INT_EV_HEAD_head + 2 ^ 32 - getF s F.INT_EV_TAIL_tail) % 2 ^ 32) :
    Does (.intEvTail t0) s fun t => getF t F.INT_EV_TAIL_tail = t0 % 2 ^ 32 ∧ Only [] [Off.INT_EV_TAIL, Off.INT_STATUS] s t := by
  have hshow := only_showEvRing (setF s F.INT_EV_TAIL_tail t0)
  have hframe : Only [] [Off.INT_EV_TAIL, Off.INT_STATUS] s (showEvRing (setF s F.INT_EV_TAIL_tail t0)) :=
    ((only_setF s F.INT_EV_TAIL_tail t0).mono (by simp) (by decide)).trans (hshow.mono (by simp) (by decide))
  refine does_hostStep_eq rfl (evTail_of_within hle) h hframe (by decide) (by decide) ⟨?_, hframe⟩
  exact (hshow.field F.INT_EV_TAIL_tail (by decide)).trans (getF_setF_same s F.INT_EV_TAIL_tail t0 (by decide))

/-- A tail of the submission ring that stays within the ring and does not move back takes effect. -/
theorem subTail_of_forward {s : State} {t : Nat} (hsize : getF s F.INT_SUB_SIZE_size ≠ 0)
    (hcap : (t % 2 ^ 32 + 2 ^ 32 - getF s F.INT_SUB_HEAD_head) % 2 ^ 32 ≤ 2 ^ getF s F.INT_SUB_SIZE_size)
    (hfwd : (getF s F.INT_SUB_TAIL_tail % 2 ^ 32 + 2 ^ 32 - getF s F.INT_SUB_HEAD_head) % 2 ^ 32
      ≤ (t % 2 ^ 32 + 2 ^ 32 - getF s F.INT_SUB_HEAD_head) % 2 ^ 32) :
    subTail s t = setF s F.INT_SUB_TAIL_tail t := by
  simp only [subTail, if_neg hsize, decide_eq_false (Nat.not_lt.mpr hcap), decide_eq_false (Nat.not_lt.mpr hfwd), Bool.or_self,
    Bool.false_eq_true, if_false]

theorem does_intSubTail (s : State) (t0 : Nat) (h : HostUp s) (hsize : getF s F.INT_SUB_SIZE_size ≠ 0)
    (hcap : (t0 % 2 ^ 32 + 2 ^ 32 - getF s F.INT_SUB_HEAD_head) % 2 ^ 32 ≤ 2 ^ getF s F.INT_SUB_SIZE_size)
    (hfwd : (getF s F.INT_SUB_TAIL_tail % 2 ^ 32 + 2 ^ 32 - getF s F.INT_SUB_HEAD_head) % 2 ^ 32
      ≤ (t0 % 2 ^ 32 + 2 ^ 32 - getF s F.INT_SUB_HEAD_head) % 2 ^ 32) :
    Does (.intSubTail t0) s fun t => getF t F.INT_SUB_TAIL_tail = t0 % 2 ^ 32 ∧ Only [] [Off.INT_SUB_TAIL] s t :=
  have hframe : Only [] [Off.INT_SUB_TAIL] s (setF s F.INT_SUB_TAIL_tail t0) := only_setF s _ t0
  does_hostStep_eq rfl (subTail_of_forward hsize hcap hfwd) h hframe (by decide) (by decide)
    ⟨getF_setF_same s F.INT_SUB_TAIL_tail t0 (by decide), hframe⟩

/-! ### ARR_INJECT, R109 -/

theorem injectStep_accepted {s : State} (v : Word) (hl : getF s F.SEC_LIFECYCLE_state ∈ [0, 3, 4]) :
    injectStep s v = setArray s (bits v 8 0) { arrayOf s (bits v 8 0) with inject := some (bit v 9) } := if_pos (by simpa using hl)

theorem injectStep_refused {s : State} (v : Word) (hl : getF s F.SEC_LIFECYCLE_state ∉ [0, 3, 4]) :
    injectStep s v = setF s F.ARR_STATUS_inject_refused 1 := if_neg (by simpa using hl)

theorem does_arrInject_accepted (s : State) (v : Word) (h : HostUp s) (hl : getF s F.SEC_LIFECYCLE_state ∈ [0, 3, 4]) :
    Does (.arrInject v) s fun t => (arrayOf t (bits v 8 0)).inject = some (bit v 9) ∧
      (∀ a, a ≠ bits v 8 0 → arrayOf t a = arrayOf s a) ∧ Only [.arr] [] s t := by
  have hframe := only_setArray s (bits v 8 0) { arrayOf s (bits v 8 0) with inject := some (bit v 9) }
  refine does_hostStep_eq rfl (injectStep_accepted v hl) h hframe (by decide) (by decide)
    ⟨?_, fun a ha => arrayOf_setArray_other s _ ha, hframe⟩
  rw [arrayOf_setArray_self]

theorem does_arrInject_refused (s : State) (v : Word) (h : HostUp s) (hl : getF s F.SEC_LIFECYCLE_state ∉ [0, 3, 4]) :
    Does (.arrInject v) s fun t => hasF t F.ARR_STATUS_inject_refused = true ∧ Only [] [Off.ARR_STATUS] s t :=
  have hframe : Only [] [Off.ARR_STATUS] s (setF s F.ARR_STATUS_inject_refused 1) := only_setF s _ 1
  does_hostStep_eq rfl (injectStep_refused v hl) h hframe (by decide) (by decide) ⟨hasF_setF_one s _ (by decide) (by decide), hframe⟩

/-! ### IRQ_COALESCE_EXPIRY, R332 -/

/-- A vector whose message goes out begins its next interval. -/
def sentWaiting (s : State) (v : Nat) : State :=
  send { s with host := { s.host with irqWait := FMap.set false s.host.irqWait v false,
                                      irqOpen := FMap.set false s.host.irqOpen v true } } (.msix v)

/-- A vector without a message ends its interval. -/
def closedInterval (s : State) (v : Nat) : State := { s with host := { s.host with irqOpen := FMap.set false s.host.irqOpen v false } }

theorem irqExpiry_of_waiting {s : State} {v : Nat} (hw : FMap.get false s.host.irqWait v = true) : irqExpiry s v = sentWaiting s v :=
  if_pos hw

theorem irqExpiry_of_idle {s : State} {v : Nat} (hw : FMap.get false s.host.irqWait v = false) : irqExpiry s v = closedInterval s v :=
  if_neg (Bool.eq_false_iff.mp hw)

theorem only_sentWaiting (s : State) (v : Nat) : Only eventParts [] s (sentWaiting s v) :=
  ((only_host s _).mono (by decide) (by simp)).trans ((only_send _ _).mono (by decide) (by simp))

theorem does_irqCoalesceExpiry_waiting (s : State) (v : Nat) (h : Up s) (hw : FMap.get false s.host.irqWait v = true) :
    Does (.irqCoalesceExpiry v) s fun t => t.sent = .msix v :: s.sent ∧ FMap.get false t.host.irqWait v = false ∧
      FMap.get false t.host.irqOpen v = true ∧ Only eventParts [] s t :=
  does_eq rfl (irqExpiry_of_waiting hw) h (only_sentWaiting s v) (by decide) (by decide)
    ⟨rfl, FMap.get_set_self false s.host.irqWait v false, FMap.get_set_self false s.host.irqOpen v true, only_sentWaiting s v⟩

theorem does_irqCoalesceExpiry_idle (s : State) (v : Nat) (h : Up s) (hw : FMap.get false s.host.irqWait v = false) :
    Does (.irqCoalesceExpiry v) s fun t => FMap.get false t.host.irqOpen v = false ∧ Only [.host] [] s t :=
  have hframe : Only [.host] [] s (closedInterval s v) := only_host s _
  does_eq rfl (irqExpiry_of_idle hw) h hframe (by decide) (by decide) ⟨FMap.get_set_self false s.host.irqOpen v false, hframe⟩

/-! ### NUM_CLEAR and LCH_CLEAR, R68 and R155 -/

theorem does_numClear (s : State) (v : Word) (h : HostUp s) (hv : bit v 0 = true) :
    Does (.numClear v) s fun t => t.lch.numClear = true ∧ Only [.lch] [] s t :=
  have hframe := only_lch s { s.lch with numClear := true }
  does_hostStep_eq rfl (if_pos hv : numClear s v = _) h hframe (by decide) (by decide) ⟨rfl, hframe⟩

theorem does_lchClear (s : State) (v : Word) (h : HostUp s) (hv : bit v 0 = true) :
    Does (.lchClear v) s fun t => t.lch.clearReq = true ∧ Only [.lch] [] s t :=
  have hframe := only_lch s { s.lch with clearReq := true }
  does_hostStep_eq rfl (if_pos hv : lchClear s v = _) h hframe (by decide) (by decide) ⟨rfl, hframe⟩

/-- Settles O16: the timestamp ring by the tail write that it shares with the numeric ring, each other write by its own condition. -/
theorem smallHostWritesAct : Obligations.SmallHostWritesAct :=
  ⟨fun _ _ h hle => does_ringTail_of_within rfl h rfl rfl (by decide) hle, does_intEvTail, does_intSubTail, does_numClear, does_lchClear,
    does_arrInject_accepted, does_arrInject_refused, does_irqCoalesceExpiry_waiting, does_irqCoalesceExpiry_idle⟩

end Sys2Proof.Machine
end

section
/-!
PROOFS. SIGNAL_TAKES_EFFECT and WAIT_TIMEOUT (R146, R148): what a signal that is due adds, and what a wait that has run out records.
-/

namespace Sys2Proof.Machine

/-! ### A signal takes effect, R146 -/

/-- The signals of a list taken off the way. -/
def setSignals (s : State) (gs : List Signal) : State := { s with lch := { s.lch with signals := gs } }

theorem only_setSignals (s : State) (gs : List Signal) : Only [.lch] [] s (setSignals s gs) := only_lch s _

/-- A signal that is due leaves the way and is added. -/
theorem signalsDue_of_due {s : State} {g : Signal} (hg : s.lch.signals = [g]) (hdue : g.effect ≤ slot s) :
    signalsDue s = addSignal (setSignals s []) g := by
  simp [signalsDue, setSignals, hg, hdue]

theorem signalsDue_of_early {s : State} (hg : ∀ g ∈ s.lch.signals, slot s < g.effect) : signalsDue s = s := by
  have hnone : (s.lch.signals.filter fun g => decide (g.effect ≤ slot s)) = [] :=
    List.filter_eq_nil_iff.mpr fun g hm => by simpa using hg g hm
  have hall : (s.lch.signals.filter fun g => !decide (g.effect ≤ slot s)) = s.lch.signals :=
    List.filter_eq_self.mpr fun g hm => by simpa using hg g hm
  simp only [signalsDue, hnone, hall, List.foldl_nil]

theorem addSignal_of_failed {s : State} {g : Signal} (hf : (syncFlags s g.object).failed = true) : addSignal s g = s := if_pos hf

/-- An object that no plan exports has nothing to send. -/
theorem exportSignal_of_local {s : State} {o : Nat} (n : Nat)
    (he : ∀ p, s.plan = some p → p.exports.find? (fun e => e.localObj == o) = none) : exportSignal s o n = s := by
  unfold exportSignal
  split
  · rfl
  · next p hp => simp only [he p hp]

theorem addSignal_of_local {s : State} {g : Signal} (hf : (syncFlags s g.object).failed = false)
    (he : ∀ p, s.plan = some p → p.exports.find? (fun e => e.localObj == g.object) = none)
    (hlt : syncValue s g.object + g.amount < 2 ^ 64) :
    addSignal s g = setReg s (Off.LCH_SYNC g.object) (BitVec.ofNat 64 (syncValue s g.object + g.amount)) := by
  have hcap : min (syncValue s g.object + g.amount) (2 ^ 64 - 1) = syncValue s g.object + g.amount := by omega
  have hfits : ¬2 ^ 64 ≤ syncValue s g.object + g.amount := Nat.not_le.mpr hlt
  simp only [addSignal, hf, hcap, ge_iff_le, if_neg hfits, Bool.false_eq_true, if_false]
  exact exportSignal_of_local g.amount he

theorem syncValue_setReg (s : State) (o : Nat) {n : Nat} (h : n < 2 ^ 64) :
    syncValue (setReg s (Off.LCH_SYNC o) (BitVec.ofNat 64 n)) o = n := by
  unfold syncValue
  rw [getReg_setReg_self, BitVec.toNat_ofNat, Nat.mod_eq_of_lt h]

theorem does_signalTakesEffect_added (s : State) (g : Signal) (h : Up s) (hg : s.lch.signals = [g]) (hdue : g.effect ≤ slot s)
    (hf : (syncFlags s g.object).failed = false)
    (he : ∀ p, s.plan = some p → p.exports.find? (fun e => e.localObj == g.object) = none)
    (hlt : syncValue s g.object + g.amount < 2 ^ 64) :
    Does .signalTakesEffect s fun t => syncValue t g.object = syncValue s g.object + g.amount ∧ t.lch.signals = [] ∧
      Only [.lch] [Off.LCH_SYNC g.object] s t := by
  have hadd : addSignal (setSignals s []) g =
      setReg (setSignals s []) (Off.LCH_SYNC g.object) (BitVec.ofNat 64 (syncValue s g.object + g.amount)) :=
    addSignal_of_local (s := setSignals s []) hf he hlt
  have hframe := ((only_setSignals s []).mono (fun _ h => h) (by simp)).trans
    ((only_setReg (setSignals s []) (Off.LCH_SYNC g.object) (BitVec.ofNat 64 (syncValue s g.object + g.amount))).mono (by simp)
      fun _ h => h)
  exact does_eq rfl ((signalsDue_of_due hg hdue).trans hadd) h hframe (by decide) (by decide) ⟨syncValue_setReg _ _ hlt, rfl, hframe⟩

theorem does_signalTakesEffect_failed (s : State) (g : Signal) (h : Up s) (hg : s.lch.signals = [g]) (hdue : g.effect ≤ slot s)
    (hf : (syncFlags s g.object).failed = true) :
    Does .signalTakesEffect s fun t => t.lch.signals = [] ∧ Only [.lch] [] s t :=
  have hframe := only_setSignals s []
  does_eq rfl ((signalsDue_of_due hg hdue).trans (addSignal_of_failed hf)) h hframe (by decide) (by decide) ⟨rfl, hframe⟩

/-! ### A wait has run out, R148 -/

/-- What a timeout shows in the registers of the launcher, before its fault. -/
def markTimeout (s : State) (obj : Nat) (gate : Bool) (index : Nat) : State :=
  let s := setF s F.LCH_TIMEOUT_object obj
  let s := setF s F.LCH_TIMEOUT_gate (b2n gate)
  let s := setF s F.LCH_TIMEOUT_index index
  let s := setF s F.LCH_TIMEOUT_SLOT_slot (slot s)
  flag s F.LCH_STATUS_timeout_seen 5

/-- The registers that it writes. -/
def timeoutRegs : List Nat := [Off.LCH_TIMEOUT, Off.LCH_TIMEOUT_SLOT, Off.LCH_STATUS, Off.HST_IRQ_PENDING]

section
variable (s : State) (obj : Nat) (gate : Bool) (index : Nat)

theorem noteTimeout_eq : noteTimeout s obj gate index = holdFault (markTimeout s obj gate index) 0x1B 0 0 0 0 := rfl

/-- The object, the kind and the index of a wait, which share LCH_TIMEOUT. -/
def setTimeout : State := setF (setF (setF s F.LCH_TIMEOUT_object obj) F.LCH_TIMEOUT_gate (b2n gate)) F.LCH_TIMEOUT_index index

theorem markTimeout_eq : markTimeout s obj gate index =
    flag (setF (setTimeout s obj gate index) F.LCH_TIMEOUT_SLOT_slot (slot (setTimeout s obj gate index))) F.LCH_STATUS_timeout_seen 5 := rfl

theorem only_setTimeout : Only [] [Off.LCH_TIMEOUT] s (setTimeout s obj gate index) :=
  ((only_setF s F.LCH_TIMEOUT_object obj).trans (only_setF _ F.LCH_TIMEOUT_gate _)).trans (only_setF _ F.LCH_TIMEOUT_index index)

theorem only_markTimeout : Only eventParts timeoutRegs s (markTimeout s obj gate index) := by
  rw [markTimeout_eq]
  refine Only.trans ?_ ((only_flag _ F.LCH_STATUS_timeout_seen 5).mono (fun _ h => h) (by decide))
  refine Only.trans ?_ ((only_setF _ F.LCH_TIMEOUT_SLOT_slot _).mono (by simp) (by decide))
  exact (only_setTimeout s obj gate index).mono (by simp) (by decide)

/-- The slot and the flag leave LCH_TIMEOUT. -/
theorem getF_markTimeout {f : Field} (hf : f.off = Off.LCH_TIMEOUT) :
    getF (markTimeout s obj gate index) f = getF (setTimeout s obj gate index) f := by
  rw [markTimeout_eq, (only_flag _ F.LCH_STATUS_timeout_seen 5).field f (by rw [hf]; decide),
    (only_setF _ F.LCH_TIMEOUT_SLOT_slot _).field f (by rw [hf]; decide)]

theorem object_markTimeout : getF (markTimeout s obj gate index) F.LCH_TIMEOUT_object = obj % 2 ^ 13 := by
  rw [getF_markTimeout s obj gate index rfl, setTimeout, getF_setF_other _ _ _ _ (by decide) (by decide),
    getF_setF_other _ _ _ _ (by decide) (by decide)]
  exact getF_setF_same s F.LCH_TIMEOUT_object obj (by decide)

theorem gate_markTimeout : getF (markTimeout s obj gate index) F.LCH_TIMEOUT_gate = b2n gate := by
  rw [getF_markTimeout s obj gate index rfl, setTimeout, getF_setF_other _ _ _ _ (by decide) (by decide),
    getF_setF_same _ _ _ (by decide)]
  cases gate <;> rfl

theorem index_markTimeout : getF (markTimeout s obj gate index) F.LCH_TIMEOUT_index = index % 2 ^ 32 := by
  rw [getF_markTimeout s obj gate index rfl, setTimeout]
  exact getF_setF_same _ F.LCH_TIMEOUT_index index (by decide)

theorem slot_markTimeout : getF (markTimeout s obj gate index) F.LCH_TIMEOUT_SLOT_slot = slot s := by
  have hslot : slot (setTimeout s obj gate index) = slot s := (only_setTimeout s obj gate index).field F.LCH_SLOT_slot (by decide)
  rw [markTimeout_eq, (only_flag _ F.LCH_STATUS_timeout_seen 5).field _ (by decide), getF_setF_same _ _ _ (by decide), hslot]
  exact Nat.mod_eq_of_lt (getF_lt s F.LCH_SLOT_slot)

theorem timeout_seen_markTimeout : hasF (markTimeout s obj gate index) F.LCH_STATUS_timeout_seen = true := by
  rw [markTimeout_eq]
  exact hasF_flag _ F.LCH_STATUS_timeout_seen 5 (by decide) (by decide) (by decide)

/-- The fault and the entry into HOLD leave what the timeout shows of the wait. -/
theorem getF_noteTimeout {f : Field} (hf : f.off ∈ [Off.LCH_TIMEOUT, Off.LCH_TIMEOUT_SLOT, Off.LCH_STATUS]) :
    getF (noteTimeout s obj gate index) f = getF (markTimeout s obj gate index) f := by
  have hapart : ∀ o ∈ [Off.LCH_TIMEOUT, Off.LCH_TIMEOUT_SLOT, Off.LCH_STATUS], o ∉ holdRegs ∧
      (o ≠ Off.SAF_LOG_HEAD ∧ o ≠ Off.SAF_FAULT_CNT ∧ o ≠ Off.SAF_STATUS ∧ o ≠ Off.HST_IRQ_PENDING) ∧ 0x311000 ≤ o := by decide
  obtain ⟨hhold, hnamed, hentry⟩ := hapart f.off hf
  rw [noteTimeout_eq]
  exact getF_holdFault f _ _ _ _ _ _ hhold (not_mem_logRegs _ _ hnamed (.inr hentry))

theorem only_noteTimeout : Only holdParts ([Off.LCH_TIMEOUT, Off.LCH_TIMEOUT_SLOT, Off.LCH_STATUS] ++ holdRegs ++ logRegs s) s
    (noteTimeout s obj gate index) := by
  have hmark : Only holdParts timeoutRegs s (markTimeout s obj gate index) :=
    (only_markTimeout s obj gate index).mono (by decide) fun _ h => h
  rw [noteTimeout_eq]
  refine (hmark.holdFault (by decide) 0x1B 0 0 0 0).mono (fun _ h => h) fun o ho => ?_
  have hirq : Off.HST_IRQ_PENDING ∈ holdRegs := by decide
  simp only [timeoutRegs, List.mem_append, List.mem_cons, List.not_mem_nil, or_false] at ho ⊢
  obtain (hl | hl | hl | hl) | hh | hg := ho
  · exact .inl (.inl (.inl hl))
  · exact .inl (.inl (.inr (.inl hl)))
  · exact .inl (.inl (.inr (.inr hl)))
  · exact .inl (.inr (hl ▸ hirq))
  · exact .inl (.inr hh)
  · exact .inr hg

end

/-- What a timeout records, and what it leaves alone. -/
theorem does_waitTimeout_noted {s : State} {gate : Bool} {index op obj n : Nat} (h : Up s)
    (he : timeoutStep s gate index op = noteTimeout s obj gate n) :
    Does (.waitTimeout gate index op) s fun t => Holds 0 t ∧ getF t F.LCH_TIMEOUT_object = obj % 2 ^ 13 ∧
      getF t F.LCH_TIMEOUT_gate = b2n gate ∧ getF t F.LCH_TIMEOUT_index = n % 2 ^ 32 ∧ getF t F.LCH_TIMEOUT_SLOT_slot = slot s ∧
      hasF t F.LCH_STATUS_timeout_seen = true ∧
      Only holdParts ([Off.LCH_TIMEOUT, Off.LCH_TIMEOUT_SLOT, Off.LCH_STATUS] ++ holdRegs ++ logRegs s) s t := by
  refine does_eq rfl he h (only_noteTimeout s obj gate n) (by decide) (by decide)
    ⟨holds_holdFault _ _ 0 _ _ _ (by decide), ?_, ?_, ?_, ?_, ?_, only_noteTimeout s obj gate n⟩
  · exact (getF_noteTimeout s obj gate n (by decide)).trans (object_markTimeout s obj gate n)
  · exact (getF_noteTimeout s obj gate n (by decide)).trans (gate_markTimeout s obj gate n)
  · exact (getF_noteTimeout s obj gate n (by decide)).trans (index_markTimeout s obj gate n)
  · exact (getF_noteTimeout s obj gate n (by decide)).trans (slot_markTimeout s obj gate n)
  · exact (congrArg (· != 0) (getF_noteTimeout s obj gate n (by decide))).trans (timeout_seen_markTimeout s obj gate n)

/-! ### When a wait runs out -/

theorem timeoutStep_paused {s : State} (gate : Bool) (index op : Nat) (h : inHold s = true ∨ stopInForce s = true) :
    timeoutStep s gate index op = s := by
  refine if_pos ?_
  rw [Bool.or_eq_true_iff.mpr h, Bool.true_or]

section
variable {s : State} (hh : inHold s = false) (hs : stopInForce s = false) (hr : planState s = .running)
include hh hs hr

theorem timeoutStep_gate {op obj k : Nat} (index : Nat) (ht : gateTimedOut s op = some (obj, k)) :
    timeoutStep s true index op = noteTimeout s obj true k := by
  simp [timeoutStep, hh, hs, hr, ht]

theorem timeoutStep_launch {k op obj : Nat} (ht : launchTimedOut s k op = some obj) :
    timeoutStep s false k op = noteTimeout s obj false (keyIdx k) := by
  simp [timeoutStep, hh, hs, hr, ht]

end

theorem does_waitTimeout_gate (s : State) (idx op obj k : Nat) (h : Up s) (hh : inHold s = false) (hs : stopInForce s = false)
    (hr : planState s = .running) (ht : gateTimedOut s op = some (obj, k)) :
    Does (.waitTimeout true idx op) s fun t => Holds 0 t ∧ getF t F.LCH_TIMEOUT_object = obj % 2 ^ 13 ∧ getF t F.LCH_TIMEOUT_gate = 1 ∧
      getF t F.LCH_TIMEOUT_index = k % 2 ^ 32 ∧ getF t F.LCH_TIMEOUT_SLOT_slot = slot s ∧ hasF t F.LCH_STATUS_timeout_seen = true ∧
      Only holdParts ([Off.LCH_TIMEOUT, Off.LCH_TIMEOUT_SLOT, Off.LCH_STATUS] ++ holdRegs ++ logRegs s) s t :=
  does_waitTimeout_noted h (timeoutStep_gate hh hs hr idx ht)

theorem does_waitTimeout_launch (s : State) (k op obj : Nat) (h : Up s) (hh : inHold s = false) (hs : stopInForce s = false)
    (hr : planState s = .running) (ht : launchTimedOut s k op = some obj) :
    Does (.waitTimeout false k op) s fun t => Holds 0 t ∧ getF t F.LCH_TIMEOUT_object = obj % 2 ^ 13 ∧ getF t F.LCH_TIMEOUT_gate = 0 ∧
      getF t F.LCH_TIMEOUT_index = keyIdx k % 2 ^ 32 ∧ getF t F.LCH_TIMEOUT_SLOT_slot = slot s ∧
      Only holdParts ([Off.LCH_TIMEOUT, Off.LCH_TIMEOUT_SLOT, Off.LCH_STATUS] ++ holdRegs ++ logRegs s) s t := by
  obtain ⟨t, he, hhold, hobj, hgate, hindex, hslot, -, hframe⟩ := does_waitTimeout_noted h (timeoutStep_launch hh hs hr ht)
  exact ⟨t, he, hhold, hobj, hgate, hindex, hslot, hframe⟩

/-- Settles O18: a signal by whether it is due and its object has failed, a wait by the fault that its timeout notes. -/
theorem signalsTakeEffectAndWaitsExpire : Obligations.SignalsTakeEffectAndWaitsExpire :=
  ⟨does_signalTakesEffect_added, does_signalTakesEffect_failed,
    fun s h hg => does_eq rfl (signalsDue_of_early hg) h (Only.rfl' [] [] s) (by decide) (by decide) rfl,
    does_waitTimeout_gate, does_waitTimeout_launch,
    fun s g idx op h hw => does_eq rfl (timeoutStep_paused g idx op hw) h (Only.rfl' [] [] s) (by decide) (by decide) rfl⟩

end Sys2Proof.Machine
end

section
/-!
PROOFS. SYNC, NORM, COUNT, LAYOUT and DIGEST (R151, R220, R248, R261, R304): a message taken in replaces what its source sent before of
the same matter, and a digest that differs is a fault.
-/

namespace Sys2Proof.Machine

/-! ### A keyed list in which the latest counts -/

/-- The list that keeps a new entry in place of those that a predicate names holds it, and no other that the predicate names. -/
theorem mem_replaced {α : Type} (xs : List α) (old : α → Bool) (x : α) :
    x ∈ (xs.filter fun y => !old y) ++ [x] ∧ ∀ y ∈ (xs.filter fun y => !old y) ++ [x], old y = true → y = x := by
  refine ⟨List.mem_append_right _ (List.mem_singleton_self x), fun y hy hold => ?_⟩
  obtain hkept | hnew := List.mem_append.mp hy
  · have hno : (!old y) = true := (List.mem_filter.mp hkept).2
    rw [hold] at hno
    exact absurd hno (by decide)
  · exact List.mem_singleton.mp hnew

/-! ### SYNC, R151 -/

theorem syncIn_imported {s : State} {o : Nat} (n : Nat) (hi : (syncFlags s o).imp = true) : syncIn s o n = signal s o n := if_pos hi

theorem syncIn_dropped {s : State} {o : Nat} (n : Nat) (hi : (syncFlags s o).imp = false) :
    syncIn s o n = setF (bumpF s F.LCH_IMPORT_DROP_count 1) F.LCH_STATUS_import_dropped 1 := if_neg (Bool.eq_false_iff.mp hi)

theorem does_syncMsg_imported (s : State) (src o : Nat) (w : Word) (h : Up s) (hi : (syncFlags s o).imp = true) :
    Does (.syncMsg src o w) s fun t => t.lch.signals = s.lch.signals ++ [⟨slot s + 2, o, w.toNat⟩] ∧ Only [.lch] [] s t :=
  does_eq rfl (syncIn_imported w.toNat hi) h (only_signal s o _) (by decide) (by decide) ⟨rfl, only_signal s o _⟩

theorem does_syncMsg_dropped (s : State) (src o : Nat) (w : Word) (h : Up s) (hi : (syncFlags s o).imp = false) :
    Does (.syncMsg src o w) s fun t => hasF t F.LCH_STATUS_import_dropped = true ∧
      getF t F.LCH_IMPORT_DROP_count = min (Field.max F.LCH_IMPORT_DROP_count) (getF s F.LCH_IMPORT_DROP_count + 1) ∧
      Only [] [Off.LCH_IMPORT_DROP, Off.LCH_STATUS] s t := by
  have hflag := only_setF (bumpF s F.LCH_IMPORT_DROP_count 1) F.LCH_STATUS_import_dropped 1
  have hframe : Only [] [Off.LCH_IMPORT_DROP, Off.LCH_STATUS] s (setF (bumpF s F.LCH_IMPORT_DROP_count 1) F.LCH_STATUS_import_dropped 1) :=
    ((only_bumpF s F.LCH_IMPORT_DROP_count 1).mono (by simp) (by decide)).trans (hflag.mono (by simp) (by decide))
  refine does_eq rfl (syncIn_dropped w.toNat hi) h hframe (by decide) (by decide) ⟨?_, ?_, hframe⟩
  · exact hasF_setF_one _ F.LCH_STATUS_import_dropped (by decide) (by decide)
  · exact (hflag.field F.LCH_IMPORT_DROP_count (by decide)).trans (getF_bumpF_same s _ 1 (by decide))

/-! ### NORM and COUNT, R248 and R304 -/

/-- Before any loss a norm message of the present step or the next is kept as it came. -/
theorem normIn_near {s : State} {n m : Nat} (src pos : Nat) (loss grad abort : Bool) (part : Word32) (hm : nearStep s n = some m)
    (hl : s.chn.loss = none) :
    normIn s src n pos loss grad abort part = keepNorm s ⟨m, src, pos, loss, grad, abort, part, false⟩ := by
  simp only [normIn, hm, hl]

theorem does_normMsg (s : State) (src n pos m : Nat) (loss grad abort : Bool) (part : Word32) (h : Up s) (hm : nearStep s n = some m)
    (hl : s.chn.loss = none) :
    Does (.normMsg src n pos loss grad abort part) s fun t => ⟨m, src, pos, loss, grad, abort, part, false⟩ ∈ t.trn.norms ∧
      (∀ r ∈ t.trn.norms, r.source = src → r.step = m → r = ⟨m, src, pos, loss, grad, abort, part, false⟩) ∧ Only [.trn] [] s t := by
  have hframe : Only [.trn] [] s (keepNorm s ⟨m, src, pos, loss, grad, abort, part, false⟩) := only_trn s _
  obtain ⟨hin, hlatest⟩ := mem_replaced s.trn.norms (fun x => x.source == src && x.step == m) ⟨m, src, pos, loss, grad, abort, part, false⟩
  exact does_eq rfl (normIn_near src pos loss grad abort part hm hl) h hframe (by decide) (by decide)
    ⟨hin, fun r hr hsrc hstep => hlatest r hr (by simp [hsrc, hstep]), hframe⟩

/-- The count of a member kept, the latest of its source and step. -/
def keepCount (s : State) (src m c : Nat) : State :=
  { s with trn := { s.trn with counts := (s.trn.counts.filter fun x => !(x.1 == src && x.2.1 == m)) ++ [(src, m, c)] } }

theorem countIn_near {s : State} {n m : Nat} (src c : Nat) (hm : nearStep s n = some m) : countIn s src n c = keepCount s src m c := by
  simp only [countIn, hm, keepCount]

theorem does_countMsg (s : State) (src n m : Nat) (c : Word) (h : Up s) (hm : nearStep s n = some m) :
    Does (.countMsg src n c) s fun t => (src, m, c.toNat) ∈ t.trn.counts ∧
      (∀ x ∈ t.trn.counts, x.1 = src → x.2.1 = m → x.2.2 = c.toNat) ∧ Only [.trn] [] s t := by
  have hframe : Only [.trn] [] s (keepCount s src m c.toNat) := only_trn s _
  obtain ⟨hin, hlatest⟩ := mem_replaced s.trn.counts (fun x => x.1 == src && x.2.1 == m) (src, m, c.toNat)
  refine does_eq rfl (countIn_near src c.toNat hm) h hframe (by decide) (by decide) ⟨hin, fun x hx hsrc hstep => ?_, hframe⟩
  rw [hlatest x hx (by simp [hsrc, hstep])]

/-! ### LAYOUT, R261 -/

theorem does_layoutMsg (s : State) (src n lay adopted : Nat) (dig : Word32) (h : Up s) :
    Does (.layoutMsg src n lay adopted dig) s fun t => ⟨src, n, lay, adopted, dig⟩ ∈ t.chn.layouts ∧ Only [.chn] [] s t :=
  have hframe : Only [.chn] [] s (layoutIn s src n lay adopted dig) := only_chn s _
  does_eq rfl rfl h hframe (by decide) (by decide) ⟨List.mem_append_right _ (List.mem_singleton_self _), hframe⟩

/-! ### DIGEST, R220 -/

theorem only_setDigest (s : State) (d : DigestRec) : Only [.trn] [] s (setDigest s d) := only_trn s _

/-- The record just kept is the one that a read of its shard and step gives. -/
theorem digestOf_setDigest (s : State) (d : DigestRec) : digestOf (setDigest s d) d.shard d.step = d := by
  have hold : (s.trn.digests.filter fun x => !(x.shard == d.shard && x.step == d.step)).find?
      (fun x => x.shard == d.shard && x.step == d.step) = none :=
    List.find?_eq_none.mpr fun x hx => Bool.eq_false_iff.mp ((Bool.not_eq_true' _).mp (List.mem_filter.mp hx).2)
  unfold digestOf setDigest
  rw [List.find?_append, hold]
  simp

/-- A record stands under its own shard and step. -/
theorem shard_step_digestOf (s : State) (sh n : Nat) : (digestOf s sh n).shard = sh ∧ (digestOf s sh n).step = n := by
  unfold digestOf
  cases hfind : s.trn.digests.find? (fun d => d.shard == sh && d.step == n) with
  | none => exact ⟨rfl, rfl⟩
  | some d => simpa using List.find?_some hfind

/-- While a shard's digest is still owed the compare does not end. -/
theorem digestsDone_of_owed {s : State} (ho : s.trn.owed ≠ []) : digestsDone s = s := by
  unfold digestsDone
  split
  · rfl
  · simp [List.isEmpty_eq_false_iff.mpr ho]

/-- The record of a shard with a digest that has come. -/
def gotDigest (s : State) (src sh n : Nat) (dg : List Byte) : DigestRec :=
  { digestOf s sh n with got := (digestOf s sh n).got.filter (fun g => g.1 != src) ++ [(src, dg)] }

theorem digestOf_setDigest_gotDigest (s : State) (src sh n : Nat) (dg : List Byte) :
    digestOf (setDigest s (gotDigest s src sh n dg)) sh n = gotDigest s src sh n dg := by
  obtain ⟨hshard, hstep⟩ := shard_step_digestOf s sh n
  have hread := digestOf_setDigest s (gotDigest s src sh n dg)
  have hkey : (gotDigest s src sh n dg).shard = sh ∧ (gotDigest s src sh n dg).step = n := ⟨hshard, hstep⟩
  rwa [hkey.1, hkey.2] at hread

theorem comparePair_of_no_own {s : State} {d : DigestRec} (got : List Byte) (h : d.own = none) : comparePair s d got = s := by
  simp only [comparePair, h]

/-- A first comparison that differs is counted, flagged and logged. -/
theorem comparePair_of_mismatch {s : State} {d : DigestRec} {own got : List Byte} (ho : d.own = some own) (hr : d.round = 0)
    (hne : own ≠ got) : comparePair s d got =
      runFault (flag (bumpF s F.UPD_DIGEST_MISMATCH_CNT_count 1) F.UPD_STATUS_digest_mismatch 7) 0x1F 0 0 d.shard := by
  simp [comparePair, ho, hr, hne]

theorem digestIn_eq (s : State) (src sh n : Nat) (dg : List Byte) : digestIn s src sh n dg =
    digestsDone (if (digestOf s sh n).round = 1 then setDigest s (gotDigest s src sh n dg)
      else comparePair (setDigest s (gotDigest s src sh n dg)) (gotDigest s src sh n dg) dg) := rfl

theorem digestIn_of_no_own {s : State} {sh n : Nat} (src : Nat) (dg : List Byte) (hown : (digestOf s sh n).own = none)
    (ho : s.trn.owed ≠ []) : digestIn s src sh n dg = setDigest s (gotDigest s src sh n dg) := by
  have hsame : comparePair (setDigest s (gotDigest s src sh n dg)) (gotDigest s src sh n dg) dg = setDigest s (gotDigest s src sh n dg) :=
    comparePair_of_no_own dg hown
  rw [digestIn_eq, hsame, ite_self]
  exact digestsDone_of_owed ho

theorem does_digestMsg_alone (s : State) (src sh n : Nat) (dg : List Byte) (h : Up s) (hown : (digestOf s sh n).own = none)
    (ho : s.trn.owed ≠ []) :
    Does (.digestMsg src sh n dg) s fun t => (digestOf t sh n).got = (digestOf s sh n).got.filter (fun g => g.1 != src) ++ [(src, dg)] ∧
      Only [.trn] [] s t := by
  have hframe := only_setDigest s (gotDigest s src sh n dg)
  refine does_eq rfl (digestIn_of_no_own src dg hown ho) h hframe (by decide) (by decide) ⟨?_, hframe⟩
  rw [digestOf_setDigest_gotDigest]
  rfl

/-- A pair that differs, flagged before its log entry. -/
def flagMismatch (s : State) (d : DigestRec) : State :=
  flag (bumpF (setDigest s d) F.UPD_DIGEST_MISMATCH_CNT_count 1) F.UPD_STATUS_digest_mismatch 7

theorem only_flagMismatch (s : State) (d : DigestRec) :
    Only (.trn :: eventParts) [Off.UPD_DIGEST_MISMATCH_CNT, Off.UPD_STATUS, Off.HST_IRQ_PENDING] s (flagMismatch s d) := by
  refine Only.trans ?_ ((only_flag _ F.UPD_STATUS_digest_mismatch 7).mono (by decide) (by decide))
  exact ((only_setDigest s d).mono (by simp) (by simp)).trans ((only_bumpF _ F.UPD_DIGEST_MISMATCH_CNT_count 1).mono (by simp) (by decide))

/-- What a mismatch comes to: the record, the flag, and one log entry. -/
def loggedMismatch (s : State) (d : DigestRec) : State := runFault (flagMismatch s d) 0x1F 0 0 d.shard

theorem only_loggedMismatch (s : State) (d : DigestRec) :
    Only (.trn :: eventParts) ([Off.UPD_DIGEST_MISMATCH_CNT, Off.UPD_STATUS] ++ logRegs s) s (loggedMismatch s d) := by
  refine ((only_flagMismatch s d).logFault (by decide) (by decide) (by decide) _ _ _ _ _).mono (fun _ h => h) fun o ho => ?_
  simp only [logRegs, List.mem_append, List.mem_cons, List.not_mem_nil, or_false] at ho ⊢
  tauto

theorem digestIn_of_mismatch {s : State} {sh n : Nat} (src : Nat) {own dg : List Byte} (hown : (digestOf s sh n).own = some own)
    (hr : (digestOf s sh n).round = 0) (hne : own ≠ dg) (ho : s.trn.owed ≠ []) :
    digestIn s src sh n dg = loggedMismatch s (gotDigest s src sh n dg) := by
  have hpair : comparePair (setDigest s (gotDigest s src sh n dg)) (gotDigest s src sh n dg) dg = loggedMismatch s (gotDigest s src sh n dg) :=
    comparePair_of_mismatch hown hr hne
  have howed : (loggedMismatch s (gotDigest s src sh n dg)).trn.owed ≠ [] := by
    simpa [loggedMismatch, flagMismatch, setDigest] using ho
  have hfirst : ¬(digestOf s sh n).round = 1 := by simp [hr]
  rw [digestIn_eq, if_neg hfirst, hpair]
  exact digestsDone_of_owed howed

theorem does_digestMsg_mismatch (s : State) (src sh n : Nat) (own dg : List Byte) (h : Up s) (hown : (digestOf s sh n).own = some own)
    (hr : (digestOf s sh n).round = 0) (hne : own ≠ dg) (ho : s.trn.owed ≠ []) :
    Does (.digestMsg src sh n dg) s fun t => hasF t F.UPD_STATUS_digest_mismatch = true ∧ hasF t F.SAF_STATUS_fault_seen = true ∧
      Only (.trn :: eventParts) ([Off.UPD_DIGEST_MISMATCH_CNT, Off.UPD_STATUS] ++ logRegs s) s t := by
  have hframe := only_loggedMismatch s (gotDigest s src sh n dg)
  have hapart : Off.UPD_STATUS ∉ logRegs (flagMismatch s (gotDigest s src sh n dg)) := not_mem_logRegs _ _ (by decide) (.inr (by decide))
  refine does_eq rfl (digestIn_of_mismatch src hown hr hne ho) h hframe (by decide) (by decide) ⟨?_, ?_, hframe⟩
  · exact ((only_runFault _ _ _ _ _).hasF_eq F.UPD_STATUS_digest_mismatch hapart).trans
      (hasF_flag _ F.UPD_STATUS_digest_mismatch 7 (by decide) (by decide) (by decide))
  · exact hasF_fault_seen_logFault _ _ _ _ _ _

/-- Settles O39: each kind by the one operation that takes it in, a digest by its comparison. -/
theorem messagesOfEachKindAreTakenIn : Obligations.MessagesOfEachKindAreTakenIn :=
  ⟨does_syncMsg_imported, does_syncMsg_dropped, does_normMsg, does_countMsg, does_layoutMsg, does_digestMsg_alone, does_digestMsg_mismatch⟩

end Sys2Proof.Machine
end

section
/-!
PROOFS. LAUNCH_ISSUE and LAUNCH_BEGIN (R112 to R117, R135, R139, R142): what the issue of a launch notes, and what a unit takes from its
waiting place.
-/

namespace Sys2Proof.Machine

/-! ### Launches and units, read after a write -/

@[simp] theorem runOf_setRun_self (s : State) (k : Nat) (r : LaunchRun) : runOf (setRun s k r) k = r :=
  FMap.get_set_self LaunchRun.fresh s.lch.runs k r

theorem runOf_setRun_other (s : State) {k j : Nat} (r : LaunchRun) (h : j ≠ k) : runOf (setRun s k r) j = runOf s j :=
  FMap.get_set_other LaunchRun.fresh s.lch.runs r h

@[simp] theorem unitOf_setUnit_self (s : State) (u : Nat) (r : UnitRun) : unitOf (setUnit s u r) u = r :=
  FMap.get_set_self UnitRun.idle s.lch.units u r

theorem unitOf_setUnit_other (s : State) {u v : Nat} (r : UnitRun) (h : v ≠ u) : unitOf (setUnit s u r) v = unitOf s v :=
  FMap.get_set_other UnitRun.idle s.lch.units r h

theorem runOf_congr {s t : State} (h : t.lch.runs = s.lch.runs) (k : Nat) : runOf t k = runOf s k := by unfold runOf; rw [h]

theorem unitOf_congr {s t : State} (h : t.lch.units = s.lch.units) (u : Nat) : unitOf t u = unitOf s u := by unfold unitOf; rw [h]

/-! ### What counting the slip of a launch changes, R142 -/

/-- The registers of the slip counters that an issue writes. -/
def slipRegs : List Nat := [Off.LCH_SLIP_TOTAL, Off.LCH_SLIP_CAUSE 6, Off.LCH_SLIP_CAUSE 7, Off.LCH_SLIP_MAX]

/-- Only the record of one launch and the slip counters change, and whether the launch has completed stands. -/
structure SlipStep (k : Nat) (s t : State) : Prop where
  lch : t.lch = { s.lch with runs := t.lch.runs }
  others : ∀ j, j ≠ k → runOf t j = runOf s j
  completed : (runOf t k).completed = (runOf s k).completed
  frame : Only [.lch] slipRegs s t

theorem SlipStep.rfl' (k : Nat) (s : State) : SlipStep k s s := ⟨rfl, fun _ _ => rfl, rfl, Only.rfl' _ _ s⟩

theorem SlipStep.trans {k : Nat} {s t u : State} (h : SlipStep k s t) (g : SlipStep k t u) : SlipStep k s u where
  lch := by rw [g.lch, h.lch]
  others := fun j hj => (g.others j hj).trans (h.others j hj)
  completed := g.completed.trans h.completed
  frame := h.frame.trans g.frame

theorem slipStep_setRun {s : State} {k : Nat} {r : LaunchRun} (h : r.completed = (runOf s k).completed) : SlipStep k s (setRun s k r) where
  lch := rfl
  others := fun _ hj => runOf_setRun_other s r hj
  completed := (congrArg LaunchRun.completed (runOf_setRun_self s k r)).trans h
  frame := (only_setRun s k r).mono (fun _ h => h) (by simp)

/-- Registers alone. -/
theorem slipStep_of_regs {k : Nat} {s t : State} (h : Only [] slipRegs s t) : SlipStep k s t := by
  have hlch : t.lch = s.lch := h.1 .lch (by simp)
  have hruns : ∀ j, runOf t j = runOf s j := runOf_congr (congrArg LchState.runs hlch)
  exact ⟨by rw [hlch], fun j _ => hruns j, by rw [hruns], h.mono (by simp) fun _ h => h⟩

theorem slipStep_addSlip (s : State) (k n : Nat) {c : Nat} (hc : Off.LCH_SLIP_CAUSE c ∈ slipRegs) : SlipStep k s (addSlip s k c n) := by
  have hcause : ∀ o ∈ [(F.LCH_SLIP_CAUSE_count c).off], o ∈ slipRegs := fun o ho => List.mem_singleton.mp ho ▸ hc
  unfold addSlip
  split
  · exact SlipStep.rfl' k s
  · have hrun : SlipStep k s (setRun s k { runOf s k with causes := (runOf s k).causes.set c ((runOf s k).causes.getD c 0 + n) }) :=
      slipStep_setRun rfl
    exact hrun.trans (slipStep_of_regs (((only_bumpF _ F.LCH_SLIP_TOTAL_count n).mono (fun _ h => h) (by decide)).trans
      ((only_bumpF _ (F.LCH_SLIP_CAUSE_count c) n).mono (fun _ h => h) hcause)))

theorem slipStep_addRetro (s : State) (k : Nat) (l : Launch) (due : Nat) : SlipStep k s (addRetro s k l due) := by
  unfold addRetro
  dsimp only
  exact ((slipStep_addSlip s k _ (by decide)).trans (slipStep_addSlip _ k _ (by decide))).trans (slipStep_setRun rfl)

/-- The record of a launch that issues. -/
def issuedRun (s : State) (k : Nat) (l : Launch) (a due : Nat) : LaunchRun :=
  { runOf s k with issued := true, issueSlot := slot s, slip := slot s - (a + l.relSlot), ownSlip := slot s - due, counted := slot s }

/-- The greatest slip and its launch shown. -/
def showSlipMax (s : State) (k n : Nat) : State := setF (setF s F.LCH_SLIP_MAX_slip n) F.LCH_SLIP_MAX_launch (keyIdx k)

theorem only_showSlipMax (s : State) (k n : Nat) : Only [] slipRegs s (showSlipMax s k n) :=
  ((only_setF s F.LCH_SLIP_MAX_slip n).mono (fun _ h => h) (by decide)).trans
    ((only_setF _ F.LCH_SLIP_MAX_launch _).mono (fun _ h => h) (by decide))

/-- An issue notes the record, and LCH_SLIP_MAX when the slip is the greatest. -/
theorem noteIssue_cases (s : State) (k : Nat) (l : Launch) (a due : Nat) : noteIssue s k l a due = setRun s k (issuedRun s k l a due) ∨
    ∃ n, noteIssue s k l a due = showSlipMax (setRun s k (issuedRun s k l a due)) k n := by
  unfold noteIssue
  dsimp only
  split
  · exact .inr ⟨_, rfl⟩
  · exact .inl rfl

theorem slipStep_noteIssue (s : State) (k : Nat) (l : Launch) (a due : Nat) : SlipStep k s (noteIssue s k l a due) := by
  have hrun : SlipStep k s (setRun s k (issuedRun s k l a due)) := slipStep_setRun rfl
  obtain he | ⟨n, he⟩ := noteIssue_cases s k l a due <;> rw [he]
  · exact hrun
  · exact hrun.trans (slipStep_of_regs (only_showSlipMax _ k n))

theorem runOf_noteIssue (s : State) (k : Nat) (l : Launch) (a due : Nat) : runOf (noteIssue s k l a due) k = issuedRun s k l a due := by
  obtain he | ⟨n, he⟩ := noteIssue_cases s k l a due <;> rw [he] <;> exact runOf_setRun_self s k _

/-! ### What it leaves of the conditions of an issue -/

/-- The unit of a launch follows the plan, the arrays and the fences. -/
theorem unitFor_congr {s t : State} (hp : t.plan = s.plan) (ha : t.arr = s.arr)
    (hr : ∀ i, getReg t (Off.ARR_FENCED i) = getReg s (Off.ARR_FENCED i)) (k : Nat) (l : Launch) : unitFor t k l = unitFor s k l := by
  have hbatch : batchOf t k = batchOf s k := by simp only [batchOf, queueOf, ha]
  have hstand : ∀ a, standIn t a = standIn s a := fun a => by simp only [standIn, fenced, hr]
  have hengine : ∀ c, veFor t c = veFor s c := fun c => by simp only [veFor, veFenced_congr ha]
  have htile : tileOf t l = tileOf s l := by simp only [tileOf, hp]
  have hvector : vectorOf t l = vectorOf s l := by simp only [vectorOf, hp]
  simp only [unitFor, tileArray, hbatch, hstand, hengine, htile, hvector]

theorem fenceOff_not_mem_slipRegs (i : Nat) : Off.ARR_FENCED i ∉ slipRegs := by
  simp only [slipRegs, List.mem_cons, List.not_mem_nil, or_false, not_or, Off.ARR_FENCED, Off.LCH_SLIP_TOTAL, Off.LCH_SLIP_CAUSE,
    Off.LCH_SLIP_MAX]
  omega

section
variable {k : Nat} {s t : State} (h : SlipStep k s t)
include h

theorem SlipStep.plan : t.plan = s.plan := h.frame.1 .plan (by decide)

theorem SlipStep.slot_eq : slot t = slot s := h.frame.field F.LCH_SLOT_slot (by decide)

theorem SlipStep.unitOf_eq (u : Nat) : unitOf t u = unitOf s u := unitOf_congr (by rw [h.lch]) u

theorem SlipStep.unitFor_eq (l : Launch) : unitFor t k l = unitFor s k l :=
  unitFor_congr h.plan (h.frame.1 .arr (by decide)) (fun i => h.frame.2 _ (fenceOff_not_mem_slipRegs i)) k l

theorem SlipStep.voidLaunch_eq (l : Launch) : voidLaunch t k l = voidLaunch s k l := by
  have hpass : ∀ p, passOf t p = passOf s p := fun p => by unfold passOf; rw [h.lch]
  simp only [voidLaunch, hpass]

theorem SlipStep.blockLayer_eq : blockLayer t k = blockLayer s k := by simp only [blockLayer, h.plan]

theorem SlipStep.passedOver_eq : passedOver t k = passedOver s k := by
  have htrn : t.trn = s.trn := h.frame.1 .trn (by decide)
  simp only [passedOver, h.blockLayer_eq, stashOf, htrn]

end

/-! ### A launch issues, R139 -/

/-- The issue noted, with the slip that was known late. -/
def notedIssue (s : State) (k : Nat) (l : Launch) (a due : Nat) : State := noteIssue (addRetro s k l due) k l a due

theorem slipStep_notedIssue (s : State) (k : Nat) (l : Launch) (a due : Nat) : SlipStep k s (notedIssue s k l a due) :=
  (slipStep_addRetro s k l due).trans (slipStep_noteIssue _ k l a due)

/-- The record of a launch says whether it reads a poisoned frond. -/
def markPoisoned (s : State) (k : Nat) (l : Launch) : State := setRun s k { runOf s k with poisoned := (inputFronds s l).any (poisonedAt s) }

/-- A launch in the waiting place of its unit. -/
def waitAt (s : State) (u k : Nat) : State := setUnit s u { unitOf s u with waiting := some k }

/-- A launch issued into the waiting place of its unit. -/
def issuedInto (s : State) (k u a due : Nat) (l : Launch) : State := waitAt (markPoisoned (notedIssue s k l a due) k l) u k

theorem slipStep_markPoisoned (s : State) (k : Nat) (l : Launch) (a due : Nat) :
    SlipStep k s (markPoisoned (notedIssue s k l a due) k l) :=
  (slipStep_notedIssue s k l a due).trans (slipStep_setRun rfl)

theorem only_issuedInto (s : State) (k u a due : Nat) (l : Launch) : Only [.lch] slipRegs s (issuedInto s k u a due l) :=
  (slipStep_markPoisoned s k l a due).frame.trans ((only_setUnit _ u _).mono (fun _ h => h) (by simp))

/-- The record of the launch, with the issue in it. -/
theorem runOf_issuedInto_self (s : State) (k u a due : Nat) (l : Launch) : ∃ b, runOf (issuedInto s k u a due l) k =
    { issuedRun (addRetro s k l due) k l a due with poisoned := b } := by
  have hmark : runOf (issuedInto s k u a due l) k = { runOf (notedIssue s k l a due) k with
      poisoned := (inputFronds (notedIssue s k l a due) l).any (poisonedAt (notedIssue s k l a due)) } := runOf_setRun_self _ k _
  exact ⟨_, hmark.trans (by rw [notedIssue, runOf_noteIssue])⟩

theorem completed_issuedInto (s : State) (k u a due : Nat) (l : Launch) :
    (runOf (issuedInto s k u a due l) k).completed = (runOf s k).completed := (slipStep_markPoisoned s k l a due).completed

/-- A launch that is neither void nor passed over and belongs to no recompute block goes to the waiting place of its unit. -/
theorem issueLaunch_of_unit {s : State} {k u : Nat} {l : Launch} (a due : Nat) (hv : voidLaunch s k l = false)
    (hp : passedOver s k = false) (hb : blockLayer s k = none) (hu : unitFor s k l = some u) :
    issueLaunch s k l a due = issuedInto s k u a due l := by
  have hn := slipStep_notedIssue s k l a due
  have hm := slipStep_markPoisoned s k l a due
  rw [← hn.voidLaunch_eq] at hv
  rw [← hn.passedOver_eq] at hp
  rw [← hn.blockLayer_eq] at hb
  rw [← hm.unitFor_eq] at hu
  unfold notedIssue at hv hp hb
  unfold markPoisoned notedIssue at hu
  simp only [issueLaunch, hv, hp, hb, hu, Bool.false_eq_true, if_false]
  rfl

section
variable {s : State} {k : Nat} {l : Launch} (hl : launchOf s k = some l)
include hl

theorem issueStep_of_early (hd : launchDue s k l = false) : issueStep s k = s := by
  unfold issueStep
  simp only [hl, hd, Bool.false_eq_true, if_false]
  split <;> rfl

theorem issueStep_of_due {a due : Nat} (ha : anchorSlot s k l = some a) (hs : dueOf s k l = some due) (hd : launchDue s k l = true)
    (hv : voidLaunch s k l = false) (hp : passedOver s k = false) (hr : unreachable s l = none) (hw : writesFlash s l = false) :
    issueStep s k = issueLaunch s k l a due := by
  simp [issueStep, hl, ha, hs, hd, hv, hp, hr, hw]

end

/-- Only a collective step does more as it issues. -/
theorem issueAndStart_of_not_collective {s : State} {k : Nat} {l : Launch} (hl : launchOf (issueStep s k) k = some l)
    (hc : l.kind ≠ .collective) : issueAndStart s k = issueStep s k := by
  unfold issueAndStart
  dsimp only
  split
  · simp only [hl, if_neg hc]
  · rfl

theorem issueAndStart_of_early {s : State} {k : Nat} (h : issueStep s k = s) : issueAndStart s k = s := by
  unfold issueAndStart
  dsimp only
  rw [h, Bool.not_and_self, Bool.false_and]
  rfl

/-- A launch that does not complete as it issues ends nothing. -/
theorem issueAll_of_not_completed {s t : State} {k : Nat} (he : issueAndStart s k = t)
    (hc : (runOf t k).completed = (runOf s k).completed) : issueAll s k = t := by
  unfold issueAll
  dsimp only
  rw [he, hc, Bool.and_not_self]
  split <;> rfl

theorem does_launchIssue_due (s : State) (k u a due : Nat) (l : Launch) (h : Up s) (hl : launchOf s k = some l)
    (ha : anchorSlot s k l = some a) (hs : dueOf s k l = some due) (hd : launchDue s k l = true) (hv : voidLaunch s k l = false)
    (hp : passedOver s k = false) (hb : blockLayer s k = none) (hr : unreachable s l = none) (hw : writesFlash s l = false)
    (hc : l.kind ≠ .collective) (hu : unitFor s k l = some u) :
    Does (.launchIssue k) s fun t => (runOf t k).issued = true ∧ (runOf t k).issueSlot = slot s ∧
      (runOf t k).slip = slot s - (a + l.relSlot) ∧ (unitOf t u).waiting = some k ∧ (∀ j, j ≠ k → runOf t j = runOf s j) ∧
      (∀ v, v ≠ u → unitOf t v = unitOf s v) ∧
      Only [.lch] [Off.LCH_SLIP_TOTAL, Off.LCH_SLIP_CAUSE 6, Off.LCH_SLIP_CAUSE 7, Off.LCH_SLIP_MAX] s t := by
  have hstep : issueStep s k = issuedInto s k u a due l :=
    (issueStep_of_due hl ha hs hd hv hp hr hw).trans (issueLaunch_of_unit a due hv hp hb hu)
  have hframe := only_issuedInto s k u a due l
  have hplan : (issuedInto s k u a due l).plan = s.plan := hframe.1 .plan (by decide)
  have hlaunch : launchOf (issueStep s k) k = some l := by
    unfold launchOf at hl ⊢
    rw [hstep, hplan, hl]
  have hall : issueAll s k = issuedInto s k u a due l :=
    issueAll_of_not_completed ((issueAndStart_of_not_collective hlaunch hc).trans hstep) (completed_issuedInto s k u a due l)
  have hmark := slipStep_markPoisoned s k l a due
  have hslot : slot (addRetro s k l due) = slot s := (slipStep_addRetro s k l due).slot_eq
  obtain ⟨b, hrun⟩ := runOf_issuedInto_self s k u a due l
  refine does_eq rfl hall h hframe (by decide) (by decide) ⟨?_, ?_, ?_, ?_, fun j hj => hmark.others j hj, fun v hne => ?_, hframe⟩
  · rw [hrun]
    rfl
  · rw [hrun]
    exact hslot
  · rw [hrun]
    exact congrArg (· - (a + l.relSlot)) hslot
  · exact congrArg UnitRun.waiting (unitOf_setUnit_self _ u _)
  · exact (unitOf_setUnit_other _ _ hne).trans (hmark.unitOf_eq v)

theorem does_launchIssue_early (s : State) (k : Nat) (l : Launch) (h : Up s) (hl : launchOf s k = some l) (hd : launchDue s k l = false) :
    Does (.launchIssue k) s fun t => t = s :=
  does_eq rfl (issueAll_of_not_completed (issueAndStart_of_early (issueStep_of_early hl hd)) rfl) h (Only.rfl' [] [] s) (by decide)
    (by decide) rfl

/-! ### A unit takes its launch, R135 -/

section
variable {s : State} {u k : Nat} {l : Launch}

theorem beginStep_of_empty (hw : (unitOf s u).waiting = none) : beginStep s u = s := by simp only [beginStep, hw]

variable (hw : (unitOf s u).waiting = some k) (hl : launchOf s k = some l) (hs : stopFor s k = false)
include hw hl hs

theorem beginStep_tile {t0 : TileProgram} (hk : l.kind = .tile) (ht : tileOf s l = some t0) (hb : tileCanBegin s u t0 = true) :
    beginStep s u = beginTile (takeWaiting s u k false) u k t0 := by
  simp [beginStep, hw, hl, hs, hk, ht, hb]

theorem beginStep_vector {v : VectorProgram} (hr : (unitOf s u).running = none) (hk : l.kind = .vector)
    (hf : veFenced s (u - 512) = false) (hv : vectorOf s l = some v) :
    beginStep s u = runVector (takeWaiting s u k true) (u - 512) k v := by
  simp [beginStep, hw, hl, hs, hr, hk, hf, hv]

/-- A move, a sweep, a collective step or an intake batch goes from the waiting place into its unit. -/
theorem beginStep_taken (hr : (unitOf s u).running = none) (hk : l.kind ∈ [.move, .sweep, .collective, .intake]) :
    beginStep s u = takeWaiting s u k true := by
  simp only [List.mem_cons, List.not_mem_nil, or_false] at hk
  obtain hk | hk | hk | hk := hk <;> simp [beginStep, hw, hl, hs, hr, hk]

end

theorem only_takeWaiting (s : State) (u k : Nat) (run : Bool) : Only [.lch] [] s (takeWaiting s u k run) := only_setUnit s u _

theorem unitOf_takeWaiting_self (s : State) (u k : Nat) (run : Bool) :
    unitOf (takeWaiting s u k run) u = ⟨none, slot s + 2, if run then some k else none, 0⟩ := unitOf_setUnit_self s u _

/-- A tile starts its feed with a clear bank when it says so, else with the bank as it stands. -/
theorem entry_beginTile (s : State) (a k : Nat) (t0 : TileProgram) :
    (bankOf (beginTile s a k t0) a t0.bank).entry = if t0.clear then [] else (bankOf s a t0.bank).entry := by
  have hbank : bankOf (beginTile s a k t0) a t0.bank = { (if t0.clear then Bank.clear else bankOf s a t0.bank) with
      tiles := (if t0.clear then Bank.clear else bankOf s a t0.bank).tiles ++ [k] } := bankOf_setBank_self s a t0.bank _
  rw [hbank]
  split <;> rfl

theorem arrayOf_beginTile (s : State) (a k : Nat) (t0 : TileProgram) :
    arrayOf (beginTile s a k t0) a = { arrayOf s a with feeding := some k, step := 0 } := arrayOf_setArray_self _ a _

theorem only_beginTile (s : State) (a k : Nat) (t0 : TileProgram) : Only [.arr] [] s (beginTile s a k t0) :=
  (only_setBank s a t0.bank _).trans (only_setArray _ a _)

theorem does_launchBegin_tile (s : State) (u k : Nat) (l : Launch) (t0 : TileProgram) (h : Up s) (hw : (unitOf s u).waiting = some k)
    (hl : launchOf s k = some l) (hs : stopFor s k = false) (hk : l.kind = .tile) (ht : tileOf s l = some t0)
    (hb : tileCanBegin s u t0 = true) :
    Does (.launchBegin u) s fun t => (arrayOf t u).feeding = some k ∧ (arrayOf t u).step = 0 ∧ (unitOf t u).waiting = none ∧
      (unitOf t u).freeFrom = slot s + 2 ∧ (t0.clear = true → (bankOf t u t0.bank).entry = []) ∧
      (t0.clear = false → (bankOf t u t0.bank).entry = (bankOf s u t0.bank).entry) ∧ Only [.lch, .arr] [] s t := by
  have hunit : unitOf (beginTile (takeWaiting s u k false) u k t0) u = ⟨none, slot s + 2, none, 0⟩ := unitOf_takeWaiting_self s u k false
  have hentry := entry_beginTile (takeWaiting s u k false) u k t0
  have hframe : Only [.lch, .arr] [] s (beginTile (takeWaiting s u k false) u k t0) :=
    ((only_takeWaiting s u k false).mono (by simp) (by simp)).trans ((only_beginTile _ u k t0).mono (by simp) (by simp))
  refine does_eq rfl (beginStep_tile hw hl hs hk ht hb) h hframe (by decide) (by decide)
    ⟨?_, ?_, ?_, ?_, fun hc => ?_, fun hc => ?_, hframe⟩
  · rw [arrayOf_beginTile]
  · rw [arrayOf_beginTile]
  · rw [hunit]
  · rw [hunit]
  · exact hentry.trans (if_pos hc)
  · exact hentry.trans (if_neg (Bool.eq_false_iff.mp hc))

theorem does_launchBegin_taken (s : State) (u k : Nat) (l : Launch) (h : Up s) (hw : (unitOf s u).waiting = some k)
    (hr : (unitOf s u).running = none) (hl : launchOf s k = some l) (hs : stopFor s k = false)
    (hk : l.kind ∈ [.move, .sweep, .collective, .intake]) :
    Does (.launchBegin u) s fun t => unitOf t u = ⟨none, slot s + 2, some k, 0⟩ ∧ (∀ v, v ≠ u → unitOf t v = unitOf s v) ∧
      Only [.lch] [] s t :=
  have hframe := only_takeWaiting s u k true
  does_eq rfl (beginStep_taken hw hl hs hr hk) h hframe (by decide) (by decide)
    ⟨unitOf_takeWaiting_self s u k true, fun _ hne => unitOf_setUnit_other s _ hne, hframe⟩

/-! ### One add of a vector program, R112 to R117 -/

/-- A run of keys written with a list holds the list. -/
theorem FMap.get_foldl_set_zipIdx {α : Type} [DecidableEq α] (d : α) (xs : List α) (m : FMap α) (b n i : Nat) :
    FMap.get d ((xs.zipIdx n).foldl (fun m x => FMap.set d m (b + x.2) x.1) m) (b + i) =
      if n ≤ i ∧ i < n + xs.length then xs.getD (i - n) d else FMap.get d m (b + i) := by
  induction xs generalizing m n with
  | nil => simp [show ¬(n ≤ i ∧ i < n) by omega]
  | cons x xs ih =>
    rw [List.zipIdx_cons, List.foldl_cons, ih, FMap.get_set]
    obtain hlt | rfl | ⟨j, rfl⟩ : i < n ∨ i = n ∨ ∃ j, i = n + 1 + j := by
      obtain hlt | heq | hgt := Nat.lt_trichotomy i n
      · exact .inl hlt
      · exact .inr (.inl heq)
      · exact .inr (.inr ⟨i - (n + 1), by omega⟩)
    · simp [show ¬n ≤ i by omega, show ¬n + 1 ≤ i by omega, show i ≠ n by omega]
    · simp
    · have hsame : n + 1 + j - (n + 1) = j := by omega
      have hrest : n + 1 + j - n = j + 1 := by omega
      have hin : (n + 1 ≤ n + 1 + j ∧ n + 1 + j < n + 1 + xs.length) ↔ j < xs.length := by omega
      have hin' : (n ≤ n + 1 + j ∧ n + 1 + j < n + (x :: xs).length) ↔ j < xs.length := by
        rw [List.length_cons]
        omega
      have hne : n + 1 + j ≠ n := by omega
      simp only [hsame, hrest, hin, hin', Nat.add_left_cancel_iff, hne, if_false, List.getD_cons_succ]

theorem length_vreg (s : State) (core r : Nat) : (vreg s core r).length = 512 := by simp [vreg]

/-- A lane of a vector register just written. -/
theorem getElem?_vreg_setVreg (s : State) (core r : Nat) {xs : List Word32} {i : Nat} (hlen : xs.length = 512) (h : i < 512) :
    (vreg (setVreg s core r xs) core r)[i]? = some (xs.getD i 0) := by
  have hlane := FMap.get_foldl_set_zipIdx 0 xs s.arr.vregs (65536 * core + 512 * (r % 64)) 0 i
  rw [if_pos ⟨Nat.zero_le i, by omega⟩, Nat.sub_zero] at hlane
  rw [vreg, List.getElem?_map, List.getElem?_range h]
  exact congrArg some hlane

theorem only_setVreg (s : State) (core r : Nat) (xs : List Word32) : Only [.arr] [] s (setVreg s core r xs) := only_arr s _

/-- The lane sums of two vector registers. -/
def laneSums (s : State) (core a b : Nat) : List Word32 := List.zipWith f32Add (vreg s core a) (vreg s core b)

theorem length_laneSums (s : State) (core a b : Nat) : (laneSums s core a b).length = 512 := by simp [laneSums, length_vreg]

theorem getD_laneSums (s : State) (core a b : Nat) {i : Nat} (h : i < 512) :
    (laneSums s core a b).getD i 0 = f32Add ((vreg s core a).getD i 0) ((vreg s core b).getD i 0) := by
  simp [laneSums, h, length_vreg]

theorem runVector_add (s : State) (core k d a b : Nat) {v : VectorProgram} (hv : v.code = [.add false d a b]) :
    runVector s core k v = setVreg s core d (laneSums s core a b) := by
  unfold runVector
  rw [hv]
  rfl

theorem does_launchBegin_add (s : State) (u k d a b : Nat) (l : Launch) (v : VectorProgram) (h : Up s) (_hu : 512 ≤ u)
    (hw : (unitOf s u).waiting = some k) (hr : (unitOf s u).running = none) (hl : launchOf s k = some l) (hs : stopFor s k = false)
    (hk : l.kind = .vector) (hf : veFenced s (u - 512) = false) (hv : vectorOf s l = some v) (hc : v.code = [.add false d a b]) :
    Does (.launchBegin u) s fun t => unitOf t u = ⟨none, slot s + 2, some k, 0⟩ ∧
      (∀ i, i < 512 → (vreg t (u - 512) d)[i]? = some (f32Add ((vreg s (u - 512) a).getD i 0) ((vreg s (u - 512) b).getD i 0))) ∧
      Only [.lch, .arr] [] s t := by
  have he := (beginStep_vector hw hl hs hr hk hf hv).trans (runVector_add (takeWaiting s u k true) (u - 512) k d a b hc)
  have hframe : Only [.lch, .arr] [] s (setVreg (takeWaiting s u k true) (u - 512) d (laneSums (takeWaiting s u k true) (u - 512) a b)) :=
    ((only_takeWaiting s u k true).mono (by simp) (by simp)).trans ((only_setVreg _ _ d _).mono (by simp) (by simp))
  have hlch := (only_setVreg (takeWaiting s u k true) (u - 512) d (laneSums (takeWaiting s u k true) (u - 512) a b)).1 .lch (by decide)
  have hunit := (unitOf_congr (congrArg LchState.units hlch) u).trans (unitOf_takeWaiting_self s u k true)
  refine does_eq rfl he h hframe (by decide) (by decide) ⟨hunit, fun i hi => ?_, hframe⟩
  rw [getElem?_vreg_setVreg _ _ d (length_laneSums _ _ a b) hi, getD_laneSums _ _ a b hi]
  rfl

end Sys2Proof.Machine
end

section
/-!
PROOFS. LAUNCH_COMPLETE (R137, R147): the completion of a tile, vector, move or intake launch of the anchored plan, stage by stage: its
unit, its record, its outputs, its signals, its telemetry, the stash of its pass, and the end of the plan.
-/

namespace Sys2Proof.Machine

/-! ### The outcome of a launch: what it has put on its way, and what its record says -/

/-- The signals under way, and of one launch whether it has completed and signalled and the slot of its completion, stand. -/
structure KeepsOutcome (k : Nat) (s t : State) : Prop where
  signals : t.lch.signals = s.lch.signals
  completed : (runOf t k).completed = (runOf s k).completed
  doneSlot : (runOf t k).doneSlot = (runOf s k).doneSlot
  signalled : (runOf t k).signalled = (runOf s k).signalled

theorem KeepsOutcome.rfl' (k : Nat) (s : State) : KeepsOutcome k s s := ⟨rfl, rfl, rfl, rfl⟩

theorem KeepsOutcome.trans {k : Nat} {s t u : State} (h : KeepsOutcome k s t) (g : KeepsOutcome k t u) : KeepsOutcome k s u :=
  ⟨g.signals.trans h.signals, g.completed.trans h.completed, g.doneSlot.trans h.doneSlot, g.signalled.trans h.signalled⟩

theorem keepsOutcome_of_runs {k : Nat} {s t : State} (hs : t.lch.signals = s.lch.signals) (hr : t.lch.runs = s.lch.runs) :
    KeepsOutcome k s t := by
  have hrun := runOf_congr hr k
  exact ⟨hs, by rw [hrun], by rw [hrun], by rw [hrun]⟩

/-! ### The unit is left and the completion noted -/

theorem only_leaveUnit (s : State) (u k : Nat) : Only [.lch, .arr] [] s (leaveUnit s u k) := by
  unfold leaveUnit
  split
  · exact (only_setArray s u _).mono (by simp) (by simp)
  · exact (only_setUnit s u _).mono (by simp) (by simp)

theorem keepsOutcome_leaveUnit (s : State) (u k j : Nat) : KeepsOutcome j s (leaveUnit s u k) := by
  unfold leaveUnit
  split <;> exact keepsOutcome_of_runs rfl rfl

/-- A launch that has left its unit, with its completion in its record. -/
def markCompleted (s : State) (u k : Nat) : State :=
  setRun (leaveUnit s u k) k { runOf (leaveUnit s u k) k with completed := true, doneSlot := slot (leaveUnit s u k) }

theorem only_markCompleted (s : State) (u k : Nat) : Only [.lch, .arr] [] s (markCompleted s u k) :=
  (only_leaveUnit s u k).trans ((only_setRun _ k _).mono (by simp) (by simp))

theorem runOf_markCompleted (s : State) (u k : Nat) : runOf (markCompleted s u k) k =
    { runOf (leaveUnit s u k) k with completed := true, doneSlot := slot s } := by
  have hslot : slot (leaveUnit s u k) = slot s := (only_leaveUnit s u k).field F.LCH_SLOT_slot (by simp)
  rw [markCompleted, runOf_setRun_self, hslot]

/-! ### The outputs of a vector program, R137 -/

theorem signals_sealAt (s : State) (a : Nat) : (sealAt s a).lch.signals = s.lch.signals := rfl

theorem signals_sealedOutput (s : State) (k : Nat) (o : Output) : (sealedOutput s k o).lch.signals = s.lch.signals := by
  have hheal : ∀ u : State, (healEntry u o).lch = u.lch := fun u => (only_healEntry u o).1 .lch (by decide)
  have hheader : (writeHeader s o.addr (outHeader o (runStep s k))).lch = s.lch := (only_writeHeader s _ _).1 .lch (by decide)
  rw [sealedOutput, hheal, signals_sealAt, hheader]

theorem signals_sealOutput (s : State) (k : Nat) (o : Output) : (sealOutput s k o).lch.signals = s.lch.signals := by
  rcases sealOutput_cases s k o with h | h
  · rw [h]
  · have hlch : (sealOutput s k o).lch = (sealedOutput s k o).lch := h.1 .lch (by decide)
    rw [hlch, signals_sealedOutput]

/-- The outputs of a vector program released and sealed. -/
def sealOutputs (s : State) (k : Nat) (os : List Output) : State :=
  os.foldl (fun s o => sealOutput s k o) (setRun s k { runOf s k with released := true })

theorem only_sealOutputs (s : State) (k : Nat) (os : List Output) : Only [.lch, .mem, .flash, .trn] [] s (sealOutputs s k os) :=
  ((only_setRun s k _).mono (by simp) (by simp)).trans (foldl_only _ _ _ _ (fun s o _ => only_sealOutput s k o) _)

theorem keepsOutcome_sealOutputs (s : State) (k : Nat) (os : List Output) : KeepsOutcome k s (sealOutputs s k os) := by
  have hreleased : KeepsOutcome k s (setRun s k { runOf s k with released := true }) := by
    have hrun := runOf_setRun_self s k { runOf s k with released := true }
    exact ⟨rfl, by rw [hrun], by rw [hrun], by rw [hrun]⟩
  exact List.foldlRecOn os _ hreleased fun t ht o _ =>
    ht.trans (keepsOutcome_of_runs (signals_sealOutput t k o) (runs_sealOutput t k o))

/-- Of the four kinds a vector program alone does more than the common part: it seals its outputs. -/
theorem kindDone_cases (s : State) (u k : Nat) {l : Launch} (hk : l.kind ∈ [.tile, .vector, .move, .intake]) :
    kindDone s u k l = s ∨ ∃ os, kindDone s u k l = sealOutputs s k os := by
  simp only [List.mem_cons, List.not_mem_nil, or_false] at hk
  unfold kindDone
  obtain hk | hk | hk | hk := hk <;> rw [hk]
  · exact .inl rfl
  · cases vectorOf s l with
    | none => exact .inl rfl
    | some v => exact .inr ⟨v.writes, rfl⟩
  · exact .inl rfl
  · exact .inl rfl

section
variable (s : State) (u k : Nat) {l : Launch} (hk : l.kind ∈ [.tile, .vector, .move, .intake])
include hk

theorem only_kindDone : Only [.lch, .mem, .flash, .trn] [] s (kindDone s u k l) := by
  obtain he | ⟨os, he⟩ := kindDone_cases s u k hk <;> rw [he]
  · exact Only.rfl' _ _ s
  · exact only_sealOutputs s k os

theorem keepsOutcome_kindDone : KeepsOutcome k s (kindDone s u k l) := by
  obtain he | ⟨os, he⟩ := kindDone_cases s u k hk <;> rw [he]
  · exact KeepsOutcome.rfl' k s
  · exact keepsOutcome_sealOutputs s k os

end

/-! ### The signals of a launch, R137 and R147 -/

theorem foldl_signal_eq (gs : List SyncOp) (s : State) : gs.foldl (fun s g => signal s g.object g.value.toNat) s =
    setSignals s (s.lch.signals ++ gs.map fun g => ⟨slot s + 2, g.object, g.value.toNat⟩) := by
  induction gs generalizing s with
  | nil => simp [setSignals]
  | cons g gs ih =>
    rw [List.foldl_cons, ih]
    have hslot : slot (signal s g.object g.value.toNat) = slot s := rfl
    rw [hslot]
    simp [setSignals, signal, signalAt, List.append_assoc]

/-- The signals of a launch that has not signalled in its pass are on their way, and its record says so. -/
theorem scheduleSignals_of_first {s : State} {k : Nat} (l : Launch) (h : (runOf s k).signalled = false) :
    scheduleSignals s k l = setRun (setSignals s (s.lch.signals ++ l.signals.map fun g => ⟨slot s + 2, g.object, g.value.toNat⟩)) k
      { runOf s k with signalled := true } := by
  unfold scheduleSignals
  rw [h, foldl_signal_eq]
  rfl

theorem only_scheduleSignals (s : State) (k : Nat) (l : Launch) : Only [.lch] [] s (scheduleSignals s k l) := by
  unfold scheduleSignals
  split
  · exact Only.rfl' _ _ s
  · exact (foldl_only _ _ _ _ (fun s g _ => only_signal s _ _) s).trans (only_setRun _ k _)

/-! ### Telemetry, R63 and R143 -/

/-- The registers of the record rings. -/
def recordRegs : List Nat := [Off.NUM_RING_HEAD, Off.NUM_STATUS, Off.LCH_STATUS, Off.LCH_TS_RING_HEAD]

theorem only_ringPut (s : State) (base size len : Nat) (head tail : Field) (rec : List Byte) :
    Only [.mem, .flash] [head.off] s (ringPut s base size len head tail rec).1 := by
  unfold ringPut
  dsimp only
  split
  · exact Only.rfl' _ _ s
  · exact ((only_wr s _ _).mono (fun _ h => h) (by simp)).trans ((only_setF _ head _).mono (by simp) (fun _ h => h))

theorem only_showRings_recordRegs (s : State) : Only [.mem, .flash] recordRegs s (showRings s) :=
  (only_showRings s).mono (by simp) (by decide)

theorem only_opDone (s : State) (n i : Nat) (o : OpCount) : Only [.mem, .flash] recordRegs s (opDone s n i o) := by
  unfold opDone
  split
  · split
    next t ok hput =>
      have hring := only_ringPut s (2 ^ 12 * getF s F.NUM_RING_BASE_base) (getF s F.NUM_RING_SIZE_size) 64 F.NUM_RING_HEAD_head
        F.NUM_RING_TAIL_tail (opRecordBytes s n i o)
      rw [hput] at hring
      refine (hring.mono (fun _ h => h) (by decide)).trans ?_
      split
      · exact only_showRings_recordRegs t
      · exact ((only_bumpF t F.NUM_STATUS_drop_count 1).mono (by simp) (by decide)).trans
          ((only_setF _ F.NUM_STATUS_records_dropped 1).mono (by simp) (by decide))
  · exact Only.rfl' _ _ s

theorem only_launchOps (s : State) (k : Nat) : Only [.mem, .flash] recordRegs s (launchOps s k) :=
  foldl_only _ _ _ _ (fun s o _ => only_opDone s _ _ o) s

theorem only_phaseDone (s : State) (k : Nat) (l : Launch) : Only [.mem, .flash] recordRegs s (phaseDone s k l) := by
  unfold phaseDone
  split
  · split
    next t ok hput =>
      have hring := only_ringPut s (2 ^ 12 * getF s F.LCH_TS_RING_BASE_base) (getF s F.LCH_TS_RING_SIZE_size) 32 F.LCH_TS_RING_HEAD_head
        F.LCH_TS_RING_TAIL_tail (phaseBytes k l (runOf s k))
      rw [hput] at hring
      refine (hring.mono (fun _ h => h) (by decide)).trans ?_
      split
      · exact only_showRings_recordRegs t
      · exact (only_setF t F.LCH_STATUS_ts_records_dropped 1).mono (by simp) (by decide)
  · exact Only.rfl' _ _ s

/-! ### The stash of the pass and the end of the plan, R232 and R320 -/

theorem only_stashDone (s : State) (k : Nat) (l : Launch) :
    Only [.trn, .mem, .flash] ((List.range 16).map Off.UPD_STASH) s (stashDone s k l) := by
  unfold stashDone
  split
  · exact only_releaseStash s _
  · exact Only.rfl' _ _ s

theorem batchDone_of_plan {k : Nat} (s : State) (h : keyQueue k = none) : batchDone s k = s := by
  unfold batchDone
  rw [h]

/-- A plan that is not over stands; one that is turns ENDED. -/
theorem planDone_cases (s : State) : planDone s = s ∨ planDone s = setPlanState s .ended := by
  unfold planDone
  split
  · exact .inl rfl
  · split
    · exact .inr rfl
    · exact .inl rfl

theorem only_planDone (s : State) : Only eventParts (Off.HST_STATUS :: eventRegs) s (planDone s) := by
  obtain he | he := planDone_cases s <;> rw [he]
  · exact Only.rfl' _ _ s
  · exact only_setPlanState s .ended

/-- An interrupt leaves the host command that is under way. -/
theorem cmd_sendIrq (s : State) (v : Nat) : (sendIrq s v).host.cmd = s.host.cmd := by
  unfold sendIrq
  split
  · rfl
  · split <;> rfl

theorem cmd_raise (s : State) (n : Nat) : (raise s n).host.cmd = s.host.cmd := by
  unfold raise
  dsimp only
  split
  · rfl
  · split
    · exact cmd_sendIrq _ _
    · rfl

theorem cmd_planDone (s : State) : (planDone s).host.cmd = s.host.cmd := by
  obtain he | he := planDone_cases s <;> rw [he]
  unfold setPlanState
  split
  · rfl
  · exact cmd_raise _ 2

/-- With no host command under way nothing ends. -/
theorem endIfIdle_of_no_command {s : State} (h : s.host.cmd = none) : endIfIdle s = s := if_neg (by simp [h])

/-! ### The completion of a launch of the anchored plan -/

/-- A launch completed, with its signals on their way. -/
def signalledLaunch (s : State) (u k : Nat) (l : Launch) : State := scheduleSignals (kindDone (markCompleted s u k) u k l) k l

/-- What follows its signals: telemetry, and the stash of its pass. -/
def recordedLaunch (s : State) (k : Nat) (l : Launch) : State := stashDone (phaseDone (launchOps s k) k l) k l

/-- The registers that these stages write. -/
def completeRegs : List Nat := (List.range 16).map Off.UPD_STASH ++
  [Off.NUM_RING_HEAD, Off.NUM_STATUS, Off.LCH_STATUS, Off.LCH_TS_RING_HEAD, Off.HST_STATUS, Off.HST_IRQ_PENDING]

theorem only_recordedLaunch (s : State) (k : Nat) (l : Launch) : Only [.trn, .mem, .flash] completeRegs s (recordedLaunch s k l) := by
  have hrecord : ∀ o ∈ recordRegs, o ∈ completeRegs := by decide
  refine Only.trans ?_ ((only_stashDone _ k l).mono (fun _ h => h) fun _ h => List.mem_append_left _ h)
  exact ((only_launchOps s k).mono (by simp) hrecord).trans ((only_phaseDone _ k l).mono (by simp) hrecord)

/-- What follows the signals leaves the launches and their signals. -/
theorem lch_planDone_recordedLaunch (s : State) (k : Nat) (l : Launch) : (planDone (recordedLaunch s k l)).lch = s.lch :=
  ((only_planDone _).1 .lch (by decide)).trans ((only_recordedLaunch s k l).1 .lch (by decide))

theorem complete_eq (s : State) (u k : Nat) (l : Launch) :
    complete s u k l = endIfIdle (planDone (batchDone (recordedLaunch (signalledLaunch s u k l) k l) k)) := rfl

section
variable {s : State} (u : Nat) {k : Nat} {l : Launch} (hk : l.kind ∈ [.tile, .vector, .move, .intake])
include hk

theorem only_signalledLaunch : Only [.lch, .arr, .mem, .flash, .trn] [] s (signalledLaunch s u k l) :=
  ((only_markCompleted s u k).mono (by simp) (by simp)).trans
    (((only_kindDone _ u k hk).mono (by decide) (by simp)).trans ((only_scheduleSignals _ k l).mono (by simp) (by simp)))

/-- The record of the launch and the signals under way, once it has signalled. -/
theorem outcome_signalledLaunch (hs : (runOf s k).signalled = false) :
    (runOf (signalledLaunch s u k l) k).completed = true ∧ (runOf (signalledLaunch s u k l) k).doneSlot = slot s ∧
      (runOf (signalledLaunch s u k l) k).signalled = true ∧
      (signalledLaunch s u k l).lch.signals = s.lch.signals ++ l.signals.map fun g => ⟨slot s + 2, g.object, g.value.toNat⟩ := by
  have hmark := runOf_markCompleted s u k
  have hleave := keepsOutcome_leaveUnit s u k k
  have hkind := keepsOutcome_kindDone (markCompleted s u k) u k hk
  have hslot : slot (kindDone (markCompleted s u k) u k l) = slot s :=
    ((only_kindDone _ u k hk).field F.LCH_SLOT_slot (by simp)).trans ((only_markCompleted s u k).field F.LCH_SLOT_slot (by simp))
  have hfirst : (runOf (kindDone (markCompleted s u k) u k l) k).signalled = false := by
    rw [hkind.signalled, hmark]
    exact hleave.signalled.trans hs
  have hsignals : (kindDone (markCompleted s u k) u k l).lch.signals = s.lch.signals := hkind.signals.trans hleave.signals
  rw [signalledLaunch, scheduleSignals_of_first l hfirst, runOf_setRun_self, hslot, hsignals]
  refine ⟨?_, ?_, rfl, rfl⟩
  · exact hkind.completed.trans (by rw [hmark])
  · exact hkind.doneSlot.trans (by rw [hmark])

/-- With no host command under way the completion ends with the plan. -/
theorem complete_of_plan (hq : keyQueue k = none) (hc : s.host.cmd = none) :
    complete s u k l = planDone (recordedLaunch (signalledLaunch s u k l) k l) := by
  have hhost : (recordedLaunch (signalledLaunch s u k l) k l).host = s.host :=
    ((only_recordedLaunch _ k l).1 .host (by decide)).trans ((only_signalledLaunch u hk).1 .host (by decide))
  have hcmd : (planDone (recordedLaunch (signalledLaunch s u k l) k l)).host.cmd = none := by
    rw [cmd_planDone, hhost, hc]
  rw [complete_eq, batchDone_of_plan _ hq, endIfIdle_of_no_command hcmd]

theorem only_completed : Only [.lch, .arr, .trn, .mem, .flash, .host, .sent] completeRegs s
    (planDone (recordedLaunch (signalledLaunch s u k l) k l)) := by
  refine Only.trans ?_ ((only_planDone _).mono (by decide) (by decide))
  exact ((only_signalledLaunch u hk).mono (by decide) (by simp)).trans ((only_recordedLaunch _ k l).mono (by decide) fun _ h => h)

end

theorem completeStep_of_over {s : State} {u k : Nat} {l : Launch} (hf : finishing s u = some k) (hl : launchOf s k = some l)
    (ho : launchOver s u k l = true) (hc : (runOf s k).completed = false) : completeStep s u = complete s u k l := by
  simp [completeStep, hf, hl, ho, hc]

theorem completeStep_of_idle {s : State} {u : Nat} (hf : finishing s u = none) : completeStep s u = s := by
  simp only [completeStep, hf]

theorem does_launchComplete_over (s : State) (u k : Nat) (l : Launch) (h : Up s) (hf : finishing s u = some k)
    (hl : launchOf s k = some l) (ho : launchOver s u k l = true) (hc : (runOf s k).completed = false)
    (hs : (runOf s k).signalled = false) (hq : keyQueue k = none) (hcmd : s.host.cmd = none)
    (hk : l.kind ∈ [.tile, .vector, .move, .intake]) :
    Does (.launchComplete u) s fun t => (runOf t k).completed = true ∧ (runOf t k).doneSlot = slot s ∧ (runOf t k).signalled = true ∧
      t.lch.signals = s.lch.signals ++ l.signals.map (fun g => ⟨slot s + 2, g.object, g.value.toNat⟩) ∧
      Only [.lch, .arr, .trn, .mem, .flash, .host, .sent] ((List.range 16).map Off.UPD_STASH ++
        [Off.NUM_RING_HEAD, Off.NUM_STATUS, Off.LCH_STATUS, Off.LCH_TS_RING_HEAD, Off.HST_STATUS, Off.HST_IRQ_PENDING]) s t := by
  have hframe := only_completed (s := s) (k := k) u hk
  have hlch := lch_planDone_recordedLaunch (signalledLaunch s u k l) k l
  have hrun := runOf_congr (congrArg LchState.runs hlch) k
  obtain ⟨hdone, hat, hsig, hway⟩ := outcome_signalledLaunch u hk hs
  refine does_eq rfl ((completeStep_of_over hf hl ho hc).trans (complete_of_plan u hk hq hcmd)) h hframe (by decide) (by decide)
    ⟨?_, ?_, ?_, ?_, hframe⟩
  · rw [hrun, hdone]
  · rw [hrun, hat]
  · rw [hrun, hsig]
  · rw [hlch, hway]

/-- Settles O19: the issue by what SlipStep leaves of its conditions, the begin by the kind of the launch, the completion by its stages. -/
theorem launchesIssueBeginAndComplete : Obligations.LaunchesIssueBeginAndComplete :=
  ⟨does_launchIssue_due, does_launchIssue_early, does_launchBegin_tile, does_launchBegin_taken,
    fun _ _ h hw => does_eq rfl (beginStep_of_empty hw) h (Only.rfl' [] [] _) (by decide) (by decide) rfl,
    does_launchBegin_add, does_launchComplete_over,
    fun _ _ h hf => does_eq rfl (completeStep_of_idle hf) h (Only.rfl' [] [] _) (by decide) (by decide) rfl⟩

end Sys2Proof.Machine
end

section
/-!
PROOFS. The canonical form of both memories along every step (R157, R180): the combinators every operation is built with, and the shared
operations on flags, memory, the frond table, passes, HOLD, messages and operands. One lemma per operation of the model says that it keeps
the form; an operation that touches neither memory keeps it as it stands.
The lemmas are protected, so that in their statements the name of an operation means the operation.
-/

namespace Sys2Proof.Machine

variable {s t : State}

/-- An update of a record that names neither memory. -/
protected theorem memSound.upd {p r pl l a ho c tr fu fl ma i pw ct n se sa sn fr} (h : memSound s) :
    memSound ⟨p, r, s.mem, s.flash, pl, l, a, ho, c, tr, fu, fl, ma, i, pw, ct, n, se, sa, sn, fr⟩ := h

protected theorem memSound.ite {c : Prop} {_ : Decidable c} (hs : memSound s) (ht : memSound t) : memSound (if c then s else t) := by
  split
  · exact hs
  · exact ht

/-- An operation done under a condition; the state stands otherwise. -/
protected theorem memSound.iteThen {c : Prop} {_ : Decidable c} (h : memSound s) (ht : memSound s → memSound t) :
    memSound (if c then t else s) := .ite (ht h) h

protected theorem memSound.iteFst {β : Type} {c : Prop} {_ : Decidable c} {p q : State × β} (hp : memSound p.1) (hq : memSound q.1) :
    memSound (if c then p else q).1 := by
  split
  · exact hp
  · exact hq

protected theorem memSound.iteSnd {β : Type} {c : Prop} {_ : Decidable c} {p q : β × State} (hp : memSound p.2) (hq : memSound q.2) :
    memSound (if c then p else q).2 := by
  split
  · exact hp
  · exact hq

protected theorem memSound.foldl {α : Type} {f : State → α → State} {xs : List α} (h : memSound s)
    (hf : ∀ s x, memSound s → memSound (f s x)) : memSound (xs.foldl f s) :=
  List.foldlRecOn xs f h fun s hs x _ => hf s x hs

protected theorem memSound.foldlFst {α β : Type} {f : State × β → α → State × β} {xs : List α} {p : State × β}
    (h : memSound p.1) (hf : ∀ p x, memSound p.1 → memSound (f p x).1) : memSound (xs.foldl f p).1 :=
  List.foldlRecOn (motive := fun p => memSound p.1) xs f h fun p hp x _ => hf p x hp

/-! ### Register fields and flags -/

protected theorem memSound.setReg (h : memSound s) {off w} : memSound (setReg s off w) := h

protected theorem memSound.setF (h : memSound s) {f v} : memSound (setF s f v) := h

protected theorem memSound.bumpF (h : memSound s) {f n} : memSound (bumpF s f n) := h

protected theorem memSound.setFmax (h : memSound s) {f v} : memSound (setFmax s f v) := h

protected theorem memSound.takeFree (h : memSound s) : memSound (takeFree s).2 := h

protected theorem memSound.send (h : memSound s) {x} : memSound (send s x) := h

protected theorem memSound.sendIrq (h : memSound s) {v} : memSound (sendIrq s v) := .ite h.send (.ite h.upd h.upd.send)

protected theorem memSound.raise (h : memSound s) {src} : memSound (raise s src) := .ite h (.ite h.setF.sendIrq h.setF)

protected theorem memSound.flag (h : memSound s) {f src} : memSound (flag s f src) := h.setF.raise

protected theorem memSound.hostErr (h : memSound s) {f} : memSound (hostErr s f) := h.flag

protected theorem memSound.recordAccess (h : memSound s) {bar write size offset} : memSound (recordAccess s bar write size offset) := h

protected theorem memSound.setPlanState (h : memSound s) {p} : memSound (setPlanState s p) := .ite h h.setF.raise

protected theorem memSound.logFault (h : memSound s) {code outcome die unit detail} : memSound (logFault s code outcome die unit detail) :=
  h.setReg.setReg.setF.bumpF.flag

/-! ### Memory, signals, passes and HOLD -/

protected theorem memSound.wr (h : memSound s) {a bs} : memSound (wr s a bs) := wf_wr s a bs h

protected theorem memSound.clearBytes (h : memSound s) {a n} : memSound (clearBytes s a n) := wf_clearBytes s a n h

protected theorem memSound.writeCheck (h : memSound s) {f a} : memSound (writeCheck s f a) := h.wr

protected theorem memSound.writeHeader (h : memSound s) {a x} : memSound (writeHeader s a x) := h.wr.writeCheck

protected theorem memSound.sealAt (h : memSound s) {a} : memSound (sealAt s a) := h

protected theorem memSound.breakSeal (h : memSound s) {a} : memSound (breakSeal s a) := h

protected theorem memSound.ftSet (h : memSound s) {id e} : memSound (ftSet s id e) := .ite h.wr.wr h

protected theorem memSound.signal (h : memSound s) {object amount} : memSound (signal s object amount) := h

protected theorem memSound.ringPut (h : memSound s) {base size len head tail r} : memSound (ringPut s base size len head tail r).1 :=
  .iteFst h h.wr.setF

protected theorem memSound.setRun (h : memSound s) {k r} : memSound (setRun s k r) := h

protected theorem memSound.setUnit (h : memSound s) {u r} : memSound (setUnit s u r) := h

protected theorem memSound.setPass (h : memSound s) {p r} : memSound (setPass s p r) := h

protected theorem memSound.setArray (h : memSound s) {a r} : memSound (setArray s a r) := h

protected theorem memSound.setBank (h : memSound s) {a b k} : memSound (setBank s a b k) := h

protected theorem memSound.setQueue (h : memSound s) {q r} : memSound (setQueue s q r) := h

protected theorem memSound.settleStash (h : memSound s) : memSound (settleStash s) := .upd (h.foldl fun _ _ h => h.setF)

protected theorem memSound.releaseStash (h : memSound s) {pick} : memSound (releaseStash s pick) := by
  unfold releaseStash
  split
  · exact h
  · refine .settleStash (.upd (h.foldl fun _ _ h => .ite ?_ h))
    split
    · exact h.foldl fun _ _ h => h.foldl fun _ _ h => h.ftSet
    · exact h

protected theorem memSound.releaseStopped (h : memSound s) {passes} : memSound (releaseStopped s passes) := h.releaseStash

protected theorem memSound.resetLaunch (h : memSound s) {k} : memSound (resetLaunch s k) := h

protected theorem memSound.leaveUnits (h : memSound s) {ks} : memSound (leaveUnits s ks) := h.foldl fun _ _ h => h.setUnit

protected theorem memSound.leaveArrays (h : memSound s) {ks} : memSound (leaveArrays s ks) := .upd (.upd (h.foldl fun _ _ h => h.setArray))

protected theorem memSound.discard (h : memSound s) {ks} : memSound (discard s ks) :=
  h.leaveUnits.leaveArrays.foldl fun _ _ h => h.resetLaunch

protected theorem memSound.noteStop (h : memSound s) {kind passes} : memSound (noteStop s kind passes) := h.takeFree.setF.setF.bumpF.flag

protected theorem memSound.stopPass (h : memSound s) {p} : memSound (stopPass s p) := .ite h h.discard.releaseStopped.setPass

protected theorem memSound.faultStop (h : memSound s) {ps} : memSound (faultStop s ps) := .noteStop (h.foldl fun _ _ h => h.stopPass)

protected theorem memSound.restartPasses (h : memSound s) : memSound (restartPasses s) := h.foldl fun _ _ h => .ite h.setPass h

protected theorem memSound.showMaint (h : memSound s) : memSound (showMaint s) := h

protected theorem memSound.requestActivity (h : memSound s) {x} : memSound (requestActivity s x) := .ite h h.upd.showMaint

protected theorem memSound.runActivity (h : memSound s) {x} : memSound (runActivity s x) := h

protected theorem memSound.endActivity (h : memSound s) {x} : memSound (endActivity s x) := h

protected theorem memSound.abandonMoves (h : memSound s) : memSound (abandonMoves s) := .upd (h.foldl fun _ _ h => h.ftSet)

protected theorem memSound.markHold (h : memSound s) {cause} : memSound (markHold s cause) := h

protected theorem memSound.holdPlan (h : memSound s) : memSound (holdPlan s) := by
  unfold holdPlan
  split
  · exact h.setPlanState
  · exact h.setPlanState
  · exact h

protected theorem memSound.enterHold (h : memSound s) {code} : memSound (enterHold s code) := h.setF.faultStop.abandonMoves.holdPlan.flag

protected theorem memSound.holdCause (h : memSound s) {cause code} : memSound (holdCause s cause code) :=
  .ite h.markHold h.markHold.enterHold

protected theorem memSound.holdFault (h : memSound s) {code cause die unit detail} : memSound (holdFault s code cause die unit detail) :=
  h.logFault.holdCause

protected theorem memSound.runFault (h : memSound s) {code die unit detail} : memSound (runFault s code die unit detail) := h.logFault

protected theorem memSound.rangeFault (h : memSound s) {addr} : memSound (rangeFault s addr) := h.setReg.setF.setF.holdFault

/-! ### Messages sent -/

protected theorem memSound.setPort (h : memSound s) {k v} : memSound (setPort s k v) := h

protected theorem memSound.setPortRun (h : memSound s) {k r} : memSound (setPortRun s k r) := h

protected theorem memSound.chainBroken (h : memSound s) : memSound (chainBroken s) := .ite h.flag.holdFault h.flag

protected theorem memSound.transmit (h : memSound s) {m} : memSound (transmit s m) := by
  unfold transmit
  split
  · exact h.send
  · split
    · exact h.setPortRun.send
    · exact h.chainBroken

protected theorem memSound.postMsg (h : memSound s) {kind dest body} : memSound (postMsg s kind dest body) := h.upd.bumpF.transmit

protected theorem memSound.postAll (h : memSound s) {kind dests body} : memSound (postAll s kind dests body) :=
  h.foldl fun _ _ h => h.postMsg

protected theorem memSound.postHop (h : memSound s) {port kind value content} : memSound (postHop s port kind value content) := h

protected theorem memSound.dropMsg (h : memSound s) : memSound (dropMsg s) := h

/-! ### Operands and outputs -/

protected theorem memSound.bumpNum (h : memSound s) {f cs} : memSound (bumpNum s f cs) := h.foldl fun _ _ h => .ite h h.bumpF

protected theorem memSound.noteOp (h : memSound s) {key tid f cs} : memSound (noteOp s key tid f cs) := h

protected theorem memSound.noteReads (h : memSound s) {f codes} : memSound (noteReads s f codes) := .ite h.bumpNum h

protected theorem memSound.writeCodes (h : memSound s) {f a row col codes} : memSound (writeCodes s f a row col codes) := h.wr

protected theorem memSound.writeBlock (h : memSound s) {f a row blk b} : memSound (writeBlock s f a row blk b) :=
  .ite (.wr (.wr (.ite h h.writeCodes))) (.wr (.ite h h.writeCodes))

protected theorem memSound.writeOutRow (h : memSound s) {o seed n i cols v} : memSound (writeOutRow s o seed n i cols v).1 :=
  .iteFst (h.foldlFst fun _ _ h => h.writeBlock) h.writeCodes

end Sys2Proof.Machine
end

section
/-!
PROOFS. The canonical form of both memories: launches, slots, vector programs, the arrays and the sample slots.
-/

namespace Sys2Proof.Machine

variable {s t : State}

/-! ### Slips, the stash and passes -/

protected theorem memSound.addSlip (h : memSound s) {k cause n} : memSound (addSlip s k cause n) := .ite h h.setRun.bumpF.bumpF

protected theorem memSound.addRetro (h : memSound s) {k l due} : memSound (addRetro s k l due) := h.addSlip.addSlip.setRun

protected theorem memSound.countLaunch (h : memSound s) {k} : memSound (countLaunch s k) := by
  unfold countLaunch
  split
  · exact h
  · split
    · exact h
    · split
      · exact h
      · exact .ite h (.ite h.addRetro.addSlip.setRun h.addRetro)

protected theorem memSound.countSlips (h : memSound s) : memSound (countSlips s) := h.foldl fun _ _ h => h.countLaunch

protected theorem memSound.abortPass (h : memSound s) {iter pass cause index stack} :
    memSound (abortPass s iter pass cause index stack) := by
  unfold abortPass
  dsimp only
  split <;> exact h.setPass.setF.setF.setF.setF.setF.flag

protected theorem memSound.setStashPtr (h : memSound s) {q v} : memSound (setStashPtr s q v) := h

protected theorem memSound.homeStash (h : memSound s) {y q i addr} : memSound (homeStash s y q i addr) := h.ftSet.breakSeal

protected theorem memSound.stashDecision (h : memSound s) {iter li y} : memSound (stashDecision s iter li y).1 := by
  unfold stashDecision
  dsimp only
  split
  · exact h.abortPass
  · split
    · refine .upd (h.foldl fun _ _ h => ?_)
      split
      · exact .setStashPtr (h.foldl fun _ _ h => h.homeStash)
      · exact h
    · exact .iteFst h.upd.setF.bumpF h.abortPass

protected theorem memSound.placeRecompute (h : memSound s) {y p} : memSound (placeRecompute s y p) := by
  unfold placeRecompute
  refine h.foldl fun _ _ h => ?_
  split
  · exact h.foldl fun _ _ h => h.homeStash
  · exact h

/-! ### Slots, anchors and the issue -/

protected theorem memSound.moveLevels (h : memSound s) : memSound (moveLevels s) := h.foldl fun _ _ h => h.setArray

protected theorem memSound.accrueCredit (h : memSound s) : memSound (accrueCredit s) := .ite (.ite h.upd.setF.bumpF h.upd.setF) h

protected theorem memSound.clearLch (h : memSound s) : memSound (clearLch s) := h.setReg.setReg.setReg.setReg.foldl fun _ _ h => h.setReg

protected theorem memSound.clearNum (h : memSound s) : memSound (clearNum s) := h.setF.setF.foldl fun _ _ h => h.foldl fun _ _ h => h.setReg

protected theorem memSound.advanceSlot (h : memSound s) : memSound (advanceSlot s) :=
  ((h.countSlips.iteThen (·.upd.clearLch)).iteThen (·.upd.clearNum)).moveLevels.setF.accrueCredit.bumpF.bumpF.upd.upd.setF

protected theorem memSound.exportSignal (h : memSound s) {obj amount} : memSound (exportSignal s obj amount) := by
  unfold exportSignal
  split
  · exact h
  · split
    · exact h
    · exact h.postAll

protected theorem memSound.addSignal (h : memSound s) {g} : memSound (addSignal s g) :=
  .ite h (.ite h.setReg.exportSignal.flag.holdFault h.setReg.exportSignal)

protected theorem memSound.signalsDue (h : memSound s) : memSound (signalsDue s) := h.upd.foldl fun _ _ h => h.addSignal

protected theorem memSound.stashDecisions (h : memSound s) {iter k} : memSound (stashDecisions s iter k).1 := by
  unfold stashDecisions
  split
  · exact h
  · exact h.foldlFst fun _ _ h => .iteFst h.stashDecision h

protected theorem memSound.setAnchor (h : memSound s) {i k a} : memSound (setAnchor s i k a) := h

protected theorem memSound.startIteration (h : memSound s) {k} : memSound (startIteration s k) := .ite h.setF.settleStash h

protected theorem memSound.anchorStep (h : memSound s) : memSound (anchorStep s) := by
  unfold anchorStep
  dsimp only
  split
  · exact .ite (.ite h.startIteration.stashDecisions.setAnchor h.startIteration.stashDecisions) h
  · exact h

protected theorem memSound.writePoisoned (h : memSound s) {o step} : memSound (writePoisoned s o step) :=
  .ite h.wr.writeCheck.sealAt.ftSet h.wr.writeCheck.sealAt

protected theorem memSound.scheduleSignals (h : memSound s) {k l} : memSound (scheduleSignals s k l) :=
  .ite h (.setRun (h.foldl fun _ _ h => h.signal))

protected theorem memSound.completeAtOnce (h : memSound s) {k l} : memSound (completeAtOnce s k l) := h.setRun.scheduleSignals

protected theorem memSound.noteIssue (h : memSound s) {k l a due} : memSound (noteIssue s k l a due) := .ite h.setRun.setF.setF h.setRun

protected theorem memSound.issueLaunch (h : memSound s) {k l a due} : memSound (issueLaunch s k l a due) := by
  unfold issueLaunch
  extract_lets s1 s2 _ s3 _ s4 _ s5
  have h1 : memSound s1 := h.addRetro.noteIssue
  have h5 : memSound s5 := by
    refine .setRun ?_
    subst s4
    split
    · split
      · exact h1.iteThen (·.placeRecompute)
      · exact h1
    · exact h1
  refine .ite (h1.foldl fun _ _ h => h.writePoisoned).setRun.bumpF.completeAtOnce (.ite h1.setRun.completeAtOnce ?_)
  split
  · exact h5.setUnit
  · exact h5

protected theorem memSound.issueStep (h : memSound s) {k} : memSound (issueStep s k) := by
  unfold issueStep
  split
  · exact h
  · split
    · split
      · split
        · exact h.issueLaunch
        · split
          · exact h.rangeFault
          · exact .ite h.holdFault h.issueLaunch
      · exact h
    · exact h

protected theorem memSound.noteTimeout (h : memSound s) {obj gate index} : memSound (noteTimeout s obj gate index) :=
  h.setF.setF.setF.setF.flag.holdFault

protected theorem memSound.timeoutStep (h : memSound s) {gate index op} : memSound (timeoutStep s gate index op) := by
  unfold timeoutStep
  split
  · exact h
  · split
    · split
      · exact h.noteTimeout
      · exact h
    · split
      · exact h.noteTimeout
      · exact h

/-! ### Vector programs -/

protected theorem memSound.setVreg (h : memSound s) {core r xs} : memSound (setVreg s core r xs) := h

protected theorem memSound.vStore (h : memSound s) {c o row col xs} : memSound (vStore s c o row col xs) := by
  unfold vStore
  dsimp only
  refine .noteOp (.bumpNum (.foldlFst ?_ fun _ _ h => ?_))
  · exact h.breakSeal
  · exact h.writeOutRow

protected theorem memSound.vStep (h : memSound s) {c i} : memSound (vStep c s i) := by
  unfold vStep
  dsimp only
  split
  case h_17 => exact h.setVreg.noteReads
  case h_19 =>
    split
    · exact h.vStore
    · exact h
  case h_20 => exact h.wr
  all_goals exact h.setVreg

protected theorem memSound.runVector (h : memSound s) {core k v} : memSound (runVector s core k v) := h.foldl fun _ _ h => h.vStep

/-! ### Arrays, drains and their faults -/

protected theorem memSound.feedGroup (h : memSound s) {arr k t g0} : memSound (feedGroup s arr k t g0) :=
  .ite h.setBank.noteReads.noteReads h.setBank.noteReads.noteReads.bumpNum

protected theorem memSound.beginTile (h : memSound s) {a k t} : memSound (beginTile s a k t) := h

protected theorem memSound.takeWaiting (h : memSound s) {u k running} : memSound (takeWaiting s u k running) := h

protected theorem memSound.beginStep (h : memSound s) {u} : memSound (beginStep s u) := by
  unfold beginStep
  split
  · exact h
  · split
    · exact h
    · split
      · exact h
      · split
        · split
          · exact .ite h.takeWaiting.beginTile h
          · exact h
        · split
          · exact h
          · split
            · exact h.takeWaiting.runVector
            · exact h
        · exact .ite h h.takeWaiting

protected theorem memSound.startRerun (h : memSound s) {a} : memSound (startRerun s a) := by
  unfold startRerun
  dsimp only
  split
  · split
    · exact h.setArray.setBank
    · exact h.setArray
  · exact h

protected theorem memSound.endFeed (h : memSound s) {a k t} : memSound (endFeed s a k t) := h.setArray.startRerun

protected theorem memSound.skipGroups (h : memSound s) {n a k t} : memSound (skipGroups n s a k t) := by
  induction n generalizing s with
  | zero => exact h
  | succ n ih => exact .ite (ih h.setBank.setArray.bumpF) h

protected theorem memSound.flipEntry (h : memSound s) {a b u} : memSound (flipEntry s a b u) := h

protected theorem memSound.dummyStep (h : memSound s) {a} : memSound (dummyStep s a) := .ite h h.bumpF

protected theorem memSound.usefulStep (h : memSound s) {a k t upset} : memSound (usefulStep s a k t upset) := by
  unfold usefulStep
  refine .iteThen (.setArray (.setBank ?_)) (·.endFeed)
  split
  · exact (h.bumpF.iteThen (·.feedGroup)).flipEntry
  · exact h.bumpF.iteThen (·.feedGroup)

protected theorem memSound.arrayStep (h : memSound s) {a upset} : memSound (arrayStep s a upset) := by
  unfold arrayStep
  split
  · exact h
  · split
    · exact h.dummyStep
    · split
      · exact h
      · exact .ite h.bumpF (.ite h.dummyStep (.ite h.skipGroups.endFeed h.skipGroups.usefulStep))

protected theorem memSound.fenceArray (h : memSound s) {a} : memSound (fenceArray s a) :=
  .ite h.setReg.setF.requestActivity.flag.holdFault h.setReg.setF.requestActivity

protected theorem memSound.moveTiles (h : memSound s) {a bank failed} : memSound (moveTiles s a bank failed) := h

protected theorem memSound.mismatch (h : memSound s) {a bank key row idx point intEq injected} :
    memSound (mismatch s a bank key row idx point intEq injected) :=
  h.setReg.setF.bumpF.flag.logFault.moveTiles.fenceArray

protected theorem memSound.compareBank (h : memSound s) {a bank key point} : memSound (compareBank s a bank key point).1 := by
  unfold compareBank
  dsimp only
  split
  · exact h.setArray.mismatch
  · split
    · exact h.mismatch
    · exact h.bumpF

protected theorem memSound.intermediateStep (h : memSound s) {a} : memSound (intermediateStep s a) := by
  unfold intermediateStep
  dsimp only
  split
  · exact h
  · split
    · exact h
    · exact .ite (.ite h.compareBank.setBank h.compareBank) h

protected theorem memSound.watchLoss (h : memSound s) {o} : memSound (watchLoss s o) := .ite h.upd h

protected theorem memSound.sealOutput (h : memSound s) {k o} : memSound (sealOutput s k o) := by
  unfold sealOutput
  refine .ite ?_ h
  extract_lets step s1 e s2 s3
  have h3 : memSound s3 := (h.writeHeader.sealAt.iteThen (·.ftSet)).watchLoss
  split
  · exact h3.upd
  · exact h3

protected theorem memSound.writeDrainTap (h : memSound s) {d seed n i cols on v} : memSound (writeDrainTap s d seed n i cols on v).1 := by
  unfold writeDrainTap
  split
  · exact .iteFst h.writeOutRow h
  · exact h

protected theorem memSound.writeDrainStats (h : memSound s) {d i vs} : memSound (writeDrainStats s d i vs) := by
  unfold writeDrainStats
  split
  · exact h.wr
  · exact h

protected theorem memSound.writeDrainResidual (h : memSound s) {d seed n i cols vs} :
    memSound (writeDrainResidual s d seed n i cols vs).1 := by
  unfold writeDrainResidual
  split
  · exact h.writeOutRow
  · exact h

protected theorem memSound.releaseRow (h : memSound s) {k t d bk on i acc} : memSound (releaseRow s k t d bk on i acc).1 := by
  rw [releaseRow_fst]
  exact h.writeDrainTap.writeDrainStats.writeOutRow.writeDrainResidual

protected theorem memSound.noteSides (h : memSound s) {d rows cols} : memSound (noteSides s d rows cols) := by
  unfold noteSides
  dsimp only
  split
  · refine .noteReads ?_
    split
    · exact h.noteReads
    · exact h
  · split
    · exact h.noteReads
    · exact h

protected theorem memSound.drainRows (h : memSound s) {k t d bk} : memSound (drainRows s k t d bk).1 := h.foldlFst fun _ _ h => h.releaseRow

protected theorem memSound.releaseDrain (h : memSound s) {a k t d} : memSound (releaseDrain s a k t d) :=
  .setArray (.setBank (.foldl (.setRun (h.noteSides.breakSeal.drainRows.foldl fun _ _ h => h.bumpNum.noteOp)) fun _ _ h => h.sealOutput))

protected theorem memSound.countDiscarded (h : memSound s) {v a k t d} : memSound (countDiscarded v a k t d s) :=
  h.noteSides.foldl fun _ _ h => h.bumpNum

protected theorem memSound.drainStep (h : memSound s) {a upset} : memSound (drainStep s a upset) := by
  unfold drainStep
  split
  · exact h
  · split
    · exact h
    · split
      · exact h
      · refine .ite ?_ h
        split
        · exact .ite h.flipEntry.compareBank.releaseDrain h.flipEntry.compareBank.countDiscarded
        · exact .ite h.compareBank.releaseDrain h.compareBank.countDiscarded

protected theorem memSound.drainFaultStep (h : memSound s) {a} : memSound (drainFaultStep s a) := by
  unfold drainFaultStep
  split
  · exact h
  · split
    · exact h
    · exact h.logFault.moveTiles.fenceArray

protected theorem memSound.restartTiles (h : memSound s) {a} : memSound (restartTiles s a) := by
  unfold restartTiles
  split
  · refine .startRerun (.setArray (h.upd.foldl fun _ _ h => ?_))
    split
    · exact h.setBank
    · exact h
  · exact h

protected theorem memSound.fenceVe (h : memSound s) {core} : memSound (fenceVe s core) := by
  unfold fenceVe
  dsimp only
  split
  · split
    · exact h.upd.requestActivity.setUnit.setUnit
    · exact h.upd.requestActivity
  · exact h.upd.requestActivity.flag.holdFault

protected theorem memSound.veFault (h : memSound s) {core} : memSound (veFault s core) := by
  unfold veFault
  exact .fenceVe (.ite h.logFault h.logFault.faultStop)

protected theorem memSound.decideAgain (h : memSound s) {p} : memSound (decideAgain s p) := by
  unfold decideAgain
  split
  · exact h
  · exact h.foldl fun _ _ h => .ite h.stashDecision h

protected theorem memSound.restartAll (h : memSound s) : memSound (restartAll s) := h.restartPasses.foldl fun _ _ h => h.decideAgain

protected theorem memSound.passRestart (h : memSound s) : memSound (passRestart s) := .ite h h.restartAll

/-! ### Sample slots -/

protected theorem memSound.writeEntry (h : memSound s) {b x} : memSound (writeEntry s b x) := h.wr

protected theorem memSound.showEvRing (h : memSound s) : memSound (showEvRing s) := h

protected theorem memSound.corruptSample (h : memSound s) {x pos} : memSound (corruptSample s x pos) :=
  .flag (.setF (.setReg (.bumpF (.ite h.ringPut.showEvRing h.ringPut.setF))))

protected theorem memSound.finishSlot (h : memSound s) {b x pos} : memSound (finishSlot s b x pos) :=
  .ite h.upd.writeEntry.bumpF h.upd.writeEntry.bumpF.corruptSample

protected theorem memSound.markSamples (h : memSound s) {step a} : memSound (markSamples s step a) := by
  unfold markSamples
  split
  · exact h
  · exact h.foldl fun _ _ h => h.foldl fun _ _ h => .ite h.upd.writeEntry.corruptSample.upd h.upd.writeEntry.corruptSample

protected theorem memSound.zeroView (h : memSound s) {f home d step} : memSound (zeroView s f home d step) :=
  h.breakSeal.wr.writeHeader.sealAt

end Sys2Proof.Machine
end

section
/-!
PROOFS. The canonical form of both memories: memory traffic, records, results, training, the update sweep and serving.
-/

namespace Sys2Proof.Machine

variable {s t : State}

/-! ### Reads, moves, views and flash -/

protected theorem memSound.poisonFrond (h : memSound s) {id outcome} : memSound (poisonFrond s id outcome) := h.ftSet.bumpF.setReg.flag

protected theorem memSound.answerRequest (h : memSound s) {src id tag} : memSound (answerRequest s src id tag) :=
  .ite h.postMsg (.ite h.postMsg h.postMsg)

protected theorem memSound.answerWaiting (h : memSound s) : memSound (answerWaiting s) := h.upd.foldl fun _ _ h => h.answerRequest

protected theorem memSound.fetchFailed (h : memSound s) {id} : memSound (fetchFailed s id) :=
  .answerWaiting (.holdFault (.ite h.upd.poisonFrond.ftSet h.upd.poisonFrond))

protected theorem memSound.partnerFetch (h : memSound s) {id place move} : memSound (partnerFetch s id place move) :=
  .ite h.breakSeal.upd.postMsg h.fetchFailed

protected theorem memSound.readOutcome (h : memSound s) {id place move inPass} : memSound (readOutcome s id place move inPass) := by
  unfold readOutcome
  dsimp only
  split
  · exact .ite h.partnerFetch h.poisonFrond
  · exact .ite h.partnerFetch h.poisonFrond
  · exact .ite h.partnerFetch h.poisonFrond
  · exact .ite h.poisonFrond.upd h.poisonFrond
  · exact .ite h.poisonFrond.upd h.poisonFrond
  · exact .ite h.poisonFrond.upd h.poisonFrond
  · exact .ite h.faultStop h.holdFault
  · exact h.poisonFrond
  · exact h.foldl fun _ _ h => h.setF
  · exact h.holdFault

protected theorem memSound.countRead (h : memSound s) {how die channel addr detail} :
    memSound (countRead s how die channel addr detail) := by
  unfold countRead
  dsimp only
  split
  · exact h.setF.bumpF.setReg.flag.runFault
  · exact h.setF.bumpF.setReg.flag.runFault
  · exact h.setF.runFault
  · exact h.setF.bumpF.setReg.runFault

protected theorem memSound.tableRead (h : memSound s) {id both} : memSound (tableRead s id both) :=
  .ite h.setF.flag.holdFault (.ite h.setF.flag.wr h.setF.flag)

protected theorem memSound.failedRead (h : memSound s) {t how die channel addr inPass} :
    memSound (failedRead s t how die channel addr inPass) := by
  unfold failedRead
  dsimp only
  split
  · exact .ite h.countRead.readOutcome h.countRead
  · exact h.countRead.tableRead
  · exact h.countRead.setF
  · exact h.countRead.holdFault

protected theorem memSound.fetchTimeout (h : memSound s) {id} : memSound (fetchTimeout s id) := by
  unfold fetchTimeout
  dsimp only
  split
  · exact .ite h.fetchFailed h
  · exact h

protected theorem memSound.switchHome (h : memSound s) {id d} : memSound (switchHome s id d) := h.ftSet.bumpF.sealAt

protected theorem memSound.countFlashRead (h : memSound s) {a kib} : memSound (countFlashRead s a kib) := .ite h.upd.setFmax h

protected theorem memSound.moveOne (h : memSound s) {u k m} : memSound (moveOne s u k m) := by
  unfold moveOne
  refine .ite h (.ite h.rangeFault (.ite h.setUnit (.ite h (.ite h ?_))))
  extract_lets s1 fls s2 s3 s4 s5 s6
  have h3 : memSound s3 := .breakSeal (.ite h.countFlashRead.upd h.countFlashRead)
  have h6 : memSound s6 := h3.ftSet.countRead.readOutcome
  exact .ite h3.wr.writeCheck.switchHome.setUnit (.ite h3.wr.switchHome.setUnit
    (.ite h6.wr.writeCheck.switchHome.setUnit (.ite h6 h6.ftSet)))

protected theorem memSound.moveStep (h : memSound s) {stack} : memSound (moveStep s stack) := by
  unfold moveStep
  split
  · exact .ite h h.moveOne
  · exact h

protected theorem memSound.writeView (h : memSound s) {f home d poisoned} : memSound (writeView s f home d poisoned) :=
  .sealAt (.writeHeader (.ite h.breakSeal.wr h.breakSeal.wr))

protected theorem memSound.viewOne (h : memSound s) {u k m} : memSound (viewOne s u k m) := by
  unfold viewOne
  dsimp only
  split
  · exact h
  · split
    · exact h.rangeFault
    · split
      · exact h
      · split
        · exact .setUnit (.zeroView (.markSamples (.ite h.countFlashRead h.countFlashRead.countRead.readOutcome)))
        · exact .ite h.countFlashRead.writeView.setUnit h.countFlashRead.countRead.readOutcome

protected theorem memSound.viewStep (h : memSound s) {stack} : memSound (viewStep s stack) := by
  unfold viewStep
  split
  · exact .ite h h.viewOne
  · exact h

protected theorem memSound.sramStep (h : memSound s) {addr inPass} : memSound (sramStep s addr inPass) := by
  unfold sramStep
  extract_lets s1 s2
  have h2 : memSound s2 := .ite h.countRead.faultStop h.countRead
  split
  · exact .ite h2.breakSeal.upd (.ite h2 (.ite h2.readOutcome h2.holdFault))
  · exact .ite h2 h2.holdFault

protected theorem memSound.remakeStep (h : memSound s) {a fetchOk} : memSound (remakeStep s a fetchOk) := by
  unfold remakeStep
  dsimp only
  split
  · split
    · split
      · exact h.upd.writeView
      · exact h.upd.sealAt
    · exact h.upd.holdFault
  · exact h

protected theorem memSound.lastFail (h : memSound s) {p outcome} : memSound (lastFail s p outcome) := h

protected theorem memSound.pageStep (h : memSound s) {p decodes rereads rereadOk} : memSound (pageStep s p decodes rereads rereadOk) :=
  .ite h.upd (.ite h (.ite h.bumpF.lastFail h.bumpF.upd))

protected theorem memSound.rebuildStep (h : memSound s) {p othersOk} : memSound (rebuildStep s p othersOk) := by
  unfold rebuildStep
  split
  · exact .ite h.bumpF.upd.requestActivity.lastFail h.bumpF.upd.requestActivity.lastFail.flag.runFault
  · exact h

protected theorem memSound.stripeStep (h : memSound s) {mib} : memSound (stripeStep s mib) := .ite h (.ite h.setF h.setF.setF.bumpF.upd)

protected theorem memSound.ledgerStep (h : memSound s) : memSound (ledgerStep s) := .ite h.upd h

protected theorem memSound.channelStep (h : memSound s) {x} : memSound (channelStep s x) :=
  .ite h (.ite h.setF.requestActivity.flag.logFault h.setF.requestActivity.flag.logFault.flag)

protected theorem memSound.wearStep (h : memSound s) {blocks} : memSound (wearStep s blocks) := .ite h h.setFmax.upd.endActivity

protected theorem memSound.scrubStep (h : memSound s) {addr corrected newerWrite} : memSound (scrubStep s addr corrected newerWrite) := by
  unfold scrubStep
  dsimp only
  split
  · exact .ite (.bumpF (.ite h.endActivity h)) (.wr (.bumpF (.ite h.endActivity h)))
  · exact .ite h.endActivity h

/-! ### Records -/

protected theorem memSound.showRings (h : memSound s) : memSound (showRings s) := h

protected theorem memSound.opDone (h : memSound s) {n opIndex o} : memSound (opDone s n opIndex o) :=
  .ite (.ite h.ringPut.showRings h.ringPut.bumpF.setF) h

protected theorem memSound.launchOps (h : memSound s) {k} : memSound (launchOps s k) := h.foldl fun _ _ h => h.opDone

protected theorem memSound.phaseDone (h : memSound s) {k l} : memSound (phaseDone s k l) := .ite (.ite h.ringPut.showRings h.ringPut.setF) h

/-! ### Result slots -/

protected theorem memSound.writeResult (h : memSound s) {k kind status id payload} : memSound (writeResult s k kind status id payload) :=
  h.wr.setF.setReg.raise

protected theorem memSound.flushReports (h : memSound s) {n} : memSound (flushReports n s) := by
  induction n generalizing s with
  | zero => exact h
  | succ n ih =>
    unfold flushReports
    split
    · exact h
    · exact .ite h (ih h.upd.writeResult)

protected theorem memSound.stepReport (h : memSound s) {n payload} : memSound (stepReport s n payload) :=
  .ite h.upd.flushReports h.bumpF.hostErr

protected theorem memSound.releaseSlot (h : memSound s) {k} : memSound (releaseSlot s k) := h.wr.setReg.flushReports

protected theorem memSound.releaseStep (h : memSound s) {k seq} : memSound (releaseStep s k seq) := .ite h.releaseSlot h.hostErr

/-! ### Reduction, quantisation and the step decision -/

protected theorem memSound.ledgerSet (h : memSound s) {f n count mask} : memSound (ledgerSet s f n count mask) := by
  unfold ledgerSet
  split
  · exact h.wr
  · exact h

protected theorem memSound.writeFrond (h : memSound s) {o n v} : memSound (writeFrond s o n v).1 := by
  unfold writeFrond
  dsimp only
  refine .bumpNum (.sealAt (.writeHeader (.foldlFst ?_ fun _ _ h => ?_)))
  · exact h.breakSeal
  · exact h.writeOutRow

protected theorem memSound.readyKeys (h : memSound s) {ks} : memSound (readyKeys s ks) := by
  unfold readyKeys
  refine h.foldl fun _ _ h => .ite ?_ h
  split
  · split
    · exact .ite h h.setArray
    · exact h
  · exact h

protected theorem memSound.addInto (h : memSound s) {j fresh} : memSound (addInto s j fresh) := by
  unfold addInto
  dsimp only
  split
  · exact .sealAt (.writeHeader (.ite h.breakSeal.wr.wr.wr h.breakSeal.wr.wr))
  · split
    · exact h.writeFrond.noteOp
    · exact h.writeFrond

protected theorem memSound.reduceStep (h : memSound s) {i} : memSound (reduceStep s i) := by
  unfold reduceStep
  dsimp only
  split
  · exact h
  · exact .ite h (.readyKeys (.upd (.ite h.bumpF h.addInto.ledgerSet)))

protected theorem memSound.adderFault (h : memSound s) {f} : memSound (adderFault s f) := h.runFault.poisonFrond.upd

protected theorem memSound.showPend (h : memSound s) {q} : memSound (showPend s q) := h

protected theorem memSound.freePending (h : memSound s) : memSound (freePending s) :=
  .foldl (.upd (h.foldl fun _ _ h => h.ftSet)) fun _ _ h => h.showPend

protected theorem memSound.noteResidual (h : memSound s) {x i} : memSound (noteResidual s x i) :=
  .ite (h.foldl fun _ _ h => .ite h.noteReads h) h

protected theorem memSound.noteQuant (h : memSound s) {key tid f cs} : memSound (noteQuant s key tid f cs) := by
  unfold noteQuant
  split
  · exact h.noteOp
  · exact h.upd

protected theorem memSound.writeResidual (h : memSound s) {x i base key vals qs} : memSound (writeResidual s x i base key vals qs) := by
  unfold writeResidual
  dsimp only
  exact h.foldl fun _ _ h => .ite h.writeFrond.noteQuant h

protected theorem memSound.writeZeroGrad (h : memSound s) {x i} : memSound (writeZeroGrad s x i) := h.writeFrond

protected theorem memSound.takePending (h : memSound s) {q id} (ht : takePending s q id = some t) : memSound t := by
  unfold takePending at ht
  split at ht
  · nomatch ht
  · split at ht
    · nomatch ht
    · split at ht
      · nomatch ht
      · rw [← Option.some.inj ht]
        exact h.upd.ftSet.showPend

protected theorem memSound.placeGrad (h : memSound s) {x i} : memSound (placeGrad s x i).1 := by
  unfold placeGrad
  refine .iteFst ?_ h
  split
  next ht => exact (h.takePending ht).upd
  next => exact h.upd.flag

protected theorem memSound.quantOne (h : memSound s) {x i} : memSound (quantOne s x i) := by
  unfold quantOne
  simp only [apply_ite Prod.fst]
  refine .ite h (.ite (.ite h ?_) ?_)
  · have hp : memSound (if x.flashHomed && !(x.skipZero && allZeroBlocks s (homeOf s (x.gradFirst + i))) then (placeGrad s x i).1
      else s) := .ite h.placeGrad h
    exact .ite hp (.upd (.ite hp hp.wr.sealAt))
  · split
    · exact h
    · next vals base launch _ =>
      have hp : memSound (if x.skipZero && vals.all (· == 0) then s else (placeGrad s x i).1) := .ite h h.placeGrad
      have hq := hp.noteResidual (x := x) (i := i)
      exact .ite hp (.upd (.ite (.writeResidual (.ite hq hq.writeFrond.noteQuant)) (.ite hq hq.writeFrond.noteQuant)))

protected theorem memSound.placeZeros (h : memSound s) {x} : memSound (placeZeros s x).1 := by
  unfold placeZeros
  refine .foldlFst h fun _ _ h => ?_
  simp only [apply_ite Prod.fst]
  exact .ite (.ite h.placeGrad.writeZeroGrad h.placeGrad) h

protected theorem memSound.finishShard (h : memSound s) {x} : memSound (finishShard s x) := by
  unfold finishShard
  dsimp only
  refine .ite h (.ite (.iteFst h.placeZeros h) (.upd (.foldl (.upd (.iteFst h.placeZeros h)) fun _ _ h => h.opDone)))

protected theorem memSound.quantShard (h : memSound s) {id} : memSound (quantShard s id) := by
  unfold quantShard
  split
  · exact .finishShard (h.foldl fun _ _ h => h.quantOne)
  · exact h

protected theorem memSound.keepNorm (h : memSound s) {r} : memSound (keepNorm s r) := h

protected theorem memSound.normSend (h : memSound s) : memSound (normSend s) := .ite h h.upd.keepNorm.postAll

protected theorem memSound.commitStep (h : memSound s) {n outcome} : memSound (commitStep s n outcome) := by
  unfold commitStep
  extract_lets s1 s2 s3 s4 owed s5 s6 iv
  have h4 : memSound s4 := .freePending (.ite h.bumpF.setF.setF.bumpF h.bumpF.setF)
  have h5 : memSound s5 := by
    subst s5
    split
    · exact .ite h4.signal h4
    · exact h4
  exact .upd (.ite h5 h5.runActivity)

protected theorem memSound.notePosition (h : memSound s) {n} : memSound (notePosition s n) := by
  unfold notePosition
  split
  · exact h
  · exact h.setF

protected theorem memSound.abandonStep (h : memSound s) : memSound (abandonStep s) := by
  unfold abandonStep
  exact h.flag.bumpF.releaseStash.freePending

protected theorem memSound.closeStep (h : memSound s) {n} : memSound (closeStep s n) := h

protected theorem memSound.takeDecision (h : memSound s) {x d} : memSound (takeDecision s x d) := by
  unfold takeDecision
  extract_lets n rs g2 x s1 s2 s3 s4 s5 s6 s7 s8 s9 s10 s11
  have h5 : memSound s5 := h.setF.setF.setF.setF.setF.iteThen (·.setF)
  have h8 : memSound s8 := h5.setF.setFmax.notePosition.iteThen (·.stepReport)
  have h10 : memSound s10 := h8.signal.ite h8.signal.signal
  exact .closeStep (.ite h10.abandonStep (h10.ite h10.commitStep))

protected theorem memSound.normDecision (h : memSound s) : memSound (normDecision s) := by
  unfold normDecision
  dsimp only
  split
  · split
    · split
      · exact h.takeDecision
      · exact h
    · exact h
  · exact h

protected theorem memSound.normTimeout (h : memSound s) : memSound (normTimeout s) := by
  unfold normTimeout
  split
  · exact .ite h.holdFault h
  · exact h

/-! ### Sweeps, digests and snapshots -/

protected theorem memSound.sweepWaits (h : memSound s) {q} : memSound (sweepWaits s q) := .ite h.upd h

protected theorem memSound.sweepGoes (h : memSound s) {q} : memSound (sweepGoes s q) := h

protected theorem memSound.sweepNext (h : memSound s) {q n} : memSound (sweepNext s q n) := h

protected theorem memSound.writeStream (h : memSound s) {key x g n o} : memSound (writeStream s key x g n o) := by
  unfold writeStream
  dsimp only
  exact h.foldl fun _ _ h => h.writeFrond.writeHeader.noteOp

protected theorem memSound.groupFault (h : memSound s) {q} : memSound (groupFault s q) := h.flag.upd.holdFault

protected theorem memSound.commitShard (h : memSound s) {x} : memSound (commitShard s x) := h.foldl fun _ _ h => h.writeHeader.sealAt

protected theorem memSound.noteMoments (h : memSound s) {prog x g} : memSound (noteMoments s prog x g) :=
  h.foldl fun _ _ h => h.foldl fun _ _ h => h.noteReads

protected theorem memSound.updateGroup (h : memSound s) {p k q n x g} : memSound (updateGroup s p k q n x g) := by
  unfold updateGroup
  dsimp only
  refine .ite h.groupFault (.iteThen (.sweepNext (h.ite ?_)) (·.commitShard))
  exact .foldl (h.noteMoments.foldl fun _ _ h => h.writeStream) fun _ _ h => h.writeStream

protected theorem memSound.sweepStep (h : memSound s) {q} : memSound (sweepStep s q) := by
  unfold sweepStep
  dsimp only
  split
  · split
    · exact h
    · split
      · exact h.sweepWaits
      · split
        · exact h.sweepGoes
        · exact .ite h.bumpF.sweepGoes.sweepNext (.ite h.sweepWaits (.ite h.upd.holdFault h.sweepGoes.updateGroup))
      · split
        · exact h.sweepGoes
        · exact .ite h.bumpF.sweepGoes.sweepNext (.ite h.sweepWaits (.ite h.upd.holdFault h.sweepGoes.updateGroup))
      · exact h.sweepGoes.setUnit
  · exact h

protected theorem memSound.sweepTimeout (h : memSound s) {q} : memSound (sweepTimeout s q) := by
  unfold sweepTimeout
  split
  · exact .ite h.holdFault h
  · exact h

protected theorem memSound.halfWritten (h : memSound s) {f a} : memSound (halfWritten s f a) := h.takeFree.wr.wr

protected theorem memSound.engineFault (h : memSound s) {q} : memSound (engineFault s q) := by
  unfold engineFault
  dsimp only
  refine .holdFault (.flag (.upd ?_))
  split
  · split
    · split
      · split
        · exact h.halfWritten
        · exact h
      · exact h
    · exact h
  · exact h

protected theorem memSound.setDigest (h : memSound s) {d} : memSound (setDigest s d) := h

protected theorem memSound.repairHold (h : memSound s) : memSound (repairHold s) := h.flag.holdFault

protected theorem memSound.comparePair (h : memSound s) {d got} : memSound (comparePair s d got) := by
  unfold comparePair
  split
  · exact h
  · exact .ite h.bumpF (.ite h.bumpF.flag.repairHold h.bumpF.flag.runFault)

protected theorem memSound.digestsDone (h : memSound s) : memSound (digestsDone s) := by
  unfold digestsDone
  split
  · exact h
  · exact .ite h.endActivity.upd.signal h

protected theorem memSound.digestStep1 (h : memSound s) {id} : memSound (digestStep1 s id) := by
  unfold digestStep1
  split
  · exact h
  · exact .ite (.digestsDone (h.upd.setDigest.postAll.foldl fun _ _ h => h.comparePair)) h

protected theorem memSound.digestFault (h : memSound s) {id} : memSound (digestFault s id) := .ite h.runFault.upd.digestsDone h

protected theorem memSound.digestIn (h : memSound s) {src shard n dg} : memSound (digestIn s src shard n dg) :=
  .digestsDone (.ite h.setDigest h.setDigest.comparePair)

protected theorem memSound.repairFetch (h : memSound s) {src why n id} : memSound (repairFetch s src why n id) := h.upd.postMsg

protected theorem memSound.secondRound (h : memSound s) {x d} : memSound (secondRound s x d) :=
  .digestsDone (.ite h.setDigest.postAll h.setDigest)

protected theorem memSound.digestRepair (h : memSound s) {id anyFailing} : memSound (digestRepair s id anyFailing) := by
  unfold digestRepair
  dsimp only
  split
  · exact h
  · split
    · split
      · exact h
      · split
        · split
          · exact h.secondRound
          · split
            · exact .setDigest (.setF (.setF (.setF (h.foldl fun _ _ h => h.repairFetch))))
            · exact h.repairHold
        · split
          · exact h.repairHold
          · split
            · exact h.secondRound
            · exact h.repairHold
            · exact .setDigest (.setF (.setF (.setF (h.foldl fun _ _ h => h.repairFetch))))
    · exact .ite h h.setF.secondRound
    · exact h

protected theorem memSound.groupRepair (h : memSound s) {q} : memSound (groupRepair s q) := by
  unfold groupRepair
  split
  · exact .ite h (.ite h (.ite h.upd.setF.setF.setF.setF (.ite (h.foldl fun _ _ h => h.repairFetch) h.flag)))
  · exact h

protected theorem memSound.snapCopy (h : memSound s) {id f d} : memSound (snapCopy s id f d) := h.wr.writeHeader

protected theorem memSound.snapshotStep (h : memSound s) {writeOk} : memSound (snapshotStep s writeOk) := by
  unfold snapshotStep
  dsimp only
  split
  · exact h
  · refine .ite h.wr.setF.upd.flag (.ite h (.setF (.setF (.setF (.wr (.foldlFst ?_ fun _ _ h => ?_))))))
    · exact h.upd.wr
    · dsimp only
      exact h.snapCopy

/-! ### Serving -/

protected theorem memSound.nextRequest (h : memSound s) {q} : memSound (nextRequest s q) := h

protected theorem memSound.handleRequest (h : memSound s) {b d entry} : memSound (handleRequest s b d entry) :=
  .ite h.nextRequest.writeResult (.ite h.nextRequest.writeResult h.nextRequest.wr.setQueue)

protected theorem memSound.requestStep (h : memSound s) {q} : memSound (requestStep s q) := by
  unfold requestStep
  dsimp only
  split
  · exact h
  · split
    · exact h
    · split
      · exact h.nextRequest.bumpF.hostErr
      · split
        · exact .ite h.handleRequest h
        · exact h

protected theorem memSound.acceptStep (h : memSound s) {q} : memSound (acceptStep s q) := by
  unfold acceptStep
  dsimp only
  split
  · exact h.setQueue
  · exact h

protected theorem memSound.batchSlip (h : memSound s) {q cause} : memSound (batchSlip s q cause) := .ite h h.bumpF.bumpF.setQueue

protected theorem memSound.launchBatch (h : memSound s) {q array rows} : memSound (launchBatch s q array rows) := h

protected theorem memSound.batchStep (h : memSound s) {q} : memSound (batchStep s q) := by
  unfold batchStep
  dsimp only
  split
  · exact h
  · split
    · exact h
    · split
      · exact h.batchSlip
      · split
        · exact .ite h.launchBatch h.batchSlip
        · exact h.batchSlip

protected theorem memSound.injectStep (h : memSound s) {v} : memSound (injectStep s v) := .ite h.setArray h.setF

end Sys2Proof.Machine
end

section
/-!
PROOFS. The canonical form of both memories: collectives, completion, the links, the chain and intake.
-/

namespace Sys2Proof.Machine

variable {s t : State}

/-! ### Collectives -/

protected theorem memSound.showPartner (h : memSound s) : memSound (showPartner s) := by
  unfold showPartner
  split <;> exact h.setF.setF.setF.setF.setF.setF.setF

protected theorem memSound.setColl (h : memSound s) {r} : memSound (setColl s r) := h

protected theorem memSound.pump (h : memSound s) {r} : memSound (pump s r) := by
  unfold pump
  refine .setColl (h.foldlFst fun _ _ h => ?_)
  dsimp only
  split
  · exact h
  · exact h.postMsg

protected theorem memSound.sendCredit (h : memSound s) {dest desc iter n} : memSound (sendCredit s dest desc iter n) := h.postMsg

protected theorem memSound.makeViews (h : memSound s) {r c idx image} : memSound (makeViews s r c idx image) := by
  unfold makeViews
  dsimp only
  refine .ite h.abortPass ?_
  split
  · exact (h.foldl fun _ _ h => h.writeFrond.writeHeader.sealAt).wr
  · exact h.foldl fun _ _ h => h.writeFrond.writeHeader.sealAt

protected theorem memSound.startGather (h : memSound s) {r c} : memSound (startGather s r c).1 := by
  unfold startGather
  refine .foldlFst h fun _ _ h => ?_
  dsimp only
  exact h.bumpNum.noteOp.makeViews

protected theorem memSound.gatherIn (h : memSound s) {r c src hop idx image} : memSound (gatherIn s r c src hop idx image).1 :=
  .iteFst h h.makeViews

protected theorem memSound.roundG8 (h : memSound s) {r tid idx vals} : memSound (roundG8 s r tid idx vals).1 := h.bumpNum.noteOp

protected theorem memSound.keepSum (h : memSound s) {r c idx vals} : memSound (keepSum s r c idx vals) := by
  unfold keepSum
  split
  · split
    · exact .ite h h.upd
    · exact h
  · exact h

protected theorem memSound.formV (h : memSound s) {r c g j idx v} : memSound (formV s r c g j idx v).1 := h.keepSum

protected theorem memSound.stageTwo (h : memSound s) {r c g j hop idx inIm w} : memSound (stageTwo s r c g j hop idx inIm w).1 := by
  unfold stageTwo
  simp only [apply_ite Prod.fst]
  exact .ite h.roundG8 h.formV

protected theorem memSound.formU (h : memSound s) {r c g j idx u} : memSound (formU s r c g j idx u).1 := by
  unfold formU
  simp only [apply_ite Prod.fst]
  refine .ite h.keepSum (.foldlFst ?_ fun _ _ h => ?_)
  · dsimp only
    exact h.roundG8
  · exact h.stageTwo

protected theorem memSound.startReduce (h : memSound s) {r c} : memSound (startReduce s r c).1 :=
  h.foldlFst fun _ _ h => .iteFst (h.foldlFst fun _ _ h => h.formU) (h.foldlFst fun _ _ h => h)

protected theorem memSound.reduceIn (h : memSound s) {r c src stage hop idx image} :
    memSound (reduceIn s r c src stage hop idx image).1 := by
  unfold reduceIn
  dsimp only
  split
  · simp only [apply_ite Prod.fst]
    exact .ite h.roundG8 h.formU
  · split
    · exact h.stageTwo
    · exact h
  · split
    · exact h.keepSum
    · exact h

protected theorem memSound.startPermute (h : memSound s) {k} : memSound (startPermute s k) := h.upd.postAll

protected theorem memSound.permuteDecide (h : memSound s) : memSound (permuteDecide s) := by
  unfold permuteDecide
  dsimp only
  split
  · exact h
  · split
    · exact h
    · split
      · split
        · split
          · exact h.upd.foldl fun _ _ h => h.sendCredit
          · exact h.upd
        · exact h.upd
      · exact .ite h.upd.setF h.upd

protected theorem memSound.layoutIn (h : memSound s) {src n lay adopted dig} : memSound (layoutIn s src n lay adopted dig) := h

protected theorem memSound.permuteSend (h : memSound s) {shard i} : memSound (permuteSend s shard i) := by
  unfold permuteSend
  dsimp only
  split
  · exact h
  · split
    · exact h
    · refine h.foldl fun _ _ h => ?_
      split
      · exact h
      · split
        · exact h
        · split
          · exact h.countRead.readOutcome
          · refine .pump ?_
            split
            · exact h.upd
            · exact h

protected theorem memSound.permuteIn (h : memSound s) {id image} : memSound (permuteIn s id image) := by
  unfold permuteIn
  split
  · exact h
  · split
    · exact h
    · split
      · exact h
      · exact h.breakSeal.wr.sealAt.ftSet.upd

protected theorem memSound.startRun (h : memSound s) {k d c redo} : memSound (startRun s k d c redo) := by
  unfold startRun
  extract_lets iter direct early s1 credit r _ s2
  have h2 : memSound s2 := h.upd.foldl fun _ _ h => h.sendCredit
  split
  · exact h2.startGather.pump
  · exact h2.startReduce.pump
  · exact h2.setColl.startPermute

protected theorem memSound.issueAndStart (h : memSound s) {k} : memSound (issueAndStart s k) := by
  unfold issueAndStart
  dsimp only
  split
  · split
    · split
      · split
        · exact h.issueStep.startRun
        · exact h.issueStep
      · exact h.issueStep
    · exact h.issueStep
  · exact h.issueStep

protected theorem memSound.strayData (h : memSound s) : memSound (strayData s) := h.dropMsg.flag

protected theorem memSound.dataIn (h : memSound s) {src d iter stage hop idx n image} :
    memSound (dataIn s src d iter stage hop idx n image) := by
  unfold dataIn
  dsimp only
  split
  · exact h.dropMsg
  · split
    · split
      · exact h.sendCredit.gatherIn.pump
      · exact h.sendCredit.permuteIn
      · exact h.sendCredit.reduceIn.pump
    · exact h.strayData

protected theorem memSound.creditIn (h : memSound s) {src d iter n} : memSound (creditIn s src d iter n) := by
  unfold creditIn
  split
  · exact h.upd
  · exact h.pump

protected theorem memSound.forgetSlice (h : memSound s) {c} : memSound (forgetSlice s c) := by
  unfold forgetSlice
  split
  · exact h.upd
  · exact h

protected theorem memSound.reReduce (h : memSound s) {n} : memSound (reReduce s n) := by
  unfold reReduce
  split
  · split
    · exact .ite (h.upd.foldl fun _ _ h => .ite h h.forgetSlice.startRun) h
    · exact h
  · exact h

/-! ### Completion -/

protected theorem memSound.adoptPermute (h : memSound s) : memSound (adoptPermute s) := by
  unfold adoptPermute
  split
  · exact h
  · exact .ite h.setF.setF.upd.bumpF.flag.setF.setF.showPartner h.upd

protected theorem memSound.leaveUnit (h : memSound s) {u k} : memSound (leaveUnit s u k) := .ite h.setArray h.setUnit

protected theorem memSound.kindDone (h : memSound s) {u k l} : memSound (kindDone s u k l) := by
  unfold kindDone
  dsimp only
  split
  · split
    · exact h.setRun.foldl fun _ _ h => h.sealOutput
    · exact h
  · split
    · exact h.sweepGoes.iteThen (·.commitStep)
    · exact h.sweepGoes
  · split
    · split
      · exact (h.iteThen (·.adoptPermute)).upd.upd
      · exact (h.iteThen (·.adoptPermute)).upd.upd
      · exact (h.iteThen (·.adoptPermute)).upd
    · exact h
  · exact h

protected theorem memSound.stashDone (h : memSound s) {k l} : memSound (stashDone s k l) := .ite h.releaseStash h

protected theorem memSound.batchResults (h : memSound s) {q b r} : memSound (batchResults s q b r) :=
  .setQueue (h.foldl fun _ _ h => h.writeResult)

protected theorem memSound.batchDone (h : memSound s) {k} : memSound (batchDone s k) := by
  unfold batchDone
  split
  · exact h
  · split
    · exact .ite (.setQueue (.ite h.batchResults h)) (.ite h.batchResults h)
    · exact h

protected theorem memSound.planDone (h : memSound s) : memSound (planDone s) := by
  unfold planDone
  split
  · exact h
  · exact .ite h.setPlanState h

protected theorem memSound.commandResult (h : memSound s) {code tag result} : memSound (commandResult s code tag result) :=
  h.upd.setReg.raise

protected theorem memSound.cancelRequests (h : memSound s) : memSound (cancelRequests s) := h.upd.foldl fun _ _ h => h.writeResult

protected theorem memSound.clearCauses (h : memSound s) {mask} : memSound (clearCauses s mask) := .ite h (.ite h.setF.setF.upd h.setF)

protected theorem memSound.finishEnd (h : memSound s) : memSound (finishEnd s) :=
  h.cancelRequests.clearBytes.clearBytes.upd.endActivity.setF.setPlanState.clearCauses.commandResult

protected theorem memSound.endIfIdle (h : memSound s) : memSound (endIfIdle s) := .ite h.finishEnd h

protected theorem memSound.complete (h : memSound s) {u k l} : memSound (complete s u k l) :=
  h.leaveUnit.setRun.kindDone.scheduleSignals.launchOps.phaseDone.stashDone.batchDone.planDone.endIfIdle

protected theorem memSound.completeStep (h : memSound s) {u} : memSound (completeStep s u) := by
  unfold completeStep
  split
  · exact h
  · split
    · exact .ite h.complete h
    · exact h

protected theorem memSound.issueAll (h : memSound s) {k} : memSound (issueAll s k) := by
  unfold issueAll
  dsimp only
  split
  · exact .ite h.issueAndStart.phaseDone.stashDone.batchDone.planDone h.issueAndStart
  · exact h.issueAndStart

/-! ### The chain and its loss -/

protected theorem memSound.lossHold (h : memSound s) : memSound (lossHold s) := h.holdFault

protected theorem memSound.reportFault (h : memSound s) : memSound (reportFault s) := h.flag.lossHold

protected theorem memSound.normIn (h : memSound s) {src n pos loss grad abort part} :
    memSound (normIn s src n pos loss grad abort part) := by
  unfold normIn
  split
  · exact h.keepNorm
  · exact h

protected theorem memSound.normBodyIn (h : memSound s) {b} : memSound (normBodyIn s b) := h.normIn

protected theorem memSound.showStandIns (h : memSound s) : memSound (showStandIns s) := h

protected theorem memSound.reissueFetches (h : memSound s) {lost} : memSound (reissueFetches s lost) := by
  unfold reissueFetches
  refine h.foldl fun _ _ h => ?_
  split
  · exact h.upd.postMsg
  · exact .ite h.fetchFailed h.upd.flag

protected theorem memSound.directGathers (h : memSound s) : memSound (directGathers s) := by
  unfold directGathers
  refine h.foldl fun _ _ h => ?_
  split
  · refine .ite h (.pump (h.foldl fun _ _ h => ?_))
    split
    · exact h.sendCredit
    · exact h
  · exact h

protected theorem memSound.classify (h : memSound s) : memSound (classify s) := by
  unfold classify
  dsimp only
  split
  · exact h
  · split
    · exact h
    · split
      · exact .ite h.upd.setF.setF.setF h.upd
      · exact h.upd

protected theorem memSound.reportIn (h : memSound s) {reporter lost standIn norms} : memSound (reportIn s reporter lost standIn norms) := by
  unfold reportIn
  split
  · refine .ite (.classify ?_) h
    exact .ite (.upd (h.foldl fun _ _ h => h.ite h.normBodyIn)) (.reportFault (.upd (h.foldl fun _ _ h => h.ite h.normBodyIn)))
  · exact h

protected theorem memSound.lossBoundary (h : memSound s) {lost} : memSound (lossBoundary s lost) := by
  unfold lossBoundary
  extract_lets second wasPartner _ s1 s2 stand s3 s4 s5 s6 _ _ s7 s8 s9 early _ s10 s11 s12 s13
  have h4 : memSound s4 := h.upd.flag.setF.setF.setF.setF.showPartner.showStandIns
  have h5 : memSound s5 := .ite h4.flag h4
  have h9 : memSound s9 := h5.reissueFetches.upd.postAll.directGathers
  have h11 : memSound s11 := h9.upd.classify.foldl fun _ _ h => h.reportIn
  have h12 : memSound s12 := .ite h11.lossHold h11
  have h13 : memSound s13 := .ite h12.reportFault h12
  split
  · exact .ite h13.lossHold h13
  · exact h13

protected theorem memSound.lossReport (h : memSound s) {reporter lost standIn norms} :
    memSound (lossReport s reporter lost standIn norms) :=
  .ite h.reportIn h.upd

protected theorem memSound.reportTimeout (h : memSound s) : memSound (reportTimeout s) := by
  unfold reportTimeout
  split
  · exact .ite h.reportFault h
  · exact h

protected theorem memSound.resendChanged (h : memSound s) {old} : memSound (resendChanged old s) :=
  h.foldl fun _ _ h => .ite h h.upd.bumpF.transmit

protected theorem memSound.showLost (h : memSound s) : memSound (showLost s).1 := h.setF

protected theorem memSound.markLink (h : memSound s) {link reporter restored} : memSound (markLink s link reporter restored) :=
  have hl := h.upd.setF.setF.setF.setF.setF.showLost
  ((hl.ite hl.flag).foldl fun _ _ h => h.lossBoundary.ite h).resendChanged

protected theorem memSound.sendHeal (h : memSound s) {link reporter restored} : memSound (sendHeal s link reporter restored) :=
  h.foldl fun _ _ h => .ite h.postHop h

protected theorem memSound.healIn (h : memSound s) {link reporter restored} : memSound (healIn s link reporter restored) :=
  .ite h.bumpF h.bumpF.markLink.sendHeal

protected theorem memSound.addrError (h : memSound s) {code} : memSound (addrError s code) := .ite h.setF.setF.flag.postHop h

protected theorem memSound.errorIn (h : memSound s) {code sender} : memSound (errorIn s code sender) := by
  unfold errorIn
  refine .ite h.bumpF ?_
  extract_lets had s1
  have h1 : memSound s1 := h.bumpF.iteThen (·.setF.setF.flag)
  exact h1.ite h1.postHop

protected theorem memSound.announceFeed (h : memSound s) : memSound (announceFeed s) := h.setReg.postAll

protected theorem memSound.sendProbes (h : memSound s) : memSound (sendProbes s) :=
  .ite (h.foldl fun _ _ h => .ite h.postHop h) h.setPort.setPort

protected theorem memSound.closeChain (h : memSound s) {n} : memSound (closeChain s n) := h.setF.setF.upd.sendProbes.announceFeed

protected theorem memSound.tokenIn (h : memSound s) {port value origin} : memSound (tokenIn s port value origin) := by
  unfold tokenIn
  dsimp only
  split
  · exact h.bumpF
  · split
    · exact h.bumpF.addrError
    · split
      · exact h.bumpF
      · split
        · exact .ite h.bumpF.addrError (.ite h.bumpF h.bumpF.setF.postHop.closeChain)
        · split
          · exact .ite h.bumpF h.bumpF.addrError
          · exact .ite h.bumpF.addrError h.bumpF.upd.setF.postHop

protected theorem memSound.closureIn (h : memSound s) {port n origin} : memSound (closureIn s port n origin) := by
  unfold closureIn
  dsimp only
  split
  · exact h.bumpF
  · split
    · exact h.bumpF.addrError
    · split
      · exact h.bumpF
      · split
        · exact .ite h.bumpF h.bumpF.addrError
        · exact .ite (.ite h.bumpF h.bumpF.addrError) (.ite h.bumpF.addrError h.bumpF.postHop.closeChain)

protected theorem memSound.addressingTimeout (h : memSound s) : memSound (addressingTimeout s) := by
  unfold addressingTimeout
  split
  · exact h
  · split
    · split
      · exact .ite h.addrError h
      · exact h
    · split
      · exact .ite h.addrError h
      · exact h

protected theorem memSound.skipFault (h : memSound s) {port} : memSound (skipFault s port) := h

protected theorem memSound.probeIn (h : memSound s) {port sender} : memSound (probeIn s port sender) :=
  .ite h.bumpF (.ite h.bumpF.upd h.bumpF.skipFault)

protected theorem memSound.probeTimeout (h : memSound s) {port} : memSound (probeTimeout s port) := .ite h.skipFault h

protected theorem memSound.rejoinIn (h : memSound s) {addr n origin} : memSound (rejoinIn s addr n origin) :=
  .ite h.bumpF h.bumpF.setF.setF.setF.setF.upd.sendProbes.postHop

protected theorem memSound.rejoinCheck (h : memSound s) {e} : memSound (rejoinCheck s e) := .ite h (.ite h.upd.announceFeed h.addrError)

protected theorem memSound.headToken (h : memSound s) : memSound (headToken s) := .ite h.upd.postHop h

protected theorem memSound.trainPort (h : memSound s) {k trained} : memSound (trainPort s k trained) := by
  unfold trainPort
  refine .ite h (.ite ?_ ?_)
  · extract_lets _ s1 _ s2
    have h2 : memSound s2 := .ite h.setPort.setPortRun.upd h.setPort.setPortRun
    exact .ite h2.addrError h2.headToken
  · extract_lets _ s1 s2
    have h2 : memSound s2 := h.setPort.setPortRun.runFault
    exact .ite (.ite (.ite h2.setF.closeChain (.ite h2.addrError h2)) h2.addrError) h2

protected theorem memSound.portDown (h : memSound s) {k} : memSound (portDown s k) := by
  unfold portDown
  extract_lets s1 s2
  have h2 : memSound s2 := .ite h.setPort.runFault.requestActivity h.setPort.runFault
  exact .ite h (.ite (.ite (.ite h2 h2.markLink.sendHeal) (.ite h2.addrError h2)) h2)

protected theorem memSound.linkRetrain (h : memSound s) {k trained} : memSound (linkRetrain s k trained) := by
  unfold linkRetrain
  dsimp only
  have he {k n x} := (h.endActivity (x := x)).bumpF (f := F.CHN_PORT_retrains k) (n := n)
  exact .ite (.ite (.ite (he.setPort.setPortRun.iteThen (·.postHop)).markLink.sendHeal he.setPort.setPortRun) he.setPort) h

protected theorem memSound.replayIn (h : memSound s) {k ack} : memSound (replayIn s k ack) :=
  .ite h (.ite h.bumpF (.ite h.bumpF.setPortRun.send.portDown h.bumpF.setPortRun.send))

protected theorem memSound.flitIn (h : memSound s) {k crcOk ftype seq ack} : memSound (flitIn s k crcOk ftype seq ack) :=
  .ite h (.ite h.bumpF.send (.ite h.setPortRun.replayIn h.setPortRun))

protected theorem memSound.idleFlit (h : memSound s) {k} : memSound (idleFlit s k) := .ite h h.setPortRun.send

/-! ### Messages taken in -/

protected theorem memSound.syncIn (h : memSound s) {obj amount} : memSound (syncIn s obj amount) := .ite h.signal h.bumpF.setF

protected theorem memSound.requestIn (h : memSound s) {src id tag} : memSound (requestIn s src id tag) := .ite h.upd h.answerRequest

protected theorem memSound.dropFetch (h : memSound s) {tag} : memSound (dropFetch s tag) := h

protected theorem memSound.replyBad (h : memSound s) {j} : memSound (replyBad s j) := by
  unfold replyBad
  split
  · exact h.fetchFailed
  · split
    · exact h.dropFetch.repairFetch
    · exact h.dropFetch.repairHold
  · exact h.upd.flag

protected theorem memSound.replyGood (h : memSound s) {j image} : memSound (replyGood s j image) := by
  unfold replyGood
  dsimp only
  split
  · exact .switchHome (.ite h.dropFetch.breakSeal.wr.sealAt.bumpF h.dropFetch.breakSeal.wr.sealAt.ftSet)
  · exact .ite h.dropFetch.breakSeal.wr.sealAt.bumpF h.dropFetch.breakSeal.wr.sealAt.ftSet

protected theorem memSound.replyIn (h : memSound s) {id tag status data} : memSound (replyIn s id tag status data) := by
  unfold replyIn
  split
  · exact h
  · exact .answerWaiting (.ite h.replyGood h.replyBad)

protected theorem memSound.feedIn (h : memSound s) {sender feed} : memSound (feedIn s sender feed) := h.setReg.showPartner

protected theorem memSound.countIn (h : memSound s) {src n c} : memSound (countIn s src n c) := by
  unfold countIn
  split
  · exact h.upd
  · exact h

protected theorem memSound.clearMoved (h : memSound s) {id} : memSound (clearMoved s id) := .ite h h.ftSet

protected theorem memSound.ackIn (h : memSound s) {src seq} : memSound (ackIn s src seq) := h.upd.foldl fun _ _ h => .ite h.clearMoved h

protected theorem memSound.ackSend (h : memSound s) {src} : memSound (ackSend s src) := .ite h h.upd.bumpF.transmit

protected theorem memSound.resendDue (h : memSound s) {dest} : memSound (resendDue s dest) := h.foldl fun _ _ h => h.upd.bumpF.transmit

protected theorem memSound.kindEffect (h : memSound s) {m} : memSound (kindEffect s m) := by
  unfold kindEffect
  dsimp only
  split
  · exact h.syncIn
  · exact h.normBodyIn
  · exact h.digestIn
  · exact h.requestIn
  · exact h.replyIn
  · exact h.layoutIn
  · exact h.feedIn
  · exact h.lossReport
  · exact h.countIn
  · exact h.dataIn
  · exact h.creditIn
  · exact h

protected theorem memSound.oweAck (h : memSound s) {src count} : memSound (oweAck s src count) := .ite h.upd.ackSend h.upd

protected theorem memSound.takeMsg (h : memSound s) {m} : memSound (takeMsg s m) := .oweAck (.ite h.upd.dropMsg h.upd.bumpF.kindEffect)

protected theorem memSound.takeHeld (h : memSound s) {n src} : memSound (takeHeld n s src) := by
  induction n generalizing s with
  | zero => exact h
  | succ n ih =>
    unfold takeHeld
    dsimp only
    split
    · exact h
    · exact ih h.upd.takeMsg

protected theorem memSound.deliver (h : memSound s) {m} : memSound (deliver s m) := by
  unfold deliver
  split
  · exact h
  · split
    · exact h.dropMsg
    · exact .ite h.dropMsg.oweAck (.ite h.bumpF.ackIn (.ite h.takeMsg.takeHeld (.ite h.oweAck (.ite h h.upd))))

protected theorem memSound.forward (h : memSound s) {m} : memSound (forward s m) := .ite h h.transmit

/-! ### Intake -/

protected theorem memSound.showPayloadDone (h : memSound s) {n} : memSound (showPayloadDone n s) := by
  induction n generalizing s with
  | zero => exact h
  | succ n ih => exact .ite (ih h.upd.setF) h

protected theorem memSound.payloadRead (h : memSound s) {num} : memSound (payloadRead s num) := h.upd.showPayloadDone

protected theorem memSound.dropDesc (h : memSound s) {num} : memSound (dropDesc s num) := h.bumpF.flag.payloadRead

protected theorem memSound.descriptorStep (h : memSound s) : memSound (descriptorStep s) := by
  unfold descriptorStep
  dsimp only
  split
  · exact h
  · split
    · exact h.setF.dropDesc
    · split
      · exact h.setF.dropDesc
      · split
        · exact h
        · split
          · exact h.setF.dropDesc
          · exact .ite h.setF.dropDesc h.setF.upd

protected theorem memSound.subTail (h : memSound s) {t} : memSound (subTail s t) := .ite h.flag h.setF

protected theorem memSound.evTail (h : memSound s) {t} : memSound (evTail s t) := .ite h.setF h.setF.showEvRing

protected theorem memSound.freshEntry (h : memSound s) {id} : memSound (freshEntry s id) := .ite h.ftSet h

protected theorem memSound.writeImage (h : memSound s) {k b i n px} : memSound (writeImage s k b i n px) := by
  unfold writeImage
  dsimp only
  refine .foldl h fun _ _ h => ?_
  refine .foldl h fun _ _ h => ?_
  exact h.freshEntry.writeFrond.noteOp

protected theorem memSound.imageStep (h : memSound s) {batch slot0} : memSound (imageStep s batch slot0) := by
  unfold imageStep
  dsimp only
  split
  · exact h
  · split
    · exact h
    · exact .ite h h.writeImage.payloadRead.finishSlot

protected theorem memSound.sampleTimeout (h : memSound s) {batch slot0} : memSound (sampleTimeout s batch slot0) := by
  unfold sampleTimeout
  split
  · exact .ite h (.finishSlot (.ite h h.writeImage))
  · exact h

protected theorem memSound.packStep (h : memSound s) {batch} : memSound (packStep s batch) := by
  unfold packStep
  dsimp only
  split
  · exact h
  · split
    · exact h
    · refine .foldl (.upd (h.foldl fun _ _ h => h.freshEntry.breakSeal.wr.writeHeader.sealAt)) fun _ _ h => ?_
      split
      · exact h.payloadRead.finishSlot
      · exact h

protected theorem memSound.pressureStep (h : memSound s) : memSound (pressureStep s) := h

protected theorem memSound.countSend (h : memSound s) : memSound (countSend s) := by
  unfold countSend
  split
  · exact h
  · exact .ite h h.setF.setFmax.upd.countIn.postAll

end Sys2Proof.Machine
end

section
/-!
PROOFS. The canonical form of both memories: plan loading, the host, the envelope, croziers, the power modes and security.
-/

namespace Sys2Proof.Machine

variable {s t : State}

/-! ### Loading a plan -/

protected theorem memSound.placeFronds (h : memSound s) {p} : memSound (placeFronds s p) :=
  h.setF.setF.setF.clearBytes.clearBytes.foldl fun _ _ h => h.ftSet.upd

protected theorem memSound.placeSync (h : memSound s) {p} : memSound (placeSync s p) := h.upd.foldl fun _ _ h => h.setReg.upd

protected theorem memSound.placeRings (h : memSound s) {x} : memSound (placeRings s x) :=
  .foldl (h.setF.setF.setF.setF.foldl fun _ _ h => h.setF) fun _ _ h => h.setReg

protected theorem memSound.placeTraining (h : memSound s) {p} : memSound (placeTraining s p) :=
  h.setF.setF.setF.setF.setF.foldl fun _ _ h => h.setReg.setReg

protected theorem memSound.adoptRoles (h : memSound s) : memSound (adoptRoles s) := h.setF.setF.setF.upd.showPartner

protected theorem memSound.showSnapshots (h : memSound s) : memSound (showSnapshots s) :=
  .ite h.setReg.setReg (h.foldl fun _ _ h => h.setReg)

protected theorem memSound.placePlan (h : memSound s) {p im} : memSound (placePlan s p im) :=
  (h.upd.placeFronds.placeSync.placeRings.placeTraining.iteThen (·.wr)).adoptRoles.showSnapshots

protected theorem memSound.noteRestore (h : memSound s) {n k fixed refusal stored} : memSound (noteRestore s n k fixed refusal stored) := h

protected theorem memSound.restoreFrond (h : memSound s) {x} : memSound (restoreFrond s x) := h.wr.writeHeader.ftSet.upd

protected theorem memSound.restore (h : memSound s) {p k} : memSound (restore s p k).2 := by
  unfold restore
  dsimp only
  refine .iteSnd h.noteRestore (.iteSnd h.noteRestore (.iteSnd h.noteRestore (.iteSnd h.noteRestore (.iteSnd h.noteRestore ?_))))
  refine .iteThen (.setF (.noteRestore (.setF (.upd ?_)))) (·.flag)
  exact h.setF.foldl fun _ _ h => h.restoreFrond

/-! ### Host commands -/

protected theorem memSound.overrun (h : memSound s) : memSound (overrun s) := h.hostErr

protected theorem memSound.commandPending (h : memSound s) {code tag} : memSound (commandPending s code tag) := h

protected theorem memSound.loadFailed (h : memSound s) {e tag} : memSound (loadFailed s e tag) := h.setReg.setPlanState.commandResult

/-- The state with which a load ends, whether it succeeds or fails, is sound. -/
def LoadSound : Except (PlanFail × State) State → Prop
  | .error e => memSound e.2
  | .ok t => memSound t

protected theorem memSound.loadImage (h : memSound s) : LoadSound (loadImage s) := by
  unfold loadImage
  dsimp only
  split
  · exact h
  · split
    · exact h
    · split
      · exact h
      · split
        · exact h
        · split
          · exact h
          · split
            · exact h
            · split
              · split
                · exact h.setReg
                · split
                  · exact h
                  · exact h.placePlan
              · split
                · exact h.setReg
                · split
                  · exact h
                  · exact h.placePlan.restore

protected theorem memSound.loadNow (h : memSound s) {tag} : memSound (loadNow s tag) := by
  have hl := h.loadImage
  unfold loadNow
  split
  next he => rw [he] at hl; exact memSound.loadFailed hl
  next he => rw [he] at hl; exact (memSound.setReg hl).setPlanState.commandResult

protected theorem memSound.beginLoad (h : memSound s) {tag} : memSound (beginLoad s tag) :=
  .ite h.setPlanState.loadFailed (.ite h.setPlanState.loadNow h.setPlanState.commandPending)

protected theorem memSound.resumeLoad (h : memSound s) : memSound (resumeLoad s) := .ite h.loadNow h

protected theorem memSound.startPlan (h : memSound s) {tag} : memSound (startPlan s tag) := h.upd.setPlanState.commandResult

protected theorem memSound.stopPlan (h : memSound s) {tag} : memSound (stopPlan s tag) :=
  .commandResult (.setPlanState (.upd (.abandonMoves (.noteStop (.discard (h.setF.foldl fun _ _ h => h.stopPass))))))

protected theorem memSound.resumePlan (h : memSound s) {tag} : memSound (resumePlan s tag) :=
  h.setF.upd.setPlanState.restartAll.commandResult

protected theorem memSound.endPlan (h : memSound s) {tag} : memSound (endPlan s tag) := h.commandPending.endIfIdle

protected theorem memSound.requestTail (h : memSound s) {q t} : memSound (requestTail s q t) := by
  unfold requestTail
  split
  · exact h.hostErr.recordAccess
  · exact .ite h.hostErr h.setF

protected theorem memSound.bar0Refused (h : memSound s) {off size write} : memSound (bar0Refused s off size write) :=
  .ite h.hostErr.recordAccess h.hostErr.recordAccess.send

protected theorem memSound.apertureAccess (h : memSound s) {ep off size write} : memSound (apertureAccess s ep off size write) := by
  unfold apertureAccess
  dsimp only
  split
  · exact h
  · split
    · split
      · exact h.hostErr.recordAccess
      · exact h.hostErr.recordAccess.send
    · split
      · exact h.wr
      · exact h.send

protected theorem memSound.irqExpiry (h : memSound s) {v} : memSound (irqExpiry s v) := .ite h.upd.send h.upd

protected theorem memSound.numClear (h : memSound s) {v} : memSound (numClear s v) := .ite h.upd h

protected theorem memSound.ringTail (h : memSound s) {head tail err t} : memSound (ringTail s head tail err t) :=
  .ite h.setF h.setF.showRings

protected theorem memSound.hostSignal (h : memSound s) {o amount} : memSound (hostSignal s o amount) := .ite h.signal h.setF

protected theorem memSound.lchClear (h : memSound s) {v} : memSound (lchClear s v) := .ite h.upd h

/-! ### Metering and energy -/

protected theorem memSound.onRecord (h : memSound s) {f} : memSound (onRecord s f) := h

protected theorem memSound.recordFlag (h : memSound s) {b} : memSound (recordFlag s b) := h

protected theorem memSound.powerFlag (h : memSound s) {f} : memSound (powerFlag s f) := h.flag.send

protected theorem memSound.newCeiling (h : memSound s) {old} : memSound (newCeiling s old) := .ite h.setF.upd.powerFlag.recordFlag h.setF

protected theorem memSound.showLimit (h : memSound s) : memSound (showLimit s) := h

protected theorem memSound.noteIf (h : memSound s) {c b} : memSound (noteIf s c b) := .ite h.recordFlag h

protected theorem memSound.showGovernor (h : memSound s) : memSound (showGovernor s) := h.showLimit.noteIf.noteIf

protected theorem memSound.runSlew (h : memSound s) {more} : memSound (runSlew s more) := h

protected theorem memSound.moveSetpoint (h : memSound s) {v pFull more} : memSound (moveSetpoint s v pFull more) := h

protected theorem memSound.setpointStep (h : memSound s) {up pFull more} : memSound (setpointStep s up pFull more) :=
  .ite h.moveSetpoint.runSlew.showGovernor h

protected theorem memSound.depthChange (h : memSound s) {up} : memSound (depthChange s up) := .ite h.setF.showGovernor h

protected theorem memSound.compareMeters (h : memSound s) : memSound (compareMeters s) := .ite h.upd.powerFlag.recordFlag.runFault h

protected theorem memSound.judgePeak (h : memSound s) {b} : memSound (judgePeak s b) := .ite h.upd.powerFlag.bumpF.recordFlag h.upd

protected theorem memSound.judgeAverage (h : memSound s) : memSound (judgeAverage s) := .ite h.upd.powerFlag.bumpF.recordFlag h.upd

protected theorem memSound.recordBlock (h : memSound s) {vin b} : memSound (recordBlock s vin b) := h

protected theorem memSound.showDraw (h : memSound s) {vin iin w check} : memSound (showDraw s vin iin w check) := h

protected theorem memSound.countFloor (h : memSound s) : memSound (countFloor s) := h

protected theorem memSound.takeBlock (h : memSound s) {vin b} : memSound (takeBlock s vin b) := h

protected theorem memSound.judgeBlock (h : memSound s) {vin iin b} : memSound (judgeBlock s vin iin b) :=
  h.showDraw.recordBlock.compareMeters.judgePeak.judgeAverage.countFloor.showGovernor

protected theorem memSound.meterBlock (h : memSound s) {vin iin w check} : memSound (meterBlock s vin iin w check) :=
  .ite h (.ite h.takeBlock.judgeBlock h.takeBlock)

protected theorem memSound.envelopeHold (h : memSound s) : memSound (envelopeHold s) := .ite h.powerFlag.holdFault h

protected theorem memSound.inputRange (h : memSound s) {vin} : memSound (inputRange s vin) := .ite h h.upd.powerFlag.holdFault

protected theorem memSound.setWindow (h : memSound s) {off bs} : memSound (setWindow s off bs) := h.foldl fun _ _ h => h.setReg

protected theorem memSound.openRecord (h : memSound s) : memSound (openRecord s) := h

protected theorem memSound.queueRecord (h : memSound s) {i} : memSound (queueRecord s i) := h

protected theorem memSound.closeRecord (h : memSound s) {minute w extra} : memSound (closeRecord s minute w extra) :=
  h.setWindow.setF.queueRecord.openRecord

protected theorem memSound.nextMinute (h : memSound s) : memSound (nextMinute s) := h.closeRecord.setF.setF

protected theorem memSound.takeCeiling (h : memSound s) {m} : memSound (takeCeiling s m) := h.upd.newCeiling

protected theorem memSound.minuteBoundary (h : memSound s) : memSound (minuteBoundary s) := .ite h.nextMinute.takeCeiling h

protected theorem memSound.storeRecords (h : memSound s) : memSound (storeRecords s) := h

protected theorem memSound.signRecord (h : memSound s) {i} : memSound (signRecord s i) := h.setWindow.setF.upd

protected theorem memSound.energySigning (h : memSound s) : memSound (energySigning s) := by
  unfold energySigning
  split
  · exact h
  · exact .ite h.upd.signRecord.powerFlag h

/-! ### Staged register sets -/

protected theorem memSound.stageRefused (h : memSound s) : memSound (stageRefused s) := h

protected theorem memSound.stageWrite (h : memSound s) {src off v reach} : memSound (stageWrite s src off v reach) := by
  unfold stageWrite
  split
  · exact h.stageRefused
  · split
    · exact h.upd
    · exact h

protected theorem memSound.endClaim (h : memSound s) : memSound (endClaim s) := h

protected theorem memSound.takeClaim (h : memSound s) {src} : memSound (takeClaim s src) := h

protected theorem memSound.hostClaim (h : memSound s) : memSound (hostClaim s) := .ite h.takeClaim h

protected theorem memSound.hostRelease (h : memSound s) : memSound (hostRelease s) := .ite h.endClaim h

protected theorem memSound.claimTimeout (h : memSound s) : memSound (claimTimeout s) := .ite h.endClaim h

protected theorem memSound.discardSet (h : memSound s) {result offset} : memSound (discardSet s result offset) := by
  unfold discardSet
  split
  · exact h
  · exact h.upd.setReg.setF.bumpF.flag

protected theorem memSound.commitRequest (h : memSound s) {src atSlot target} : memSound (commitRequest s src atSlot target) :=
  .ite h.stageRefused (.ite h.upd.setF (.ite h.upd.setF h.upd.discardSet))

protected theorem memSound.commitAbort (h : memSound s) {src} : memSound (commitAbort s src) := by
  unfold commitAbort
  dsimp only
  split
  · exact h.stageRefused
  · split
    · split
      · exact .ite h.upd.discardSet h.upd.setF
      · exact h.upd.discardSet
    · exact h.upd.setF

protected theorem memSound.crozierAck (h : memSound s) : memSound (crozierAck s) := by
  unfold crozierAck
  split
  · exact h
  · exact .ite h (.ite h.discardSet h.upd.setF.setF)

protected theorem memSound.ackTimeout (h : memSound s) : memSound (ackTimeout s) := by
  unfold ackTimeout
  split
  · exact .ite h.discardSet h
  · exact h

protected theorem memSound.resetRings (h : memSound s) {offs} : memSound (resetRings s offs) :=
  ((h.iteThen (·.setF.setF)).iteThen (·.setF.setF)).showRings

protected theorem memSound.commitRoles (h : memSound s) {mask} : memSound (commitRoles s mask) := .ite (.showPartner (.ite h.upd h)) h

protected theorem memSound.commitThrottle (h : memSound s) {old} : memSound (commitThrottle s old) := h.onRecord.newCeiling.showGovernor

protected theorem memSound.applySet (h : memSound s) {z c} : memSound (applySet s z c) := by
  unfold applySet
  refine .flag (.bumpF (.setF (.setReg (.iteThen (.commitRoles (.resetRings (.upd (h.foldl fun _ _ h => ?_)))) (·.commitThrottle)))))
  split
  · exact h.setReg
  · exact h

protected theorem memSound.crozierCommit (h : memSound s) : memSound (crozierCommit s) := by
  unfold crozierCommit
  split
  · split
    · exact .ite h.applySet h
    · exact h
  · exact h

/-! ### Power modes -/

protected theorem memSound.command (h : memSound s) {code tag ok act} (ha : memSound (act s)) : memSound (command s code tag ok act) := by
  unfold command
  exact .ite h.overrun (.ite ha h.commandResult)

protected theorem memSound.coldState (h : memSound s) {m} : memSound (coldState s m) := ⟨reset_mem_wf.1, h.2⟩

protected theorem memSound.partialRecord (h : memSound s) : memSound (partialRecord s) := .ite h.closeRecord.storeRecords h

protected theorem memSound.perstAssert (h : memSound s) : memSound (perstAssert s) := .ite h.upd.partialRecord.coldState h.upd

protected theorem memSound.tripOff (h : memSound s) {code both} : memSound (tripOff s code both) := .ite h h.coldState.upd

protected theorem memSound.pwrRise (h : memSound s) {disconnectsOk detectorsOk lowMs} :
    memSound (pwrRise s disconnectsOk detectorsOk lowMs) :=
  .ite h (.ite h.coldState.upd (.ite h.coldState.upd h.coldState.upd))

protected theorem memSound.pwrFall (h : memSound s) : memSound (pwrFall s) := h.coldState.upd

protected theorem memSound.latchStrap (h : memSound s) {x} : memSound (latchStrap s x).2 := by
  cases x with
  | low => exact h
  | high => exact h
  | floating => exact h.takeFree

protected theorem memSound.latchStraps (h : memSound s) {xs} : memSound (latchStraps s xs).2 := by
  induction xs generalizing s with
  | nil => exact h
  | cons x xs ih => exact ih h.latchStrap

protected theorem memSound.showStraps (h : memSound s) {head feed slotId} : memSound (showStraps s head feed slotId) := h

protected theorem memSound.latchAll (h : memSound s) {x} : memSound (latchAll s x) := h.latchStrap.latchStraps.latchStraps.showStraps

protected theorem memSound.showTrip (h : memSound s) : memSound (showTrip s) := h

protected theorem memSound.perstDeassert (h : memSound s) {x} : memSound (perstDeassert s x) := .ite h.upd.coldState.latchAll.showTrip h.upd

protected theorem memSound.selfReset (h : memSound s) : memSound (selfReset s) := .ite h.partialRecord.coldState.showStraps.showTrip h

/-! ### Security -/

protected theorem memSound.showStore (h : memSound s) : memSound (showStore s) := h

protected theorem memSound.closeTier (h : memSound s) : memSound (closeTier s) := .ite h h.flag

protected theorem memSound.dropTenant (h : memSound s) : memSound (dropTenant s) := h.upd.setReg.closeTier

protected theorem memSound.dropSession (h : memSound s) : memSound (dropSession s) := h.upd.setWindow

protected theorem memSound.dropMap (h : memSound s) : memSound (dropMap s) := ⟨h.1, rfl⟩

protected theorem memSound.cryptoErase (h : memSound s) : memSound (cryptoErase s) := by
  unfold cryptoErase
  extract_lets had m s1 s2
  have h2 : memSound s2 := h.dropTenant.dropMap.iteThen (·.flag)
  clear_value m
  cases m with
  | none => exact h2.showStore
  | some a => exact h2.rangeFault.showStore

protected theorem memSound.logAlarm (h : memSound s) {code cls} : memSound (logAlarm s code cls) := h.setReg.setF.bumpF.flag

protected theorem memSound.lockWithdraw (h : memSound s) : memSound (lockWithdraw s) := by
  unfold lockWithdraw
  split
  · exact .ite h.discardSet h
  · exact h

protected theorem memSound.alarmLock (h : memSound s) {code} : memSound (alarmLock s code) :=
  .lockWithdraw (.ite h.logAlarm h.logAlarm.flag)

protected theorem memSound.alarm1 (h : memSound s) {code} : memSound (alarm1 s code) := .ite h.logAlarm.upd.alarmLock h.logAlarm.upd

protected theorem memSound.alarm3 (h : memSound s) {code} : memSound (alarm3 s code) := by
  unfold alarm3
  exact .cryptoErase (.dropSession (.lockWithdraw (.ite h.logAlarm h.logAlarm.flag)))

protected theorem memSound.glitch (h : memSound s) : memSound (glitch s) := .ite h.upd.alarm3 h.upd.alarm1

protected theorem memSound.secDone (h : memSound s) {op tag result} : memSound (secDone s op tag result) :=
  .ite h.setReg.flag.alarm1 h.setReg.flag

protected theorem memSound.attest (h : memSound s) {tag} : memSound (attest s tag) := .ite h.secDone (.ite h.secDone h.setWindow.secDone)

protected theorem memSound.installKey (h : memSound s) {k id c fresh} : memSound (installKey s k id c fresh) :=
  .showStore (.setF (.setReg (.upd (.ite h.dropMap.upd h))))

protected theorem memSound.keyLoad (h : memSound s) {tag} : memSound (keyLoad s tag) := by
  unfold keyLoad
  dsimp only
  refine .ite h.secDone (.ite h.secDone (.ite h.secDone (.ite h.secDone (.ite h.secDone (.ite h.secDone ?_)))))
  split
  · exact h.secDone
  · exact .ite h.secDone (.ite h.secDone h.installKey.secDone)

protected theorem memSound.tokenErase (h : memSound s) {t} : memSound (tokenErase s t) :=
  (h.iteThen (·.dropSession.dropTenant)).iteThen (·.dropMap)

protected theorem memSound.tokenWrite (h : memSound s) {t} : memSound (tokenWrite s t) := by
  unfold tokenWrite
  dsimp only
  split <;> exact h.upd

protected theorem memSound.lifecycleToken (h : memSound s) {tag} : memSound (lifecycleToken s tag) := by
  unfold lifecycleToken
  dsimp only
  refine .secDone (.setReg (.takeFree ?_))
  split
  · exact h
  · simp only [apply_ite Prod.snd]
    exact .ite h (.ite h.setF h.tokenErase.tokenWrite.showStore)

protected theorem memSound.raiseFloor (h : memSound s) {tag} : memSound (raiseFloor s tag) := by
  unfold raiseFloor
  dsimp only
  split
  · exact h.secDone
  · split
    · exact h.secDone
    · split
      · exact h.secDone
      · split
        · exact .ite h.secDone h.upd.showStore.secDone
        · exact h.secDone

protected theorem memSound.storeCertificate (h : memSound s) {tag} : memSound (storeCertificate s tag) :=
  .ite h.secDone (.ite h.secDone h.upd.setWindow.setF.secDone)

protected theorem memSound.secReserved (h : memSound s) {op tag} : memSound (secReserved s op tag) := h

protected theorem memSound.newSession (h : memSound s) {id} : memSound (newSession s id) := h.upd.setWindow.setF

protected theorem memSound.keyRotation (h : memSound s) : memSound (keyRotation s) := .ite h (.ite h.endActivity h.endActivity.newSession)

protected theorem memSound.breach (h : memSound s) : memSound (breach s) := by
  unfold breach
  exact .ite h.alarm3.upd.selfReset.setF h.alarm3.upd.selfReset

protected theorem memSound.meshMeasure (h : memSound s) {trace0 trace1 shorted} : memSound (meshMeasure s trace0 trace1 shorted) :=
  .ite (.breach (.ite h.setF.setF h)) (.ite h.setF.setF h)

end Sys2Proof.Machine
end

section
/-!
PROOFS. The canonical form of both memories: bring-up, supervision, maintenance and the register accesses; then every command and the step.
-/

namespace Sys2Proof.Machine

variable {s t : State}

/-! ### Bring-up -/

protected theorem memSound.showImage (h : memSound s) {off bs reason selected} : memSound (showImage s off bs reason selected) := h

protected theorem memSound.imageAlarm (h : memSound s) {reason} : memSound (imageAlarm s reason) := .ite h.alarm1 h

protected theorem memSound.selectImage (h : memSound s) {readA readB} : memSound (selectImage s readA readB) :=
  h.imageAlarm.imageAlarm.showImage.showImage.setF.setF

protected theorem memSound.noteFail (h : memSound s) {code die} : memSound (noteFail s code die) := h

protected theorem memSound.stopBringup (h : memSound s) : memSound (stopBringup s) := h.flag

protected theorem memSound.fenceControl (h : memSound s) {die} : memSound (fenceControl s die) := h.setF.setF.flag

protected theorem memSound.fenceUnit (h : memSound s) {u} : memSound (fenceUnit s u) :=
  .ite h.fenceArray (.ite h.fenceVe h.fenceArray.fenceArray.fenceVe)

protected theorem memSound.phaseFail (h : memSound s) {phase r} : memSound (phaseFail s phase r) := by
  unfold phaseFail
  split
  · exact h.noteFail.fenceControl
  · exact h.noteFail.upd
  · exact h.noteFail.stopBringup.upd.flag.holdFault
  · exact h.noteFail.fenceUnit
  · exact h.noteFail.stopBringup.holdCause
  · exact h.noteFail.stopBringup.holdCause
  · exact h.noteFail.upd
  · exact h

protected theorem memSound.checkStore (h : memSound s) : memSound (checkStore s) :=
  .showStore (.ite (.upd (.ite h.upd.flag.alarmLock h)) (.ite h.upd.flag.alarmLock h))

protected theorem memSound.newChain (h : memSound s) : memSound (newChain s) := h.upd.recordFlag.powerFlag

protected theorem memSound.restoreJournal (h : memSound s) : memSound (restoreJournal s) := by
  unfold restoreJournal
  extract_lets n s1 s2 s3 signed due _ s4
  have h2 : memSound s2 := h.upd.foldl fun _ _ h => h.setWindow
  have h4 : memSound s4 := by
    refine .upd ?_
    subst s3
    split
    · exact h2.setWindow.setF
    · exact h2
  split
  · exact h4.ite h4.recordFlag
  · exact h4

protected theorem memSound.mountFlash (h : memSound s) {journalOk} : memSound (mountFlash s journalOk) := by
  unfold mountFlash
  extract_lets s1 s2 s3 s4 f5 s5
  have h1 : memSound s1 := .ite h.restoreJournal h.newChain
  have h3 : memSound s3 := .ite h1.setF.setF.setWindow.setF h1.setF.setF
  exact .ite h3 (.showStore (.ite h3.setF.upd h3.setF.upd.setReg))

protected theorem memSound.phaseWork (h : memSound s) {phase r} : memSound (phaseWork s phase r) := by
  unfold phaseWork
  split
  · exact h.checkStore
  · exact h.selectImage
  · exact h.clearBytes
  · exact h.mountFlash
  · exact h

protected theorem memSound.bringupPhase (h : memSound s) {n r} : memSound (bringupPhase s n r) := .ite h h.upd.phaseFail.phaseWork.setF

protected theorem memSound.applyImage (h : memSound s) : memSound (applyImage s) := h.foldl fun _ _ h => .ite h h.setReg

protected theorem memSound.startGovernor (h : memSound s) {mv pFull} : memSound (startGovernor s mv pFull) :=
  h.upd.setF.setF.setF.setF.setF.showGovernor

protected theorem memSound.startKeys (h : memSound s) : memSound (startKeys s) := .setReg (.takeFree (.ite h.newSession h))

protected theorem memSound.startRoles (h : memSound s) : memSound (startRoles s) := h.upd.showPartner

protected theorem memSound.deviceReady (h : memSound s) {ms mv pFull} : memSound (deviceReady s ms mv pFull) :=
  .ite h h.applyImage.closeRecord.startGovernor.startKeys.startRoles.setF.setF.upd.setF.setF

protected theorem memSound.bringupTimeout (h : memSound s) : memSound (bringupTimeout s) := .ite h h.noteFail.stopBringup.holdCause

protected theorem memSound.cfgFailed (h : memSound s) {result reason} : memSound (cfgFailed s result reason) := h.setF.setF.flag

protected theorem memSound.setCopy (h : memSound s) {copyB bs} : memSound (setCopy s copyB bs) := h

protected theorem memSound.cfgProgram (h : memSound s) {bytes} : memSound (cfgProgram s bytes) := by
  unfold cfgProgram
  dsimp only
  split
  · exact h.setF.cfgFailed
  · split
    · exact h.setF.cfgFailed
    · exact .ite h.setF.cfgFailed (.ite h.setF.cfgFailed.imageAlarm h.setF.setCopy.setReg.upd)

protected theorem memSound.cfgDone (h : memSound s) {flashOk} : memSound (cfgDone s flashOk) := by
  unfold cfgDone
  dsimp only
  split
  · exact h
  · refine .ite h.upd.setF.cfgFailed (.ite ?_ ?_)
    · exact h.upd.setF.setCopy.setF.cfgFailed.imageAlarm
    · exact h.upd.setF.setCopy.setF.setF.setF.flag

/-! ### Supervision -/

protected theorem memSound.junctionTrip (h : memSound s) {die} : memSound (junctionTrip s die) := h.tripOff

protected theorem memSound.showThermal (h : memSound s) : memSound (showThermal s) :=
  .setF (.ite h.setF.setF.flag (.ite h.setF.setF.setF h.setF.setF))

protected theorem memSound.sensorsLost (h : memSound s) {d t} : memSound (sensorsLost s d t) := h.holdFault

protected theorem memSound.judgeSensors (h : memSound s) {d old new} : memSound (judgeSensors s d old new) :=
  .ite h (.ite h.flag (.ite h.flag.sensorsLost h.flag.logFault))

protected theorem memSound.sensorRead (h : memSound s) {d t0 t1} : memSound (sensorRead s d t0 t1) :=
  .ite h (.ite h.upd.showThermal.judgeSensors.alarm3 h.upd.showThermal.judgeSensors)

protected theorem memSound.junctionHold (h : memSound s) {d c} : memSound (junctionHold s d c) := .ite h h.holdFault

protected theorem memSound.flowRead (h : memSound s) {r} : memSound (flowRead s r) := .ite (.upd (.ite h.setF h)) (.upd (.ite h.setF h))

protected theorem memSound.coolantLow (h : memSound s) : memSound (coolantLow s) := .ite h.holdFault h

protected theorem memSound.refFault (h : memSound s) : memSound (refFault s) := h.upd.flag.holdFault

protected theorem memSound.refWindow (h : memSound s) {ppm} : memSound (refWindow s ppm) := .ite h (.ite h.setF.refFault h.setF)

protected theorem memSound.missingEdge (h : memSound s) {mismatch} : memSound (missingEdge s mismatch) := .ite h h.refFault

protected theorem memSound.controlDisagree (h : memSound s) : memSound (controlDisagree s) := .ite h h.upd.bumpF

protected theorem memSound.loseControl (h : memSound s) {die} : memSound (loseControl s die) :=
  .ite h.fenceControl.logFault.discardSet h.fenceControl.logFault

protected theorem memSound.muteControl (h : memSound s) : memSound (muteControl s) := h

protected theorem memSound.selfCheckEnd (h : memSound s) {ok96 ok97 equal} : memSound (selfCheckEnd s ok96 ok97 equal) := by
  unfold selfCheckEnd
  dsimp only
  split
  · exact h
  · split
    · exact .ite h.upd.bumpF h.upd.holdFault
    · exact h.upd.loseControl
    · exact h.upd.loseControl
    · exact h.upd.muteControl

protected theorem memSound.singleCheck (h : memSound s) {pass} : memSound (singleCheck s pass) := .ite h.muteControl h

protected theorem memSound.heartbeat (h : memSound s) {die} : memSound (heartbeat s die) := .ite h.upd h

protected theorem memSound.watchdog (h : memSound s) : memSound (watchdog s) := .ite h.tripOff h

protected theorem memSound.syncFailed (h : memSound s) {o} : memSound (syncFailed s o) := h.upd.setReg.holdFault

protected theorem memSound.leaveHold (h : memSound s) : memSound (leaveHold s) := .ite h (.ite h.setPlanState h.setPlanState.restartAll)

protected theorem memSound.safResume (h : memSound s) {v} : memSound (safResume s v) := .ite h.clearCauses.leaveHold h.flag

/-! ### Maintenance -/

protected theorem memSound.beginActivity (h : memSound s) {x} : memSound (beginActivity s x) := .ite h.runActivity.setArray h.runActivity

protected theorem memSound.maintenanceStart (h : memSound s) {x} : memSound (maintenanceStart s x) :=
  .ite (.beginActivity (.ite h.requestActivity h)) (.ite h.requestActivity h)

protected theorem memSound.bistCmd (h : memSound s) {kind unit} : memSound (bistCmd s kind unit) := .ite h.setF (.ite h h.requestActivity)

protected theorem memSound.clearFence (h : memSound s) {x} : memSound (clearFence s x) := by
  unfold clearFence
  split
  · exact h
  · split
    · exact h.setReg.setF
    · exact h.upd
    · exact h.setF.setF
    · exact h

protected theorem memSound.poisonRegion (h : memSound s) {r} : memSound (poisonRegion s r) := h.runFault.foldl fun _ _ h => h.readOutcome

protected theorem memSound.failUnit (h : memSound s) {x} : memSound (failUnit s x) := by
  unfold failUnit
  dsimp only
  split
  · exact .ite h.bumpF.flag.logFault h.bumpF.flag.logFault.fenceArray
  · exact .ite h.bumpF.flag.logFault h.bumpF.flag.veFault
  · exact h.bumpF.flag.poisonRegion
  · exact .ite h.bumpF.flag.logFault h.bumpF.flag.channelStep
  · exact h.bumpF.flag.setPortRun.runFault

protected theorem memSound.noteSlice (h : memSound s) {x found} : memSound (noteSlice s x found) := h

protected theorem memSound.sliceEnd (h : memSound s) {found} : memSound (sliceEnd s found) := by
  unfold sliceEnd
  split
  · exact h
  · refine .ite h ?_
    extract_lets s1 _ s2
    have h2 : memSound s2 := h.endActivity.noteSlice.iteThen (·.setArray)
    split
    · exact h2.clearFence
    · exact h2.failUnit
    · exact h2.bumpF.requestActivity

protected theorem memSound.sensorCalibration (h : memSound s) {d} : memSound (sensorCalibration s d) := by
  unfold sensorCalibration
  refine .ite h (.ite h.endActivity ?_)
  extract_lets c sf s2
  have h2 : memSound s2 := h.endActivity.upd
  exact .ite h2.sensorsLost (.ite h2.upd.bumpF.showThermal h2)

protected theorem memSound.impedanceCalibration (h : memSound s) {port} : memSound (impedanceCalibration s port) := h

/-! ### Register accesses and the rack controller -/

protected theorem memSound.writeFields (h : memSound s) {off r v reach} : memSound (writeFields s off r v reach) := h

protected theorem memSound.commitNone (h : memSound s) {src} : memSound (commitNone s src) := .ite h.upd h.stageRefused

protected theorem memSound.registerWrite (h : memSound s) {off size v} : memSound (registerWrite s off size v) := by
  unfold registerWrite
  dsimp only
  split
  · exact h.bar0Refused
  · split
    · exact h
    · split
      · exact .ite h.commitNone h
      · split
        · exact h
        · split
          · exact h.writeFields
          · exact h

protected theorem memSound.stWrite (h : memSound s) {off size v} : memSound (stWrite s off size v) := by
  unfold stWrite
  dsimp only
  split
  · exact h.bar0Refused
  · split
    · exact .ite h.stageWrite h
    · exact h

protected theorem memSound.entdaa (h : memSound s) {a} : memSound (entdaa s a) := h

protected theorem memSound.pldm (h : memSound s) {ptype sensor} : memSound (pldm s ptype sensor) := .ite h.send h

protected theorem memSound.mctpDrop (h : memSound s) {mtype} : memSound (mctpDrop s mtype) := h

protected theorem memSound.sensorUpdate (h : memSound s) : memSound (sensorUpdate s) := h

protected theorem memSound.rackReply (h : memSound s) {status ws} : memSound (rackReply s status ws) := h

protected theorem memSound.rackRead (h : memSound s) {off count} : memSound (rackRead s off count) := .ite h.rackReply h.rackReply

protected theorem memSound.commitWrite (h : memSound s) {src v} : memSound (commitWrite s src v) := by
  unfold commitWrite
  split
  · exact h.commitRequest
  · exact h.commitAbort
  · exact h.commitNone

protected theorem memSound.rackWrite (h : memSound s) {off v} : memSound (rackWrite s off v) :=
  .ite h.rackReply (.ite h.commitWrite.rackReply (.ite h.stageWrite.rackReply h.rackReply))

protected theorem memSound.rackClaim (h : memSound s) : memSound (rackClaim s) := .rackReply (.takeClaim (.ite h.endClaim h))

protected theorem memSound.rackRelease (h : memSound s) : memSound (rackRelease s) := .ite h.endClaim.rackReply h.rackReply

/-! ### Commands and the step -/

protected theorem memSound.hostStep (h : memSound s) {f} (hf : memSound (f s)) : memSound (hostStep s f) := .ite hf h

protected theorem memSound.rackStep (h : memSound s) {f} (hf : memSound (f s)) : memSound (rackStep s f) := .ite hf h

/-- An outcome whose next state, if it has one, has both memories in canonical form. -/
def KeepsMemories (o : Host.Outcome State Fault Refusal) : Prop := ∀ t, o = .next t → memSound t

protected theorem memSound.next (h : memSound s) : KeepsMemories (.next s) := by
  rintro _ ⟨⟩
  exact h

protected theorem memSound.settle (h : memSound s) (ht : memSound t) : KeepsMemories (settle s t) := .next (.ite ht.upd h)

protected theorem memSound.settleAny (ht : memSound t) : KeepsMemories (settleAny s t) := .next ht.upd

protected theorem memSound.settleFuse (ht : memSound t) : KeepsMemories (settleFuse s t) := .next ht.upd

/-- Every command keeps the form: what its operation keeps, through the outcome that it settles to. -/
theorem exec_keepsMemories (h : memSound s) (c : Instr) : KeepsMemories (exec c s) := by
  cases c with
  | pwrEnRise => exact h.pwrRise.settleAny
  | pwrEnFall => exact h.pwrFall.settleAny
  | perstNDeassert => exact h.perstDeassert.settleAny
  | perstNAssert => exact h.perstAssert.settleAny
  | bringupPhaseEnd => exact memSound.settleFuse (.ite h.bringupPhase h)
  | deviceReady => exact h.settle h.deviceReady
  | bringupTimeout => exact h.settle h.bringupTimeout
  | slotBoundary => exact h.settle (.ite h.advanceSlot.resumeLoad h)
  | crozierCommit => exact h.settle h.crozierCommit
  | signalTakesEffect => exact h.settle h.signalsDue
  | anchorSet => exact h.settle h.anchorStep
  | launchIssue => exact h.settle h.issueAll
  | launchBegin => exact h.settle h.beginStep
  | launchComplete => exact h.settle h.completeStep
  | waitTimeout => exact h.settle h.timeoutStep
  | arrayStep => exact h.settle h.arrayStep
  | intermediateCheck => exact h.settle h.intermediateStep
  | drain => exact h.settle h.drainStep
  | tileRestart => exact h.settle h.restartTiles
  | drainFault => exact h.settle h.drainFaultStep
  | vectorEngineFault => exact h.settle h.veFault
  | passRestart => exact h.settle h.passRestart
  | batchLaunch => exact h.settle h.batchStep
  | requestDescriptor => exact h.settle h.requestStep
  | rowAccepted => exact h.settle h.acceptStep
  | moveFrond => exact h.settle h.moveStep
  | viewCopy => exact h.settle h.viewStep
  | failedRead => exact h.settle h.failedRead
  | sramUncorrectable => exact h.settle h.sramStep
  | viewRemake => exact h.settle h.remakeStep
  | partnerFetchTimeout => exact h.settle h.fetchTimeout
  | flashPageRead => exact h.settle h.pageStep
  | pageRebuild => exact h.settle h.rebuildStep
  | stripeWrite => exact h.settle h.stripeStep
  | ledgerStore => exact h.settle h.ledgerStep
  | onfiChannelFail => exact h.settle h.channelStep
  | flashWearMove => exact h.settle h.wearStep
  | dramScrub => exact h.settle h.scrubStep
  | reduceAdd => exact h.settle h.reduceStep
  | reduceAdderFault => exact h.settle h.adderFault
  | finalQuantisation => exact h.settle h.quantShard
  | normMessageSend => exact h.settle h.normSend
  | normDecision => exact h.settle h.normDecision
  | normTimeout => exact h.settle h.normTimeout
  | updateGroup => exact h.settle h.sweepStep
  | sweepTimeout => exact h.settle h.sweepTimeout
  | updateEngineFault => exact h.settle h.engineFault
  | digestCompute => exact h.settle h.digestStep1
  | digestEngineFault => exact h.settle h.digestFault
  | digestRepair => exact h.settle h.digestRepair
  | groupRepair => exact h.settle h.groupRepair
  | snapshotWrite => exact h.settle h.snapshotStep
  | flitReceive => exact h.settle h.flitIn
  | replayRequest => exact h.settle h.replayIn
  | idleFlit => exact h.settle h.idleFlit
  | portDown => exact h.settle h.portDown
  | portTraining => exact h.settle (.ite h.trainPort h)
  | addressToken => exact h.settle h.tokenIn
  | closure => exact h.settle h.closureIn
  | errorNotice => exact h.settle h.errorIn
  | addressingTimeout => exact h.settle h.addressingTimeout
  | skipProbe => exact h.settle h.probeIn
  | skipProbeTimeout => exact h.settle h.probeTimeout
  | rejoinToken => exact h.settle h.rejoinIn
  | rejoinCheck => exact h.settle h.rejoinCheck
  | healNotice => exact h.settle h.healIn
  | linkRetrain => exact h.settle h.linkRetrain
  | acknowledgement => exact h.settle h.ackIn
  | ackSend => exact h.settle h.ackSend
  | messageResend => exact h.settle h.resendDue
  | messageDeliver => exact h.settle h.deliver
  | messageForward => exact h.settle h.forward
  | syncMsg => exact h.settle h.syncIn
  | normMsg => exact h.settle h.normIn
  | digestMsg => exact h.settle h.digestIn
  | partnerRequest => exact h.settle h.requestIn
  | partnerReply => exact h.settle h.replyIn
  | layoutMsg => exact h.settle h.layoutIn
  | permuteDecision => exact h.settle h.permuteDecide
  | permuteTransfer => exact h.settle h.permuteSend
  | feedAnnounce => exact h.settle h.feedIn
  | lossReport => exact h.settle h.lossReport
  | lossReportTimeout => exact h.settle h.reportTimeout
  | reReduce => exact h.settle h.reReduce
  | countMsg => exact h.settle h.countIn
  | countMessageSend => exact h.settle h.countSend
  | collectiveData => exact h.settle h.dataIn
  | credit => exact h.settle h.creditIn
  | sampleDescriptor => exact h.settle h.descriptorStep
  | sampleTimeout => exact h.settle h.sampleTimeout
  | imageSample => exact h.settle h.imageStep
  | textPack => exact h.settle h.packStep
  | pressureWindow => exact h.settle h.pressureStep
  | load => exact h.settle (.hostStep h (.command h h.beginLoad))
  | start => exact h.settle (.hostStep h (.command h h.startPlan))
  | stop => exact h.settle (.hostStep h (.command h h.stopPlan))
  | resume => exact h.settle (.hostStep h (.command h h.resumePlan))
  | endPlan => exact h.settle (.hostStep h (.command h h.endPlan))
  | commandReserved => exact h.settle (.hostStep h (.ite h (.command h h)))
  | commandOverrun => exact h.settle (.hostStep h h.overrun)
  | release => exact h.settle (.hostStep h h.releaseStep)
  | requestTail => exact h.settle (.hostStep h h.requestTail)
  | bar2InvalidWrite => exact h.settle (.hostStep h (.ite h h.hostErr.recordAccess))
  | bar0BadAccess => exact h.settle (.hostStep h (.ite h h.bar0Refused))
  | apertureAccess => exact h.settle (.hostStep h h.apertureAccess)
  | registerWrite => exact h.settle (.hostStep h h.registerWrite)
  | stWrite => exact h.settle (.hostStep h h.stWrite)
  | arrInject => exact h.settle (.hostStep h h.injectStep)
  | numClear => exact h.settle (.hostStep h h.numClear)
  | numRingTail => exact h.settle (.hostStep h h.ringTail)
  | lchTsRingTail => exact h.settle (.hostStep h h.ringTail)
  | lchSyncSignal => exact h.settle (.hostStep h h.hostSignal)
  | lchClear => exact h.settle (.hostStep h h.lchClear)
  | intSubTail => exact h.settle (.hostStep h h.subTail)
  | intEvTail => exact h.settle (.hostStep h h.evTail)
  | hostClaim => exact h.settle (.hostStep h h.hostClaim)
  | hostRelease => exact h.settle (.hostStep h h.hostRelease)
  | claimTimeout => exact h.settle h.claimTimeout
  | commitRequest => exact h.settle (.hostStep h h.commitRequest)
  | commitAbort => exact h.settle (.hostStep h h.commitAbort)
  | crozierAck => exact h.settle h.crozierAck
  | crozierAckTimeout => exact h.settle h.ackTimeout
  | cfgProgram => exact h.settle (.hostStep h h.cfgProgram)
  | cfgProgramDone => exact h.settle h.cfgDone
  | safResume => exact h.settle (.hostStep h h.safResume)
  | safBistCmd => exact h.settle (.hostStep h h.bistCmd)
  | attest => exact h.settle (.hostStep h h.attest)
  | keyLoad => exact h.settle (.hostStep h h.keyLoad)
  | erase => exact h.settle (.hostStep h h.cryptoErase.secDone)
  | lifecycleToken => exact memSound.settleFuse (.ite (.hostStep h h.lifecycleToken) h)
  | raiseFloor => exact memSound.settleFuse (.ite (.hostStep h h.raiseFloor) h)
  | storeCertificate => exact h.settle (.hostStep h h.storeCertificate)
  | secCommandReserved => exact h.settle (.hostStep h h.secReserved)
  | secCommandOverrun => exact h.settle (.hostStep h h.setF)
  | irqCoalesceExpiry => exact h.settle h.irqExpiry
  | meterBlock => exact h.meterBlock.settleAny
  | envelopeHold => exact h.settle h.envelopeHold
  | inputRange => exact h.settle h.inputRange
  | setpointStep => exact h.settle h.setpointStep
  | depthChange => exact h.settle h.depthChange
  | minuteBoundary => exact h.settle h.minuteBoundary
  | energySigning => exact h.settle h.energySigning
  | journalWrite => exact h.settle h.storeRecords
  | entdaa => exact h.settle (.rackStep h h.entdaa)
  | mctpControl => exact h.settle (.rackStep h h.send)
  | pldm => exact h.settle (.rackStep h h.pldm)
  | mctpOtherDrop => exact h.settle (.rackStep h h.mctpDrop)
  | sensorUpdate => exact h.settle h.sensorUpdate
  | read => exact h.settle (.rackStep h h.rackRead)
  | write => exact h.settle (.rackStep h h.rackWrite)
  | claim => exact h.settle (.rackStep h h.rackClaim)
  | releaseClaim => exact h.settle (.rackStep h h.rackRelease)
  | overcurrentTrip => exact h.tripOff.settleAny
  | overvoltageTrip => exact h.tripOff.settleAny
  | railTrip => exact h.tripOff.settleAny
  | coreRailUnder => exact h.settle h.holdFault
  | sensorRead => exact h.settle h.sensorRead
  | junctionHold => exact h.settle h.junctionHold
  | junctionTrip => exact h.junctionTrip.settleAny
  | flowRead => exact h.settle h.flowRead
  | coolantFlowLow => exact h.settle h.coolantLow
  | refDeviationWindow => exact h.settle h.refWindow
  | missingEdge => exact h.settle h.missingEdge
  | refclkLoss => exact h.settle h.setF
  | controlDisagree => exact h.settle h.controlDisagree
  | selfCheckEnd => exact h.settle h.selfCheckEnd
  | singleControlCheck => exact h.settle h.singleCheck
  | heartbeat => exact h.settle h.heartbeat
  | watchdogExpiry => exact h.watchdog.settleAny
  | dieSilent => exact h.settle h.holdFault
  | packageLinkError => exact h.settle h.holdFault
  | syncObjectFailed => exact h.settle h.syncFailed
  | maintenanceStart => exact h.settle h.maintenanceStart
  | bistSliceEnd => exact h.settle h.sliceEnd
  | sensorCalibration => exact h.settle h.sensorCalibration
  | linkImpedanceCalibration => exact h.settle h.impedanceCalibration
  | keyRotation => exact h.settle h.keyRotation
  | glitchDetector => exact h.settle h.glitch
  | meshMeasure => exact h.meshMeasure.settleFuse
  | refclkReturn => exact h.settle h.setF
  | inputPowerLoss => exact h.pwrFall.settleAny
  | keyStoreIntegrityFail => exact h.settle h.alarm3

/-- Settles O59, by one lemma per operation of the model and one case per command. -/
theorem theMemoriesStayCanonical : Obligations.TheMemoriesStayCanonical := by
  intro s t h
  suffices hk : KeepsMemories (step s) from hk t
  unfold step
  split
  · exact h.next
  · exact exec_keepsMemories h.upd _

end Sys2Proof.Machine
end

section
/-!
PROOFS. FLASH_PAGE_READ, PAGE_REBUILD, STRIPE_WRITE and LEDGER_STORE (R182 to R186): which of its outcomes each comes to, and the frame of
that outcome.
-/

namespace Sys2Proof.Machine

theorem only_lastFail (s : State) (p outcome : Nat) : Only [] [Off.FLS_LAST_FAIL] s (lastFail s p outcome) := only_setReg s _ _

theorem getReg_lastFail (s : State) (p outcome : Nat) :
    getReg (lastFail s p outcome) Off.FLS_LAST_FAIL = BitVec.ofNat 64 (p % 2 ^ 33 + 2 ^ 33 * pageChannel p + 2 ^ 38 * outcome) :=
  getReg_setReg_self s _ _

@[simp] theorem lastFail_fls (s : State) (p outcome : Nat) : (lastFail s p outcome).fls = s.fls := setReg_fls s _ _

@[simp] theorem lastFail_maint (s : State) (p outcome : Nat) : (lastFail s p outcome).maint = s.maint := setReg_maint s _ _

/-! ### FLASH_PAGE_READ, R182 step 1 -/

/-- A page listed, once, among those that wait for their rebuild. -/
def awaitRebuild (s : State) (p : Nat) : State := { s with fls := { s.fls with failed := s.fls.failed.filter (· != p) ++ [p] } }

section
variable {s : State} {p : Nat} (hc : channelFenced s (pageChannel p) = false)
include hc

theorem pageStep_of_decodes (r : Nat) (ok : Bool) : pageStep s p true r ok = s := by simp [pageStep, hc]

theorem pageStep_of_reread (r : Nat) : pageStep s p false r true = lastFail (bumpF s F.FLS_RETRY_CNT_count (min 3 r)) p 0 := by
  simp [pageStep, hc]

theorem pageStep_of_rereads_fail (r : Nat) : pageStep s p false r false = awaitRebuild (bumpF s F.FLS_RETRY_CNT_count 3) p := by
  simp [pageStep, hc, awaitRebuild]

end

theorem does_flashPageRead_reread (s : State) (p r : Nat) (h : Up s) (hc : channelFenced s (pageChannel p) = false) :
    Does (.flashPageRead p false r true) s fun t =>
      getF t F.FLS_RETRY_CNT_count = min (2 ^ 64 - 1) (getF s F.FLS_RETRY_CNT_count + min 3 r) ∧
      getReg t Off.FLS_LAST_FAIL = BitVec.ofNat 64 (p % 2 ^ 33 + 2 ^ 33 * pageChannel p) ∧
      Only [] [Off.FLS_RETRY_CNT, Off.FLS_LAST_FAIL] s t := by
  have hlast := only_lastFail (bumpF s F.FLS_RETRY_CNT_count (min 3 r)) p 0
  have hframe : Only [] [Off.FLS_RETRY_CNT, Off.FLS_LAST_FAIL] s (lastFail (bumpF s F.FLS_RETRY_CNT_count (min 3 r)) p 0) :=
    ((only_bumpF s F.FLS_RETRY_CNT_count (min 3 r)).mono (by simp) (by decide)).trans (hlast.mono (by simp) (by decide))
  refine does_eq rfl (pageStep_of_reread hc r) h hframe (by decide) (by decide) ⟨?_, getReg_lastFail _ p 0, hframe⟩
  exact (hlast.field _ (by decide)).trans (getF_bumpF_same s F.FLS_RETRY_CNT_count _ (by decide))

theorem does_flashPageRead_rereads_fail (s : State) (p r : Nat) (h : Up s) (hc : channelFenced s (pageChannel p) = false) :
    Does (.flashPageRead p false r false) s fun t => p ∈ t.fls.failed ∧
      getF t F.FLS_RETRY_CNT_count = min (2 ^ 64 - 1) (getF s F.FLS_RETRY_CNT_count + 3) ∧ Only [.fls] [Off.FLS_RETRY_CNT] s t := by
  have hframe : Only [.fls] [Off.FLS_RETRY_CNT] s (awaitRebuild (bumpF s F.FLS_RETRY_CNT_count 3) p) :=
    ((only_bumpF s F.FLS_RETRY_CNT_count 3).mono (by simp) (by decide)).trans ((only_fls _ _).mono (fun _ h => h) (by simp))
  refine does_eq rfl (pageStep_of_rereads_fail hc r) h hframe (by decide) (by decide) ⟨by simp [awaitRebuild], ?_, hframe⟩
  exact getF_bumpF_same s F.FLS_RETRY_CNT_count 3 (by decide)

theorem does_flashPageRead_decodes (s : State) (p r : Nat) (ok : Bool) (h : Up s) (hc : channelFenced s (pageChannel p) = false) :
    Does (.flashPageRead p true r ok) s fun t => t = s :=
  does_eq rfl (pageStep_of_decodes hc r ok) h (Only.rfl' [] [] s) (by decide) (by decide) rfl

/-! ### PAGE_REBUILD, R182 steps 2 and 3 -/

/-- What a rebuild leaves before its outcome is known: counted, the page off the list, its block to retire, a wear activity asked for. -/
def rebuildBegun (s : State) (p : Nat) : State :=
  let t := bumpF s F.FLS_REBUILD_CNT_count 1
  requestActivity { t with fls := { t.fls with failed := t.fls.failed.filter (· != p), retire := t.fls.retire ++ [p] } } ⟨2, 0, 0⟩

theorem only_rebuildBegun (s : State) (p : Nat) : Only [.fls, .maint] [Off.FLS_REBUILD_CNT, Off.SAF_MAINT] s (rebuildBegun s p) :=
  ((only_bumpF s F.FLS_REBUILD_CNT_count 1).mono (by simp) (by decide)).trans
    (((only_fls _ _).mono (by decide) (by simp)).trans ((only_requestActivity _ _).mono (by decide) (by decide)))

theorem fls_rebuildBegun (s : State) (p : Nat) :
    (rebuildBegun s p).fls = { s.fls with failed := s.fls.failed.filter (· != p), retire := s.fls.retire ++ [p] } :=
  (only_requestActivity _ _).1 .fls (by decide)

theorem not_mem_failed_rebuildBegun (s : State) (p : Nat) : p ∉ (rebuildBegun s p).fls.failed := by simp [fls_rebuildBegun]

theorem mem_retire_rebuildBegun (s : State) (p : Nat) : p ∈ (rebuildBegun s p).fls.retire := by simp [fls_rebuildBegun]

theorem mem_maint_rebuildBegun (s : State) (p : Nat) :
    ⟨2, 0, 0⟩ ∈ (rebuildBegun s p).maint.waiting ∨ ⟨2, 0, 0⟩ ∈ (rebuildBegun s p).maint.running :=
  mem_requestActivity _ _

theorem hasF_flash_closed_rebuildBegun (s : State) (p : Nat) :
    hasF (rebuildBegun s p) F.FLS_STATUS_flash_closed = hasF s F.FLS_STATUS_flash_closed :=
  (only_rebuildBegun s p).hasF_eq _ (by decide)

theorem rebuildStep_of_others {s : State} {p : Nat} (hp : p ∈ s.fls.failed) (hc : hasF s F.FLS_STATUS_flash_closed = false) :
    rebuildStep s p true = lastFail (rebuildBegun s p) p 1 := by
  have hclosed : (true && !hasF (rebuildBegun s p) F.FLS_STATUS_flash_closed) = true := by rw [hasF_flash_closed_rebuildBegun, hc]; rfl
  unfold rebuildStep
  rw [if_pos (by simpa using hp)]
  exact if_pos hclosed

/-- What a rebuild that fails shows before its fault is logged. -/
def rebuildLost (s : State) (p : Nat) : State := flag (lastFail (rebuildBegun s p) p 2) F.FLS_STATUS_flash_poison_seen 6

theorem rebuildStep_of_lost {s : State} {p : Nat} (hp : p ∈ s.fls.failed) :
    rebuildStep s p false = runFault (rebuildLost s p) 0x11 (92 + pageChannel p / 8) (pageChannel p) 0 := by
  unfold rebuildStep
  rw [if_pos (by simpa using hp)]
  exact if_neg (by simp)

theorem only_lastFail_rebuildBegun (s : State) (p outcome : Nat) :
    Only [.fls, .maint] [Off.FLS_REBUILD_CNT, Off.FLS_LAST_FAIL, Off.SAF_MAINT] s (lastFail (rebuildBegun s p) p outcome) :=
  ((only_rebuildBegun s p).mono (fun _ h => h) (by decide)).trans ((only_lastFail _ p outcome).mono (by simp) (by decide))

theorem does_pageRebuild_others (s : State) (p : Nat) (h : Up s) (hp : p ∈ s.fls.failed) (hc : hasF s F.FLS_STATUS_flash_closed = false) :
    Does (.pageRebuild p true) s fun t => p ∉ t.fls.failed ∧ p ∈ t.fls.retire ∧
      (⟨2, 0, 0⟩ ∈ t.maint.waiting ∨ ⟨2, 0, 0⟩ ∈ t.maint.running) ∧
      getReg t Off.FLS_LAST_FAIL = BitVec.ofNat 64 (p % 2 ^ 33 + 2 ^ 33 * pageChannel p + 2 ^ 38) ∧
      Only [.fls, .maint] [Off.FLS_REBUILD_CNT, Off.FLS_LAST_FAIL, Off.SAF_MAINT] s t := by
  have hframe := only_lastFail_rebuildBegun s p 1
  refine does_eq rfl (rebuildStep_of_others hp hc) h hframe (by decide) (by decide) ⟨?_, ?_, ?_, ?_, hframe⟩
  · simpa using not_mem_failed_rebuildBegun s p
  · simpa using mem_retire_rebuildBegun s p
  · simpa using mem_maint_rebuildBegun s p
  · rw [getReg_lastFail, Nat.mul_one]

theorem does_pageRebuild_lost (s : State) (p : Nat) (h : Up s) (hp : p ∈ s.fls.failed) :
    Does (.pageRebuild p false) s fun t => p ∉ t.fls.failed ∧ hasF t F.FLS_STATUS_flash_poison_seen = true ∧
      Only ([.fls, .maint] ++ eventParts) ([Off.FLS_REBUILD_CNT, Off.FLS_LAST_FAIL, Off.SAF_MAINT, Off.FLS_STATUS] ++ logRegs s) s t := by
  have hlost : Only ([.fls, .maint] ++ eventParts)
      ([Off.FLS_REBUILD_CNT, Off.FLS_LAST_FAIL, Off.SAF_MAINT, Off.FLS_STATUS] ++ eventRegs) s (rebuildLost s p) :=
    ((only_lastFail_rebuildBegun s p 2).mono (by decide) (by decide)).trans ((only_flag _ _ 6).mono (by decide) (by decide))
  have hlog := only_runFault (rebuildLost s p) 0x11 (92 + pageChannel p / 8) (pageChannel p) 0
  rw [logRegs_congr (hlost.reg Off.SAF_LOG_HEAD (by decide))] at hlog
  have hframe : Only ([.fls, .maint] ++ eventParts) ([Off.FLS_REBUILD_CNT, Off.FLS_LAST_FAIL, Off.SAF_MAINT, Off.FLS_STATUS] ++ logRegs s) s
      (runFault (rebuildLost s p) 0x11 (92 + pageChannel p / 8) (pageChannel p) 0) :=
    (hlost.mono (fun _ h => h) (by simp [eventRegs, logRegs])).trans (hlog.mono (by decide) fun _ h => List.mem_append_right _ h)
  refine does_eq rfl (rebuildStep_of_lost hp) h hframe (by decide) (by decide) ⟨?_, ?_, hframe⟩
  · simpa [rebuildLost] using not_mem_failed_rebuildBegun s p
  · rw [hlog.hasF_eq _ (not_mem_logRegs s Off.FLS_STATUS (by decide) (by decide))]
    exact hasF_flag _ F.FLS_STATUS_flash_poison_seen 6 (by decide) (by decide) (by decide)

/-! ### STRIPE_WRITE, R183 and R185 -/

/-- A write of stripes that the credit covers. -/
def stripesWritten (s : State) (mib : Nat) : State :=
  let t := bumpF (setF (setF s F.FLS_STATUS_credit_wait 0) F.FLS_CREDIT_mib (getF s F.FLS_CREDIT_mib - mib)) F.FLS_WRITTEN_mib mib
  { t with fls := { s.fls with granted := s.fls.granted + 1024 * mib, debited := s.fls.debited + mib, written := s.fls.written + 1 } }

theorem only_stripesWritten (s : State) (mib : Nat) :
    Only [.fls] [Off.FLS_CREDIT, Off.FLS_WRITTEN, Off.FLS_STATUS] s (stripesWritten s mib) :=
  ((only_setF s F.FLS_STATUS_credit_wait 0).mono (by simp) (by decide)).trans
    (((only_setF _ F.FLS_CREDIT_mib _).mono (by simp) (by decide)).trans
      (((only_bumpF _ F.FLS_WRITTEN_mib mib).mono (by simp) (by decide)).trans ((only_fls _ _).mono (fun _ h => h) (by simp))))

theorem getF_credit_stripesWritten (s : State) (mib : Nat) :
    getF (stripesWritten s mib) F.FLS_CREDIT_mib = getF s F.FLS_CREDIT_mib - mib := by
  have hlt : getF s F.FLS_CREDIT_mib < 2 ^ 32 := getF_lt s F.FLS_CREDIT_mib
  have hset := getF_setF_same (setF s F.FLS_STATUS_credit_wait 0) F.FLS_CREDIT_mib (getF s F.FLS_CREDIT_mib - mib) (by decide)
  have hmod : (getF s F.FLS_CREDIT_mib - mib) % 2 ^ 32 = getF s F.FLS_CREDIT_mib - mib := Nat.mod_eq_of_lt (by omega)
  exact (getF_bumpF_other _ F.FLS_WRITTEN_mib _ mib (by decide) (by decide)).trans (hset.trans hmod)

theorem hasF_credit_wait_stripesWritten (s : State) (mib : Nat) : hasF (stripesWritten s mib) F.FLS_STATUS_credit_wait = false := by
  have hbump := getF_bumpF_other (setF (setF s F.FLS_STATUS_credit_wait 0) F.FLS_CREDIT_mib (getF s F.FLS_CREDIT_mib - mib))
    F.FLS_WRITTEN_mib F.FLS_STATUS_credit_wait mib (by decide) (by decide)
  rw [getF_setF_other _ F.FLS_CREDIT_mib _ _ (by decide) (by decide), getF_setF_same _ _ _ (by decide)] at hbump
  exact bne_eq_false_iff_eq.mpr hbump

section
variable {s : State} (ho : hasF s F.FLS_STATUS_flash_closed = false) (hf : getF s F.FLS_CH_FENCED_fenced = 0)
include ho hf

theorem stripeStep_of_covered {mib : Nat} (hm : mib ≤ getF s F.FLS_CREDIT_mib) : stripeStep s mib = stripesWritten s mib := by
  have hcredit : getF (setF s F.FLS_STATUS_credit_wait 0) F.FLS_CREDIT_mib = getF s F.FLS_CREDIT_mib :=
    getF_setF_other s _ _ 0 (by decide) (by decide)
  unfold stripeStep stripesWritten
  simp [ho, hf, Nat.not_lt.mpr hm, hcredit]

theorem stripeStep_of_short {mib : Nat} (hm : getF s F.FLS_CREDIT_mib < mib) : stripeStep s mib = setF s F.FLS_STATUS_credit_wait 1 := by
  simp [stripeStep, ho, hf, hm]

end

theorem does_stripeWrite_covered (s : State) (mib : Nat) (h : Up s) (ho : hasF s F.FLS_STATUS_flash_closed = false)
    (hf : getF s F.FLS_CH_FENCED_fenced = 0) (hm : mib ≤ getF s F.FLS_CREDIT_mib) :
    Does (.stripeWrite mib) s fun t =>
      getF t F.FLS_CREDIT_mib = getF s F.FLS_CREDIT_mib - mib ∧ hasF t F.FLS_STATUS_credit_wait = false ∧
      t.fls.granted = s.fls.granted + 1024 * mib ∧ t.fls.debited = s.fls.debited + mib ∧ t.fls.written = s.fls.written + 1 ∧
      Only [.fls] [Off.FLS_CREDIT, Off.FLS_WRITTEN, Off.FLS_STATUS] s t :=
  have hframe := only_stripesWritten s mib
  does_eq rfl (stripeStep_of_covered ho hf hm) h hframe (by decide) (by decide)
    ⟨getF_credit_stripesWritten s mib, hasF_credit_wait_stripesWritten s mib, rfl, rfl, rfl, hframe⟩

theorem does_stripeWrite_short (s : State) (mib : Nat) (h : Up s) (ho : hasF s F.FLS_STATUS_flash_closed = false)
    (hf : getF s F.FLS_CH_FENCED_fenced = 0) (hm : getF s F.FLS_CREDIT_mib < mib) :
    Does (.stripeWrite mib) s fun t => hasF t F.FLS_STATUS_credit_wait = true ∧ Only [] [Off.FLS_STATUS] s t :=
  have hframe := only_setF s F.FLS_STATUS_credit_wait 1
  does_eq rfl (stripeStep_of_short ho hf hm) h hframe (by decide) (by decide) ⟨hasF_setF_one s _ (by decide) (by decide), hframe⟩

/-! ### LEDGER_STORE, R185 -/

/-- The credit stored, with a new count of what is debited. -/
def creditStored (s : State) : State :=
  { s with fls := { s.fls with stored := getF s F.FLS_CREDIT_mib, debited := 0, storedAt := slot s } }

theorem ledgerStep_of_due {s : State} (hd : 65536 ≤ s.fls.debited ∨ s.fls.storedAt + 2343750000 ≤ slot s) :
    ledgerStep s = creditStored s :=
  if_pos (by simpa using hd)

theorem ledgerStep_of_early {s : State} (hd : s.fls.debited < 65536) (ht : slot s < s.fls.storedAt + 2343750000) : ledgerStep s = s :=
  if_neg (by simp [hd, ht])

theorem does_ledgerStore_due (s : State) (h : Up s) (hd : 65536 ≤ s.fls.debited ∨ s.fls.storedAt + 2343750000 ≤ slot s) :
    Does .ledgerStore s fun t =>
      t.fls.stored = getF s F.FLS_CREDIT_mib ∧ t.fls.debited = 0 ∧ t.fls.storedAt = slot s ∧ Only [.fls] [] s t :=
  have hframe := only_fls s (creditStored s).fls
  does_eq rfl (ledgerStep_of_due hd) h hframe (by decide) (by decide) ⟨rfl, rfl, rfl, hframe⟩

theorem does_ledgerStore_early (s : State) (h : Up s) (hd : s.fls.debited < 65536) (ht : slot s < s.fls.storedAt + 2343750000) :
    Does .ledgerStore s fun t => t = s :=
  does_eq rfl (ledgerStep_of_early hd ht) h (Only.rfl' [] [] s) (by decide) (by decide) rfl

/-- Settles O22: one clause for each outcome of the page read, the rebuild, the stripe write and the ledger. -/
theorem flashPagesAndCreditAreKept : Obligations.FlashPagesAndCreditAreKept :=
  ⟨does_flashPageRead_reread, does_flashPageRead_rereads_fail, does_flashPageRead_decodes, does_pageRebuild_others, does_pageRebuild_lost,
    does_stripeWrite_covered, does_stripeWrite_short, does_ledgerStore_due, does_ledgerStore_early⟩

end Sys2Proof.Machine
end

section
/-!
PROOFS. ONFI_CHANNEL_FAIL, FLASH_WEAR_MOVE and DRAM_SCRUB (R160, R183, R186): what a channel failure shows before and after its fault is
logged, an activity that ends, and a codeword written back as it was read.
-/

namespace Sys2Proof.Machine

theorem getF_setFmax_same (s : State) (f : Field) (v : Nat) (h : f.hi < 64) : getF (setFmax s f v) f = Nat.min f.max v := by
  unfold setFmax
  rw [getF_setF_same _ _ _ h]
  apply Nat.mod_eq_of_lt
  have hmin : Nat.min f.max v ≤ f.max := Nat.min_le_left _ _
  have hmax : f.max < 2 ^ (f.hi + 1 - f.lo) := Nat.sub_lt (Nat.two_pow_pos _) Nat.one_pos
  omega

theorem hasF_flag_other (s : State) (f g : Field) (n : Nat) (hf : f.hi < 64) (ha : f.apart g = true) (hg : g.off ≠ Off.HST_IRQ_PENDING) :
    hasF (flag s f n) g = hasF s g := by
  unfold hasF; rw [getF_flag_other s f g n hf ha hg]

/-! ### ONFI_CHANNEL_FAIL, R186 -/

/-- A failed channel fenced, its repair asked for. -/
def channelLost (s : State) (h : Nat) : State :=
  requestActivity (setF s F.FLS_CH_FENCED_fenced (getF s F.FLS_CH_FENCED_fenced ||| 2 ^ h)) ⟨0, 3, h⟩

/-- The degraded tier, with its fault in the log. -/
def tierDegraded (s : State) (h : Nat) : State :=
  logFault (flag (channelLost s h) F.FLS_STATUS_flash_degraded 6) 0x12 1 (92 + h / 8) h 0

section
variable {s : State} {h : Nat} (hh : h < 32) (hc : channelFenced s h = false)
include hh hc

theorem channelStep_of_first (h0 : getF s F.FLS_CH_FENCED_fenced = 0) : channelStep s h = tierDegraded s h := by
  unfold channelStep
  rw [if_neg (by simp [hc, hh])]
  exact if_pos h0

theorem channelStep_of_second (h0 : getF s F.FLS_CH_FENCED_fenced ≠ 0) :
    channelStep s h = flag (tierDegraded s h) F.FLS_STATUS_flash_closed 6 := by
  unfold channelStep
  rw [if_neg (by simp [hc, hh])]
  exact if_neg h0

end

theorem only_channelLost (s : State) (h : Nat) : Only [.maint] [Off.FLS_CH_FENCED, Off.SAF_MAINT] s (channelLost s h) :=
  ((only_setF s F.FLS_CH_FENCED_fenced _).mono (by simp) (by decide)).trans ((only_requestActivity _ _).mono (fun _ h => h) (by decide))

theorem only_tierDegraded (s : State) (h : Nat) :
    Only (.maint :: eventParts) ([Off.FLS_CH_FENCED, Off.FLS_STATUS, Off.SAF_MAINT] ++ logRegs s) s (tierDegraded s h) := by
  have hflagged : Only (.maint :: eventParts) ([Off.FLS_CH_FENCED, Off.FLS_STATUS, Off.SAF_MAINT] ++ eventRegs) s
      (flag (channelLost s h) F.FLS_STATUS_flash_degraded 6) :=
    ((only_channelLost s h).mono (by decide) (by decide)).trans ((only_flag _ F.FLS_STATUS_flash_degraded 6).mono (by decide) (by decide))
  have hlog := only_logFault (flag (channelLost s h) F.FLS_STATUS_flash_degraded 6) 0x12 1 (92 + h / 8) h 0
  rw [logRegs_congr (hflagged.reg Off.SAF_LOG_HEAD (by decide))] at hlog
  exact (hflagged.mono (fun _ h => h) (by simp [eventRegs, logRegs])).trans (hlog.mono (by decide) fun _ h => List.mem_append_right _ h)

/-- A field of FLS_CH_FENCED or FLS_STATUS that a log entry leaves alone. -/
theorem getF_tierDegraded (s : State) (h : Nat) {f : Field} (hf : f.off ∈ [Off.FLS_CH_FENCED, Off.FLS_STATUS]) :
    getF (tierDegraded s h) f = getF (flag (channelLost s h) F.FLS_STATUS_flash_degraded 6) f := by
  refine (only_logFault _ 0x12 1 (92 + h / 8) h 0).field f ?_
  rcases List.mem_pair.mp hf with ho | ho <;> rw [ho]
  · exact not_mem_logRegs _ Off.FLS_CH_FENCED (by decide) (by decide)
  · exact not_mem_logRegs _ Off.FLS_STATUS (by decide) (by decide)

theorem channelFenced_tierDegraded (s : State) {h : Nat} (hh : h < 32) : channelFenced (tierDegraded s h) h = true := by
  unfold channelFenced
  rw [getF_tierDegraded s h (by decide), getF_flag_other _ _ _ 6 (by decide) (by decide) (by decide), channelLost,
    (only_requestActivity _ _).field F.FLS_CH_FENCED_fenced (by decide), getF_setF_same _ _ _ (by decide)]
  change ((getF s F.FLS_CH_FENCED_fenced ||| 2 ^ h) % 2 ^ 32).testBit h = true
  rw [Nat.testBit_mod_two_pow, Nat.testBit_or, Nat.testBit_two_pow_self]
  simp [hh]

theorem hasF_degraded_tierDegraded (s : State) (h : Nat) : hasF (tierDegraded s h) F.FLS_STATUS_flash_degraded = true := by
  unfold hasF
  rw [getF_tierDegraded s h (by decide)]
  exact hasF_flag _ F.FLS_STATUS_flash_degraded 6 (by decide) (by decide) (by decide)

theorem does_onfiChannelFail (s : State) (h : Nat) (hu : Up s) (hh : h < 32) (hc : channelFenced s h = false) :
    Does (.onfiChannelFail h) s fun t => channelFenced t h = true ∧ hasF t F.FLS_STATUS_flash_degraded = true ∧
      (getF s F.FLS_CH_FENCED_fenced ≠ 0 → hasF t F.FLS_STATUS_flash_closed = true) ∧
      Only (.maint :: eventParts) ([Off.FLS_CH_FENCED, Off.FLS_STATUS, Off.SAF_MAINT] ++ logRegs s) s t := by
  have hframe := only_tierDegraded s h
  have hfenced := channelFenced_tierDegraded s hh
  have hdegraded := hasF_degraded_tierDegraded s h
  by_cases h0 : getF s F.FLS_CH_FENCED_fenced = 0
  · exact does_eq rfl (channelStep_of_first hh hc h0) hu hframe (by decide) (by decide) ⟨hfenced, hdegraded, absurd h0, hframe⟩
  · have hclose := only_flag (tierDegraded s h) F.FLS_STATUS_flash_closed 6
    have hframe2 := hframe.trans (hclose.mono (by decide) (by simp [eventRegs, logRegs, F.FLS_STATUS_flash_closed]))
    refine does_eq rfl (channelStep_of_second hh hc h0) hu hframe2 (by decide) (by decide) ⟨?_, ?_, fun _ => ?_, hframe2⟩
    · unfold channelFenced at hfenced ⊢
      rwa [hclose.field _ (by decide)]
    · rwa [hasF_flag_other _ _ _ 6 (by decide) (by decide) (by decide)]
    · exact hasF_flag _ F.FLS_STATUS_flash_closed 6 (by decide) (by decide) (by decide)

/-! ### FLASH_WEAR_MOVE, R183 -/

theorem only_endActivity (s : State) (x : Activity) : Only [.maint] [Off.SAF_MAINT] s (endActivity s x) :=
  ((only_maint s _).mono (fun _ h => h) (by simp)).trans ((only_showMaint _).mono (by simp) (fun _ h => h))

theorem not_mem_endActivity (s : State) (x : Activity) :
    x ∉ (endActivity s x).maint.running ∧ x ∉ (endActivity s x).maint.waiting := by
  simp [endActivity]

/-- Blocks counted as retired, and none left to retire. -/
def blocksRetired (s : State) (n : Nat) : State :=
  let t := setFmax s F.FLS_WEAR_retired (getF s F.FLS_WEAR_retired + n)
  { t with fls := { t.fls with retire := [], written := t.fls.written + 1 } }

theorem wearStep_of_open {s : State} (n : Nat) (ho : hasF s F.FLS_STATUS_flash_closed = false) :
    wearStep s n = endActivity (blocksRetired s n) ⟨2, 0, 0⟩ :=
  if_neg (by simp [ho])

theorem only_blocksRetired (s : State) (n : Nat) : Only [.fls] [Off.FLS_WEAR] s (blocksRetired s n) :=
  ((only_setFmax s F.FLS_WEAR_retired _).mono (by simp) (by decide)).trans ((only_fls _ _).mono (fun _ h => h) (by simp))

theorem getF_retired_blocksRetired (s : State) (n : Nat) :
    getF (blocksRetired s n) F.FLS_WEAR_retired = min (2 ^ 16 - 1) (getF s F.FLS_WEAR_retired + n) :=
  getF_setFmax_same s F.FLS_WEAR_retired _ (by decide)

theorem does_flashWearMove (s : State) (n : Nat) (h : Up s) (ho : hasF s F.FLS_STATUS_flash_closed = false) :
    Does (.flashWearMove n) s fun t =>
      getF t F.FLS_WEAR_retired = min (2 ^ 16 - 1) (getF s F.FLS_WEAR_retired + n) ∧ t.fls.retire = [] ∧
      ⟨2, 0, 0⟩ ∉ t.maint.running ∧ ⟨2, 0, 0⟩ ∉ t.maint.waiting ∧ Only [.fls, .maint] [Off.FLS_WEAR, Off.SAF_MAINT] s t := by
  have hend := only_endActivity (blocksRetired s n) ⟨2, 0, 0⟩
  have hframe : Only [.fls, .maint] [Off.FLS_WEAR, Off.SAF_MAINT] s (endActivity (blocksRetired s n) ⟨2, 0, 0⟩) :=
    ((only_blocksRetired s n).mono (by decide) (by decide)).trans (hend.mono (by decide) (by decide))
  obtain ⟨hrun, hwait⟩ := not_mem_endActivity (blocksRetired s n) ⟨2, 0, 0⟩
  refine does_eq rfl (wearStep_of_open n ho) h hframe (by decide) (by decide) ⟨?_, ?_, hrun, hwait, hframe⟩
  · rw [hend.field _ (by decide), getF_retired_blocksRetired]
  · simp [blocksRetired]

/-! ### DRAM_SCRUB, R160 -/

theorem readByte_writeBytes_readBytes (m : Mem) (a n k : Nat) : readByte (writeBytes m a (readBytes m a n)) k = readByte m k := by
  rw [readByte_writeBytes, readBytes_eq]
  split
  · next h =>
    obtain ⟨hle, hlt⟩ := h
    have hk : k - a < n := by
      rw [List.length_map, List.length_range] at hlt
      omega
    simp [List.getD_eq_getElem?_getD, hk, Nat.add_sub_cancel' hle]
  · rfl

/-- Bytes written back as they were read leave every byte of both memories. -/
theorem only_wr_rd (s : State) (a n : Nat) : Only [] [] s (wr s a (rd s a n)) := by
  have hwr := only_wr s a (rd s a n)
  refine ⟨fun p _ => ?_, hwr.2⟩
  by_cases hp : p ∈ [Part.mem, Part.flash]
  · rcases List.mem_pair.mp hp with rfl | rfl <;> intro k <;> unfold wr rd <;> split
    · rfl
    · exact readByte_writeBytes_readBytes s.mem a n k
    · exact readByte_writeBytes_readBytes s.flash a n k
    · rfl
  · exact hwr.1 p hp

/-- The scrub activity of a stack over, if it runs. -/
def scrubEnded (s : State) (addr : Nat) : State :=
  if s.maint.running.contains ⟨1, 0, stackOf addr⟩ then endActivity s ⟨1, 0, stackOf addr⟩ else s

theorem only_scrubEnded (s : State) (addr : Nat) : Only [.maint] [Off.SAF_MAINT] s (scrubEnded s addr) := by
  unfold scrubEnded
  split
  · exact only_endActivity s _
  · exact Only.rfl' _ _ s

theorem not_mem_running_scrubEnded (s : State) (addr : Nat) : ⟨1, 0, stackOf addr⟩ ∉ (scrubEnded s addr).maint.running := by
  unfold scrubEnded
  split
  · exact (not_mem_endActivity s _).1
  · next h => simpa using h

/-- A corrected codeword counted. -/
def codewordCounted (s : State) (addr : Nat) : State := bumpF (scrubEnded s addr) F.MEM_ECC_CORR_CNT_count 1

/-- The write-back of a codeword, dropped behind a newer write. -/
def writtenBack (s : State) (addr : Nat) (newer : Bool) : State :=
  if newer then s else wr s (addr / 64 * 64) (rd s (addr / 64 * 64) 64)

theorem scrubStep_of_corrected (s : State) (addr : Nat) (newer : Bool) :
    scrubStep s addr true newer = writtenBack (codewordCounted s addr) addr newer := rfl

theorem only_codewordCounted (s : State) (addr : Nat) :
    Only [.maint] [Off.MEM_ECC_CORR_CNT, Off.SAF_MAINT] s (codewordCounted s addr) :=
  ((only_scrubEnded s addr).mono (fun _ h => h) (by simp)).trans ((only_bumpF _ F.MEM_ECC_CORR_CNT_count 1).mono (by simp) (by decide))

theorem only_writtenBack (s : State) (addr : Nat) (newer : Bool) : Only [] [] s (writtenBack s addr newer) := by
  unfold writtenBack
  split
  · exact Only.rfl' _ _ s
  · exact only_wr_rd s _ 64

theorem getF_codewordCounted (s : State) (addr : Nat) :
    getF (codewordCounted s addr) F.MEM_ECC_CORR_CNT_count = min (2 ^ 64 - 1) (getF s F.MEM_ECC_CORR_CNT_count + 1) := by
  rw [← (only_scrubEnded s addr).field F.MEM_ECC_CORR_CNT_count (by decide)]
  exact getF_bumpF_same _ _ 1 (by decide)

theorem does_dramScrub_corrected (s : State) (a : Nat) (newer : Bool) (h : Up s) :
    Does (.dramScrub a true newer) s fun t =>
      getF t F.MEM_ECC_CORR_CNT_count = min (2 ^ 64 - 1) (getF s F.MEM_ECC_CORR_CNT_count + 1) ∧
      ⟨1, 0, stackOf a⟩ ∉ t.maint.running ∧ Only [.maint] [Off.MEM_ECC_CORR_CNT, Off.SAF_MAINT] s t := by
  have hback := only_writtenBack (codewordCounted s a) a newer
  have hframe := (only_codewordCounted s a).trans (hback.mono (by simp) (by simp))
  have hmaint : (writtenBack (codewordCounted s a) a newer).maint = (scrubEnded s a).maint := hback.1 .maint (by simp)
  refine does_eq rfl (scrubStep_of_corrected s a newer) h hframe (by decide) (by decide) ⟨?_, ?_, hframe⟩
  · rw [hback.field _ (by simp), getF_codewordCounted]
  · rw [hmaint]
    exact not_mem_running_scrubEnded s a

theorem does_dramScrub_clean (s : State) (a : Nat) (newer : Bool) (h : Up s) (hx : ⟨1, 0, stackOf a⟩ ∉ s.maint.running) :
    Does (.dramScrub a false newer) s fun t => t = s :=
  does_eq rfl (if_neg (by simpa using hx)) h (Only.rfl' [] [] s) (by decide) (by decide) rfl

/-- Settles O23: the channel failure by the first and the second channel, the wear move, the scrub by what it writes back. -/
theorem flashAndDramWearIsHandled : Obligations.FlashAndDramWearIsHandled :=
  ⟨does_onfiChannelFail, does_flashWearMove, does_dramScrub_corrected, does_dramScrub_clean⟩

end Sys2Proof.Machine
end

section
/-!
PROOFS. NORM_MESSAGE_SEND, NORM_TIMEOUT and SWEEP_TIMEOUT (R202, R204, R209), and what every message leaves alone that goes out on a
route which carries it (R244 to R247).
-/

namespace Sys2Proof.Machine

/-! ### The chain as the routes and the owners see it -/

/-- The two states agree on everything of the chain that a route or a list of owners is read from. -/
structure SameChain (s t : State) : Prop where
  regs  : RegsBut [Off.CHN_MSG_TX] s t
  roles : t.chn.roles = s.chn.roles
  lost  : t.chn.lost = s.chn.lost
  gone  : t.chn.gone = s.chn.gone

theorem SameChain.trans {s t u : State} (h : SameChain s t) (g : SameChain t u) : SameChain s u :=
  ⟨h.regs.trans g.regs, g.roles.trans h.roles, g.lost.trans h.lost, g.gone.trans h.gone⟩

/-- A state with the registers and the chain records of another sees the same chain. -/
theorem sameChain_of_eq {s t : State} (hr : t.regs = s.regs) (hc : t.chn = s.chn) : SameChain s t :=
  ⟨fun o _ => getReg_congr hr o, by rw [hc], by rw [hc], by rw [hc]⟩

section
variable {s t : State} (h : SameChain s t)
include h

theorem SameChain.getF_eq (f : Field) (hf : f.off ≠ Off.CHN_MSG_TX) : getF t f = getF s f := by
  unfold getF; rw [h.regs f.off (by simpa using hf)]

theorem SameChain.myAddr_eq : myAddr t = myAddr s := h.getF_eq F.CHN_ADDR_address (by decide)

theorem SameChain.portUp_eq (k : Nat) : portUp t k = portUp s k := by
  unfold portUp
  rw [h.getF_eq (F.CHN_PORT_state k) (by simp only [F.CHN_PORT_state, Off.CHN_PORT, Off.CHN_MSG_TX]; omega)]

theorem SameChain.route_eq (d : Nat) (skip : Bool) : route t d skip = route s d skip := by
  have hlen : chainLen t = chainLen s := h.getF_eq F.CHN_ADDR_length (by decide)
  have hlink : ∀ a, linkLost t a = linkLost s a := fun a => by unfold linkLost; rw [h.lost]
  simp only [route, h.myAddr_eq, hlen, h.portUp_eq, hlink]

theorem SameChain.otherOwners_eq : otherOwners t = otherOwners s := by
  have hrole : ∀ a, roleEntry t a = roleEntry s a := fun a => by unfold roleEntry; rw [h.roles]
  have hlost : ∀ a, isLost t a = isLost s a := fun a => by
    unfold isLost; rw [h.getF_eq F.CHN_LOST_lost (by decide), h.gone]
  have hmember : isMember t = isMember s := funext fun a => by unfold isMember; rw [hrole]
  simp only [otherOwners, others, members, hmember, posOf, myPos, hrole, h.myAddr_eq, hlost]

end

/-! ### A message on a route that carries it -/

/-- The message that a destination is sent next. -/
def nextMsg (s : State) (kind dest : Nat) (body : List Byte) : ChainMsg :=
  ⟨kind, myAddr s, dest, FMap.get 0 s.chn.txSeq dest, if isManagement kind then 0 else getF s F.CHN_JOB_job_tag, true, body⟩

/-- The message counted and kept, before it is on its way. -/
def keptMsg (s : State) (kind dest : Nat) (body : List Byte) : State :=
  bumpF { s with chn := { s.chn with
    txSeq := FMap.set 0 s.chn.txSeq dest ((FMap.get 0 s.chn.txSeq dest + 1) % 2 ^ 32),
    unacked := s.chn.unacked ++ [⟨dest, FMap.get 0 s.chn.txSeq dest, slot s, nextMsg s kind dest body⟩] } } F.CHN_MSG_TX_count 1

/-- The message on its way through port k. -/
def sentMsg (s : State) (k kind dest : Nat) (body : List Byte) : State :=
  let t := keptMsg s kind dest body
  send (setPortRun t k { portRun t k with txSeq := ((portRun t k).txSeq + flitsOf body) % 2 ^ 24 })
    (.message (some k) (nextMsg s kind dest body))

theorem sameChain_keptMsg (s : State) (kind dest : Nat) (body : List Byte) : SameChain s (keptMsg s kind dest body) :=
  ⟨fun _ ho => getReg_bumpF_other _ F.CHN_MSG_TX_count 1 _ (List.ne_of_not_mem_cons ho), rfl, rfl, rfl⟩

theorem sameChain_sentMsg (s : State) (k kind dest : Nat) (body : List Byte) : SameChain s (sentMsg s k kind dest body) :=
  (sameChain_keptMsg s kind dest body).trans ⟨fun _ _ => rfl, rfl, rfl, rfl⟩

theorem only_sentMsg (s : State) (k kind dest : Nat) (body : List Byte) :
    Only [.chn, .sent] [Off.CHN_MSG_TX] s (sentMsg s k kind dest body) := by
  refine Only.trans ?_ ((only_send _ _).mono (by decide) (by simp))
  refine Only.trans ?_ ((only_setPortRun _ k _).mono (by decide) (by simp))
  refine Only.trans ?_ ((only_bumpF _ F.CHN_MSG_TX_count 1).mono (by simp) (by decide))
  exact (only_chn s _).mono (by decide) (by simp)

theorem sent_sentMsg (s : State) (k kind dest : Nat) (body : List Byte) :
    (sentMsg s k kind dest body).sent = .message (some k) (nextMsg s kind dest body) :: s.sent := rfl

/-- Only a data message can take a skip port by its step. -/
theorem skips_of_not_data (s : State) {kind : Nat} (body : List Byte) (hk : kind ≠ 0x20) : skips s kind body = false := by
  simp [skips, hk]

/-- A message for another module whose route carries it goes out on the port of the route. -/
theorem postMsg_of_route {s : State} {kind dest k : Nat} (body : List Byte) (hd : dest ≠ myAddr s) (hk : kind ≠ 0x20)
    (hr : route s dest false = some k) : postMsg s kind dest body = sentMsg s k kind dest body := by
  have hsame := sameChain_keptMsg s kind dest body
  have hroute : route (keptMsg s kind dest body) dest (skips (keptMsg s kind dest body) kind body) = some k := by
    rw [skips_of_not_data _ _ hk, hsame.route_eq, hr]
  have hother : ¬dest = myAddr (keptMsg s kind dest body) := by rwa [hsame.myAddr_eq]
  change transmit (keptMsg s kind dest body) (nextMsg s kind dest body) = _
  simp only [transmit, nextMsg, if_neg hother, hroute, sentMsg]

/-- A module among the others has another address. -/
theorem ne_myAddr_of_mem_others {s : State} {a : Nat} (h : a ∈ others s) : a ≠ myAddr s := by
  have hother := (List.mem_filter.mp h).2
  simp only [Bool.and_eq_true, bne_iff_ne] at hother
  exact hother.1

theorem ne_myAddr_of_mem_otherOwners {s : State} {a : Nat} (h : a ∈ otherOwners s) : a ≠ myAddr s :=
  ne_myAddr_of_mem_others (List.mem_filter.mp h).1

/-! ### NORM_MESSAGE_SEND, R202 -/

/-- The module's own norm message kept, and noted as sent. -/
def ownNormKept (s : State) : State :=
  keepNorm { s with trn := { s.trn with normSent := true, normFrom := if s.trn.normFrom = 0 then slot s + 1 else s.trn.normFrom } }
    (ownNorm s)

theorem only_ownNormKept (s : State) : Only [.trn] [] s (ownNormKept s) := only_trn s _

theorem ownNorm_mem_ownNormKept (s : State) : ownNorm s ∈ (ownNormKept s).trn.norms :=
  List.mem_append_right _ (List.mem_singleton_self _)

theorem normFrom_ownNormKept (s : State) : (ownNormKept s).trn.normFrom ≠ 0 := by
  change (if s.trn.normFrom = 0 then slot s + 1 else s.trn.normFrom) ≠ 0
  split
  · exact Nat.succ_ne_zero _
  · assumption

theorem normSend_of_ready {s : State} (hs : s.trn.normSent = false) (hr : normReady s = true) :
    normSend s = postAll (ownNormKept s) 0x11 (others s) fun _ => (ownNorm s).body :=
  if_neg (by simp [hs, hr])

theorem normSend_of_not_ready {s : State} (h : s.trn.normSent = true ∨ normReady s = false) : normSend s = s :=
  if_pos (by simpa using h)

theorem does_normMessageSend_alone (s : State) (h : Up s) (hs : s.trn.normSent = false) (hr : normReady s = true) (ho : others s = []) :
    Does .normMessageSend s fun t => t.trn.normSent = true ∧ ownNorm s ∈ t.trn.norms ∧ t.trn.normFrom ≠ 0 ∧ Only [.trn] [] s t := by
  have hend : normSend s = ownNormKept s := by
    rw [normSend_of_ready hs hr, ho]
    rfl
  exact does_eq rfl hend h (only_ownNormKept s) (by decide) (by decide)
    ⟨rfl, ownNorm_mem_ownNormKept s, normFrom_ownNormKept s, only_ownNormKept s⟩

theorem does_normMessageSend_to (s : State) (a k : Nat) (h : Up s) (hs : s.trn.normSent = false) (hr : normReady s = true)
    (ho : others s = [a]) (hk : route s a false = some k) :
    Does .normMessageSend s fun t => t.trn.normSent = true ∧ ownNorm s ∈ t.trn.norms ∧
      t.sent = .message (some k) ⟨0x11, myAddr s, a, FMap.get 0 s.chn.txSeq a, getF s F.CHN_JOB_job_tag, true, (ownNorm s).body⟩ :: s.sent ∧
      Only [.trn, .chn, .sent] [Off.CHN_MSG_TX] s t := by
  have hother : a ≠ myAddr s := ne_myAddr_of_mem_others (by simp [ho])
  have hend : normSend s = sentMsg (ownNormKept s) k 0x11 a (ownNorm s).body := by
    rw [normSend_of_ready hs hr, ho]
    exact postMsg_of_route (s := ownNormKept s) _ hother (by decide) hk
  have hpost := only_sentMsg (ownNormKept s) k 0x11 a (ownNorm s).body
  have hframe : Only [.trn, .chn, .sent] [Off.CHN_MSG_TX] s (sentMsg (ownNormKept s) k 0x11 a (ownNorm s).body) :=
    ((only_ownNormKept s).mono (by decide) (by simp)).trans (hpost.mono (by decide) (fun _ h => h))
  have htrn : (sentMsg (ownNormKept s) k 0x11 a (ownNorm s).body).trn = (ownNormKept s).trn := hpost.1 .trn (by decide)
  refine does_eq rfl hend h hframe (by decide) (by decide) ⟨?_, ?_, sent_sentMsg _ _ _ _ _, hframe⟩
  · rw [htrn]
    rfl
  · rw [htrn]
    exact ownNorm_mem_ownNormKept s

/-! ### NORM_TIMEOUT and SWEEP_TIMEOUT, R204 and R209 -/

theorem normTimeout_due {s : State} {p : Plan} (hp : s.plan = some p) (hh : inHold s = false) (hf : s.trn.normFrom ≠ 0)
    (hd : s.trn.normFrom - 1 + (if p.header.normTimeout = 0 then 390625 else p.header.normTimeout) ≤ slot s) :
    normTimeout s = holdFault s 0x1B 0 0 0 0 := by
  simp only [normTimeout, hp]
  exact if_pos (by simp [hh, hf, hd])

theorem normTimeout_in_hold {s : State} (hh : inHold s = true) : normTimeout s = s := by
  unfold normTimeout
  split
  · exact if_neg (by simp [hh])
  · rfl

theorem sweepTimeout_due {s : State} {q : Nat} {p : Plan} (hp : s.plan = some p) (hh : inHold s = false)
    (hf : FMap.get 0 s.trn.sweepFrom q ≠ 0)
    (hd : FMap.get 0 s.trn.sweepFrom q - 1 + (if p.header.sweepTimeout = 0 then 390625 else p.header.sweepTimeout) < slot s) :
    sweepTimeout s q = holdFault s 0x1B 0 0 0 0 := by
  simp only [sweepTimeout, hp]
  exact if_pos (by simp [hh, hf, hd])

theorem sweepTimeout_in_hold {s : State} (q : Nat) (hh : inHold s = true) : sweepTimeout s q = s := by
  unfold sweepTimeout
  split
  · exact if_neg (by simp [hh])
  · rfl

/-- A wait that has run out takes the module into HOLD with cause 0. -/
theorem does_timeout {c : Instr} {s t : State} (he : exec c s = settle s t) (ht : t = holdFault s 0x1B 0 0 0 0) (h : Up s) :
    Does c s fun t => Holds 0 t ∧ Only holdParts (holdRegs ++ logRegs s) s t :=
  have hframe := only_holdFault s 0x1B 0 0 0 0
  does_eq he ht h hframe (by decide) (by decide) ⟨holds_holdFault s 0x1B 0 0 0 0 (by decide), hframe⟩

/-- Settles O29: the message by the route that carries it, the timeouts by the one fault that both come to. -/
theorem normMessagesAndTimeouts : Obligations.NormMessagesAndTimeouts :=
  ⟨does_normMessageSend_alone, does_normMessageSend_to,
    fun s h hw => does_eq rfl (normSend_of_not_ready hw) h (Only.rfl' [] [] s) (by decide) (by decide) rfl,
    fun _ _ h hp hh hf hd => does_timeout rfl (normTimeout_due hp hh hf hd) h,
    fun _ _ _ h hp hh hf hd => does_timeout rfl (sweepTimeout_due hp hh hf hd) h,
    fun s q h hh => ⟨does_eq rfl (normTimeout_in_hold hh) h (Only.rfl' [] [] s) (by decide) (by decide) rfl,
      does_eq rfl (sweepTimeout_in_hold q hh) h (Only.rfl' [] [] s) (by decide) (by decide) rfl⟩⟩

end Sys2Proof.Machine
end

section
/-!
PROOFS. DIGEST_COMPUTE, DIGEST_ENGINE_FAULT, DIGEST_REPAIR and GROUP_REPAIR (R219 to R221, R281, R282): a digest taken and the compare
that ends or waits, the fronds asked of another owner, and the registers that show a repair.
-/

namespace Sys2Proof.Machine

/-! ### The end of the compare, R280 -/

/-- The activity of the compare over, and the records of step n gone. -/
def compareCleared (s : State) (n : Nat) : State :=
  let t := endActivity s ⟨5, 0, 0⟩
  { t with trn := { t.trn with digests := t.trn.digests.filter fun d => d.step != n } }

/-- The compare ended, and the object signalled. -/
def compareEnded (s : State) (n object : Nat) : State := signal (compareCleared s n) object 1

theorem only_compareCleared (s : State) (n : Nat) : Only [.trn, .maint] [Off.SAF_MAINT] s (compareCleared s n) :=
  ((only_endActivity s _).mono (by decide) (fun _ h => h)).trans ((only_trn _ _).mono (by decide) (by simp))

theorem only_compareEnded (s : State) (n object : Nat) : Only [.trn, .lch, .maint] [Off.SAF_MAINT] s (compareEnded s n object) :=
  ((only_compareCleared s n).mono (by decide) (fun _ h => h)).trans ((only_signal _ object 1).mono (by decide) (by simp))

theorem owed_compareEnded (s : State) (n object : Nat) : (compareEnded s n object).trn.owed = s.trn.owed := by
  simp [compareEnded, compareCleared]

theorem signal_mem_compareEnded (s : State) (n object : Nat) : ⟨slot s + 2, object, 1⟩ ∈ (compareEnded s n object).lch.signals := by
  have hslot : slot (compareCleared s n) = slot s := (only_compareCleared s n).field F.LCH_SLOT_slot (by decide)
  rw [← hslot]
  exact List.mem_append_right _ (List.mem_singleton_self _)

theorem not_mem_running_compareEnded (s : State) (n object : Nat) : ⟨5, 0, 0⟩ ∉ (compareEnded s n object).maint.running := by
  have hmaint : (compareEnded s n object).maint = (endActivity s ⟨5, 0, 0⟩).maint := by simp [compareEnded, compareCleared]
  rw [hmaint]
  exact (not_mem_endActivity s _).1

/-- The compare ends or goes on. -/
theorem digestsDone_cases (s : State) : digestsDone s = s ∨ ∃ n object, digestsDone s = compareEnded s n object := by
  unfold digestsDone
  split
  · exact .inl rfl
  · next p hp =>
    dsimp only
    split
    · exact .inr ⟨s.trn.committed - 1, p.header.digestObj, rfl⟩
    · exact .inl rfl

theorem only_digestsDone (s : State) : Only [.trn, .lch, .maint] [Off.SAF_MAINT] s (digestsDone s) := by
  obtain hsame | ⟨n, object, hend⟩ := digestsDone_cases s
  · rw [hsame]
    exact Only.rfl' _ _ s
  · rw [hend]
    exact only_compareEnded s n object

theorem owed_digestsDone (s : State) : (digestsDone s).trn.owed = s.trn.owed := by
  obtain hsame | ⟨n, object, hend⟩ := digestsDone_cases s
  · rw [hsame]
  · rw [hend, owed_compareEnded]

/-- While another owner's digest of a record of the step is still to come, the compare goes on. -/
theorem digestsDone_of_awaited {s : State} {d : DigestRec} {a : Nat} (hd : d ∈ s.trn.digests) (hn : d.step = s.trn.committed - 1)
    (hown : d.own.isSome = true) (hgot : d.got = []) (ha : a ∈ otherOwners s) : digestsDone s = s := by
  have hwaits : ((otherOwners s).all fun a => d.got.any fun g => g.1 == a && some g.2 == d.own) = false :=
    List.all_eq_false.mpr ⟨a, ha, by simp [hgot]⟩
  have hmine : d ∈ s.trn.digests.filter fun d => d.step == s.trn.committed - 1 && d.own.isSome :=
    List.mem_filter.mpr ⟨hd, by simp [hn, hown]⟩
  unfold digestsDone
  split
  · rfl
  · refine if_neg fun hall => ?_
    rw [Bool.and_eq_true, List.all_eq_true] at hall
    have hfull := hall.2 d hmine
    rw [Bool.and_eq_true, hwaits] at hfull
    exact absurd hfull.2 (by decide)

/-- With no other owner and nothing owed, the compare ends with the one record of the step, unless fetches for it are under way. -/
theorem digestsDone_of_alone {s : State} {p : Plan} {d : DigestRec} (hp : s.plan = some p) (ho : s.trn.owed = []) (hd : s.trn.digests = [d])
    (hn : d.step = s.trn.committed - 1) (hown : d.own.isSome = true) (hround : d.round ≠ 1) (ha : otherOwners s = []) :
    digestsDone s = compareEnded s (s.trn.committed - 1) p.header.digestObj := by
  simp only [digestsDone, hp]
  exact if_pos (by simp [ho, hd, hn, hown, hround, ha])

/-! ### DIGEST_COMPUTE, R219 and R220 -/

/-- The digest of a shard kept, and the shard no longer owing one. -/
def digestTaken (s : State) (id : Nat) (h : Shard) : State :=
  setDigest { s with trn := { s.trn with owed := s.trn.owed.filter (· != id) } }
    { digestOf s id (s.trn.committed - 1) with own := some (shardDigest s h) }

theorem only_digestTaken (s : State) (id : Nat) (h : Shard) : Only [.trn] [] s (digestTaken s id h) := only_trn s _

theorem sameChain_digestTaken (s : State) (id : Nat) (h : Shard) : SameChain s (digestTaken s id h) := sameChain_of_eq rfl rfl

theorem not_mem_owed_digestTaken (s : State) (id : Nat) (h : Shard) : id ∉ (digestTaken s id h).trn.owed := by
  simp [digestTaken, setDigest]

theorem digestOf_digestTaken (s : State) (id : Nat) (h : Shard) : digestOf (digestTaken s id h) id (s.trn.committed - 1) =
    { digestOf s id (s.trn.committed - 1) with own := some (shardDigest s h) } := by
  have hread := digestOf_setDigest { s with trn := { s.trn with owed := s.trn.owed.filter (· != id) } }
    { digestOf s id (s.trn.committed - 1) with own := some (shardDigest s h) }
  obtain ⟨hshard, hstep⟩ := shard_step_digestOf s id (s.trn.committed - 1)
  rwa [hshard, hstep] at hread

/-- A digest taken is sent to the other owners and compared with those that came before it. -/
theorem digestStep1_of_owed {s : State} {id : Nat} {h : Shard} (hfind : (ownShards s).find? (fun x => x.id == id) = some h)
    (ho : id ∈ s.trn.owed) :
    digestStep1 s id = digestsDone ((digestOf s id (s.trn.committed - 1)).got.foldl
      (fun t g => comparePair t { digestOf s id (s.trn.committed - 1) with own := some (shardDigest s h) } g.2)
      (postAll (digestTaken s id h) 0x12 (otherOwners s) fun _ => digestBody id (s.trn.committed - 1) (shardDigest s h))) := by
  have howed : s.trn.owed.contains id = true := by simpa using ho
  simp only [digestStep1, hfind, howed, if_true]
  rfl

theorem digestStep1_of_none_got {s : State} {id : Nat} {h : Shard} (hfind : (ownShards s).find? (fun x => x.id == id) = some h)
    (ho : id ∈ s.trn.owed) (hgot : (digestOf s id (s.trn.committed - 1)).got = []) :
    digestStep1 s id = digestsDone (postAll (digestTaken s id h) 0x12 (otherOwners s)
      fun _ => digestBody id (s.trn.committed - 1) (shardDigest s h)) := by
  rw [digestStep1_of_owed hfind ho, hgot, List.foldl_nil]

theorem does_digestCompute_to (s : State) (id a k : Nat) (h : Shard) (hu : Up s)
    (hfind : (ownShards s).find? (fun x => x.id == id) = some h) (ho : id ∈ s.trn.owed) (ha : otherOwners s = [a])
    (hk : route s a false = some k) (hgot : (digestOf s id (s.trn.committed - 1)).got = []) :
    Does (.digestCompute id) s fun t => id ∉ t.trn.owed ∧ (digestOf t id (s.trn.committed - 1)).own = some (shardDigest s h) ∧
      t.sent = .message (some k) ⟨0x12, myAddr s, a, FMap.get 0 s.chn.txSeq a, getF s F.CHN_JOB_job_tag, true,
        digestBody id (s.trn.committed - 1) (shardDigest s h)⟩ :: s.sent ∧ Only [.trn, .chn, .sent] [Off.CHN_MSG_TX] s t := by
  have hother : a ≠ myAddr s := ne_myAddr_of_mem_otherOwners (by simp [ha])
  let body := digestBody id (s.trn.committed - 1) (shardDigest s h)
  have hpost := only_sentMsg (digestTaken s id h) k 0x12 a body
  have htrn : (sentMsg (digestTaken s id h) k 0x12 a body).trn = (digestTaken s id h).trn := hpost.1 .trn (by decide)
  have howners : otherOwners (sentMsg (digestTaken s id h) k 0x12 a body) = otherOwners s :=
    ((sameChain_digestTaken s id h).trans (sameChain_sentMsg _ k 0x12 a body)).otherOwners_eq
  have hwaits : digestsDone (sentMsg (digestTaken s id h) k 0x12 a body) = sentMsg (digestTaken s id h) k 0x12 a body :=
    digestsDone_of_awaited (d := { digestOf s id (s.trn.committed - 1) with own := some (shardDigest s h) }) (a := a)
      (by rw [htrn]; exact List.mem_append_right _ (List.mem_singleton_self _)) (by rw [htrn]; exact (shard_step_digestOf s id _).2) rfl
      hgot (by simp [howners, ha])
  have hend : digestStep1 s id = sentMsg (digestTaken s id h) k 0x12 a body := by
    rw [digestStep1_of_none_got hfind ho hgot, ha]
    exact (congrArg digestsDone (postMsg_of_route (s := digestTaken s id h) body hother (by decide) hk)).trans hwaits
  have hframe : Only [.trn, .chn, .sent] [Off.CHN_MSG_TX] s (sentMsg (digestTaken s id h) k 0x12 a body) :=
    ((only_digestTaken s id h).mono (by decide) (by simp)).trans (hpost.mono (by decide) (fun _ h => h))
  refine does_eq rfl hend hu hframe (by decide) (by decide) ⟨?_, ?_, sent_sentMsg _ _ _ _ _, hframe⟩
  · rw [htrn]
    exact not_mem_owed_digestTaken s id h
  · unfold digestOf
    rw [htrn]
    exact congrArg DigestRec.own (digestOf_digestTaken s id h)

theorem does_digestCompute_alone (s : State) (p : Plan) (id : Nat) (h : Shard) (hu : Up s) (hp : s.plan = some p)
    (hfind : (ownShards s).find? (fun x => x.id == id) = some h) (ho : s.trn.owed = [id]) (hd : s.trn.digests = [])
    (ha : otherOwners s = []) :
    Does (.digestCompute id) s fun t => t.trn.owed = [] ∧ ⟨slot s + 2, p.header.digestObj, 1⟩ ∈ t.lch.signals ∧ ⟨5, 0, 0⟩ ∉ t.maint.running ∧
      Only [.trn, .lch, .maint] [Off.SAF_MAINT] s t := by
  have hfresh : digestOf s id (s.trn.committed - 1) = ⟨id, s.trn.committed - 1, none, [], 0, 0, 0⟩ := by simp [digestOf, hd]
  have howed : (digestTaken s id h).trn.owed = [] := by simp [digestTaken, setDigest, ho]
  have hrecord : (digestTaken s id h).trn.digests = [⟨id, s.trn.committed - 1, some (shardDigest s h), [], 0, 0, 0⟩] := by
    simp [digestTaken, setDigest, hfresh, hd]
  have howners : otherOwners (digestTaken s id h) = [] := (sameChain_digestTaken s id h).otherOwners_eq.trans ha
  have hend : digestStep1 s id = compareEnded (digestTaken s id h) (s.trn.committed - 1) p.header.digestObj := by
    rw [digestStep1_of_none_got hfind (by simp [ho]) (by rw [hfresh]), ha]
    exact digestsDone_of_alone hp howed hrecord rfl rfl Nat.zero_ne_one howners
  have hframe : Only [.trn, .lch, .maint] [Off.SAF_MAINT] s (compareEnded (digestTaken s id h) (s.trn.committed - 1) p.header.digestObj) :=
    ((only_digestTaken s id h).mono (by decide) (by simp)).trans (only_compareEnded _ _ _)
  exact does_eq rfl hend hu hframe (by decide) (by decide)
    ⟨(owed_compareEnded _ _ _).trans howed, signal_mem_compareEnded _ _ _, not_mem_running_compareEnded _ _ _, hframe⟩

/-! ### DIGEST_ENGINE_FAULT, R221 -/

/-- The stack of an owned shard; 0 for a shard that the module does not own. -/
def stackOfShard (s : State) (id : Nat) : Nat :=
  match (ownShards s).find? fun h => h.id == id with | some h => h.stack | none => 0

/-- The fault logged, and the digest no longer owed. -/
def digestDropped (s : State) (id : Nat) : State :=
  let t := runFault s 0x1A (stackDie (stackOfShard s id)) 0 id
  { t with trn := { t.trn with owed := t.trn.owed.filter (· != id) } }

theorem digestFault_of_owed {s : State} {id : Nat} (ho : id ∈ s.trn.owed) : digestFault s id = digestsDone (digestDropped s id) :=
  if_pos (by simpa using ho)

theorem digestFault_of_not_owed {s : State} {id : Nat} (ho : id ∉ s.trn.owed) : digestFault s id = s := if_neg (by simpa using ho)

theorem does_digestEngineFault_owed (s : State) (id : Nat) (h : Up s) (ho : id ∈ s.trn.owed) :
    Does (.digestEngineFault id) s fun t => id ∉ t.trn.owed ∧ hasF t F.SAF_STATUS_fault_seen = true ∧
      Only ([Part.trn, .lch, .maint] ++ eventParts) (Off.SAF_MAINT :: logRegs s) s t := by
  have hlog : Only ([Part.trn, .lch, .maint] ++ eventParts) (Off.SAF_MAINT :: logRegs s) s
      (runFault s 0x1A (stackDie (stackOfShard s id)) 0 id) :=
    (only_runFault s _ _ _ _).mono (by decide) fun _ h => List.mem_cons_of_mem _ h
  have hdrop : Only [.trn] [] (runFault s 0x1A (stackDie (stackOfShard s id)) 0 id) (digestDropped s id) := only_trn _ _
  have hdone := only_digestsDone (digestDropped s id)
  have hframe := (hlog.trans (hdrop.mono (by decide) (by simp))).trans (hdone.mono (by decide) (by simp))
  refine does_eq rfl (digestFault_of_owed ho) h hframe (by decide) (by decide) ⟨?_, ?_, hframe⟩
  · rw [owed_digestsDone]
    simp [digestDropped]
  · rw [hdone.hasF_eq _ (by decide), hdrop.hasF_eq _ (by simp)]
    exact hasF_fault_seen_logFault s _ _ _ _ _

/-! ### The fronds of a repair asked of another owner, R281 -/

/-- What asking for n fronds leaves: the chain as it was seen, n more fetches, and nothing else but messages on their way. -/
structure Asked (n : Nat) (s t : State) : Prop where
  chain   : SameChain s t
  frame   : Only [.trn, .chn, .sent] [Off.CHN_MSG_TX] s t
  fetches : t.trn.fetches.length = s.trn.fetches.length + n

/-- A request noted before its message goes out. -/
def fetchNoted (s : State) (src why n id : Nat) : State :=
  { s with trn := { s.trn with
    fetches := s.trn.fetches ++ [⟨id, s.trn.nextTag, homeOf s id, BitVec.ofNat 64 n, slot s, false, src, why⟩],
    nextTag := (s.trn.nextTag + 1) % 2 ^ 32 } }

theorem asked_repairFetch {s : State} {src k : Nat} (why n id : Nat) (hsrc : src ≠ myAddr s) (hk : route s src false = some k) :
    Asked 1 s (repairFetch s src why n id) := by
  have hend : repairFetch s src why n id =
      sentMsg (fetchNoted s src why n id) k 0x13 src (wordBytes [id % 2 ^ 32 + 2 ^ 32 * s.trn.nextTag, n]) :=
    postMsg_of_route (s := fetchNoted s src why n id) _ hsrc (by decide) hk
  rw [hend]
  have hsend := only_sentMsg (fetchNoted s src why n id) k 0x13 src (wordBytes [id % 2 ^ 32 + 2 ^ 32 * s.trn.nextTag, n])
  refine ⟨?_, ?_, ?_⟩
  · exact SameChain.trans (t := fetchNoted s src why n id) (sameChain_of_eq rfl rfl) (sameChain_sentMsg _ _ _ _ _)
  · exact Only.trans (t := fetchNoted s src why n id) ((only_trn s _).mono (by decide) (by simp)) (hsend.mono (by decide) (fun _ h => h))
  · rw [hsend.1 .trn (by decide)]
    exact List.length_append

/-- A list of fronds asked of one module, one after the other. -/
theorem asked_foldl_repairFetch {src k : Nat} (why n : Nat) (ids : List Nat) {s : State} (hsrc : src ≠ myAddr s)
    (hk : route s src false = some k) : Asked ids.length s (ids.foldl (fun s f => repairFetch s src why n f) s) := by
  induction ids generalizing s with
  | nil => exact ⟨sameChain_of_eq rfl rfl, Only.rfl' _ _ s, rfl⟩
  | cons id ids ih =>
    have hfirst := asked_repairFetch why n id hsrc hk
    have hrest := ih (s := repairFetch s src why n id) (by rwa [hfirst.chain.myAddr_eq]) (by rwa [hfirst.chain.route_eq])
    refine ⟨hfirst.chain.trans hrest.chain, hfirst.frame.trans hrest.frame, ?_⟩
    rw [List.foldl_cons, hrest.fetches, hfirst.fetches, List.length_cons, Nat.add_assoc, Nat.add_comm 1]

/-! ### The registers that show a repair, R289 -/

/-- UPD_REPAIR shows a shard, a method and a number of fronds. -/
def repairShown (s : State) (shard method fronds : Nat) : State :=
  setF (setF (setF s F.UPD_REPAIR_shard shard) F.UPD_REPAIR_method method) F.UPD_REPAIR_fronds fronds

section
variable (s : State) (shard method fronds : Nat)

theorem only_repairShown : Only [] [Off.UPD_REPAIR] s (repairShown s shard method fronds) := by
  refine Only.trans ?_ (only_setF _ F.UPD_REPAIR_fronds fronds)
  exact (only_setF s F.UPD_REPAIR_shard shard).trans (only_setF _ F.UPD_REPAIR_method method)

theorem shard_repairShown : getF (repairShown s shard method fronds) F.UPD_REPAIR_shard = shard % 2 ^ 20 := by
  unfold repairShown
  rw [getF_setF_other _ _ _ _ (by decide) (by decide), getF_setF_other _ _ _ _ (by decide) (by decide), getF_setF_same _ _ _ (by decide)]
  rfl

theorem method_repairShown : getF (repairShown s shard method fronds) F.UPD_REPAIR_method = method % 4 := by
  unfold repairShown
  rw [getF_setF_other _ _ _ _ (by decide) (by decide), getF_setF_same _ _ _ (by decide)]
  rfl

theorem fronds_repairShown : getF (repairShown s shard method fronds) F.UPD_REPAIR_fronds = fronds % 2 ^ 32 :=
  getF_setF_same _ _ _ (by decide)

end

/-! ### The owners of a shard, R281 -/

theorem mem_of_majorityOf {ds : List (List Byte)} {d : List Byte} (h : majorityOf ds = some d) : d ∈ ds := by
  unfold majorityOf at h
  split at h
  · exact absurd h (by simp)
  · exact List.mem_of_find?_eq_some h

theorem mem_otherOwners_of_mem_ownersByGroup {s : State} {a : Nat} (h : a ∈ ownersByGroup s) : a ∈ otherOwners s := by
  obtain ⟨_, _, hfind⟩ := List.mem_filterMap.mp h
  exact List.mem_of_find?_eq_some hfind

/-! ### A repair that cannot go on, R281 -/

theorem only_repairHold (s : State) : Only holdParts (Off.UPD_SURVIVE_STATUS :: (holdRegs ++ logRegs s)) s (repairHold s) := by
  have hflag : Only holdParts (Off.UPD_SURVIVE_STATUS :: eventRegs) s (flag s F.UPD_SURVIVE_STATUS_repair_hold 7) :=
    (only_flag s F.UPD_SURVIVE_STATUS_repair_hold 7).mono (by decide) (fun _ h => h)
  refine (hflag.holdFault (by decide) 0x1F 8 0 0 0).mono (fun _ h => h) fun o ho => ?_
  obtain rfl | ho := List.mem_cons.mp ho
  · exact List.mem_cons_self
  · refine List.mem_cons_of_mem _ ((List.mem_append.mp ho).elim (fun he => ?_) id)
    exact List.mem_append_left _ ((by decide : ∀ o ∈ eventRegs, o ∈ holdRegs) o he)

theorem hasF_repairHold (s : State) : hasF (repairHold s) F.UPD_SURVIVE_STATUS_repair_hold = true := by
  have hlog : Off.UPD_SURVIVE_STATUS ∉ logRegs (flag s F.UPD_SURVIVE_STATUS_repair_hold 7) :=
    not_mem_logRegs _ _ (by decide) (.inr (by decide))
  unfold hasF repairHold
  rw [getF_holdFault F.UPD_SURVIVE_STATUS_repair_hold _ _ _ _ _ _ (by decide) hlog]
  exact hasF_flag s F.UPD_SURVIVE_STATUS_repair_hold 7 (by decide) (by decide) (by decide)

/-! ### DIGEST_REPAIR, R281 -/

section
variable {s : State} {id : Nat} {h : Shard} {own : List Byte} {f : Bool} (hfind : (ownShards s).find? (fun x => x.id == id) = some h)
  (hown : (digestOf s id (s.trn.committed - 1)).own = some own) (hround : (digestOf s id (s.trn.committed - 1)).round = 0)
  (hdiff : ∃ g ∈ (digestOf s id (s.trn.committed - 1)).got, g.2 ≠ own)
include hfind hown hround hdiff

/-- A shard in the minority asks the majority owner of the lowest group for every frond that it holds of the shard. -/
theorem digestRepair_of_minority {mj : List Byte} {src : Nat}
    (hmj : majorityOf (own :: (digestOf s id (s.trn.committed - 1)).got.map (·.2)) = some mj) (hne : own ≠ mj)
    (hsrc : (ownersByGroup s).find? (fun a => (digestOf s id (s.trn.committed - 1)).got.any fun g => g.1 == a && g.2 == mj) = some src) :
    digestRepair s id f =
      setDigest (repairShown (h.stateFronds.foldl (fun t x => repairFetch t src 1 (digestOf s id (s.trn.committed - 1)).step x) s) id 1
          h.stateFronds.length)
        { digestOf s id (s.trn.committed - 1) with round := 1, count := h.stateFronds.length, method := 1 } := by
  have hsome : ((digestOf s id (s.trn.committed - 1)).got.all fun g => g.2 == own) = false := by simpa using hdiff
  unfold digestRepair
  rw [hfind]
  dsimp only
  split
  next own' hown' _ =>
    obtain rfl : own = own' := Option.some.inj (hown.symm.trans hown')
    rw [hsome, if_neg Bool.false_ne_true, hmj]
    dsimp only
    rw [if_neg hne, hsrc]
    rfl
  next hlater => exact absurd (hround.symm.trans hlater) Nat.zero_ne_one
  next hnone _ => exact (hnone own hown hround).elim

/-- With no majority and no frond that fails its check, the repair cannot go on. -/
theorem digestRepair_of_no_majority (hmj : majorityOf (own :: (digestOf s id (s.trn.committed - 1)).got.map (·.2)) = none) :
    digestRepair s id false = repairHold s := by
  have hsome : ((digestOf s id (s.trn.committed - 1)).got.all fun g => g.2 == own) = false := by simpa using hdiff
  unfold digestRepair
  rw [hfind]
  dsimp only
  split
  next own' hown' _ =>
    obtain rfl : own = own' := Option.some.inj (hown.symm.trans hown')
    rw [hsome, if_neg Bool.false_ne_true, hmj]
    exact if_pos rfl
  next hlater => exact absurd (hround.symm.trans hlater) Nat.zero_ne_one
  next hnone _ => exact (hnone own hown hround).elim

end

theorem does_digestRepair_minority (s : State) (id src k : Nat) (h : Shard) (own mj : List Byte) (f : Bool) (hu : Up s)
    (hfind : (ownShards s).find? (fun x => x.id == id) = some h) (hown : (digestOf s id (s.trn.committed - 1)).own = some own)
    (hround : (digestOf s id (s.trn.committed - 1)).round = 0)
    (hmj : majorityOf (own :: (digestOf s id (s.trn.committed - 1)).got.map (·.2)) = some mj) (hne : own ≠ mj)
    (hsrc : (ownersByGroup s).find? (fun a => (digestOf s id (s.trn.committed - 1)).got.any fun g => g.1 == a && g.2 == mj) = some src)
    (hk : route s src false = some k) :
    Does (.digestRepair id f) s fun t => (digestOf t id (s.trn.committed - 1)).round = 1 ∧
      (digestOf t id (s.trn.committed - 1)).count = h.stateFronds.length ∧
      t.trn.fetches.length = s.trn.fetches.length + h.stateFronds.length ∧ getF t F.UPD_REPAIR_shard = id % 2 ^ 20 ∧
      getF t F.UPD_REPAIR_method = 1 ∧ getF t F.UPD_REPAIR_fronds = h.stateFronds.length % 2 ^ 32 ∧
      Only [.trn, .chn, .sent] [Off.CHN_MSG_TX, Off.UPD_REPAIR] s t := by
  have hdiff : ∃ g ∈ (digestOf s id (s.trn.committed - 1)).got, g.2 ≠ own := by
    obtain ⟨g, hg, rfl⟩ := List.mem_map.mp ((List.mem_cons.mp (mem_of_majorityOf hmj)).resolve_left (Ne.symm hne))
    exact ⟨g, hg, Ne.symm hne⟩
  have hother : src ≠ myAddr s := ne_myAddr_of_mem_otherOwners (mem_otherOwners_of_mem_ownersByGroup (List.mem_of_find?_eq_some hsrc))
  obtain ⟨_, hask, hfetches⟩ := asked_foldl_repairFetch 1 (digestOf s id (s.trn.committed - 1)).step h.stateFronds hother hk
  have hend := digestRepair_of_minority (f := f) hfind hown hround hdiff hmj hne hsrc
  generalize h.stateFronds.foldl (fun t x => repairFetch t src 1 (digestOf s id (s.trn.committed - 1)).step x) s = u at hask hfetches hend
  let d : DigestRec := { digestOf s id (s.trn.committed - 1) with round := 1, count := h.stateFronds.length, method := 1 }
  have hshow := only_repairShown u id 1 h.stateFronds.length
  have hset := only_setDigest (repairShown u id 1 h.stateFronds.length) d
  have hframe : Only [.trn, .chn, .sent] [Off.CHN_MSG_TX, Off.UPD_REPAIR] s (setDigest (repairShown u id 1 h.stateFronds.length) d) :=
    ((hask.mono (fun _ h => h) (by decide)).trans (hshow.mono (by simp) (by decide))).trans (hset.mono (by decide) (by simp))
  have hread : digestOf (setDigest (repairShown u id 1 h.stateFronds.length) d) id (s.trn.committed - 1) = d := by
    obtain ⟨hshard, hstep⟩ := shard_step_digestOf s id (s.trn.committed - 1)
    have hsame := digestOf_setDigest (repairShown u id 1 h.stateFronds.length) d
    rwa [show d.shard = id from hshard, show d.step = s.trn.committed - 1 from hstep] at hsame
  refine does_eq rfl hend hu hframe (by decide) (by decide) ⟨?_, ?_, hfetches, ?_, ?_, ?_, hframe⟩
  · rw [hread]
  · rw [hread]
  · exact (hset.field _ (by simp)).trans (shard_repairShown u id 1 _)
  · exact (hset.field _ (by simp)).trans (method_repairShown u id 1 _)
  · exact (hset.field _ (by simp)).trans (fronds_repairShown u id 1 _)

theorem does_digestRepair_no_majority (s : State) (id : Nat) (h : Shard) (own : List Byte) (hu : Up s)
    (hfind : (ownShards s).find? (fun x => x.id == id) = some h) (hown : (digestOf s id (s.trn.committed - 1)).own = some own)
    (hround : (digestOf s id (s.trn.committed - 1)).round = 0) (hdiff : ∃ g ∈ (digestOf s id (s.trn.committed - 1)).got, g.2 ≠ own)
    (hmj : majorityOf (own :: (digestOf s id (s.trn.committed - 1)).got.map (·.2)) = none) :
    Does (.digestRepair id false) s fun t => Holds 8 t ∧ hasF t F.UPD_SURVIVE_STATUS_repair_hold = true ∧
      Only holdParts (Off.UPD_SURVIVE_STATUS :: (holdRegs ++ logRegs s)) s t :=
  does_eq rfl (digestRepair_of_no_majority hfind hown hround hdiff hmj) hu (only_repairHold s) (by decide) (by decide)
    ⟨holds_holdFault _ _ _ _ _ _ (by decide), hasF_repairHold s, only_repairHold s⟩

/-! ### GROUP_REPAIR, R282 -/

/-- The stack of a sound group no longer waits for its repair, which UPD_REPAIR shows. -/
def groupReleased (s : State) (q shard fronds : Nat) : State :=
  setF (repairShown { s with trn := { s.trn with repair := s.trn.repair.filter (· != q) } } shard 3 fronds) F.UPD_SURVIVE_STATUS_repair_done 1

theorem only_groupReleased (s : State) (q shard fronds : Nat) :
    Only [.trn] [Off.UPD_REPAIR, Off.UPD_SURVIVE_STATUS] s (groupReleased s q shard fronds) := by
  refine Only.trans ?_ ((only_setF _ F.UPD_SURVIVE_STATUS_repair_done 1).mono (by simp) (by decide))
  refine Only.trans ?_ ((only_repairShown _ shard 3 fronds).mono (by simp) (by decide))
  exact (only_trn s _).mono (fun _ h => h) (by simp)

theorem groupRepair_of_sound {s : State} {q n g : Nat} {h : Shard} (hat : groupAt s q = some (n, h, g)) (hh : inHold s = true)
    (hq : q ∈ s.trn.repair) (hf : ∀ j ∈ s.trn.fetches, j.why ≠ 2)
    (hok : ∀ st ∈ h.streams, ∀ id ∈ h.groupFronds st g,
      checkOk s (stateFmt h id) (homeOf s id) = true ∧ (headerAt s (homeOf s id)).step.toNat = n) :
    groupRepair s q = groupReleased s q h.id (h.streams.flatMap fun st => h.groupFronds st g).length := by
  have hasked : (s.trn.fetches.any fun j => j.why == 2 && (h.streams.flatMap fun st => h.groupFronds st g).contains j.frond) = false :=
    List.any_eq_false.mpr fun j hj => by simp [hf j hj]
  have hstale : (h.streams.flatMap fun st => h.groupFronds st g).filter
      (fun id => !(checkOk s (stateFmt h id) (homeOf s id) && (headerAt s (homeOf s id)).step.toNat == n)) = [] := by
    refine List.filter_eq_nil_iff.mpr fun id hid => ?_
    obtain ⟨st, hst, hmem⟩ := List.mem_flatMap.mp hid
    obtain ⟨hcheck, hstep⟩ := hok st hst id hmem
    simp [hcheck, hstep]
  have hgo : (!(inHold s && s.trn.repair.contains q)) = false := by simp [hh, hq]
  simp only [groupRepair, hat, hgo, hasked, hstale, Bool.false_eq_true, if_false, List.isEmpty_nil, if_true]
  rfl

theorem groupRepair_of_none_waiting {s : State} {q : Nat} (hq : q ∉ s.trn.repair) : groupRepair s q = s := by
  unfold groupRepair
  split
  · exact if_pos (by simp [hq])
  · rfl

theorem does_groupRepair_sound (s : State) (q n g : Nat) (h : Shard) (hu : Up s) (hat : groupAt s q = some (n, h, g))
    (hh : inHold s = true) (hq : q ∈ s.trn.repair) (hf : ∀ j ∈ s.trn.fetches, j.why ≠ 2)
    (hok : ∀ st ∈ h.streams, ∀ id ∈ h.groupFronds st g,
      checkOk s (stateFmt h id) (homeOf s id) = true ∧ (headerAt s (homeOf s id)).step.toNat = n) :
    Does (.groupRepair q) s fun t => q ∉ t.trn.repair ∧ hasF t F.UPD_SURVIVE_STATUS_repair_done = true ∧ getF t F.UPD_REPAIR_method = 3 ∧
      getF t F.UPD_REPAIR_shard = h.id % 2 ^ 20 ∧ Only [.trn] [Off.UPD_REPAIR, Off.UPD_SURVIVE_STATUS] s t := by
  have hframe := only_groupReleased s q h.id (h.streams.flatMap fun st => h.groupFronds st g).length
  refine does_eq rfl (groupRepair_of_sound hat hh hq hf hok) hu hframe (by decide) (by decide) ⟨?_, ?_, ?_, ?_, hframe⟩
  · change q ∉ s.trn.repair.filter (· != q)
    simp
  · exact hasF_setF_one _ F.UPD_SURVIVE_STATUS_repair_done (by decide) (by decide)
  · exact (getF_setF_other _ _ _ _ (by decide) (by decide)).trans (method_repairShown _ _ _ _)
  · exact (getF_setF_other _ _ _ _ (by decide) (by decide)).trans (shard_repairShown _ _ _ _)

/-- Settles O32: the digest by the compare that ends or waits, the repairs by what they ask for, hold or release. -/
theorem digestsAreComparedAndRepaired : Obligations.DigestsAreComparedAndRepaired :=
  ⟨does_digestCompute_to, does_digestCompute_alone, does_digestEngineFault_owed,
    fun s _ h ho => does_eq rfl (digestFault_of_not_owed ho) h (Only.rfl' [] [] s) (by decide) (by decide) rfl,
    does_digestRepair_minority, does_digestRepair_no_majority, does_groupRepair_sound,
    fun s _ h hq => does_eq rfl (groupRepair_of_none_waiting hq) h (Only.rfl' [] [] s) (by decide) (by decide) rfl⟩

end Sys2Proof.Machine
end

section
/-!
PROOFS. NORM_DECISION (R203, R204): the registers that show a decision, the signals that it sends, and what a step that commits or is
abandoned leaves before the next one opens.
-/

namespace Sys2Proof.Machine

/-! ### Pending slots freed, R212 and R214 -/

/-- The registers of the pending slots and of the stash, one for each stack. -/
def pendingRegs : List Nat := (List.range 16).map Off.UPD_PENDING
def stashRegs : List Nat := (List.range 16).map Off.UPD_STASH

theorem only_showPend (s : State) (q : Nat) : Only [] [Off.UPD_PENDING q] s (showPend s q) :=
  (only_setF s (F.UPD_PENDING_in_use q) _).trans (only_setF _ (F.UPD_PENDING_high_water q) _)

theorem only_foldl_showPend (s : State) : Only [] pendingRegs s ((List.range 16).foldl showPend s) :=
  foldl_only [] pendingRegs _ _ (fun s q hq => (only_showPend s q).mono (by simp) fun o ho => by
    rw [List.mem_singleton.mp ho]
    exact List.mem_map_of_mem hq) s

/-- The entries of the pending slots turned invalid, and the slots left free. -/
def slotsLeft (s : State) : State :=
  let t := s.trn.pend.foldl (fun s e => ftSet s e.2 { ftGet s e.2 with valid := false }) s
  { t with trn := { t.trn with pend := [], pendWait := false, zeroShards := [] } }

theorem freePending_eq (s : State) : freePending s = (List.range 16).foldl showPend (slotsLeft s) := rfl

theorem only_slotsLeft (s : State) : Only [.trn, .mem, .flash] [] s (slotsLeft s) := by
  refine Only.trans ?_ ((only_trn _ _).mono (by decide) (by simp))
  exact foldl_only _ _ _ _ (fun s e _ => (only_ftSet s _ _).mono (by decide) (by simp)) s

theorem only_freePending (s : State) : Only [.trn, .mem, .flash] pendingRegs s (freePending s) := by
  rw [freePending_eq]
  exact ((only_slotsLeft s).mono (fun _ h => h) (by simp)).trans ((only_foldl_showPend _).mono (by simp) (fun _ h => h))

theorem pend_freePending (s : State) : (freePending s).trn.pend = [] := by
  have htrn : ((List.range 16).foldl showPend (slotsLeft s)).trn = (slotsLeft s).trn := (only_foldl_showPend _).1 .trn (by simp)
  rw [freePending_eq, htrn]
  rfl

/-! ### A step abandoned, Table 7.11 -/

/-- An abandonment flagged and counted. -/
def abandonCounted (s : State) : State := bumpF (flag s F.UPD_STATUS_abandon_seen 7) F.UPD_ABANDON_CNT_count 1

theorem only_abandonCounted (s : State) :
    Only eventParts [Off.UPD_STATUS, Off.UPD_ABANDON_CNT, Off.HST_IRQ_PENDING] s (abandonCounted s) :=
  ((only_flag s F.UPD_STATUS_abandon_seen 7).mono (by decide) (by decide)).trans
    ((only_bumpF _ F.UPD_ABANDON_CNT_count 1).mono (by simp) (by decide))

theorem count_abandonCounted (s : State) : getF (abandonCounted s) F.UPD_ABANDON_CNT_count =
    min (Field.max F.UPD_ABANDON_CNT_count) (getF s F.UPD_ABANDON_CNT_count + 1) := by
  rw [← getF_flag_other s F.UPD_STATUS_abandon_seen F.UPD_ABANDON_CNT_count 7 (by decide) (by decide) (by decide)]
  exact getF_bumpF_same _ _ 1 (by decide)

theorem seen_abandonCounted (s : State) : hasF (abandonCounted s) F.UPD_STATUS_abandon_seen = true :=
  ((only_bumpF _ F.UPD_ABANDON_CNT_count 1).hasF_eq _ (by decide)).trans
    (hasF_flag s F.UPD_STATUS_abandon_seen 7 (by decide) (by decide) (by decide))

theorem abandonStep_eq (s : State) : abandonStep s = freePending (releaseStash (abandonCounted s) fun p _ => p.iter == curIter s) := rfl

/-- After it is counted, an abandonment releases the stash and frees the pending slots. -/
theorem only_abandonStep_of_counted (s : State) :
    Only [.trn, .mem, .flash] (stashRegs ++ pendingRegs) (abandonCounted s) (abandonStep s) := by
  rw [abandonStep_eq]
  exact ((only_releaseStash _ _).mono (fun _ h => h) (fun _ h => List.mem_append_left _ h)).trans
    ((only_freePending _).mono (fun _ h => h) (fun _ h => List.mem_append_right _ h))

theorem only_abandonStep (s : State) : Only ([Part.trn, .mem, .flash] ++ eventParts)
    (stashRegs ++ pendingRegs ++ [Off.UPD_STATUS, Off.UPD_ABANDON_CNT, Off.HST_IRQ_PENDING]) s (abandonStep s) :=
  ((only_abandonCounted s).mono (by decide) (fun _ h => List.mem_append_right _ h)).trans
    ((only_abandonStep_of_counted s).mono (by decide) (fun _ h => List.mem_append_left _ h))

theorem pend_abandonStep (s : State) : (abandonStep s).trn.pend = [] := by
  rw [abandonStep_eq]
  exact pend_freePending _

theorem seen_abandonStep (s : State) : hasF (abandonStep s) F.UPD_STATUS_abandon_seen = true :=
  ((only_abandonStep_of_counted s).hasF_eq _ (by decide)).trans (seen_abandonCounted s)

theorem count_abandonStep (s : State) : getF (abandonStep s) F.UPD_ABANDON_CNT_count =
    min (Field.max F.UPD_ABANDON_CNT_count) (getF s F.UPD_ABANDON_CNT_count + 1) :=
  ((only_abandonStep_of_counted s).field _ (by decide)).trans (count_abandonCounted s)

/-! ### A step committed, R212 -/

/-- t risen, and the residual buffer of the next step shown. -/
def commitCounted (s : State) : State :=
  let t := bumpF s F.UPD_COMMITS_t 1
  setF t F.UPD_LAST_OUTCOME_res_buffer (getF t F.UPD_COMMITS_t % 2)

/-- Clipping counted, for a step whose gradients were scaled to the ceiling. -/
def clipCounted (s : State) (outcome : Nat) : State :=
  if outcome = 2 then bumpF (setF s F.UPD_STATUS_clip_seen 1) F.UPD_CLIP_CNT_count 1 else s

/-- The shards that owe a digest of a step. -/
def digestOwed (s : State) (n : Nat) : List Nat := if digestStep s n then (ownShards s).map (·.id) else []

/-- The digest object signalled, when a step takes digests of which the module owes none. -/
def digestSignalled (s : State) (n : Nat) (owed : List Nat) : State :=
  match s.plan with
  | some p => if digestStep s n && owed.isEmpty then signal s p.header.digestObj 1 else s
  | none => s

/-- The digests and the snapshot that a committed step owes. -/
def commitNoted (s : State) (n : Nat) : State :=
  let owed := digestOwed s n
  let t := digestSignalled s n owed
  let u := if owed.isEmpty then t else runActivity t ⟨5, 0, 0⟩
  { u with trn := { u.trn with owed := owed, committed := n + 1,
                               snapOwed := if (getF u F.UPD_SNAP_CFG_interval != 0 && n % getF u F.UPD_SNAP_CFG_interval == 0) = true
                                           then some n else u.trn.snapOwed } }

theorem commitStep_eq (s : State) (n outcome : Nat) :
    commitStep s n outcome = commitNoted (freePending (clipCounted (commitCounted s) outcome)) n := rfl

theorem only_commitCounted (s : State) : Only [] [Off.UPD_COMMITS, Off.UPD_LAST_OUTCOME] s (commitCounted s) :=
  ((only_bumpF s F.UPD_COMMITS_t 1).mono (by simp) (by decide)).trans
    ((only_setF _ F.UPD_LAST_OUTCOME_res_buffer _).mono (by simp) (by decide))

theorem commits_commitCounted (s : State) :
    getF (commitCounted s) F.UPD_COMMITS_t = min (Field.max F.UPD_COMMITS_t) (getF s F.UPD_COMMITS_t + 1) :=
  ((only_setF _ F.UPD_LAST_OUTCOME_res_buffer _).field _ (by decide)).trans (getF_bumpF_same s _ 1 (by decide))

/-- A field of UPD_LAST_OUTCOME other than the residual buffer stands. -/
theorem getF_commitCounted (s : State) {f : Field} (ho : f.off ≠ Off.UPD_COMMITS) (ha : F.UPD_LAST_OUTCOME_res_buffer.apart f = true) :
    getF (commitCounted s) f = getF s f :=
  (getF_setF_other _ _ _ _ (by decide) ha).trans ((only_bumpF s F.UPD_COMMITS_t 1).field f fun hm => ho (List.mem_singleton.mp hm))

theorem only_clipCounted (s : State) (outcome : Nat) : Only [] [Off.UPD_STATUS, Off.UPD_CLIP_CNT] s (clipCounted s outcome) := by
  unfold clipCounted
  split
  · exact ((only_setF s F.UPD_STATUS_clip_seen 1).mono (by simp) (by decide)).trans
      ((only_bumpF _ F.UPD_CLIP_CNT_count 1).mono (by simp) (by decide))
  · exact Only.rfl' _ _ s

theorem only_digestSignalled (s : State) (n : Nat) (owed : List Nat) : Only [.lch] [] s (digestSignalled s n owed) := by
  unfold digestSignalled
  split
  · split
    · exact only_signal s _ 1
    · exact Only.rfl' _ _ s
  · exact Only.rfl' _ _ s

/-- A signal more leaves those that are on their way. -/
theorem mem_signals_signal {s : State} {g : Signal} (object amount : Nat) (h : g ∈ s.lch.signals) : g ∈ (signal s object amount).lch.signals :=
  List.mem_append_left _ h

theorem mem_signals_digestSignalled {s : State} {g : Signal} (n : Nat) (owed : List Nat) (h : g ∈ s.lch.signals) :
    g ∈ (digestSignalled s n owed).lch.signals := by
  unfold digestSignalled
  split
  · split
    · exact mem_signals_signal _ 1 h
    · exact h
  · exact h

theorem only_runActivity (s : State) (x : Activity) : Only [.maint] [Off.SAF_MAINT] s (runActivity s x) :=
  ((only_maint s _).mono (fun _ h => h) (by simp)).trans ((only_showMaint _).mono (by simp) (fun _ h => h))

theorem only_compareStarted (s : State) (owed : List Nat) :
    Only [.maint] [Off.SAF_MAINT] s (if owed.isEmpty then s else runActivity s ⟨5, 0, 0⟩) := by
  split
  · exact Only.rfl' _ _ s
  · exact only_runActivity s _

theorem only_commitNoted (s : State) (n : Nat) : Only [.trn, .lch, .maint] [Off.SAF_MAINT] s (commitNoted s n) := by
  refine Only.trans ?_ ((only_trn _ _).mono (by decide) (by simp))
  exact ((only_digestSignalled s n _).mono (by decide) (by simp)).trans ((only_compareStarted _ _).mono (by decide) (fun _ h => h))

theorem mem_signals_commitNoted {s : State} {g : Signal} (n : Nat) (h : g ∈ s.lch.signals) : g ∈ (commitNoted s n).lch.signals := by
  have hlch := (only_compareStarted (digestSignalled s n (digestOwed s n)) (digestOwed s n)).1 .lch (by decide)
  have hkept := mem_signals_digestSignalled n (digestOwed s n) h
  rw [← hlch] at hkept
  exact hkept

/-- What a commit changes once it is counted. -/
def commitTailRegs : List Nat := pendingRegs ++ [Off.UPD_STATUS, Off.UPD_CLIP_CNT, Off.SAF_MAINT]

theorem only_freed_of_counted (s : State) (outcome : Nat) : Only [.trn, .mem, .flash] commitTailRegs (commitCounted s)
    (freePending (clipCounted (commitCounted s) outcome)) :=
  ((only_clipCounted _ outcome).mono (by simp) (by decide)).trans ((only_freePending _).mono (fun _ h => h) (by decide))

theorem only_commitStep_of_counted (s : State) (n outcome : Nat) :
    Only [.trn, .lch, .maint, .mem, .flash] commitTailRegs (commitCounted s) (commitStep s n outcome) := by
  rw [commitStep_eq]
  exact ((only_freed_of_counted s outcome).mono (by decide) (fun _ h => h)).trans ((only_commitNoted _ n).mono (by decide) (by decide))

theorem only_commitStep (s : State) (n outcome : Nat) : Only [.trn, .lch, .maint, .mem, .flash]
    (commitTailRegs ++ [Off.UPD_COMMITS, Off.UPD_LAST_OUTCOME]) s (commitStep s n outcome) :=
  ((only_commitCounted s).mono (by simp) (fun _ h => List.mem_append_right _ h)).trans
    ((only_commitStep_of_counted s n outcome).mono (fun _ h => h) (fun _ h => List.mem_append_left _ h))

theorem commits_commitStep (s : State) (n outcome : Nat) :
    getF (commitStep s n outcome) F.UPD_COMMITS_t = min (Field.max F.UPD_COMMITS_t) (getF s F.UPD_COMMITS_t + 1) :=
  ((only_commitStep_of_counted s n outcome).field _ (by decide)).trans (commits_commitCounted s)

theorem mem_signals_commitStep {s : State} {g : Signal} (n outcome : Nat) (h : g ∈ s.lch.signals) :
    g ∈ (commitStep s n outcome).lch.signals := by
  have hfreed := (only_freed_of_counted s outcome).1 .lch (by decide)
  have hcounted : (commitCounted s).lch = s.lch := (only_commitCounted s).1 .lch (by simp)
  rw [commitStep_eq]
  exact mem_signals_commitNoted n (by rwa [hfreed, hcounted])

/-! ### The decision shown, R203 and R204 -/

/-- The decision of the open step (R203). -/
def decisionOf (s : State) (h : PlanHeader) (d : Nat) : Decision :=
  let rs := (awaited s s.trn.cur).filterMap fun a => normOf s a s.trn.cur
  decide7 h (rs.any (·.abort)) (rs.any (·.loss)) (rs.any (·.grad)) (gTwo s s.trn.cur) d

/-- The outcomes of Table 7.5 end at 7. -/
theorem outcome_decide7_le (h : PlanHeader) (abort loss grad : Bool) (g2 : Word32) (d : Nat) :
    (decide7 h abort loss grad g2 d).outcome ≤ 7 := by
  unfold decide7
  dsimp only
  split_ifs <;> simp

theorem outcome_decisionOf_le (s : State) (h : PlanHeader) (d : Nat) : (decisionOf s h d).outcome ≤ 7 := outcome_decide7_le _ _ _ _ _ _

/-- The step and its outcome shown. -/
def outcomeShown (s : State) (x : Decision) : State :=
  let t := setF (setF (setF s F.UPD_LAST_OUTCOME_step s.trn.cur) F.UPD_LAST_OUTCOME_outcome x.outcome) F.HST_PLAN_PROGRESS_step s.trn.cur
  setF t F.UPD_LAST_OUTCOME_res_buffer (resBuffer t)

/-- The norm shown, and the scale of a step that commits. -/
def normShown (s : State) (x : Decision) : State :=
  let t := setF s F.UPD_NORM_norm x.norm.toNat
  if x.outcome ≤ 2 then setF t F.UPD_NORM_gscale x.gscale.toNat else t

/-- The sum of squares and the divisor shown. -/
def sumShown (s : State) (g2 : Word32) (d : Nat) : State := setFmax (setF s F.UPD_G2_g2 g2.toNat) F.UPD_G2_divisor d

theorem only_outcomeShown (s : State) (x : Decision) : Only [] [Off.UPD_LAST_OUTCOME, Off.HST_PLAN_PROGRESS] s (outcomeShown s x) := by
  refine Only.trans ?_ ((only_setF _ F.UPD_LAST_OUTCOME_res_buffer _).mono (by simp) (by decide))
  refine Only.trans ?_ ((only_setF _ F.HST_PLAN_PROGRESS_step _).mono (by simp) (by decide))
  exact ((only_setF s F.UPD_LAST_OUTCOME_step _).trans (only_setF _ F.UPD_LAST_OUTCOME_outcome _)).mono (by simp) (by decide)

theorem step_outcomeShown (s : State) (x : Decision) : getF (outcomeShown s x) F.UPD_LAST_OUTCOME_step = s.trn.cur % 2 ^ 32 := by
  unfold outcomeShown
  rw [getF_setF_other _ _ _ _ (by decide) (by decide), getF_setF_other _ _ _ _ (by decide) (by decide),
    getF_setF_other _ _ _ _ (by decide) (by decide), getF_setF_same _ _ _ (by decide)]
  rfl

theorem outcome_outcomeShown (s : State) {x : Decision} (h : x.outcome ≤ 7) :
    getF (outcomeShown s x) F.UPD_LAST_OUTCOME_outcome = x.outcome := by
  unfold outcomeShown
  rw [getF_setF_other _ _ _ _ (by decide) (by decide), getF_setF_other _ _ _ _ (by decide) (by decide), getF_setF_same _ _ _ (by decide)]
  exact Nat.mod_eq_of_lt (lt_of_le_of_lt h (by decide))

theorem only_normShown (s : State) (x : Decision) : Only [] [Off.UPD_NORM] s (normShown s x) := by
  unfold normShown
  dsimp only
  split
  · exact (only_setF s F.UPD_NORM_norm _).trans (only_setF _ F.UPD_NORM_gscale _)
  · exact only_setF s F.UPD_NORM_norm _

theorem norm_normShown (s : State) (x : Decision) : getF (normShown s x) F.UPD_NORM_norm = x.norm.toNat := by
  have hset : getF (setF s F.UPD_NORM_norm x.norm.toNat) F.UPD_NORM_norm = x.norm.toNat :=
    (getF_setF_same s _ _ (by decide)).trans (Nat.mod_eq_of_lt x.norm.isLt)
  unfold normShown
  dsimp only
  split
  · rw [getF_setF_other _ _ _ _ (by decide) (by decide), hset]
  · exact hset

theorem gscale_normShown (s : State) {x : Decision} (h : x.outcome ≤ 2) : getF (normShown s x) F.UPD_NORM_gscale = x.gscale.toNat := by
  unfold normShown
  rw [if_pos h, getF_setF_same _ _ _ (by decide)]
  exact Nat.mod_eq_of_lt x.gscale.isLt

theorem only_sumShown (s : State) (g2 : Word32) (d : Nat) : Only [] [Off.UPD_G2] s (sumShown s g2 d) :=
  (only_setF s F.UPD_G2_g2 _).trans (only_setFmax _ F.UPD_G2_divisor d)

theorem g2_sumShown (s : State) (g2 : Word32) (d : Nat) : getF (sumShown s g2 d) F.UPD_G2_g2 = g2.toNat := by
  unfold sumShown
  rw [getF_setFmax_other _ _ _ _ (by decide) (by decide), getF_setF_same _ _ _ (by decide)]
  exact Nat.mod_eq_of_lt g2.isLt

theorem only_notePosition (s : State) (n : Nat) : Only [] [Off.INT_POSITION] s (notePosition s n) := by
  unfold notePosition
  split
  · exact Only.rfl' _ _ s
  · exact only_setF s F.INT_POSITION_position _

/-! ### The decision announced, R203 -/

/-- The decision in the registers, the data position behind it. -/
def decisionShown (s : State) (x : Decision) (d : Nat) : State :=
  notePosition (sumShown (normShown (outcomeShown s x) x) (gTwo s s.trn.cur) d) s.trn.cur

/-- The object of the decision signalled, and that of the digests for a step that takes none. -/
def decisionSignalled (s : State) (h : PlanHeader) (n : Nat) (x : Decision) : State :=
  let t := signal s h.normObj 1
  if x.outcome ≤ 2 && digestStep t n then t else signal t h.digestObj 1

/-- The registers that show a decision. -/
def shownRegs : List Nat := [Off.UPD_LAST_OUTCOME, Off.HST_PLAN_PROGRESS, Off.UPD_NORM, Off.UPD_G2, Off.INT_POSITION]

section
variable (s : State) (x : Decision) (d : Nat)

theorem only_decisionShown_of_sum : Only [] [Off.INT_POSITION]
    (sumShown (normShown (outcomeShown s x) x) (gTwo s s.trn.cur) d) (decisionShown s x d) := only_notePosition _ _

theorem only_decisionShown_of_norm : Only [] [Off.UPD_G2, Off.INT_POSITION] (normShown (outcomeShown s x) x) (decisionShown s x d) :=
  ((only_sumShown _ _ d).mono (by simp) (by decide)).trans ((only_decisionShown_of_sum s x d).mono (by simp) (by decide))

theorem only_decisionShown_of_outcome : Only [] [Off.UPD_NORM, Off.UPD_G2, Off.INT_POSITION] (outcomeShown s x) (decisionShown s x d) :=
  ((only_normShown _ x).mono (by simp) (by decide)).trans ((only_decisionShown_of_norm s x d).mono (by simp) (by decide))

theorem only_decisionShown : Only [] shownRegs s (decisionShown s x d) :=
  ((only_outcomeShown s x).mono (by simp) (by decide)).trans ((only_decisionShown_of_outcome s x d).mono (by simp) (by decide))

end

theorem only_decisionSignalled (s : State) (h : PlanHeader) (n : Nat) (x : Decision) : Only [.lch] [] s (decisionSignalled s h n x) := by
  unfold decisionSignalled
  dsimp only
  split
  · exact only_signal s _ 1
  · exact (only_signal s _ 1).trans (only_signal _ _ 1)

theorem signal_mem_decisionSignalled (s : State) (h : PlanHeader) (n : Nat) (x : Decision) :
    ⟨slot s + 2, h.normObj, 1⟩ ∈ (decisionSignalled s h n x).lch.signals := by
  have hown : ⟨slot s + 2, h.normObj, 1⟩ ∈ (signal s h.normObj 1).lch.signals := List.mem_append_right _ (List.mem_singleton_self _)
  unfold decisionSignalled
  dsimp only
  split
  · exact hown
  · exact mem_signals_signal _ 1 hown

/-! ### What the outcome brings, R204 and R212 -/

/-- An abandoned step leaves at once; one that commits does so here when no sweep of the module updates it. -/
def outcomeTaken (s : State) (n : Nat) (x : Decision) : State :=
  if x.outcome > 2 then abandonStep s else if hasSweep s then s else commitStep s n x.outcome

/-- The registers that the outcome of a step can change, but for UPD_LAST_OUTCOME. -/
def takenRegs : List Nat := stashRegs ++ pendingRegs ++
  [Off.UPD_STATUS, Off.UPD_ABANDON_CNT, Off.UPD_COMMITS, Off.UPD_CLIP_CNT, Off.SAF_MAINT, Off.HST_IRQ_PENDING]

section
variable {s : State} {n : Nat} {x : Decision}

theorem outcomeTaken_of_abandoned (h : 2 < x.outcome) : outcomeTaken s n x = abandonStep s := if_pos h

theorem outcomeTaken_of_unswept (h : x.outcome ≤ 2) (hs : hasSweep s = false) : outcomeTaken s n x = commitStep s n x.outcome := by
  unfold outcomeTaken
  rw [if_neg (by omega), if_neg (by simp [hs])]

/-- The three ends of a decided step. -/
theorem outcomeTaken_cases (s : State) (n : Nat) (x : Decision) :
    outcomeTaken s n x = abandonStep s ∨ outcomeTaken s n x = s ∨ outcomeTaken s n x = commitStep s n x.outcome := by
  unfold outcomeTaken
  split
  · exact .inl rfl
  · split
    · exact .inr (.inl rfl)
    · exact .inr (.inr rfl)

theorem only_outcomeTaken (s : State) (n : Nat) (x : Decision) :
    Only ([Part.lch, .trn, .mem, .flash, .maint] ++ eventParts) (Off.UPD_LAST_OUTCOME :: takenRegs) s (outcomeTaken s n x) := by
  rcases outcomeTaken_cases s n x with h | h | h <;> rw [h]
  · exact (only_abandonStep s).mono (by decide) (by decide)
  · exact Only.rfl' _ _ s
  · exact (only_commitStep s n x.outcome).mono (by decide) (by decide)

/-- Of the registers that show the decision, the outcome of the step changes the residual buffer alone. -/
theorem getF_outcomeTaken (s : State) (n : Nat) (x : Decision) {f : Field} (hf : f.off ∉ takenRegs)
    (ha : F.UPD_LAST_OUTCOME_res_buffer.apart f = true) : getF (outcomeTaken s n x) f = getF s f := by
  have hsub : ∀ l : List Nat, (∀ o ∈ l, o ∈ takenRegs) → f.off ∉ l := fun _ hl hm => hf (hl _ hm)
  rcases outcomeTaken_cases s n x with h | h | h <;> rw [h]
  · exact (only_abandonStep s).field f (hsub _ (by decide))
  · have hcommits : f.off ≠ Off.UPD_COMMITS := fun ho => hf (ho ▸ (by decide : Off.UPD_COMMITS ∈ takenRegs))
    exact ((only_commitStep_of_counted s n x.outcome).field f (hsub _ (by decide))).trans (getF_commitCounted s hcommits ha)

theorem mem_signals_outcomeTaken {g : Signal} (n : Nat) (x : Decision) (h : g ∈ s.lch.signals) : g ∈ (outcomeTaken s n x).lch.signals := by
  rcases outcomeTaken_cases s n x with ht | ht | ht <;> rw [ht]
  · have hlch : (abandonStep s).lch = s.lch := (only_abandonStep s).1 .lch (by decide)
    rwa [hlch]
  · exact h
  · exact mem_signals_commitStep n x.outcome h

end

/-! ### NORM_DECISION -/

theorem only_closeStep (s : State) (n : Nat) : Only [.trn, .int] [] s (closeStep s n) :=
  Only.trans (t := { s with trn := (closeStep s n).trn }) ((only_trn s _).mono (by decide) (by simp))
    ((only_int _ (closeStep s n).int).mono (by decide) (by simp))

/-- The decision shown and announced, before its outcome acts. -/
def decisionAnnounced (s : State) (h : PlanHeader) (d : Nat) : State :=
  decisionSignalled (decisionShown s (decisionOf s h d) d) h s.trn.cur (decisionOf s h d)

theorem takeDecision_of_no_report {s : State} {h : PlanHeader} (d : Nat) (hr : h.reportCount = 0) :
    takeDecision s h d = closeStep (outcomeTaken (decisionAnnounced s h d) s.trn.cur (decisionOf s h d)) s.trn.cur := by
  have hnone : ¬h.reportCount ≥ 1 := by omega
  unfold takeDecision
  simp only [if_neg hnone]
  rfl

theorem normDecision_of_complete {s : State} {p : Plan} {d : Nat} (hp : s.plan = some p) (ht : p.training = true) (hl : lossOpen s = false)
    (hs : s.trn.normSent = true) (hr : partsReady s = true) (hn : ∀ a ∈ awaited s s.trn.cur, (normOf s a s.trn.cur).isSome = true)
    (hd : divisorOf s s.trn.cur = some d) : normDecision s = takeDecision s p.header d := by
  have hall : ((awaited s s.trn.cur).all fun a => (normOf s a s.trn.cur).isSome) = true := List.all_eq_true.mpr hn
  simp only [normDecision, hp, ht, hl, hs, hr, hall, hd, Bool.not_false, Bool.and_true, if_true]

theorem normDecision_of_not_sent {s : State} (hs : s.trn.normSent = false) : normDecision s = s := by
  unfold normDecision
  split
  · exact if_neg (by simp [hs])
  · rfl

section
variable (s : State) (h : PlanHeader) (d : Nat)

theorem only_decisionAnnounced_of_shown : Only [.lch] [] (decisionShown s (decisionOf s h d) d) (decisionAnnounced s h d) :=
  only_decisionSignalled _ _ _ _

theorem only_decisionAnnounced : Only [.lch] shownRegs s (decisionAnnounced s h d) :=
  ((only_decisionShown s _ d).mono (by simp) (fun _ h => h)).trans ((only_decisionAnnounced_of_shown s h d).mono (fun _ h => h) (by simp))

theorem signal_mem_decisionAnnounced : ⟨slot s + 2, h.normObj, 1⟩ ∈ (decisionAnnounced s h d).lch.signals := by
  have hslot : slot (decisionShown s (decisionOf s h d) d) = slot s := (only_decisionShown s _ d).field F.LCH_SLOT_slot (by decide)
  rw [← hslot]
  exact signal_mem_decisionSignalled _ _ _ _

theorem hasSweep_decisionAnnounced : hasSweep (decisionAnnounced s h d) = hasSweep s := by
  unfold hasSweep
  rw [(only_decisionAnnounced s h d).1 .plan (by decide)]

theorem step_decisionAnnounced : getF (decisionAnnounced s h d) F.UPD_LAST_OUTCOME_step = s.trn.cur % 2 ^ 32 := by
  rw [(only_decisionAnnounced_of_shown s h d).field _ (by simp), (only_decisionShown_of_outcome s _ d).field _ (by decide),
    step_outcomeShown]

theorem outcome_decisionAnnounced : getF (decisionAnnounced s h d) F.UPD_LAST_OUTCOME_outcome = (decisionOf s h d).outcome := by
  rw [(only_decisionAnnounced_of_shown s h d).field _ (by simp), (only_decisionShown_of_outcome s _ d).field _ (by decide),
    outcome_outcomeShown s (outcome_decisionOf_le s h d)]

theorem norm_decisionAnnounced : getF (decisionAnnounced s h d) F.UPD_NORM_norm = (decisionOf s h d).norm.toNat := by
  rw [(only_decisionAnnounced_of_shown s h d).field _ (by simp), (only_decisionShown_of_norm s _ d).field _ (by decide), norm_normShown]

theorem gscale_decisionAnnounced (hx : (decisionOf s h d).outcome ≤ 2) :
    getF (decisionAnnounced s h d) F.UPD_NORM_gscale = (decisionOf s h d).gscale.toNat := by
  rw [(only_decisionAnnounced_of_shown s h d).field _ (by simp), (only_decisionShown_of_norm s _ d).field _ (by decide),
    gscale_normShown _ hx]

theorem g2_decisionAnnounced : getF (decisionAnnounced s h d) F.UPD_G2_g2 = (gTwo s s.trn.cur).toNat := by
  rw [(only_decisionAnnounced_of_shown s h d).field _ (by simp), (only_decisionShown_of_sum s _ d).field _ (by decide), g2_sumShown]

end

/-- The parts and the registers that a decision changes. -/
def decisionParts : List Part := [Part.lch, .trn, .int, .mem, .flash, .maint] ++ eventParts
def decisionRegs : List Nat := stashRegs ++ pendingRegs ++
  [Off.UPD_LAST_OUTCOME, Off.HST_PLAN_PROGRESS, Off.UPD_NORM, Off.UPD_G2, Off.INT_POSITION, Off.UPD_STATUS, Off.UPD_ABANDON_CNT,
   Off.UPD_COMMITS, Off.UPD_CLIP_CNT, Off.SAF_MAINT, Off.HST_IRQ_PENDING]

theorem does_normDecision_complete (s : State) (p : Plan) (d : Nat) (hu : Up s) (hp : s.plan = some p) (ht : p.training = true)
    (hl : lossOpen s = false) (hs : s.trn.normSent = true) (hr : partsReady s = true)
    (hn : ∀ a ∈ awaited s s.trn.cur, (normOf s a s.trn.cur).isSome = true) (hd : divisorOf s s.trn.cur = some d)
    (hc : p.header.reportCount = 0) :
    Does .normDecision s fun t => getF t F.UPD_LAST_OUTCOME_step = s.trn.cur % 2 ^ 32 ∧
      getF t F.UPD_LAST_OUTCOME_outcome = (decisionOf s p.header d).outcome ∧
      getF t F.UPD_NORM_norm = (decisionOf s p.header d).norm.toNat ∧
      ((decisionOf s p.header d).outcome ≤ 2 → getF t F.UPD_NORM_gscale = (decisionOf s p.header d).gscale.toNat) ∧
      getF t F.UPD_G2_g2 = (gTwo s s.trn.cur).toNat ∧ ⟨slot s + 2, p.header.normObj, 1⟩ ∈ t.lch.signals ∧ t.trn.cur = s.trn.cur + 1 ∧
      t.trn.normSent = false ∧
      (2 < (decisionOf s p.header d).outcome → t.trn.pend = [] ∧ hasF t F.UPD_STATUS_abandon_seen = true ∧
        getF t F.UPD_ABANDON_CNT_count = min (Field.max F.UPD_ABANDON_CNT_count) (getF s F.UPD_ABANDON_CNT_count + 1)) ∧
      ((decisionOf s p.header d).outcome ≤ 2 → hasSweep s = false →
        getF t F.UPD_COMMITS_t = min (Field.max F.UPD_COMMITS_t) (getF s F.UPD_COMMITS_t + 1)) ∧
      Only decisionParts decisionRegs s t := by
  let x := decisionOf s p.header d
  let u := decisionAnnounced s p.header d
  let v := outcomeTaken u s.trn.cur x
  have hend : normDecision s = closeStep v s.trn.cur :=
    (normDecision_of_complete hp ht hl hs hr hn hd).trans (takeDecision_of_no_report d hc)
  have hshown := only_decisionAnnounced s p.header d
  have htaken := only_outcomeTaken u s.trn.cur x
  have hclose := only_closeStep v s.trn.cur
  have hframe : Only decisionParts decisionRegs s (closeStep v s.trn.cur) :=
    ((hshown.mono (by decide) (by decide)).trans (htaken.mono (by decide) (by decide))).trans (hclose.mono (by decide) (by simp))
  have hkept : ∀ f : Field, f.off ∉ takenRegs → F.UPD_LAST_OUTCOME_res_buffer.apart f = true →
      getF (closeStep v s.trn.cur) f = getF u f := fun f hf ha => (hclose.field f (by simp)).trans (getF_outcomeTaken u _ x hf ha)
  refine does_eq rfl hend hu hframe (by decide) (by decide) ⟨?_, ?_, ?_, fun hx => ?_, ?_, ?_, rfl, rfl, fun hx => ?_, fun hx hw => ?_, hframe⟩
  · rw [hkept _ (by decide) (by decide)]
    exact step_decisionAnnounced s _ d
  · rw [hkept _ (by decide) (by decide)]
    exact outcome_decisionAnnounced s _ d
  · rw [hkept _ (by decide) (by decide)]
    exact norm_decisionAnnounced s _ d
  · rw [hkept _ (by decide) (by decide)]
    exact gscale_decisionAnnounced s _ d hx
  · rw [hkept _ (by decide) (by decide)]
    exact g2_decisionAnnounced s _ d
  · exact mem_signals_outcomeTaken s.trn.cur x (signal_mem_decisionAnnounced s p.header d)
  · have hv : v = abandonStep u := outcomeTaken_of_abandoned hx
    refine ⟨?_, ?_, ?_⟩
    · exact (congrArg (fun v => v.trn.pend) hv).trans (pend_abandonStep u)
    · rw [hclose.hasF_eq _ (by simp), hv, seen_abandonStep]
    · rw [hclose.field _ (by simp), hv, count_abandonStep, hshown.field _ (by decide)]
  · have hv : v = commitStep u s.trn.cur x.outcome := outcomeTaken_of_unswept hx ((hasSweep_decisionAnnounced s _ d).trans hw)
    rw [hclose.field _ (by simp), hv, commits_commitStep, hshown.field _ (by decide)]

/-- Settles O30: the decision as it is shown and announced, then what its outcome leaves of that. -/
theorem theStepIsDecided : Obligations.TheStepIsDecided :=
  ⟨does_normDecision_complete,
    fun s h hs => does_eq rfl (normDecision_of_not_sent hs) h (Only.rfl' [] [] s) (by decide) (by decide) rfl⟩

end Sys2Proof.Machine
end

section
/-!
PROOFS. FLIT_RECEIVE, REPLAY_REQUEST and IDLE_FLIT (R239): what the register and the record of a port read after a write, and the one
branch that each flit takes.
-/

namespace Sys2Proof.Machine

/-! ### The register and the record of a port -/

/-- No register below those of the ports is one of theirs. -/
theorem ne_port_of_lt (k : Nat) {o : Nat} (ho : o < Off.CHN_PORT 0) : o ≠ Off.CHN_PORT k :=
  Nat.ne_of_lt (Nat.lt_of_lt_of_le ho (Nat.add_le_add_left (Nat.zero_le _) _))

theorem portRun_congr {s t : State} (h : t.chn.ports = s.chn.ports) (k : Nat) : portRun t k = portRun s k := by
  unfold portRun; rw [h]

@[simp] theorem portRun_setPortRun_self (s : State) (k : Nat) (r : PortRun) : portRun (setPortRun s k r) k = r :=
  FMap.get_set_self _ _ _ _

theorem portRun_setPortRun_other (s : State) {j k : Nat} (r : PortRun) (h : j ≠ k) : portRun (setPortRun s k r) j = portRun s j :=
  FMap.get_set_other _ _ _ h

/-- A port that a link command looks at: one of the four, and up. -/
theorem up_port_not_skipped {s : State} {k : Nat} (hk : k < 4) (hp : portUp s k = true) : ¬(decide (4 ≤ k) || !portUp s k) = true := by
  simp [hp, hk]

/-! ### FLIT_RECEIVE -/

/-- A flit that fails its CRC, counted and asked for again. -/
def crcFailed (s : State) (k : Nat) : State :=
  send (bumpF s (F.CHN_PORT_crc_fail k) 1) (.link k 0x102 (((portRun s k).rxNext + 2 ^ 24 - 1) % 2 ^ 24) 0)

section
variable {s : State} {k : Nat} (hk : k < 4) (hp : portUp s k = true)
include hk hp

theorem flitIn_of_crc_fail (ft seq ack : Nat) : flitIn s k false ft seq ack = crcFailed s k :=
  if_neg (up_port_not_skipped hk hp)

theorem flitIn_of_in_turn {ft : Nat} (ack : Nat) (hf : ft ≠ 2) : flitIn s k true ft (portRun s k).rxNext ack =
    setPortRun s k { portRun s k with lastGood := slot s, rxNext := ((portRun s k).rxNext + 1) % 2 ^ 24 } := by
  refine (if_neg (up_port_not_skipped hk hp)).trans ?_
  simp [hf]

theorem flitIn_of_out_of_turn (ft ack : Nat) {seq : Nat} (hs : seq ≠ (portRun s k).rxNext) :
    flitIn s k true ft seq ack = setPortRun s k { portRun s k with lastGood := slot s } := by
  refine (if_neg (up_port_not_skipped hk hp)).trans ?_
  simp [hs]

end

theorem only_crcFailed (s : State) (k : Nat) : Only [.sent] [Off.CHN_PORT k] s (crcFailed s k) :=
  ((only_bumpF s (F.CHN_PORT_crc_fail k) 1).mono (by simp) (fun _ h => h)).trans ((only_send _ _).mono (fun _ h => h) (by simp))

theorem does_flitReceive_crc_fail (s : State) (k ft seq ack : Nat) (h : Up s) (hk : k < 4) (hp : portUp s k = true) :
    Does (.flitReceive k false ft seq ack) s fun t =>
      getF t (F.CHN_PORT_crc_fail k) = min (Field.max (F.CHN_PORT_crc_fail k)) (getF s (F.CHN_PORT_crc_fail k) + 1) ∧
      t.sent = .link k 0x102 (((portRun s k).rxNext + 2 ^ 24 - 1) % 2 ^ 24) 0 :: s.sent ∧ Only [.sent] [Off.CHN_PORT k] s t :=
  does_eq rfl (flitIn_of_crc_fail hk hp ft seq ack) h (only_crcFailed s k) (by decide) (by decide)
    ⟨getF_bumpF_same s (F.CHN_PORT_crc_fail k) 1 (show 47 < 64 by decide), rfl, only_crcFailed s k⟩

theorem does_flitReceive_in_turn (s : State) (k ft ack : Nat) (h : Up s) (hk : k < 4) (hp : portUp s k = true) (hf : ft ≠ 2) :
    Does (.flitReceive k true ft (portRun s k).rxNext ack) s fun t =>
      portRun t k = { portRun s k with lastGood := slot s, rxNext := ((portRun s k).rxNext + 1) % 2 ^ 24 } ∧
      (∀ j, j ≠ k → portRun t j = portRun s j) ∧ Only [.chn] [] s t :=
  does_eq rfl (flitIn_of_in_turn hk hp ack hf) h (only_setPortRun s k _) (by decide) (by decide)
    ⟨portRun_setPortRun_self s k _, fun _ hj => portRun_setPortRun_other s _ hj, only_setPortRun s k _⟩

theorem does_flitReceive_out_of_turn (s : State) (k ft seq ack : Nat) (h : Up s) (hk : k < 4) (hp : portUp s k = true)
    (hs : seq ≠ (portRun s k).rxNext) :
    Does (.flitReceive k true ft seq ack) s fun t => portRun t k = { portRun s k with lastGood := slot s } ∧ Only [.chn] [] s t :=
  does_eq rfl (flitIn_of_out_of_turn hk hp ft ack hs) h (only_setPortRun s k _) (by decide) (by decide)
    ⟨portRun_setPortRun_self s k _, only_setPortRun s k _⟩

/-! ### REPLAY_REQUEST -/

/-- The record of a port whose flits behind `ack` go out again: one replay more of the same flit, or the first of another. -/
def replayedRun (r : PortRun) (ack : Nat) : PortRun :=
  let first := (ack + 1) % 2 ^ 24
  { r with replayOf := first + 1, replays := if r.replayOf = first + 1 then r.replays + 1 else 1 }

/-- A replay counted, noted and sent. -/
def replayed (s : State) (k ack : Nat) : State :=
  send (setPortRun (bumpF s (F.CHN_PORT_replays k) 1) k (replayedRun (portRun s k) ack)) (.link k 0x103 ((ack + 1) % 2 ^ 24) 0)

theorem txSeq_replayedRun (r : PortRun) (ack : Nat) : (replayedRun r ack).txSeq = r.txSeq := rfl

theorem replays_replayedRun_lt {r : PortRun} (ack : Nat) (h : r.replays < 63) : (replayedRun r ack).replays < 64 := by
  unfold replayedRun
  dsimp only
  split <;> omega

/-- A replay of a flit that is kept, and that has not been replayed too often, leaves the port up. -/
theorem replayIn_of_kept {s : State} {k ack : Nat} (hk : k < 4) (hp : portUp s k = true) (hne : (ack + 1) % 2 ^ 24 ≠ (portRun s k).txSeq)
    (hw : ((portRun s k).txSeq + 2 ^ 24 - (ack + 1) % 2 ^ 24) % 2 ^ 24 ≤ 512) (hr : (portRun s k).replays < 63) :
    replayIn s k ack = replayed s k ack := by
  have hlost : ¬(decide ((ack + 1) % 2 ^ 24 = (portRun s k).txSeq) ||
      decide (512 < ((portRun s k).txSeq + 2 ^ 24 - (ack + 1) % 2 ^ 24) % 2 ^ 24)) = true := by
    rw [Bool.or_eq_true, decide_eq_true_eq, decide_eq_true_eq]
    exact not_or.mpr ⟨hne, Nat.not_lt.mpr hw⟩
  have hfew : ¬64 ≤ (replayedRun (portRun s k) ack).replays := Nat.not_le.mpr (replays_replayedRun_lt ack hr)
  exact ((if_neg (up_port_not_skipped hk hp)).trans (if_neg hlost)).trans (if_neg hfew)

theorem only_replayed (s : State) (k ack : Nat) : Only [.chn, .sent] [Off.CHN_PORT k] s (replayed s k ack) := by
  refine Only.trans ?_ ((only_send _ _).mono (by decide) (by simp))
  refine Only.trans ?_ ((only_setPortRun _ k _).mono (by decide) (by simp))
  exact (only_bumpF s (F.CHN_PORT_replays k) 1).mono (by simp) (fun _ h => h)

theorem does_replayRequest_kept (s : State) (k ack : Nat) (h : Up s) (hk : k < 4) (hp : portUp s k = true)
    (hne : (ack + 1) % 2 ^ 24 ≠ (portRun s k).txSeq) (hw : ((portRun s k).txSeq + 2 ^ 24 - (ack + 1) % 2 ^ 24) % 2 ^ 24 ≤ 512)
    (hr : (portRun s k).replays < 63) :
    Does (.replayRequest k ack) s fun t =>
      getF t (F.CHN_PORT_replays k) = min (Field.max (F.CHN_PORT_replays k)) (getF s (F.CHN_PORT_replays k) + 1) ∧
      t.sent = .link k 0x103 ((ack + 1) % 2 ^ 24) 0 :: s.sent ∧ (portRun t k).txSeq = (portRun s k).txSeq ∧
      Only [.chn, .sent] [Off.CHN_PORT k] s t := by
  have hrun : portRun (replayed s k ack) k = replayedRun (portRun s k) ack := portRun_setPortRun_self _ k _
  have htx : (portRun (replayed s k ack) k).txSeq = (portRun s k).txSeq := hrun ▸ txSeq_replayedRun _ ack
  exact does_eq rfl (replayIn_of_kept hk hp hne hw hr) h (only_replayed s k ack) (by decide) (by decide)
    ⟨getF_bumpF_same s (F.CHN_PORT_replays k) 1 (show 63 < 64 by decide), rfl, htx, only_replayed s k ack⟩

/-! ### IDLE_FLIT -/

/-- An idle flit sent under the next sequence number. -/
def idleSent (s : State) (k : Nat) : State :=
  send (setPortRun s k { portRun s k with txSeq := ((portRun s k).txSeq + 1) % 2 ^ 24 }) (.link k 0x100 (portRun s k).txSeq 0)

theorem only_idleSent (s : State) (k : Nat) : Only [.chn, .sent] [] s (idleSent s k) :=
  ((only_setPortRun s k _).mono (by decide) (by simp)).trans ((only_send _ _).mono (by decide) (by simp))

theorem does_idleFlit (s : State) (k : Nat) (h : Up s) (hk : k < 4) (hp : portUp s k = true) :
    Does (.idleFlit k) s fun t => t.sent = .link k 0x100 (portRun s k).txSeq 0 :: s.sent ∧
      portRun t k = { portRun s k with txSeq := ((portRun s k).txSeq + 1) % 2 ^ 24 } ∧ Only [.chn, .sent] [] s t :=
  does_eq rfl (if_neg (up_port_not_skipped hk hp) : idleFlit s k = idleSent s k) h (only_idleSent s k) (by decide) (by decide)
    ⟨rfl, portRun_setPortRun_self s k _, only_idleSent s k⟩

/-! ### A port that is not up -/

theorem link_commands_of_down {s : State} {k : Nat} (hp : portUp s k = false) (ft seq ack : Nat) (ok : Bool) :
    flitIn s k ok ft seq ack = s ∧ replayIn s k ack = s ∧ idleFlit s k = s := by
  have hidle : (decide (4 ≤ k) || !portUp s k) = true := by simp [hp]
  exact ⟨if_pos hidle, if_pos hidle, if_pos hidle⟩

/-- Settles O34: a flit by its CRC and its turn, a replay by the window of flits that are kept, and nothing on a port that is not up. -/
theorem flitsKeepTheirOrder : Obligations.FlitsKeepTheirOrder :=
  ⟨does_flitReceive_crc_fail, does_flitReceive_in_turn, does_flitReceive_out_of_turn, does_replayRequest_kept, does_idleFlit,
    fun s _ ft seq ack ok h hp =>
      have hframe := Only.rfl' [] [] s
      have ⟨hflit, hreplay, hidle⟩ := link_commands_of_down hp ft seq ack ok
      ⟨does_eq rfl hflit h hframe (by decide) (by decide) rfl, does_eq rfl hreplay h hframe (by decide) (by decide) rfl,
        does_eq rfl hidle h hframe (by decide) (by decide) rfl⟩⟩

end Sys2Proof.Machine
end

section
/-!
PROOFS. PORT_TRAINING, PORT_DOWN and LINK_RETRAIN (R237 to R240, R395): a port that has trained, one that has failed and one that has
gone down, as operations with their frames, and the conditions under which each command comes to one of them.
-/

namespace Sys2Proof.Machine

/-! ### A port that has trained, R240 -/

/-- A port up, with its sequence numbers anew. -/
def portTrained (s : State) (k : Nat) : State := setPortRun (setPort s k 2) k { PortRun.fresh with lastGood := slot s }

theorem only_portTrained (s : State) (k : Nat) : Only [.chn] [Off.CHN_PORT k] s (portTrained s k) :=
  ((only_setPort s k 2).mono (by simp) (fun _ h => h)).trans ((only_setPortRun _ k _).mono (fun _ h => h) (by simp))

theorem portRun_portTrained (s : State) (k : Nat) : portRun (portTrained s k) k = { PortRun.fresh with lastGood := slot s } :=
  portRun_setPortRun_self _ k _

theorem getF_state_setPort (s : State) (k v : Nat) : getF (setPort s k v) (F.CHN_PORT_state k) = v % 4 :=
  getF_setF_same s (F.CHN_PORT_state k) v (show 1 < 64 by decide)

theorem portUp_portTrained (s : State) (k : Nat) : portUp (portTrained s k) k = true :=
  beq_iff_eq.mpr (getF_state_setPort s k 2)

/-- The counters of a port stand while its state changes. -/
theorem retrains_portTrained (s : State) (k : Nat) :
    getF (portTrained s k) (F.CHN_PORT_retrains k) = getF s (F.CHN_PORT_retrains k) :=
  getF_setF_other s (F.CHN_PORT_state k) (F.CHN_PORT_retrains k) 2 (show 1 < 64 by decide)
    (by simp [Field.apart, F.CHN_PORT_state, F.CHN_PORT_retrains])

/-- A port trained, with the slot noted where it is port W. -/
def trainNoted (s : State) (k : Nat) : State :=
  if k = 0 then { portTrained s k with chn := { (portTrained s k).chn with trainAt := some (slot (portTrained s k)) } } else portTrained s k

theorem trainNoted_eq (s : State) (k : Nat) :
    ∃ x, trainNoted s k = { portTrained s k with chn := { (portTrained s k).chn with trainAt := x } } := by
  unfold trainNoted
  split
  · exact ⟨_, rfl⟩
  · exact ⟨_, rfl⟩

theorem only_trainNoted (s : State) (k : Nat) : Only [.chn] [Off.CHN_PORT k] s (trainNoted s k) := by
  obtain ⟨_, heq⟩ := trainNoted_eq s k
  rw [heq]
  exact (only_portTrained s k).trans ((only_chn _ _).mono (fun _ h => h) (by simp))

theorem portUp_trainNoted (s : State) (k : Nat) : portUp (trainNoted s k) k = true := by
  obtain ⟨_, heq⟩ := trainNoted_eq s k
  rw [heq]
  exact portUp_portTrained s k

theorem portRun_trainNoted (s : State) (k : Nat) : portRun (trainNoted s k) k = { PortRun.fresh with lastGood := slot s } := by
  obtain ⟨_, heq⟩ := trainNoted_eq s k
  rw [heq]
  exact portRun_portTrained s k

theorem closed_trainNoted (s : State) (k : Nat) : (trainNoted s k).chn.closed = s.chn.closed := by
  obtain ⟨_, heq⟩ := trainNoted_eq s k
  rw [heq]
  rfl

/-! ### A fault of a port in the log, R240 and Table 15.3 -/

theorem port_not_mem_logRegs (s : State) (k : Nat) : Off.CHN_PORT k ∉ logRegs s :=
  not_mem_logRegs s _ ⟨(ne_port_of_lt k (by decide)).symm, (ne_port_of_lt k (by decide)).symm, (ne_port_of_lt k (by decide)).symm,
    (ne_port_of_lt k (by decide)).symm⟩ (.inr (Nat.le_trans (by decide) (Nat.le_add_right (Off.CHN_PORT 0) (8 * k))))

/-- A port down, and its fault in the log. -/
def portFaulted (s : State) (k : Nat) : State := runFault (setPort s k 0) 0x1D (portDie k) 0 0

theorem only_portFaulted (s : State) (k : Nat) : Only eventParts (Off.CHN_PORT k :: logRegs s) s (portFaulted s k) :=
  Only.logFault ((only_setPort s k 0).mono (by simp) (fun _ h => h))
    (fun h => ne_port_of_lt k (by decide) (List.mem_singleton.mp h)) (by decide) (by decide) 0x1D _ _ 0 0

theorem hasF_seen_portFaulted (s : State) (k : Nat) : hasF (portFaulted s k) F.SAF_STATUS_fault_seen = true :=
  hasF_fault_seen_logFault _ _ _ _ _ _

theorem state_portFaulted (s : State) (k : Nat) : getF (portFaulted s k) (F.CHN_PORT_state k) = 0 :=
  ((only_runFault (setPort s k 0) _ _ 0 0).field _ (port_not_mem_logRegs _ k)).trans (getF_state_setPort s k 0)

/-- The policy bits stand when a port goes down. -/
theorem auto_retrain_portFaulted (s : State) (k : Nat) :
    hasF (portFaulted s k) F.SAF_POLICY_auto_retrain = hasF s F.SAF_POLICY_auto_retrain := by
  have hpolicy : Off.SAF_POLICY ∉ logRegs s := not_mem_logRegs s _ (by decide) (.inl (by decide))
  exact (only_portFaulted s k).hasF_eq _ fun h =>
    (List.mem_cons.mp h).elim (ne_port_of_lt k (by decide)) hpolicy

/-! ### PORT_TRAINING, R240 -/

theorem addressing_of_closed {s : State} (h : s.chn.closed = true) : addressing s = false := by simp [addressing, h]

/-- A port that still has to train: not up, not unused, not failed. -/
theorem untrained_port_not_skipped {s : State} {k : Nat} (hk : k < 4) (hp : portUp s k = false) (hx : getF s (F.CHN_PORT_state k) ≠ 3)
    (hf : (portRun s k).failed = false) :
    ¬(decide (4 ≤ k) || portUp s k || decide (getF s (F.CHN_PORT_state k) = 3) || (portRun s k).failed) = true := by
  simp [hk, hp, hx, hf]

/-- A port whose training has failed, in its record and in the log. -/
def trainFailed (s : State) (k : Nat) : State :=
  runFault (setPortRun (setPort s k 0) k { PortRun.fresh with failed := true }) 0x1D (portDie k) 0 0

theorem only_trainFailed (s : State) (k : Nat) : Only (.chn :: eventParts) (Off.CHN_PORT k :: logRegs s) s (trainFailed s k) :=
  Only.logFault (((only_setPort s k 0).mono (by simp) (fun _ h => h)).trans ((only_setPortRun _ k _).mono (by decide) (by simp)))
    (fun h => ne_port_of_lt k (by decide) (List.mem_singleton.mp h)) (by decide) (by decide) 0x1D _ _ 0 0

theorem state_trainFailed (s : State) (k : Nat) : getF (trainFailed s k) (F.CHN_PORT_state k) = 0 :=
  ((only_runFault _ _ _ 0 0).field _ (port_not_mem_logRegs _ k)).trans (getF_state_setPort s k 0)

theorem failed_trainFailed (s : State) (k : Nat) : (portRun (trainFailed s k) k).failed = true := by
  have hports : (trainFailed s k).chn.ports = (setPortRun (setPort s k 0) k { PortRun.fresh with failed := true }).chn.ports := by
    simp [trainFailed]
  rw [portRun_congr hports, portRun_setPortRun_self]

section
variable {s : State} {k : Nat} (hk : k < 4) (hp : portUp s k = false) (hx : getF s (F.CHN_PORT_state k) ≠ 3)
  (hf : (portRun s k).failed = false) (hc : s.chn.closed = true)
include hk hp hx hf hc

theorem trainPort_trained_of_closed : trainPort s k true = trainNoted s k := by
  have haddr : addressing (trainNoted s k) = false := addressing_of_closed ((closed_trainNoted s k).trans hc)
  refine (if_neg (untrained_port_not_skipped hk hp hx hf)).trans ((if_pos rfl).trans ((if_neg ?_).trans (if_neg ?_)))
  · exact fun h => Bool.false_ne_true (haddr.symm.trans h.2.2)
  · change ¬(isHead (trainNoted s k) && addressing (trainNoted s k) && _ && _) = true
    simp [haddr]

theorem trainPort_failed_of_closed : trainPort s k false = trainFailed s k := by
  have haddr : addressing (trainFailed s k) = false := addressing_of_closed ((congrArg ChnState.closed (runFault_chn _ _ _ _ _)).trans hc)
  refine (if_neg (untrained_port_not_skipped hk hp hx hf)).trans ((if_neg Bool.false_ne_true).trans (if_neg ?_))
  change ¬(decide (k ≤ 1) && addressing (trainFailed s k)) = true
  simp [haddr]

end

theorem does_portTraining_trained (s : State) (k : Nat) (h : Up s) (h5 : phaseEnded s 5 = true) (hk : k < 4) (hp : portUp s k = false)
    (hx : getF s (F.CHN_PORT_state k) ≠ 3) (hf : (portRun s k).failed = false) (hc : s.chn.closed = true) :
    Does (.portTraining k true) s fun t => portUp t k = true ∧ portRun t k = { PortRun.fresh with lastGood := slot s } ∧
      Only [.chn] [Off.CHN_PORT k] s t :=
  does_eq rfl ((if_pos h5).trans (trainPort_trained_of_closed hk hp hx hf hc)) h (only_trainNoted s k) (by decide) (by decide)
    ⟨portUp_trainNoted s k, portRun_trainNoted s k, only_trainNoted s k⟩

theorem does_portTraining_failed (s : State) (k : Nat) (h : Up s) (h5 : phaseEnded s 5 = true) (hk : k < 4) (hp : portUp s k = false)
    (hx : getF s (F.CHN_PORT_state k) ≠ 3) (hf : (portRun s k).failed = false) (hc : s.chn.closed = true) :
    Does (.portTraining k false) s fun t => getF t (F.CHN_PORT_state k) = 0 ∧ (portRun t k).failed = true ∧
      hasF t F.SAF_STATUS_fault_seen = true ∧ Only (.chn :: eventParts) (Off.CHN_PORT k :: logRegs s) s t :=
  does_eq rfl ((if_pos h5).trans (trainPort_failed_of_closed hk hp hx hf hc)) h (only_trainFailed s k) (by decide) (by decide)
    ⟨state_trainFailed s k, failed_trainFailed s k, hasF_fault_seen_logFault _ _ _ _ _ _, only_trainFailed s k⟩

/-! ### The head's token, R240 -/

/-- The head's token noted and sent, once port E has trained. -/
def tokenSent (s : State) : State :=
  postHop { s with chn := { s.chn with tokenAt := some (slot s) } } 1 0x01 1 (mySerial s)

theorem only_postHop (s : State) (port kind value : Nat) (content : Word) :
    Only [.sent] [Off.CHN_MSG_TX] s (postHop s port kind value content) :=
  ((only_bumpF s F.CHN_MSG_TX_count 1).mono (by simp) (by decide)).trans ((only_send _ _).mono (fun _ h => h) (by simp))

theorem only_tokenSent (s : State) : Only [.chn, .sent] [Off.CHN_MSG_TX] s (tokenSent s) :=
  ((only_chn s _).mono (by decide) (by simp)).trans ((only_postHop _ 1 0x01 1 _).mono (by decide) (fun _ h => h))

theorem headToken_of_ready {s : State} (hh : isHead s = true) (ha : addressing s = true) (ht : s.chn.tokenAt = none)
    (hp : portUp s 1 = true) : headToken s = tokenSent s :=
  if_pos (by simp [hh, ha, ht, hp])

/-- The head's port E trains while its port W has not failed: the token goes out. -/
theorem trainPort_of_head {s : State} (hp : portUp s 1 = false) (hx : getF s (F.CHN_PORT_state 1) ≠ 3)
    (hf : (portRun s 1).failed = false) (hw : (portRun s 0).failed = false) (hh : isHead s = true) (ha : addressing s = true)
    (ht : s.chn.tokenAt = none) : trainPort s 1 true = tokenSent (portTrained s 1) := by
  have hframe := only_portTrained s 1
  have hwest : (portRun (portTrained s 1) 0).failed = false := by
    unfold portTrained
    rw [portRun_setPortRun_other _ _ (by decide)]
    exact hw
  have hhead : isHead (portTrained s 1) = true := (hframe.hasF_eq F.CHN_ADDR_head (by decide)).trans hh
  have haddr : addressing (portTrained s 1) = true := by
    unfold addressing at ha ⊢
    rwa [hframe.field F.CHN_ADDR_error (by decide)]
  refine (if_neg (untrained_port_not_skipped (by decide) hp hx hf)).trans ((if_pos rfl).trans ((if_neg ?_).trans ?_))
  · exact fun h => Bool.false_ne_true (hwest.symm.trans h.2.1)
  · exact headToken_of_ready hhead haddr ht (portUp_portTrained s 1)

theorem does_portTraining_head (s : State) (h : Up s) (h5 : phaseEnded s 5 = true) (hp : portUp s 1 = false)
    (hx : getF s (F.CHN_PORT_state 1) ≠ 3) (hf : (portRun s 1).failed = false) (hw : (portRun s 0).failed = false) (hh : isHead s = true)
    (ha : addressing s = true) (ht : s.chn.tokenAt = none) :
    Does (.portTraining 1 true) s fun t => portUp t 1 = true ∧ t.sent = .link 1 0x01 1 (mySerial s) :: s.sent ∧
      t.chn.tokenAt = some (slot s) ∧ Only [.chn, .sent] [Off.CHN_PORT 1, Off.CHN_MSG_TX] s t := by
  have htrain := only_portTrained s 1
  have htoken := only_tokenSent (portTrained s 1)
  have hframe : Only [.chn, .sent] [Off.CHN_PORT 1, Off.CHN_MSG_TX] s (tokenSent (portTrained s 1)) :=
    (htrain.mono (by decide) (by decide)).trans (htoken.mono (fun _ h => h) (by decide))
  have hslot : slot (portTrained s 1) = slot s := htrain.field F.LCH_SLOT_slot (by decide)
  have hserial : mySerial (portTrained s 1) = mySerial s := htrain.reg Off.SEC_SERIAL (by decide)
  have hup : portUp (tokenSent (portTrained s 1)) 1 = true := by
    unfold portUp
    rw [htoken.field (F.CHN_PORT_state 1) (by decide)]
    exact portUp_portTrained s 1
  exact does_eq rfl ((if_pos h5).trans (trainPort_of_head hp hx hf hw hh ha ht)) h hframe (by decide) (by decide)
    ⟨hup, congrArg (fun w => Sent.link 1 0x01 1 w :: s.sent) hserial, congrArg some hslot, hframe⟩

/-! ### PORT_DOWN, R239 -/

/-- A port down and logged, with the retrain that the policy asks for. -/
def portLost (s : State) (k : Nat) : State :=
  if hasF (portFaulted s k) F.SAF_POLICY_auto_retrain then requestActivity (portFaulted s k) ⟨3, 0, k⟩ else portFaulted s k

theorem skip_port_not_primary {k : Nat} (hk : k = 2 ∨ k = 3) : ¬k ≤ 1 := by omega

/-- A skip port that goes down heals no link. -/
theorem portDown_of_skip {s : State} {k : Nat} (hk : k = 2 ∨ k = 3) (hp : portUp s k = true) : portDown s k = portLost s k :=
  (if_neg (by obtain rfl | rfl := hk <;> simp [hp])).trans (if_neg (skip_port_not_primary hk))

theorem only_portLost_of_faulted (s : State) (k : Nat) : Only [.maint] [Off.SAF_MAINT] (portFaulted s k) (portLost s k) := by
  unfold portLost
  split
  · exact only_requestActivity _ _
  · exact Only.rfl' _ _ _

theorem only_portLost (s : State) (k : Nat) :
    Only (.maint :: eventParts) (Off.CHN_PORT k :: Off.SAF_MAINT :: logRegs s) s (portLost s k) :=
  ((only_portFaulted s k).mono (fun _ => List.mem_cons_of_mem _) (by simp +contextual)).trans
    ((only_portLost_of_faulted s k).mono (by simp) (by simp))

theorem retrain_asked_portLost {s : State} (k : Nat) (ha : hasF s F.SAF_POLICY_auto_retrain = true) :
    ⟨3, 0, k⟩ ∈ (portLost s k).maint.waiting ∨ ⟨3, 0, k⟩ ∈ (portLost s k).maint.running := by
  unfold portLost
  rw [if_pos ((auto_retrain_portFaulted s k).trans ha)]
  exact mem_requestActivity _ _

theorem does_portDown_skip (s : State) (k : Nat) (h : Up s) (hk : k = 2 ∨ k = 3) (hp : portUp s k = true) :
    Does (.portDown k) s fun t => getF t (F.CHN_PORT_state k) = 0 ∧ hasF t F.SAF_STATUS_fault_seen = true ∧
      (hasF s F.SAF_POLICY_auto_retrain = true → ⟨3, 0, k⟩ ∈ t.maint.waiting ∨ ⟨3, 0, k⟩ ∈ t.maint.running) ∧
      Only (.maint :: eventParts) (Off.CHN_PORT k :: Off.SAF_MAINT :: logRegs s) s t := by
  have hask := only_portLost_of_faulted s k
  have hstate : Off.CHN_PORT k ∉ [Off.SAF_MAINT] := fun h => ne_port_of_lt k (by decide) (List.mem_singleton.mp h).symm
  exact does_eq rfl (portDown_of_skip hk hp) h (only_portLost s k) (by decide) (by decide)
    ⟨(hask.field _ hstate).trans (state_portFaulted s k), (hask.hasF_eq _ (by decide)).trans (hasF_seen_portFaulted s k),
      retrain_asked_portLost k, only_portLost s k⟩

/-! ### LINK_RETRAIN, R395 -/

/-- The retrain of a port over, and counted. -/
def retrainEnded (s : State) (k : Nat) : State := bumpF (endActivity s ⟨3, 0, k⟩) (F.CHN_PORT_retrains k) 1

theorem only_retrainEnded (s : State) (k : Nat) : Only [.maint] [Off.CHN_PORT k, Off.SAF_MAINT] s (retrainEnded s k) :=
  ((only_endActivity s _).mono (fun _ h => h) (by simp)).trans ((only_bumpF _ (F.CHN_PORT_retrains k) 1).mono (by simp)
    (fun _ h => List.mem_cons.mpr (.inl (List.mem_singleton.mp h))))

theorem retrains_retrainEnded (s : State) (k : Nat) : getF (retrainEnded s k) (F.CHN_PORT_retrains k) =
    min (Field.max (F.CHN_PORT_retrains k)) (getF s (F.CHN_PORT_retrains k) + 1) := by
  have hstands : Off.CHN_PORT k ∉ [Off.SAF_MAINT] := fun h => ne_port_of_lt k (by decide) (List.mem_singleton.mp h).symm
  rw [← (only_endActivity s ⟨3, 0, k⟩).field (F.CHN_PORT_retrains k) hstands]
  exact getF_bumpF_same _ (F.CHN_PORT_retrains k) 1 (show 31 < 64 by decide)

/-- A skip port that has trained again restores no link. -/
theorem linkRetrain_of_skip {s : State} {k : Nat} (hk : k = 2 ∨ k = 3) (hr : ⟨3, 0, k⟩ ∈ s.maint.running) :
    linkRetrain s k true = portTrained (retrainEnded s k) k := by
  have hrun : s.maint.running.contains ⟨3, 0, k⟩ = true := List.contains_iff_mem.mpr hr
  refine (if_pos hrun).trans ((if_pos rfl).trans (if_neg ?_))
  simp [skip_port_not_primary hk]

theorem linkRetrain_of_not_running {s : State} {k : Nat} (ok : Bool) (hr : ⟨3, 0, k⟩ ∉ s.maint.running) : linkRetrain s k ok = s :=
  if_neg (fun h => hr (List.contains_iff_mem.mp h))

theorem does_linkRetrain_skip (s : State) (k : Nat) (h : Up s) (hk : k = 2 ∨ k = 3) (hr : ⟨3, 0, k⟩ ∈ s.maint.running) :
    Does (.linkRetrain k true) s fun t => portUp t k = true ∧ ⟨3, 0, k⟩ ∉ t.maint.running ∧
      getF t (F.CHN_PORT_retrains k) = min (Field.max (F.CHN_PORT_retrains k)) (getF s (F.CHN_PORT_retrains k) + 1) ∧
      Only [.chn, .maint] [Off.CHN_PORT k, Off.SAF_MAINT] s t := by
  have hframe : Only [.chn, .maint] [Off.CHN_PORT k, Off.SAF_MAINT] s (portTrained (retrainEnded s k) k) :=
    ((only_retrainEnded s k).mono (by decide) (fun _ h => h)).trans ((only_portTrained _ k).mono (by decide) (by simp))
  have hmaint : (portTrained (retrainEnded s k) k).maint = (endActivity s ⟨3, 0, k⟩).maint :=
    ((only_portTrained (retrainEnded s k) k).1 .maint (by decide)).trans (bumpF_maint _ _ 1)
  have hended : ⟨3, 0, k⟩ ∉ (portTrained (retrainEnded s k) k).maint.running := by
    rw [hmaint]
    exact (not_mem_endActivity s ⟨3, 0, k⟩).1
  exact does_eq rfl (linkRetrain_of_skip hk hr) h hframe (by decide) (by decide)
    ⟨portUp_portTrained _ k, hended, (retrains_portTrained _ k).trans (retrains_retrainEnded s k), hframe⟩

/-- Settles O35: training by its outcome and by the head's token, the loss and the retrain of a skip port by what they log and end. -/
theorem portsComeUpAndGoDown : Obligations.PortsComeUpAndGoDown :=
  ⟨does_portTraining_trained, does_portTraining_failed, does_portTraining_head, does_portDown_skip, does_linkRetrain_skip,
    fun s _ ok h hr => does_eq rfl (linkRetrain_of_not_running ok hr) h (Only.rfl' [] [] s) (by decide) (by decide) rfl⟩

end Sys2Proof.Machine
end

section
/-!
PROOFS. ADDRESS_TOKEN, CLOSURE, ERROR_NOTICE and ADDRESSING_TIMEOUT (R240, R241): what messages that go out leave alone, the closing of
the chain stage by stage, and the one way in which an error is shown and passed on.
-/

namespace Sys2Proof.Machine

/-! ### Messages that go out -/

/-- A state reached by messages that go out: each is counted, sent, and noted in the records of messages and ports. -/
structure MessagesSent (s t : State) : Prop where
  frame : Only [.chn, .sent] [Off.CHN_MSG_TX] s t
  chn   : ∃ q u p, t.chn = { s.chn with txSeq := q, unacked := u, ports := p }
  sent  : s.sent <:+ t.sent

theorem MessagesSent.refl (s : State) : MessagesSent s s := ⟨Only.rfl' _ _ s, ⟨_, _, _, rfl⟩, List.suffix_rfl⟩

theorem MessagesSent.trans {s t u : State} (h : MessagesSent s t) (g : MessagesSent t u) : MessagesSent s u := by
  refine ⟨h.frame.trans g.frame, ?_, h.sent.trans g.sent⟩
  obtain ⟨_, _, _, hchn⟩ := h.chn
  obtain ⟨q, u, p, gchn⟩ := g.chn
  exact ⟨q, u, p, by rw [gchn, hchn]⟩

section
variable {s t : State} (h : MessagesSent s t)
include h

theorem MessagesSent.closed_eq : t.chn.closed = s.chn.closed := by
  obtain ⟨_, _, _, hchn⟩ := h.chn
  rw [hchn]

theorem MessagesSent.closedAt_eq : t.chn.closedAt = s.chn.closedAt := by
  obtain ⟨_, _, _, hchn⟩ := h.chn
  rw [hchn]

theorem MessagesSent.linkLost_eq (a : Nat) : linkLost t a = linkLost s a := by
  obtain ⟨_, _, _, hchn⟩ := h.chn
  unfold linkLost
  rw [hchn]

theorem MessagesSent.myAddr_eq : myAddr t = myAddr s := h.frame.field F.CHN_ADDR_address (by decide)

end

theorem messagesSent_foldl {α : Type} (f : State → α → State) (s : State) (xs : List α) (t : State) (ht : MessagesSent s t)
    (hf : ∀ u, ∀ x ∈ xs, MessagesSent s u → MessagesSent u (f u x)) : MessagesSent s (xs.foldl f t) := by
  induction xs generalizing t with
  | nil => exact ht
  | cons x xs ih =>
    exact ih (f t x) (ht.trans (hf t x List.mem_cons_self ht)) fun u y hy => hf u y (List.mem_cons_of_mem x hy)

theorem messagesSent_postHop (s : State) (port kind value : Nat) (content : Word) : MessagesSent s (postHop s port kind value content) :=
  ⟨(only_postHop s port kind value content).mono (by decide) (fun _ h => h), ⟨_, _, _, rfl⟩, List.suffix_cons _ _⟩

/-- Where no link is lost every message has a route along the links. -/
theorem exists_route_of_no_link_lost {s : State} (hl : ∀ a, linkLost s a = false) (d : Nat) : ∃ k, route s d false = some k := by
  simp only [route, hl, Bool.false_and, Bool.false_eq_true, if_false]
  split
  · exact ⟨1, rfl⟩
  · exact ⟨0, rfl⟩

theorem messagesSent_postMsg {s : State} {kind dest : Nat} (body : List Byte) (hl : ∀ a, linkLost s a = false) (hd : dest ≠ myAddr s)
    (hk : kind ≠ 0x20) : MessagesSent s (postMsg s kind dest body) := by
  obtain ⟨k, hr⟩ := exists_route_of_no_link_lost hl dest
  rw [postMsg_of_route body hd hk hr]
  exact ⟨only_sentMsg s k kind dest body, ⟨_, _, _, rfl⟩, List.suffix_cons _ _⟩

theorem messagesSent_postAll {s : State} {kind : Nat} (dests : List Nat) (body : Nat → List Byte) (hl : ∀ a, linkLost s a = false)
    (hd : ∀ d ∈ dests, d ≠ myAddr s) (hk : kind ≠ 0x20) : MessagesSent s (postAll s kind dests body) :=
  messagesSent_foldl _ s dests s (MessagesSent.refl s) fun _ d hmem hu =>
    messagesSent_postMsg (body d) (fun a => (hu.linkLost_eq a).trans (hl a)) (fun h => hd d hmem (h.trans hu.myAddr_eq)) hk

/-! ### The feed announced and the skip probes sent, R242 and R265 -/

/-- The module's own feed noted as known. -/
def feedNoted (s : State) : State :=
  setReg s (Off.CHN_FEED (myAddr s / 8)) (setBits (setBits (getReg s (Off.CHN_FEED (myAddr s / 8))) (8 * (myAddr s % 8) + 2)
    (8 * (myAddr s % 8)) (getF s F.CHN_PARTNER_own_feed)) (8 * (myAddr s % 8) + 7) (8 * (myAddr s % 8) + 7) 1)

theorem ne_feed_of_lt (j : Nat) {o : Nat} (ho : o < Off.CHN_FEED 0) : o ≠ Off.CHN_FEED j :=
  Nat.ne_of_lt (Nat.lt_of_lt_of_le ho (Nat.add_le_add_left (Nat.zero_le _) _))

theorem only_feedNoted (s : State) : Only [] [Off.CHN_FEED (myAddr s / 8)] s (feedNoted s) := only_setReg s _ _

theorem myAddr_feedNoted (s : State) : myAddr (feedNoted s) = myAddr s :=
  (only_feedNoted s).field F.CHN_ADDR_address fun h => ne_feed_of_lt _ (by decide) (List.mem_singleton.mp h)

theorem messagesSent_announceFeed {s : State} (hl : ∀ a, linkLost s a = false) : MessagesSent (feedNoted s) (announceFeed s) := by
  refine messagesSent_postAll (s := feedNoted s) _ _ hl (fun d hd => ?_) (by decide)
  rw [myAddr_feedNoted]
  exact bne_iff_ne.mp (List.mem_filter.mp hd).2

theorem messagesSent_probes (s : State) : MessagesSent s
    ((List.range 2).foldl (fun s k => if portUp s (2 + k) then postHop s (2 + k) 0x04 (myAddr s) 0 else s) s) := by
  refine messagesSent_foldl _ s _ s (MessagesSent.refl s) fun u k _ _ => ?_
  split
  · exact messagesSent_postHop u _ _ _ _
  · exact MessagesSent.refl u

theorem only_sendProbes (s : State) : Only [.sent] [Off.CHN_MSG_TX, Off.CHN_PORT 2, Off.CHN_PORT 3] s (sendProbes s) := by
  unfold sendProbes
  split
  · refine foldl_only _ _ _ _ (fun u k _ => ?_) s
    split
    · exact (only_postHop u _ _ _ _).mono (fun _ h => h) (by decide)
    · exact Only.rfl' _ _ u
  · exact ((only_setPort s 2 3).mono (by simp) (by decide)).trans ((only_setPort _ 3 3).mono (by simp) (by decide))

theorem sent_suffix_sendProbes (s : State) : s.sent <:+ (sendProbes s).sent := by
  unfold sendProbes
  split
  · exact (messagesSent_probes s).sent
  · exact List.suffix_rfl

/-! ### The chain closed, R240 step 5 -/

/-- The length, the bit and the slot of a closed chain, before anything is sent. -/
def chainClosed (s : State) (n : Nat) : State :=
  let t := setF (setF s F.CHN_ADDR_length n) F.CHN_STATUS_addressed 1
  { t with chn := { t.chn with closed := true, closedAt := slot t } }

theorem only_chainClosed (s : State) (n : Nat) : Only [.chn] [Off.CHN_ADDR, Off.CHN_STATUS] s (chainClosed s n) := by
  refine Only.trans ?_ ((only_chn _ _).mono (fun _ h => h) (by simp))
  exact ((only_setF s F.CHN_ADDR_length n).mono (by simp) (by decide)).trans
    ((only_setF _ F.CHN_STATUS_addressed 1).mono (by simp) (by decide))

theorem chainLen_chainClosed (s : State) {n : Nat} (hn : n ≤ 64) : chainLen (chainClosed s n) = n := by
  have hlen : chainLen (chainClosed s n) = chainLen (setF s F.CHN_ADDR_length n) :=
    getF_setF_other _ F.CHN_STATUS_addressed F.CHN_ADDR_length 1 (by decide) (by decide)
  exact hlen.trans ((getF_setF_same s F.CHN_ADDR_length n (by decide)).trans (Nat.mod_eq_of_lt (Nat.lt_of_le_of_lt hn (by decide))))

theorem myAddr_chainClosed (s : State) (n : Nat) : myAddr (chainClosed s n) = myAddr s :=
  (getF_setF_other _ F.CHN_STATUS_addressed F.CHN_ADDR_address 1 (by decide) (by decide)).trans
    (getF_setF_other s F.CHN_ADDR_length F.CHN_ADDR_address n (by decide) (by decide))

theorem addressed_chainClosed (s : State) (n : Nat) : hasF (chainClosed s n) F.CHN_STATUS_addressed = true :=
  hasF_setF_one (setF s F.CHN_ADDR_length n) F.CHN_STATUS_addressed (by decide) (by decide)

theorem closedAt_chainClosed (s : State) (n : Nat) : (chainClosed s n).chn.closedAt = slot s :=
  (getF_setF_other _ F.CHN_STATUS_addressed F.LCH_SLOT_slot 1 (by decide) (by decide)).trans
    (getF_setF_other s F.CHN_ADDR_length F.LCH_SLOT_slot n (by decide) (by decide))

/-- The registers that the messages after the closure change. -/
def closingRegs (s : State) : List Nat := [Off.CHN_MSG_TX, Off.CHN_PORT 2, Off.CHN_PORT 3, Off.CHN_FEED (myAddr s / 8)]

theorem not_mem_closingRegs (s : State) {o : Nat} (ho : o < Off.CHN_PORT 0) (ht : o ≠ Off.CHN_MSG_TX) : o ∉ closingRegs s := by
  simp only [closingRegs, List.mem_cons, List.not_mem_nil, or_false, not_or]
  exact ⟨ht, ne_port_of_lt 2 ho, ne_port_of_lt 3 ho, ne_feed_of_lt _ (Nat.lt_trans ho (by decide))⟩

section
variable {s : State} (hl : ∀ a, linkLost s a = false) (n : Nat)
include hl

theorem messagesSent_closeChain : MessagesSent (feedNoted (sendProbes (chainClosed s n))) (closeChain s n) := by
  refine messagesSent_announceFeed fun a => ?_
  have hchn : (sendProbes (chainClosed s n)).chn = (chainClosed s n).chn := (only_sendProbes _).1 .chn (by decide)
  unfold linkLost
  rw [hchn]
  exact hl a

theorem only_closeChain_of_closed : Only [.chn, .sent] (closingRegs s) (chainClosed s n) (closeChain s n) := by
  have haddr : myAddr (sendProbes (chainClosed s n)) = myAddr s :=
    ((only_sendProbes _).field F.CHN_ADDR_address (by decide)).trans (myAddr_chainClosed s n)
  have hfeed := only_feedNoted (sendProbes (chainClosed s n))
  rw [haddr] at hfeed
  refine Only.trans ?_ ((messagesSent_closeChain hl n).frame.mono (fun _ h => h) (by simp [closingRegs]))
  exact ((only_sendProbes _).mono (by decide) (by simp [closingRegs])).trans (hfeed.mono (by simp) (by simp [closingRegs]))

theorem only_closeChain :
    Only [.chn, .sent] (Off.CHN_ADDR :: Off.CHN_STATUS :: closingRegs s) s (closeChain s n) :=
  ((only_chainClosed s n).mono (by decide) (by simp)).trans ((only_closeChain_of_closed hl n).mono (fun _ h => h) (by simp +contextual))

theorem chainLen_closeChain (hn : n ≤ 64) : chainLen (closeChain s n) = n :=
  ((only_closeChain_of_closed hl n).field F.CHN_ADDR_length (not_mem_closingRegs s (by decide) (by decide))).trans
    (chainLen_chainClosed s hn)

theorem myAddr_closeChain : myAddr (closeChain s n) = myAddr s :=
  ((only_closeChain_of_closed hl n).field F.CHN_ADDR_address (not_mem_closingRegs s (by decide) (by decide))).trans
    (myAddr_chainClosed s n)

theorem addressed_closeChain : hasF (closeChain s n) F.CHN_STATUS_addressed = true :=
  ((only_closeChain_of_closed hl n).hasF_eq F.CHN_STATUS_addressed (not_mem_closingRegs s (by decide) (by decide))).trans
    (addressed_chainClosed s n)

theorem closed_closeChain : (closeChain s n).chn.closed = true ∧ (closeChain s n).chn.closedAt = slot s := by
  have hchn : (sendProbes (chainClosed s n)).chn = (chainClosed s n).chn := (only_sendProbes _).1 .chn (by decide)
  have hsent := messagesSent_closeChain hl n
  exact ⟨hsent.closed_eq.trans (congrArg ChnState.closed hchn),
    (hsent.closedAt_eq.trans (congrArg ChnState.closedAt hchn)).trans (closedAt_chainClosed s n)⟩

theorem sent_suffix_closeChain : s.sent <:+ (closeChain s n).sent :=
  (sent_suffix_sendProbes (chainClosed s n)).trans (messagesSent_closeChain hl n).sent

end

/-! ### A one-hop message received -/

/-- A one-hop message counted as received. -/
def hopCounted (s : State) : State := bumpF s F.CHN_MSG_RX_count 1

theorem only_hopCounted (s : State) : Only [] [Off.CHN_MSG_RX] s (hopCounted s) := only_bumpF s F.CHN_MSG_RX_count 1

theorem addressing_hopCounted (s : State) : addressing (hopCounted s) = addressing s := by
  unfold addressing
  rw [(only_hopCounted s).field F.CHN_ADDR_error (by decide)]
  rfl

theorem isHead_hopCounted (s : State) : isHead (hopCounted s) = isHead s := (only_hopCounted s).hasF_eq F.CHN_ADDR_head (by decide)

theorem myAddr_hopCounted (s : State) : myAddr (hopCounted s) = myAddr s := (only_hopCounted s).field F.CHN_ADDR_address (by decide)

theorem slot_hopCounted (s : State) : slot (hopCounted s) = slot s := (only_hopCounted s).field F.LCH_SLOT_slot (by decide)

theorem addressing_iff {s : State} : addressing s = true ↔ s.chn.closed = false ∧ getF s F.CHN_ADDR_error = 0 := by
  simp [addressing]

/-! ### ADDRESS_TOKEN, R240 -/

/-- The token's origin, the slot and the address noted. -/
def tokenNoted (s : State) (v : Nat) (o : Word) : State :=
  setF { s with chn := { s.chn with origin := some o, tokenAt := some (slot s) } } F.CHN_ADDR_address v

theorem only_tokenNoted (s : State) (v : Nat) (o : Word) : Only [.chn] [Off.CHN_ADDR] s (tokenNoted s v o) :=
  ((only_chn s _).mono (fun _ h => h) (by simp)).trans ((only_setF _ F.CHN_ADDR_address v).mono (by simp) (fun _ h => h))

/-- A module that has no address takes the token's value and passes the token on. -/
theorem tokenIn_of_first {s : State} {v : Nat} (o : Word) (hh : isHead s = false) (ha : addressing s = true) (ho : s.chn.origin = none)
    (hv : v < 64) : tokenIn s 0 v o = postHop (tokenNoted (hopCounted s) v o) 1 0x01 (v + 1) o := by
  have hhead : ¬isHead (hopCounted s) = true := by rw [isHead_hopCounted, hh]; decide
  have haddr : ¬(!addressing (hopCounted s)) = true := by rw [addressing_hopCounted, ha]; decide
  have horigin : (hopCounted s).chn.origin = none := ho
  unfold tokenIn
  dsimp only
  rw [← hopCounted, if_neg haddr, if_neg (by decide), if_neg (by decide), if_neg hhead, horigin]
  exact if_neg (Nat.not_le.mpr hv)

theorem does_addressToken_first (s : State) (v : Nat) (o : Word) (h : Up s) (hh : isHead s = false) (ha : addressing s = true)
    (ho : s.chn.origin = none) (hv : v < 64) :
    Does (.addressToken 0 v o) s fun t => myAddr t = v ∧ t.chn.origin = some o ∧ t.chn.tokenAt = some (slot s) ∧
      t.sent = .link 1 0x01 (v + 1) o :: s.sent ∧ Only [.chn, .sent] [Off.CHN_ADDR, Off.CHN_MSG_RX, Off.CHN_MSG_TX] s t := by
  have hpost := only_postHop (tokenNoted (hopCounted s) v o) 1 0x01 (v + 1) o
  have hframe : Only [.chn, .sent] [Off.CHN_ADDR, Off.CHN_MSG_RX, Off.CHN_MSG_TX] s
      (postHop (tokenNoted (hopCounted s) v o) 1 0x01 (v + 1) o) := by
    refine Only.trans ?_ (hpost.mono (by decide) (by decide))
    exact ((only_hopCounted s).mono (by simp) (by decide)).trans ((only_tokenNoted _ v o).mono (by decide) (by decide))
  have hvalue : myAddr (tokenNoted (hopCounted s) v o) = v :=
    (getF_setF_same _ F.CHN_ADDR_address v (by decide)).trans (Nat.mod_eq_of_lt hv)
  exact does_eq rfl (tokenIn_of_first o hh ha ho hv) h hframe (by decide) (by decide)
    ⟨(hpost.field F.CHN_ADDR_address (by decide)).trans hvalue, rfl, congrArg some (slot_hopCounted s), rfl, hframe⟩

/-! ### CLOSURE, R240 step 5 -/

/-- The closure counted and passed on. -/
def closurePassed (s : State) (n : Nat) (o : Word) : State := postHop (hopCounted s) 1 0x02 n o

theorem only_closurePassed (s : State) (n : Nat) (o : Word) :
    Only [.sent] [Off.CHN_MSG_RX, Off.CHN_MSG_TX] s (closurePassed s n o) :=
  ((only_hopCounted s).mono (by simp) (by decide)).trans ((only_postHop _ 1 0x02 n o).mono (fun _ h => h) (by decide))

theorem closureIn_of_own {s : State} {n : Nat} {o : Word} (hh : isHead s = false) (ha : addressing s = true)
    (ho : s.chn.origin = some o) (hn : myAddr s < n) : closureIn s 0 n o = closeChain (closurePassed s n o) n := by
  obtain ⟨hopen, herror⟩ := addressing_iff.mp ((addressing_hopCounted s).trans ha)
  have hhead : ¬isHead (hopCounted s) = true := by rw [isHead_hopCounted, hh]; decide
  have hmine : ¬(decide ((hopCounted s).chn.origin ≠ some o) || decide (n ≤ myAddr (hopCounted s))) = true := by
    rw [myAddr_hopCounted, Bool.or_eq_true, decide_eq_true_eq, decide_eq_true_eq]
    exact not_or.mpr ⟨not_not.mpr ho, Nat.not_le.mpr hn⟩
  unfold closureIn
  dsimp only
  rw [← hopCounted, if_neg (not_not.mpr herror), if_neg (by decide), if_neg (by decide), if_neg hhead, if_neg (Bool.eq_false_iff.mp hopen)]
  exact if_neg hmine

theorem does_closure_own (s : State) (n : Nat) (o : Word) (h : Up s) (hh : isHead s = false) (ha : addressing s = true)
    (ho : s.chn.origin = some o) (hm : myAddr s < n) (hn : n ≤ 64) (hl : ∀ a, linkLost s a = false) :
    Does (.closure 0 n o) s fun t => chainLen t = n ∧ hasF t F.CHN_STATUS_addressed = true ∧ t.chn.closed = true ∧ t.chn.closedAt = slot s ∧
      myAddr t = myAddr s ∧ .link 1 0x02 n o ∈ t.sent ∧
      Only [.chn, .sent] [Off.CHN_ADDR, Off.CHN_STATUS, Off.CHN_MSG_RX, Off.CHN_MSG_TX, Off.CHN_PORT 2, Off.CHN_PORT 3,
        Off.CHN_FEED (myAddr s / 8)] s t := by
  let u := closurePassed s n o
  have hpass := only_closurePassed s n o
  have hlinks : ∀ a, linkLost u a = false := hl
  have haddr : myAddr u = myAddr s := hpass.field F.CHN_ADDR_address (by decide)
  have hslot : slot u = slot s := hpass.field F.LCH_SLOT_slot (by decide)
  obtain ⟨hclosed, hat⟩ := closed_closeChain hlinks n
  have hclose := only_closeChain hlinks n
  rw [closingRegs, haddr] at hclose
  have hframe : Only [.chn, .sent] [Off.CHN_ADDR, Off.CHN_STATUS, Off.CHN_MSG_RX, Off.CHN_MSG_TX, Off.CHN_PORT 2, Off.CHN_PORT 3,
      Off.CHN_FEED (myAddr s / 8)] s (closeChain u n) :=
    (hpass.mono (by decide) (by simp)).trans (hclose.mono (fun _ h => h) (by simp))
  exact does_eq rfl (closureIn_of_own hh ha ho hm) h hframe (by decide) (by decide)
    ⟨chainLen_closeChain hlinks n hn, addressed_closeChain hlinks n, hclosed, hat.trans hslot, (myAddr_closeChain hlinks n).trans haddr,
      (sent_suffix_closeChain hlinks n).subset List.mem_cons_self, hframe⟩

/-! ### An error of addressing, R241 -/

/-- An error recorded and shown, with its event. -/
def errorShown (s : State) (code : Nat) : State :=
  flag (setF (setF s F.CHN_ADDR_error code) F.CHN_STATUS_addressed 0) F.CHN_STATUS_chain_error 8

/-- An error shown and passed on with the address that its notice names. -/
def errorPassed (s : State) (code sender : Nat) : State := postHop (errorShown s code) 1 0x03 (code + 16 * sender) 0

theorem only_errorShown (s : State) (code : Nat) :
    Only eventParts [Off.CHN_ADDR, Off.CHN_STATUS, Off.HST_IRQ_PENDING] s (errorShown s code) := by
  refine Only.trans ?_ ((only_flag _ F.CHN_STATUS_chain_error 8).mono (fun _ h => h) (by decide))
  exact ((only_setF s F.CHN_ADDR_error code).mono (by simp) (by decide)).trans
    ((only_setF _ F.CHN_STATUS_addressed 0).mono (by simp) (by decide))

theorem only_errorPassed (s : State) (code sender : Nat) :
    Only eventParts [Off.CHN_ADDR, Off.CHN_STATUS, Off.CHN_MSG_TX, Off.HST_IRQ_PENDING] s (errorPassed s code sender) :=
  ((only_errorShown s code).mono (fun _ h => h) (by decide)).trans ((only_postHop _ 1 0x03 _ 0).mono (by decide) (by decide))

theorem error_errorPassed (s : State) {code : Nat} (sender : Nat) (hc : code ≤ 6) :
    getF (errorPassed s code sender) F.CHN_ADDR_error = code := by
  rw [errorPassed, (only_postHop _ 1 0x03 _ 0).field F.CHN_ADDR_error (by decide), errorShown,
    getF_flag_other _ _ F.CHN_ADDR_error 8 (by decide) (by decide) (by decide), getF_setF_other _ _ _ 0 (by decide) (by decide),
    getF_setF_same _ _ _ (by decide)]
  exact Nat.mod_eq_of_lt (Nat.lt_of_le_of_lt hc (by decide))

theorem chain_error_errorPassed (s : State) (code sender : Nat) : hasF (errorPassed s code sender) F.CHN_STATUS_chain_error = true := by
  rw [errorPassed, (only_postHop _ 1 0x03 _ 0).hasF_eq F.CHN_STATUS_chain_error (by decide)]
  exact hasF_flag _ F.CHN_STATUS_chain_error 8 (by decide) (by decide) (by decide)

theorem addressed_errorPassed (s : State) (code sender : Nat) : hasF (errorPassed s code sender) F.CHN_STATUS_addressed = false := by
  rw [errorPassed, (only_postHop _ 1 0x03 _ 0).hasF_eq F.CHN_STATUS_addressed (by decide), errorShown,
    hasF_flag_other _ _ F.CHN_STATUS_addressed 8 (by decide) (by decide) (by decide), hasF, getF_setF_same _ _ _ (by decide)]
  rfl

theorem addrError_of_none {s : State} (code : Nat) (h : getF s F.CHN_ADDR_error = 0) :
    addrError s code = errorPassed s code (myAddr s) := if_pos h

/-! ### ERROR_NOTICE, R241 -/

theorem errorIn_of_none {s : State} {code : Nat} (sender : Nat) (h1 : 1 ≤ code) (h6 : code ≤ 6) (he : getF s F.CHN_ADDR_error = 0) :
    errorIn s code sender = errorPassed (hopCounted s) code sender := by
  have hnone : getF (hopCounted s) F.CHN_ADDR_error = 0 := ((only_hopCounted s).field F.CHN_ADDR_error (by decide)).trans he
  have hcode : ¬(code = 0 ∨ 6 < code) := by omega
  have hfirst : ¬(decide (getF (hopCounted s) F.CHN_ADDR_error = code) &&
      sender == myAddr (errorShown (hopCounted s) code)) = true := by
    have hne : (0 : Nat) ≠ code := by omega
    simp [hnone, hne]
  unfold errorIn
  dsimp only
  rw [← hopCounted, if_neg hcode, if_pos hnone]
  exact if_neg hfirst

theorem does_errorNotice_first (s : State) (code sender : Nat) (h : Up s) (h1 : 1 ≤ code) (h6 : code ≤ 6)
    (he : getF s F.CHN_ADDR_error = 0) :
    Does (.errorNotice code sender) s fun t => getF t F.CHN_ADDR_error = code ∧ hasF t F.CHN_STATUS_addressed = false ∧
      hasF t F.CHN_STATUS_chain_error = true ∧ t.sent.head? = some (.link 1 0x03 (code + 16 * sender) 0) ∧
      Only eventParts [Off.CHN_ADDR, Off.CHN_STATUS, Off.CHN_MSG_RX, Off.CHN_MSG_TX, Off.HST_IRQ_PENDING] s t := by
  have hframe : Only eventParts [Off.CHN_ADDR, Off.CHN_STATUS, Off.CHN_MSG_RX, Off.CHN_MSG_TX, Off.HST_IRQ_PENDING] s
      (errorPassed (hopCounted s) code sender) :=
    ((only_hopCounted s).mono (by simp) (by decide)).trans ((only_errorPassed _ code sender).mono (fun _ h => h) (by decide))
  exact does_eq rfl (errorIn_of_none sender h1 h6 he) h hframe (by decide) (by decide)
    ⟨error_errorPassed _ sender h6, addressed_errorPassed _ code sender, chain_error_errorPassed _ code sender, rfl, hframe⟩

/-! ### ADDRESSING_TIMEOUT, R240 and Table 9.3 -/

theorem addressingTimeout_no_head {s : State} {t0 : Nat} (ha : addressing s = true) (hh : isHead s = false)
    (ht : s.chn.trainAt = some t0) (ho : s.chn.origin = none) (hd : t0 + 7812500 ≤ slot s) :
    addressingTimeout s = errorPassed s 1 (myAddr s) := by
  have hopen : ¬(!addressing s) = true := by rw [ha]; decide
  unfold addressingTimeout
  rw [if_neg hopen, if_neg (Bool.eq_false_iff.mp hh), ht, ho, ← addrError_of_none 1 (addressing_iff.mp ha).2]
  exact if_pos (by simp [twoSeconds, hd])

theorem addressingTimeout_no_closure {s : State} {t0 : Nat} (ha : addressing s = true) (hh : isHead s = true)
    (ht : s.chn.tokenAt = some t0) (hd : t0 + 7812500 ≤ slot s) : addressingTimeout s = errorPassed s 6 (myAddr s) := by
  have hopen : ¬(!addressing s) = true := by rw [ha]; decide
  unfold addressingTimeout
  rw [if_neg hopen, if_pos hh, ht, ← addrError_of_none 6 (addressing_iff.mp ha).2]
  exact if_pos hd

/-- A timeout that comes to an error shows it. -/
theorem does_addressingTimeout {s : State} {code : Nat} (hc : code ≤ 6) (h : Up s)
    (he : addressingTimeout s = errorPassed s code (myAddr s)) :
    Does .addressingTimeout s fun t => getF t F.CHN_ADDR_error = code ∧ hasF t F.CHN_STATUS_chain_error = true ∧
      Only eventParts [Off.CHN_ADDR, Off.CHN_STATUS, Off.CHN_MSG_TX, Off.HST_IRQ_PENDING] s t :=
  have hframe := only_errorPassed s code (myAddr s)
  does_eq rfl he h hframe (by decide) (by decide) ⟨error_errorPassed s _ hc, chain_error_errorPassed s code _, hframe⟩

/-- Settles O36: the token and the closure stage by stage, the notice and the timeouts by the one error that they come to. -/
theorem addressingGivesEachModuleAnAddress : Obligations.AddressingGivesEachModuleAnAddress :=
  ⟨does_addressToken_first, does_closure_own, does_errorNotice_first,
    fun _ _ h ha hh ht ho hd => does_addressingTimeout (by decide) h (addressingTimeout_no_head ha hh ht ho hd),
    fun _ _ h ha hh ht hd => does_addressingTimeout (by decide) h (addressingTimeout_no_closure ha hh ht hd),
    fun s h ha => does_eq rfl (if_pos (by rw [ha]; rfl) : addressingTimeout s = s) h (Only.rfl' [] [] s) (by decide) (by decide) rfl⟩

end Sys2Proof.Machine
end

section
/-!
PROOFS. ACK_SEND, ACKNOWLEDGEMENT, MESSAGE_RESEND, MESSAGE_DELIVER and MESSAGE_FORWARD (R245 to R247): a message on a route that carries
it, the records that each command replaces, and the branches of a delivery.
-/

namespace Sys2Proof.Machine

/-! ### A message on its way -/

/-- A route reads the chain address, the ports and the lost links, and nothing else. -/
theorem route_congr {l : List Nat} {s t : State} (h : RegsBut l s t) (ha : Off.CHN_ADDR ∉ l) (hp : ∀ k, Off.CHN_PORT k ∉ l)
    (hl : t.chn.lost = s.chn.lost) (d : Nat) (skip : Bool) : route t d skip = route s d skip := by
  have haddr : myAddr t = myAddr s := by unfold myAddr getF; rw [h F.CHN_ADDR_address.off ha]
  have hlen : chainLen t = chainLen s := by unfold chainLen getF; rw [h F.CHN_ADDR_length.off ha]
  have hport : ∀ k, portUp t k = portUp s k := fun k => by unfold portUp getF; rw [h (F.CHN_PORT_state k).off (hp k)]
  have hlink : ∀ a, linkLost t a = linkLost s a := fun a => by unfold linkLost; rw [hl]
  simp only [route, haddr, hlen, hport, hlink]

/-- A count below the registers of the ports leaves the routes alone. -/
theorem route_bumpF (s : State) {f : Field} (n : Nat) (ha : f.off ≠ Off.CHN_ADDR) (hp : f.off < Off.CHN_PORT 0) (d : Nat) (skip : Bool) :
    route (bumpF s f n) d skip = route s d skip :=
  route_congr (only_bumpF s f n).2 (fun h => ha (List.mem_singleton.mp h).symm)
    (fun k h => ne_port_of_lt k hp (List.mem_singleton.mp h).symm) rfl d skip

/-- A message put on port k. -/
def carried (s : State) (k : Nat) (m : ChainMsg) : State :=
  send (setPortRun s k { portRun s k with txSeq := ((portRun s k).txSeq + flitsOf m.body) % 2 ^ 24 }) (.message (some k) m)

theorem only_carried (s : State) (k : Nat) (m : ChainMsg) : Only [.chn, .sent] [] s (carried s k m) :=
  ((only_setPortRun s k _).mono (by decide) (by simp)).trans ((only_send _ _).mono (by decide) (by simp))

theorem transmit_of_route {s : State} {m : ChainMsg} {k : Nat} (hd : m.dest ≠ myAddr s)
    (hr : route s m.dest (skips s m.kind m.body) = some k) : transmit s m = carried s k m := by
  unfold transmit
  rw [if_neg hd, hr]
  rfl

/-! ### ACK_SEND, R247 -/

/-- The acknowledgement of the highest seq received in order from a source. -/
def ackMsg (s : State) (src : Nat) : ChainMsg :=
  ⟨0x07, myAddr s, src, 0, 0, true, leBytes 8 ((FMap.get 0 s.chn.rxNext src + 2 ^ 32 - 1) % 2 ^ 32)⟩

/-- No acknowledgement due to a source, and the one that goes out counted. -/
def ackNoted (s : State) (src : Nat) : State :=
  bumpF { s with chn := { s.chn with ackDue := FMap.set 0 s.chn.ackDue src 0, rxCount := FMap.set 0 s.chn.rxCount src 0 } }
    F.CHN_MSG_TX_count 1

theorem only_ackNoted (s : State) (src : Nat) : Only [.chn] [Off.CHN_MSG_TX] s (ackNoted s src) :=
  ((only_chn s _).mono (fun _ h => h) (by simp)).trans ((only_bumpF _ F.CHN_MSG_TX_count 1).mono (by simp) (by decide))

theorem ackSend_of_due {s : State} {src k : Nat} (hdue : FMap.get 0 s.chn.ackDue src ≠ 0) (hd : src ≠ myAddr s)
    (hr : route s src false = some k) : ackSend s src = carried (ackNoted s src) k (ackMsg s src) := by
  have hother : (ackMsg s src).dest ≠ myAddr (ackNoted s src) := by
    rw [show myAddr (ackNoted s src) = myAddr s from (only_ackNoted s src).field F.CHN_ADDR_address (by decide)]
    exact hd
  refine (if_neg hdue).trans (transmit_of_route (s := ackNoted s src) (m := ackMsg s src) hother ?_)
  rw [skips_of_not_data (kind := (ackMsg s src).kind) _ _ (show (0x07 : Nat) ≠ 0x20 by decide)]
  exact (route_bumpF _ 1 (by decide) (by decide) src false).trans hr

theorem does_ackSend_due (s : State) (src k : Nat) (h : Up s) (hdue : FMap.get 0 s.chn.ackDue src ≠ 0) (hd : src ≠ myAddr s)
    (hr : route s src false = some k) :
    Does (.ackSend src) s fun t => FMap.get 0 t.chn.ackDue src = 0 ∧ FMap.get 0 t.chn.rxCount src = 0 ∧
      t.sent = .message (some k) ⟨0x07, myAddr s, src, 0, 0, true, leBytes 8 ((FMap.get 0 s.chn.rxNext src + 2 ^ 32 - 1) % 2 ^ 32)⟩ :: s.sent ∧
      t.chn.unacked = s.chn.unacked ∧ Only [.chn, .sent] [Off.CHN_MSG_TX] s t := by
  have hframe : Only [.chn, .sent] [Off.CHN_MSG_TX] s (carried (ackNoted s src) k (ackMsg s src)) :=
    ((only_ackNoted s src).mono (by decide) (fun _ h => h)).trans ((only_carried _ k _).mono (fun _ h => h) (by simp))
  exact does_eq rfl (ackSend_of_due hdue hd hr) h hframe (by decide) (by decide)
    ⟨FMap.get_set_self 0 s.chn.ackDue src 0, FMap.get_set_self 0 s.chn.rxCount src 0, rfl, rfl, hframe⟩

/-! ### ACKNOWLEDGEMENT, R247 -/

/-- The messages that an acknowledgement releases are taken off the list. -/
def released (s : State) (src seq : Nat) : State :=
  { s with chn := { s.chn with
    unacked := s.chn.unacked.filter fun u => !(u.dest == src && decide ((seq + 2 ^ 32 - u.seq) % 2 ^ 32 < 2 ^ 31)) } }

/-- Where no collective data waits, no frond entry depends on the acknowledgement. -/
theorem ackIn_of_no_data {s : State} (src seq : Nat) (hk : ∀ u ∈ s.chn.unacked, u.msg.kind ≠ 0x20) :
    ackIn s src seq = released s src seq := by
  refine List.foldlRecOn (motive := fun t => t = released s src seq) _ _ rfl fun t ht u hu => ?_
  rw [if_neg fun h => hk u (List.mem_of_mem_filter hu) h.1]
  exact ht

theorem does_acknowledgement (s : State) (src seq : Nat) (h : Up s) (hk : ∀ u ∈ s.chn.unacked, u.msg.kind ≠ 0x20) :
    Does (.acknowledgement src seq) s fun t =>
      t.chn.unacked = s.chn.unacked.filter (fun u => !(u.dest == src && decide ((seq + 2 ^ 32 - u.seq) % 2 ^ 32 < 2 ^ 31))) ∧
      Only [.chn] [] s t :=
  does_eq rfl (ackIn_of_no_data src seq hk) h (only_chn s _) (by decide) (by decide) ⟨rfl, only_chn s _⟩

/-! ### MESSAGE_RESEND, R247 -/

/-- The one message that waits noted as sent again, and counted. -/
def resendNoted (s : State) (u : Unacked) : State :=
  bumpF { s with chn := { s.chn with unacked := [{ u with sent := slot s }] } } F.CHN_RESEND_CNT_count 1

theorem only_resendNoted (s : State) (u : Unacked) : Only [.chn] [Off.CHN_RESEND_CNT] s (resendNoted s u) :=
  ((only_chn s _).mono (fun _ h => h) (by simp)).trans ((only_bumpF _ F.CHN_RESEND_CNT_count 1).mono (by simp) (by decide))

theorem resendDue_of_single {s : State} {dest k : Nat} {u : Unacked} (hu : s.chn.unacked = [u]) (hdest : u.dest = dest)
    (hdue : u.sent + 3907 ≤ slot s) (hd : u.msg.dest ≠ myAddr s)
    (hr : route s u.msg.dest (skips s u.msg.kind u.msg.body) = some k) : resendDue s dest = carried (resendNoted s u) k u.msg := by
  have hone : (s.chn.unacked.filter fun x => x.dest == dest && decide (x.sent + 3907 ≤ slot s)) = [u] := by simp [hu, hdest, hdue]
  have hmark : (s.chn.unacked.map fun x => if x.dest = u.dest ∧ x.seq = u.seq then { x with sent := slot s } else x) =
      [{ u with sent := slot s }] := by simp [hu]
  have hother : u.msg.dest ≠ myAddr (resendNoted s u) := by
    rwa [show myAddr (resendNoted s u) = myAddr s from (only_resendNoted s u).field F.CHN_ADDR_address (by decide)]
  unfold resendDue
  rw [hone, List.foldl_cons, List.foldl_nil, hmark]
  exact transmit_of_route (s := resendNoted s u) hother ((route_bumpF _ 1 (by decide) (by decide) _ _).trans hr)

theorem resendDue_of_none {s : State} {dest : Nat} (hu : ∀ u ∈ s.chn.unacked, u.dest ≠ dest) : resendDue s dest = s := by
  have hnone : (s.chn.unacked.filter fun x => x.dest == dest && decide (x.sent + 3907 ≤ slot s)) = [] :=
    List.filter_eq_nil_iff.mpr fun u hmem => by simp [hu u hmem]
  unfold resendDue
  rw [hnone]
  rfl

theorem does_messageResend_single (s : State) (dest k : Nat) (u : Unacked) (h : Up s) (hu : s.chn.unacked = [u]) (hdest : u.dest = dest)
    (hdue : u.sent + 3907 ≤ slot s) (hd : u.msg.dest ≠ myAddr s)
    (hr : route s u.msg.dest (skips s u.msg.kind u.msg.body) = some k) :
    Does (.messageResend dest) s fun t => t.chn.unacked = [{ u with sent := slot s }] ∧ t.sent = .message (some k) u.msg :: s.sent ∧
      getF t F.CHN_RESEND_CNT_count = min (Field.max F.CHN_RESEND_CNT_count) (getF s F.CHN_RESEND_CNT_count + 1) ∧
      Only [.chn, .sent] [Off.CHN_RESEND_CNT] s t := by
  have hframe : Only [.chn, .sent] [Off.CHN_RESEND_CNT] s (carried (resendNoted s u) k u.msg) :=
    ((only_resendNoted s u).mono (by decide) (fun _ h => h)).trans ((only_carried _ k _).mono (fun _ h => h) (by simp))
  have hcount : getF (carried (resendNoted s u) k u.msg) F.CHN_RESEND_CNT_count =
      min (Field.max F.CHN_RESEND_CNT_count) (getF s F.CHN_RESEND_CNT_count + 1) :=
    ((only_carried _ k _).field F.CHN_RESEND_CNT_count (by simp)).trans (getF_bumpF_same _ F.CHN_RESEND_CNT_count 1 (by decide))
  exact does_eq rfl (resendDue_of_single hu hdest hdue hd hr) h hframe (by decide) (by decide) ⟨rfl, rfl, hcount, hframe⟩

/-! ### MESSAGE_DELIVER, R245 to R247 -/

/-- What a delivery looks at first: a message for this module, of a kind that is not one hop long. -/
theorem own_message_not_skipped {s : State} {m : ChainMsg} (hc : s.chn.closed = true) (hd : m.dest = myAddr s) (hk : 7 ≤ m.kind) :
    ¬(!s.chn.closed || decide (m.dest ≠ myAddr s) || (decide (1 ≤ m.kind) && decide (m.kind ≤ 6))) = true := by
  have hfar : ¬m.kind ≤ 6 := by omega
  simp [hc, hd, hfar]

theorem deliver_of_bad_head {s : State} {m : ChainMsg} (hc : s.chn.closed = true) (hd : m.dest = myAddr s) (hh : m.headOk = false)
    (hk : 7 ≤ m.kind) : deliver s m = dropMsg s :=
  (if_neg (own_message_not_skipped hc hd hk)).trans (if_pos (by simp [hh]))

section
variable {s : State} {m : ChainMsg} (hc : s.chn.closed = true) (hd : m.dest = myAddr s) (hh : m.headOk = true) (hk : 7 < m.kind)
  (hs : m.source < chainLen s)
include hc hd hh hk hs

/-- A good message that carries a seq is judged by how far it is ahead of the one expected. -/
theorem deliver_of_numbered : deliver s m =
    if (m.seq + 2 ^ 32 - FMap.get 0 s.chn.rxNext m.source) % 2 ^ 32 = 0 then
      takeHeld (s.chn.held.length + 1) (takeMsg s m) m.source
    else if 2 ^ 31 ≤ (m.seq + 2 ^ 32 - FMap.get 0 s.chn.rxNext m.source) % 2 ^ 32 then oweAck s m.source 0
    else if s.chn.held.any fun x => x.source == m.source && x.seq == m.seq then s
    else { s with chn := { s.chn with held := s.chn.held ++ [m] } } :=
  (if_neg (own_message_not_skipped hc hd (Nat.le_of_lt hk))).trans ((if_neg (by simp [hh])).trans ((if_neg (Nat.not_le.mpr hs)).trans
    (if_neg (Nat.ne_of_gt hk))))

theorem deliver_of_gap (h0 : 0 < (m.seq + 2 ^ 32 - FMap.get 0 s.chn.rxNext m.source) % 2 ^ 32)
    (h1 : (m.seq + 2 ^ 32 - FMap.get 0 s.chn.rxNext m.source) % 2 ^ 32 < 2 ^ 31)
    (hx : ∀ x ∈ s.chn.held, x.source = m.source → x.seq ≠ m.seq) :
    deliver s m = { s with chn := { s.chn with held := s.chn.held ++ [m] } } := by
  have hnew : ¬(s.chn.held.any fun x => x.source == m.source && x.seq == m.seq) = true := by
    simpa [List.any_eq_true] using hx
  rw [deliver_of_numbered hc hd hh hk hs, if_neg (Nat.ne_of_gt h0), if_neg (Nat.not_le.mpr h1), if_neg hnew]

/-- With nothing held behind a gap, a message in its turn is all that is taken. -/
theorem deliver_of_in_turn (hq : m.seq = FMap.get 0 s.chn.rxNext m.source) {t : State} (ht : takeMsg s m = t) (hn : t.chn.held = []) :
    deliver s m = t := by
  have hahead : (m.seq + 2 ^ 32 - FMap.get 0 s.chn.rxNext m.source) % 2 ^ 32 = 0 := by
    rw [← hq, Nat.add_sub_cancel_left]
    rfl
  rw [deliver_of_numbered hc hd hh hk hs, if_pos hahead, ht, takeHeld, hn]
  rfl

end

theorem does_messageDeliver_gap (s : State) (m : ChainMsg) (h : Up s) (hc : s.chn.closed = true) (hd : m.dest = myAddr s)
    (hh : m.headOk = true) (hk : 7 < m.kind) (hs : m.source < chainLen s)
    (h0 : 0 < (m.seq + 2 ^ 32 - FMap.get 0 s.chn.rxNext m.source) % 2 ^ 32)
    (h1 : (m.seq + 2 ^ 32 - FMap.get 0 s.chn.rxNext m.source) % 2 ^ 32 < 2 ^ 31)
    (hx : ∀ x ∈ s.chn.held, x.source = m.source → x.seq ≠ m.seq) :
    Does (.messageDeliver m) s fun t => t.chn.held = s.chn.held ++ [m] ∧ t.chn.rxNext = s.chn.rxNext ∧ Only [.chn] [] s t :=
  does_eq rfl (deliver_of_gap hc hd hh hk hs h0 h1 hx) h (only_chn s _) (by decide) (by decide) ⟨rfl, rfl, only_chn s _⟩

theorem does_messageDeliver_bad_head (s : State) (m : ChainMsg) (h : Up s) (hc : s.chn.closed = true) (hd : m.dest = myAddr s)
    (hh : m.headOk = false) (hk : 7 ≤ m.kind) :
    Does (.messageDeliver m) s fun t => hasF t F.CHN_STATUS_msg_dropped = true ∧
      getF t F.CHN_MSG_DROP_count = min (Field.max F.CHN_MSG_DROP_count) (getF s F.CHN_MSG_DROP_count + 1) ∧
      Only [] [Off.CHN_MSG_DROP, Off.CHN_STATUS] s t := by
  have hcount : getF (dropMsg s) F.CHN_MSG_DROP_count =
      min (Field.max F.CHN_MSG_DROP_count) (getF s F.CHN_MSG_DROP_count + 1) :=
    (getF_setF_other _ F.CHN_STATUS_msg_dropped F.CHN_MSG_DROP_count 1 (by decide) (by decide)).trans
      (getF_bumpF_same s F.CHN_MSG_DROP_count 1 (by decide))
  exact does_eq rfl (deliver_of_bad_head hc hd hh hk) h (only_dropMsg s) (by decide) (by decide)
    ⟨hasF_setF_one _ F.CHN_STATUS_msg_dropped (by decide) (by decide), hcount, only_dropMsg s⟩

/-! ### A SYNC message in its turn, R151 and R247 -/

/-- The turn of a message taken. -/
def turnNoted (s : State) (m : ChainMsg) : State :=
  { s with chn := { s.chn with rxNext := FMap.set 0 s.chn.rxNext m.source ((m.seq + 1) % 2 ^ 32) } }

/-- The turn of a message taken, and the message counted as received. -/
def turnTaken (s : State) (m : ChainMsg) : State := bumpF (turnNoted s m) F.CHN_MSG_RX_count 1

/-- An acknowledgement owed to a source, and its messages counted. -/
def ackOwed (s : State) (src count : Nat) : State :=
  { s with chn := { s.chn with ackDue := FMap.set 0 s.chn.ackDue src 1,
                               rxCount := FMap.set 0 s.chn.rxCount src (FMap.get 0 s.chn.rxCount src + count) } }

theorem only_turnTaken (s : State) (m : ChainMsg) : Only [.chn] [Off.CHN_MSG_RX] s (turnTaken s m) :=
  ((only_chn s _).mono (fun _ h => h) (by simp)).trans ((only_bumpF _ F.CHN_MSG_RX_count 1).mono (by simp) (by decide))

theorem only_ackOwed (s : State) (src count : Nat) : Only [.chn] [] s (ackOwed s src count) := only_chn s _

theorem oweAck_of_few {s : State} {src count : Nat} (h : FMap.get 0 s.chn.rxCount src + count < 16) :
    oweAck s src count = ackOwed s src count := if_neg (Nat.not_le.mpr h)

theorem takeMsg_of_known {s : State} {m : ChainMsg} (hk : knownKind m.kind = true) (hm : isManagement m.kind = false)
    (ht : m.jobTag = getF s F.CHN_JOB_job_tag) : takeMsg s m = oweAck (kindEffect (turnTaken s m) m) m.source 1 := by
  have htag : getF (turnNoted s m) F.CHN_JOB_job_tag = getF s F.CHN_JOB_job_tag := rfl
  have hkept : ¬(!knownKind m.kind || decide (m.jobTag ≠ getF (turnNoted s m) F.CHN_JOB_job_tag)) = true := by
    simp [hk, htag, ht]
  unfold takeMsg
  dsimp only
  rw [hm, if_neg Bool.false_ne_true]
  exact congrArg (fun t => oweAck t m.source 1) (if_neg hkept)

theorem kindEffect_sync (s : State) {m : ChainMsg} (hk : m.kind = 0x10) :
    kindEffect s m = syncIn s (bits (wordAt m.body 0) 24 12) (wordAt m.body 1).toNat := by
  unfold kindEffect
  rw [hk]
  rfl

/-- A SYNC message taken: its turn, its signal, and the acknowledgement that it owes. -/
def syncTaken (s : State) (m : ChainMsg) : State :=
  ackOwed (signal (turnTaken s m) (bits (wordAt m.body 0) 24 12) (wordAt m.body 1).toNat) m.source 1

theorem only_syncTaken (s : State) (m : ChainMsg) : Only [.chn, .lch] [Off.CHN_MSG_RX] s (syncTaken s m) := by
  refine Only.trans ?_ ((only_ackOwed _ m.source 1).mono (by decide) (by simp))
  exact ((only_turnTaken s m).mono (by decide) (fun _ h => h)).trans ((only_signal _ _ _).mono (by decide) (by simp))

theorem takeMsg_of_sync {s : State} {m : ChainMsg} (hk : m.kind = 0x10) (ht : m.jobTag = getF s F.CHN_JOB_job_tag)
    (hn : FMap.get 0 s.chn.rxCount m.source < 15) (hi : (syncFlags s (bits (wordAt m.body 0) 24 12)).imp = true) :
    takeMsg s m = syncTaken s m := by
  have hsync : kindEffect (turnTaken s m) m =
      signal (turnTaken s m) (bits (wordAt m.body 0) 24 12) (wordAt m.body 1).toNat :=
    (kindEffect_sync _ hk).trans (syncIn_imported (s := turnTaken s m) _ hi)
  rw [takeMsg_of_known (by rw [hk]; rfl) (by rw [hk]; rfl) ht, hsync]
  exact oweAck_of_few (Nat.succ_lt_succ hn)

theorem does_messageDeliver_sync (s : State) (m : ChainMsg) (h : Up s) (hc : s.chn.closed = true) (hd : m.dest = myAddr s)
    (hh : m.headOk = true) (hk : m.kind = 0x10) (hs : m.source < chainLen s) (hq : m.seq = FMap.get 0 s.chn.rxNext m.source)
    (_ : m.seq < 2 ^ 32) (ht : m.jobTag = getF s F.CHN_JOB_job_tag) (hheld : s.chn.held = [])
    (hn : FMap.get 0 s.chn.rxCount m.source < 15) (hi : (syncFlags s (bits (wordAt m.body 0) 24 12)).imp = true) :
    Does (.messageDeliver m) s fun t => FMap.get 0 t.chn.rxNext m.source = (m.seq + 1) % 2 ^ 32 ∧ FMap.get 0 t.chn.ackDue m.source = 1 ∧
      t.lch.signals = s.lch.signals ++ [⟨slot s + 2, bits (wordAt m.body 0) 24 12, (wordAt m.body 1).toNat⟩] ∧
      getF t F.CHN_MSG_RX_count = min (Field.max F.CHN_MSG_RX_count) (getF s F.CHN_MSG_RX_count + 1) ∧
      Only [.chn, .lch] [Off.CHN_MSG_RX] s t := by
  have hslot : slot (turnTaken s m) = slot s := (only_turnTaken s m).field F.LCH_SLOT_slot (by decide)
  have hsignals : (syncTaken s m).lch.signals =
      s.lch.signals ++ [⟨slot s + 2, bits (wordAt m.body 0) 24 12, (wordAt m.body 1).toNat⟩] := by
    rw [← hslot]
    rfl
  have hcount : getF (syncTaken s m) F.CHN_MSG_RX_count =
      min (Field.max F.CHN_MSG_RX_count) (getF s F.CHN_MSG_RX_count + 1) :=
    getF_bumpF_same _ F.CHN_MSG_RX_count 1 (by decide)
  have hfar : 7 < m.kind := by rw [hk]; decide
  exact does_eq rfl (deliver_of_in_turn hc hd hh hfar hs hq (takeMsg_of_sync hk ht hn hi) hheld) h (only_syncTaken s m) (by decide)
    (by decide) ⟨FMap.get_set_self 0 s.chn.rxNext m.source _, FMap.get_set_self 0 s.chn.ackDue m.source 1, hsignals, hcount,
      only_syncTaken s m⟩

/-! ### MESSAGE_FORWARD, R246 -/

theorem forward_of_route {s : State} {m : ChainMsg} {k : Nat} (hc : s.chn.closed = true) (hd : m.dest ≠ myAddr s)
    (hn : m.dest < chainLen s) (hr : route s m.dest (skips s m.kind m.body) = some k) : forward s m = carried s k m :=
  (if_neg (by simp [hc, hd, hn])).trans (transmit_of_route hd hr)

theorem does_messageForward_route (s : State) (m : ChainMsg) (k : Nat) (h : Up s) (hc : s.chn.closed = true) (hd : m.dest ≠ myAddr s)
    (hn : m.dest < chainLen s) (hr : route s m.dest (skips s m.kind m.body) = some k) :
    Does (.messageForward m) s fun t => t.sent = .message (some k) m :: s.sent ∧ Only [.chn, .sent] [] s t :=
  does_eq rfl (forward_of_route hc hd hn hr) h (only_carried s k m) (by decide) (by decide) ⟨rfl, only_carried s k m⟩

/-- Settles O38: what goes out by the route that carries it, what is acknowledged by the list it leaves, what is received by its place in
the order of its source. -/
theorem messagesAreKeptAndDelivered : Obligations.MessagesAreKeptAndDelivered :=
  ⟨does_ackSend_due, does_acknowledgement, does_messageResend_single,
    fun s _ h hu => does_eq rfl (resendDue_of_none hu) h (Only.rfl' [] [] s) (by decide) (by decide) rfl,
    does_messageDeliver_sync, does_messageDeliver_gap, does_messageDeliver_bad_head, does_messageForward_route⟩

end Sys2Proof.Machine
end

section
/-!
PROOFS. LOSS_REPORT, LOSS_REPORT_TIMEOUT and RE_REDUCE (R270 to R272): when a report waits and when it is heard, what a missing one
raises, and what a re-reduction asks for again.
-/

namespace Sys2Proof.Machine

/-! ### The steps that a loss drops, R271 -/

/-- The first step not yet decided for which no norm message of the lost module is held (R271). -/
def firstDropped (s : State) (l : LossRun) : Option Nat :=
  let holds := fun n => s.trn.norms.any fun r => r.source == l.lost && r.step == n
  if !holds s.trn.cur then some s.trn.cur
  else if s.trn.cur + 1 ≤ getF s F.UPD_STEP_step && !holds (s.trn.cur + 1) then some (s.trn.cur + 1)
  else none

/-- The loss with its steps decided. -/
def lossDecided (s : State) (l : LossRun) : State :=
  { s with chn := { s.chn with loss := some { l with open0 := false, dropped := firstDropped s l } } }

/-- The first dropped step of a job that trains, as the registers show it. -/
def showDropped (s : State) (d : Option Nat) : State :=
  match d with
  | some n => if isTraining s then setF (setF (setF s F.CHN_LOSS_dropped 1) F.CHN_LOSS_step n) F.CHN_SURVIVE_step_dropped 1 else s
  | none => s

theorem only_lossDecided (s : State) (l : LossRun) : Only [.chn] [] s (lossDecided s l) := only_chn s _

theorem only_showDropped (s : State) (d : Option Nat) : Only [] [Off.CHN_LOSS, Off.CHN_SURVIVE] s (showDropped s d) := by
  unfold showDropped
  split
  · split
    · refine Only.trans ?_ ((only_setF _ F.CHN_SURVIVE_step_dropped 1).mono (by simp) (by decide))
      refine Only.trans ?_ ((only_setF _ F.CHN_LOSS_step _).mono (by simp) (by decide))
      exact (only_setF s F.CHN_LOSS_dropped 1).mono (by simp) (by decide)
    · exact Only.rfl' _ _ s
  · exact Only.rfl' _ _ s

/-- The steps stay undecided until every other module of the job has reported. -/
theorem classify_of_loss {s : State} {l : LossRun} (hl : s.chn.loss = some l) :
    classify s = if !l.open0 || !(others s).all l.heard.contains then s else showDropped (lossDecided s l) (firstDropped s l) := by
  unfold classify
  rw [hl]
  rfl

theorem only_classify {s : State} {l : LossRun} (hl : s.chn.loss = some l) :
    Only [.chn] [Off.CHN_LOSS, Off.CHN_SURVIVE] s (classify s) := by
  rw [classify_of_loss hl]
  split
  · exact Only.rfl' _ _ s
  · exact ((only_lossDecided s l).mono (fun _ h => h) (by simp)).trans ((only_showDropped _ _).mono (by simp) (fun _ h => h))

/-- Deciding the steps forgets neither the lost module nor the reports heard. -/
theorem loss_classify {s : State} {l : LossRun} (hl : s.chn.loss = some l) :
    ∃ m, (classify s).chn.loss = some m ∧ m.lost = l.lost ∧ m.heard = l.heard := by
  rw [classify_of_loss hl]
  split
  · exact ⟨l, hl, rfl, rfl⟩
  · have hchn : (showDropped (lossDecided s l) (firstDropped s l)).chn = (lossDecided s l).chn :=
      (only_showDropped _ _).1 .chn (by simp)
    exact ⟨{ l with open0 := false, dropped := firstDropped s l }, by rw [hchn]; rfl, rfl, rfl⟩

/-! ### LOSS_REPORT, R270 -/

/-- A report that waits for the module's own loss boundary. -/
def reportKept (s : State) (reporter lost standIn : Nat) (norms : List (List Byte)) : State :=
  { s with chn := { s.chn with reports := s.chn.reports ++ [(reporter, lost, standIn, norms)] } }

theorem only_reportKept (s : State) (reporter lost standIn : Nat) (norms : List (List Byte)) :
    Only [.chn] [] s (reportKept s reporter lost standIn norms) := only_chn s _

theorem lossReport_of_no_loss {s : State} (reporter lost standIn : Nat) (norms : List (List Byte)) (hl : s.chn.loss = none) :
    lossReport s reporter lost standIn norms = reportKept s reporter lost standIn norms := by
  simp [lossReport, hl, reportKept]

theorem does_lossReport_early (s : State) (r lost st n : Nat) (ns : List (List Byte)) (h : Up s) (hl : s.chn.loss = none) :
    Does (.lossReport r lost st n ns) s fun t => t.chn.reports = s.chn.reports ++ [(r, lost, st, ns)] ∧ Only [.chn] [] s t :=
  have hframe := only_reportKept s r lost st ns
  does_eq rfl (lossReport_of_no_loss r lost st ns hl) h hframe (by decide) (by decide) ⟨rfl, hframe⟩

/-- A report heard: its reporter is noted, and the norm messages that it sent before count no longer in a dropped step. -/
def reportHeard (s : State) (l : LossRun) (reporter : Nat) : State :=
  { s with trn := { s.trn with norms := s.trn.norms.map fun r => if r.source = reporter then { r with stale := true } else r },
           chn := { s.chn with loss := some { l with heard := l.heard ++ [reporter] } } }

theorem only_reportHeard (s : State) (l : LossRun) (reporter : Nat) : Only [.chn, .trn] [] s (reportHeard s l reporter) := by
  have htrn : Only [.chn, .trn] [] s { s with trn := (reportHeard s l reporter).trn } := (only_trn s _).mono (by decide) (by simp)
  exact htrn.trans ((only_chn _ (reportHeard s l reporter).chn).mono (by decide) (fun _ h => h))

/-- A first report of the loss that carries no norm message and names the same stand-in is heard. -/
theorem lossReport_of_agreed {s : State} {l : LossRun} {r : Nat} (hl : s.chn.loss = some l) (hr : r ∉ l.heard) :
    lossReport s r l.lost l.standIn [] = classify (reportHeard s l r) := by
  have hknown : lossReport s r l.lost l.standIn [] = reportIn s r l.lost l.standIn [] := by simp [lossReport, hl]
  rw [hknown]
  simp [reportIn, hl, hr, reportHeard]

theorem does_lossReport_agreed (s : State) (r n : Nat) (l : LossRun) (h : Up s) (hl : s.chn.loss = some l) (hr : r ∉ l.heard) :
    Does (.lossReport r l.lost l.standIn n []) s fun t => (∃ m, t.chn.loss = some m ∧ m.lost = l.lost ∧ r ∈ m.heard) ∧
      Only [.chn, .trn] [Off.CHN_LOSS, Off.CHN_SURVIVE] s t := by
  have hheard : (reportHeard s l r).chn.loss = some { l with heard := l.heard ++ [r] } := rfl
  obtain ⟨m, hm, hlost, hmem⟩ := loss_classify hheard
  have hframe : Only [.chn, .trn] [Off.CHN_LOSS, Off.CHN_SURVIVE] s (classify (reportHeard s l r)) :=
    ((only_reportHeard s l r).mono (fun _ h => h) (by simp)).trans ((only_classify hheard).mono (by decide) (fun _ h => h))
  exact does_eq rfl (lossReport_of_agreed hl hr) h hframe (by decide) (by decide) ⟨⟨m, hm, hlost, by simp [hmem]⟩, hframe⟩

/-! ### LOSS_REPORT_TIMEOUT, R270 -/

theorem reportTimeout_of_missing {s : State} {l : LossRun} (hl : s.chn.loss = some l) (ho : l.open0 = true) (hd : l.at0 + 3907 ≤ slot s) :
    reportTimeout s = reportFault s := by
  simp [reportTimeout, hl, ho, hd]

theorem reportTimeout_of_early {s : State} {l : LossRun} (hl : s.chn.loss = some l) (hd : slot s < l.at0 + 3907) :
    reportTimeout s = s := by
  simp [reportTimeout, hl, Nat.not_le.mpr hd]

/-- A flag that is raised with its event, then a HOLD fault: the event's registers are among those of the entry into HOLD. -/
theorem only_holdFault_flag (s : State) (f : Field) (n code c die unit detail : Nat) (hf : f.off ≠ Off.SAF_LOG_HEAD) :
    Only holdParts (f.off :: (holdRegs ++ logRegs s)) s (holdFault (flag s f n) code c die unit detail) := by
  have hflag : Only holdParts (f.off :: eventRegs) s (flag s f n) := (only_flag s f n).mono (by decide) (fun _ h => h)
  have hlog : Off.SAF_LOG_HEAD ∉ f.off :: eventRegs := List.not_mem_cons_of_ne_of_not_mem hf.symm (by decide)
  have hirq : eventRegs ⊆ holdRegs := by decide
  refine (hflag.holdFault hlog code c die unit detail).mono (fun _ h => h) fun o ho => ?_
  obtain ho | ho := List.mem_append.mp ho
  · exact List.cons_subset_cons _ (List.subset_append_of_subset_left _ hirq) ho
  · exact List.mem_cons_of_mem _ ho

theorem only_reportFault (s : State) : Only holdParts (Off.CHN_SURVIVE :: (holdRegs ++ logRegs s)) s (reportFault s) :=
  only_holdFault_flag s F.CHN_SURVIVE_report_fault 8 0x1E 9 0 0 0 (by decide)

/-- The fault and the entry into HOLD leave report_fault set. -/
theorem hasF_reportFault (s : State) : hasF (reportFault s) F.CHN_SURVIVE_report_fault = true := by
  have hlog : Off.CHN_SURVIVE ∉ logRegs (flag s F.CHN_SURVIVE_report_fault 8) := not_mem_logRegs _ _ (by decide) (.inr (by decide))
  have hkept := getF_holdFault F.CHN_SURVIVE_report_fault _ 0x1E 9 0 0 0 (by decide) hlog
  exact (congrArg (· != 0) hkept).trans (hasF_flag s F.CHN_SURVIVE_report_fault 8 (by decide) (by decide) (by decide))

theorem does_lossReportTimeout_missing (s : State) (l : LossRun) (h : Up s) (hl : s.chn.loss = some l) (ho : l.open0 = true)
    (hd : l.at0 + 3907 ≤ slot s) :
    Does .lossReportTimeout s fun t => Holds 9 t ∧ hasF t F.CHN_SURVIVE_report_fault = true ∧
      Only (.chn :: holdParts) (Off.CHN_SURVIVE :: (holdRegs ++ logRegs s)) s t :=
  have hframe := (only_reportFault s).mono (qs := .chn :: holdParts) (fun _ h => List.mem_cons_of_mem _ h) (fun _ h => h)
  does_eq rfl (reportTimeout_of_missing hl ho hd) h hframe (by decide) (by decide)
    ⟨holds_holdFault _ 0x1E 9 0 0 0 (by decide), hasF_reportFault s, hframe⟩

/-! ### RE_REDUCE, R272 -/

/-- A dropped step asks for its norm message again, and the counts of lost modules for it count no longer. -/
def normAskedAgain (s : State) (n : Nat) : State :=
  { s with trn := { s.trn with normSent := false, counts := s.trn.counts.filter fun c => !(isLost s c.1 && c.2.1 == n) } }

theorem only_normAskedAgain (s : State) (n : Nat) : Only [.trn] [] s (normAskedAgain s n) := only_trn s _

/-- With no reduce launch from before the loss boundary, a re-reduction starts no collective step. -/
theorem reReduce_of_no_reduces {s : State} {p : Plan} {l : LossRun} {m n : Nat} (hp : s.plan = some p) (hl : s.chn.loss = some l)
    (hm : l.dropped = some m) (hn : m ≤ n) (hr : oldReduces s (n - p.header.startStep) l.at0 = []) :
    reReduce s n = normAskedAgain s n := by
  have hchn : { s.chn with loss := some l } = s.chn := by rw [← hl]
  simpa [reReduce, hp, hl, hm, hn, hr, normAskedAgain] using hchn

theorem reReduce_of_no_loss {s : State} (n : Nat) (hl : s.chn.loss = none) : reReduce s n = s := by
  simp [reReduce, hl]

theorem does_reReduce_dropped (s : State) (p : Plan) (l : LossRun) (m n : Nat) (h : Up s) (hp : s.plan = some p)
    (hl : s.chn.loss = some l) (hm : l.dropped = some m) (hn : m ≤ n) (hr : oldReduces s (n - p.header.startStep) l.at0 = []) :
    Does (.reReduce n) s fun t => t.trn.normSent = false ∧ Only [.trn, .chn] [] s t :=
  have hframe := (only_normAskedAgain s n).mono (qs := [.trn, .chn]) (by decide) (fun _ h => h)
  does_eq rfl (reReduce_of_no_reduces hp hl hm hn hr) h hframe (by decide) (by decide) ⟨rfl, hframe⟩

/-- Settles O41: a report by whether the module knows of the loss, the timeout by its slot, a re-reduction by the dropped step. -/
theorem lossReportsDecideTheStep : Obligations.LossReportsDecideTheStep :=
  ⟨does_lossReport_early, does_lossReport_agreed, does_lossReportTimeout_missing,
    fun s _ h hl hd => does_eq rfl (reportTimeout_of_early hl hd) h (Only.rfl' [] [] s) (by decide) (by decide) rfl,
    does_reReduce_dropped,
    fun s n h hl => does_eq rfl (reReduce_of_no_loss n hl) h (Only.rfl' [] [] s) (by decide) (by decide) rfl⟩

end Sys2Proof.Machine
end

section
/-!
PROOFS. SAMPLE_DESCRIPTOR, PRESSURE_WINDOW and COUNT_MESSAGE_SEND (R292, R304, R307): a descriptor by its check and its step, a window by
the samples filed in it, and the local count of a step by whether it is fixed.
-/

namespace Sys2Proof.Machine

/-! ### Payloads that have been read, R291 -/

/-- Showing the payloads that have been read files no sample. -/
theorem filed_showPayloadDone (n : Nat) (s : State) : (showPayloadDone n s).int.filed = s.int.filed := by
  induction n generalizing s with
  | zero => rfl
  | succ n ih =>
    unfold showPayloadDone
    dsimp only
    split
    · exact ih _
    · rfl

theorem only_showPayloadDone (n : Nat) (s : State) : Only [.int] [Off.INT_PAYLOAD_DONE] s (showPayloadDone n s) := by
  induction n generalizing s with
  | zero => exact Only.rfl' _ _ s
  | succ n ih =>
    unfold showPayloadDone
    dsimp only
    split
    · refine Only.trans ?_ (ih _)
      exact ((only_int s _).mono (fun _ h => h) (by simp)).trans ((only_setF _ F.INT_PAYLOAD_DONE_done _).mono (by simp) (by decide))
    · exact Only.rfl' _ _ s

theorem filed_payloadRead (s : State) (num : Nat) : (payloadRead s num).int.filed = s.int.filed := filed_showPayloadDone _ _

theorem only_payloadRead (s : State) (num : Nat) : Only [.int] [Off.INT_PAYLOAD_DONE] s (payloadRead s num) :=
  ((only_int s _).mono (fun _ h => h) (by simp)).trans (only_showPayloadDone _ _)

/-! ### A descriptor discarded, R292 -/

theorem filed_dropDesc (s : State) (num : Nat) : (dropDesc s num).int.filed = s.int.filed := by
  unfold dropDesc
  rw [filed_payloadRead, flag_int, bumpF_int]

theorem only_dropDesc (s : State) (num : Nat) :
    Only (.int :: eventParts) [Off.INT_DESC_DROP, Off.INT_STATUS, Off.INT_PAYLOAD_DONE, Off.HST_IRQ_PENDING] s (dropDesc s num) := by
  unfold dropDesc
  refine Only.trans ?_ ((only_payloadRead _ num).mono (by decide) (by decide))
  exact ((only_bumpF s F.INT_DESC_DROP_count 1).mono (by simp) (by decide)).trans ((only_flag _ _ 9).mono (by decide) (by decide))

theorem hasF_dropped_dropDesc (s : State) (num : Nat) : hasF (dropDesc s num) F.INT_STATUS_desc_dropped = true :=
  (congrArg (· != 0) ((only_payloadRead _ num).field F.INT_STATUS_desc_dropped (by decide))).trans
    (hasF_flag _ F.INT_STATUS_desc_dropped 9 (by decide) (by decide) (by decide))

theorem getF_count_dropDesc (s : State) (num : Nat) :
    getF (dropDesc s num) F.INT_DESC_DROP_count = min (2 ^ 64 - 1) (getF s F.INT_DESC_DROP_count + 1) := by
  unfold dropDesc
  rw [(only_payloadRead _ num).field F.INT_DESC_DROP_count (by decide), (only_flag _ _ 9).field F.INT_DESC_DROP_count (by decide)]
  exact getF_bumpF_same s F.INT_DESC_DROP_count 1 (by decide)

/-! ### SAMPLE_DESCRIPTOR, R292 -/

/-- How far the step of the next descriptor lies ahead of the lowest step not yet decided, modulo 2^32. -/
def stepsAhead (s : State) : Nat := (descStep (nextDesc s) + 2 ^ 32 - s.trn.cur % 2 ^ 32) % 2 ^ 32

/-- The head of the submission ring past the next descriptor. -/
def headPassed (s : State) : State := setF s F.INT_SUB_HEAD_head (getF s F.INT_SUB_HEAD_head + 1)

/-- The next descriptor as a sample of step n, with the cost that its batch gives it. -/
def nextSample (s : State) (b : IntakeBatch) (n : Nat) : Sample :=
  ⟨n, descM (nextDesc s), descSlot (nextDesc s), getF s F.INT_SUB_HEAD_head, nextDesc s, costOf b (nextDesc s), false⟩

/-- The next descriptor filed for its slot of step n. -/
def descFiled (s : State) (b : IntakeBatch) (n : Nat) : State :=
  { headPassed s with int := { s.int with
      filed := s.int.filed ++ [nextSample s b n], window := s.int.window + costOf b (nextDesc s),
      top := FMap.set 0 s.int.top n (max (FMap.get 0 s.int.top n) (descPos (nextDesc s) + 1)) } }

theorem only_headPassed (s : State) : Only [] [Off.INT_SUB_HEAD] s (headPassed s) := only_setF s F.INT_SUB_HEAD_head _

theorem getF_head_headPassed (s : State) : getF (headPassed s) F.INT_SUB_HEAD_head = (getF s F.INT_SUB_HEAD_head + 1) % 2 ^ 32 :=
  getF_setF_same s F.INT_SUB_HEAD_head _ (by decide)

theorem only_descFiled (s : State) (b : IntakeBatch) (n : Nat) : Only [.int] [Off.INT_SUB_HEAD] s (descFiled s b n) :=
  ((only_headPassed s).mono (by simp) (fun _ h => h)).trans ((only_int _ _).mono (fun _ h => h) (by simp))

section
variable {s : State} (hp : s.plan.isSome = true) (hr : getF s F.INT_SUB_HEAD_head ≠ getF s F.INT_SUB_TAIL_tail)
include hp hr

/-- A descriptor whose check fails is discarded. -/
theorem descriptorStep_of_bad (hd : descOk (nextDesc s) = false) :
    descriptorStep s = dropDesc (headPassed s) (getF s F.INT_SUB_HEAD_head) := by
  unfold nextDesc at hd
  simp only [descriptorStep, Option.isNone_eq_false_iff.mpr hp, hr, hd, decide_false, Bool.or_self, Bool.false_eq_true, Bool.not_false,
    if_false, if_true, headPassed]

/-- A descriptor of a step past the next one is left in the ring. -/
theorem descriptorStep_of_ahead (hd : descOk (nextDesc s) = true) (hlo : 2 ≤ stepsAhead s) (hhi : stepsAhead s < 2 ^ 31) :
    descriptorStep s = s := by
  have hpast : ¬2 ^ 31 ≤ stepsAhead s := Nat.not_le.mpr hhi
  unfold stepsAhead nextDesc at hlo hpast
  unfold nextDesc at hd
  simp only [descriptorStep, Option.isNone_eq_false_iff.mpr hp, hr, hd, hlo, hpast, decide_false, Bool.or_self, Bool.false_eq_true,
    Bool.not_true, if_false, if_true]

/-- A descriptor of this step or the next is filed where a batch expects its slot and nothing stands there yet. -/
theorem descriptorStep_of_expected {b : IntakeBatch} {i : Nat} (hd : descOk (nextDesc s) = true) (ha : stepsAhead s = i) (hi : i < 2)
    (hb : batchFor s (descM (nextDesc s)) (descSlot (nextDesc s)) = some b)
    (hf : filedOf s (s.trn.cur + i) (descM (nextDesc s)) (descSlot (nextDesc s)) = none)
    (hdone : doneOf s (s.trn.cur + i) (descM (nextDesc s)) (descSlot (nextDesc s)) = none) :
    descriptorStep s = descFiled s b (s.trn.cur + i) := by
  have hpast : ¬2 ^ 31 ≤ i := by omega
  have hnear : ¬2 ≤ i := Nat.not_le.mpr hi
  unfold stepsAhead nextDesc at ha
  unfold nextDesc at hd hb hf hdone
  simp only [descriptorStep, Option.isNone_eq_false_iff.mpr hp, hr, hd, ha, hpast, hnear, hb, hf, hdone, decide_false,
    Option.isSome_none, Bool.or_self, Bool.false_eq_true, Bool.not_true, if_false]
  rfl

end

theorem does_sampleDescriptor_bad (s : State) (h : Up s) (hp : s.plan.isSome = true)
    (hr : getF s F.INT_SUB_HEAD_head ≠ getF s F.INT_SUB_TAIL_tail) (hd : descOk (nextDesc s) = false) :
    Does .sampleDescriptor s fun t => getF t F.INT_SUB_HEAD_head = (getF s F.INT_SUB_HEAD_head + 1) % 2 ^ 32 ∧
      hasF t F.INT_STATUS_desc_dropped = true ∧ getF t F.INT_DESC_DROP_count = min (2 ^ 64 - 1) (getF s F.INT_DESC_DROP_count + 1) ∧
      t.int.filed = s.int.filed ∧
      Only (.int :: eventParts) [Off.INT_SUB_HEAD, Off.INT_DESC_DROP, Off.INT_STATUS, Off.INT_PAYLOAD_DONE, Off.HST_IRQ_PENDING] s t := by
  have hdrop := only_dropDesc (headPassed s) (getF s F.INT_SUB_HEAD_head)
  have hframe : Only (.int :: eventParts)
      [Off.INT_SUB_HEAD, Off.INT_DESC_DROP, Off.INT_STATUS, Off.INT_PAYLOAD_DONE, Off.HST_IRQ_PENDING] s
      (dropDesc (headPassed s) (getF s F.INT_SUB_HEAD_head)) :=
    ((only_headPassed s).mono (by simp) (by decide)).trans (hdrop.mono (fun _ h => h) (List.subset_cons_self _ _))
  refine does_eq rfl (descriptorStep_of_bad hp hr hd) h hframe (by decide) (by decide) ⟨?_, hasF_dropped_dropDesc _ _, ?_, ?_, hframe⟩
  · exact (hdrop.field F.INT_SUB_HEAD_head (by decide)).trans (getF_head_headPassed s)
  · rw [getF_count_dropDesc, (only_headPassed s).field F.INT_DESC_DROP_count (by decide)]
  · exact filed_dropDesc _ _

theorem does_sampleDescriptor_expected (s : State) (b : IntakeBatch) (i : Nat) (h : Up s) (hp : s.plan.isSome = true)
    (hr : getF s F.INT_SUB_HEAD_head ≠ getF s F.INT_SUB_TAIL_tail) (hd : descOk (nextDesc s) = true) (ha : stepsAhead s = i) (hi : i < 2)
    (hb : batchFor s (descM (nextDesc s)) (descSlot (nextDesc s)) = some b)
    (hf : filedOf s (s.trn.cur + i) (descM (nextDesc s)) (descSlot (nextDesc s)) = none)
    (hdone : doneOf s (s.trn.cur + i) (descM (nextDesc s)) (descSlot (nextDesc s)) = none) :
    Does .sampleDescriptor s fun t => getF t F.INT_SUB_HEAD_head = (getF s F.INT_SUB_HEAD_head + 1) % 2 ^ 32 ∧
      t.int.filed = s.int.filed ++ [nextSample s b (s.trn.cur + i)] ∧
      t.int.window = s.int.window + costOf b (nextDesc s) ∧ Only [.int] [Off.INT_SUB_HEAD] s t :=
  have hframe := only_descFiled s b (s.trn.cur + i)
  does_eq rfl (descriptorStep_of_expected hp hr hd ha hi hb hf hdone) h hframe (by decide) (by decide)
    ⟨getF_head_headPassed s, rfl, rfl, hframe⟩

/-! ### PRESSURE_WINDOW, R307 -/

/-- The sum of the costs of the samples filed and not yet written. -/
def backlogCost (s : State) : Nat := (s.int.filed.filter fun x => !x.done).foldl (fun t x => t + x.cost) 0

theorem only_pressureStep (s : State) : Only [.int] [Off.INT_PRESSURE] s (pressureStep s) := by
  refine Only.trans ?_ ((only_int _ _).mono (fun _ h => h) (by simp))
  refine Only.trans ?_ ((only_setFmax _ F.INT_PRESSURE_backlog_us _).mono (by simp) (by decide))
  exact (only_setFmax s F.INT_PRESSURE_pressure _).mono (by simp) (by decide)

theorem getF_pressure_pressureStep (s : State) :
    getF (pressureStep s) F.INT_PRESSURE_pressure = min (Field.max F.INT_PRESSURE_pressure) (65536 * s.int.window / 320000000) :=
  (getF_setFmax_other _ F.INT_PRESSURE_backlog_us F.INT_PRESSURE_pressure _ (by decide) (by decide)).trans
    (getF_setFmax_same s F.INT_PRESSURE_pressure _ (by decide))

theorem getF_backlog_pressureStep (s : State) :
    getF (pressureStep s) F.INT_PRESSURE_backlog_us = min (Field.max F.INT_PRESSURE_backlog_us) (backlogCost s / 80000) :=
  getF_setFmax_same _ F.INT_PRESSURE_backlog_us _ (by decide)

theorem does_pressureWindow (s : State) (h : Up s) : Does .pressureWindow s fun t =>
    getF t F.INT_PRESSURE_pressure = min (Field.max F.INT_PRESSURE_pressure) (65536 * s.int.window / 320000000) ∧
    getF t F.INT_PRESSURE_backlog_us = min (Field.max F.INT_PRESSURE_backlog_us) (backlogCost s / 80000) ∧
    t.int.window = 0 ∧ Only [.int] [Off.INT_PRESSURE] s t :=
  does_eq rfl rfl h (only_pressureStep s) (by decide) (by decide)
    ⟨getF_pressure_pressureStep s, getF_backlog_pressureStep s, rfl, only_pressureStep s⟩

/-! ### COUNT_MESSAGE_SEND, R304 -/

/-- The local count of step n: the weight of its samples. -/
def localCount (s : State) (n : Nat) : Nat := (s.int.slots.filter fun x => x.step == n).foldl (fun t x => t + x.weight) 0

/-- The local count of the present step as the registers show it, noted as sent. -/
def countShown (s : State) : State :=
  { setFmax (setF s F.INT_COUNT_step s.trn.cur) F.INT_COUNT_count (localCount s s.trn.cur) with
      int := { s.int with sent := s.trn.cur + 1 } }

/-- The local count of the present step also counts in the decision of the module itself. -/
def ownCountKept (s : State) : State := keepCount (countShown s) (myAddr s) s.trn.cur (localCount s s.trn.cur)

theorem only_countShown (s : State) : Only [.int] [Off.INT_COUNT] s (countShown s) := by
  refine Only.trans ?_ ((only_int _ _).mono (fun _ h => h) (by simp))
  refine Only.trans ?_ ((only_setFmax _ F.INT_COUNT_count _).mono (by simp) (by decide))
  exact (only_setF s F.INT_COUNT_step _).mono (by simp) (by decide)

theorem only_ownCountKept (s : State) : Only [.int, .trn] [Off.INT_COUNT] s (ownCountKept s) :=
  ((only_countShown s).mono (by decide) (fun _ h => h)).trans ((only_trn _ _).mono (by decide) (by simp))

theorem getF_step_ownCountKept (s : State) : getF (ownCountKept s) F.INT_COUNT_step = s.trn.cur % 2 ^ 32 :=
  (getF_setFmax_other _ F.INT_COUNT_count F.INT_COUNT_step _ (by decide) (by decide)).trans
    (getF_setF_same s F.INT_COUNT_step _ (by decide))

theorem getF_count_ownCountKept (s : State) :
    getF (ownCountKept s) F.INT_COUNT_count = min (Field.max F.INT_COUNT_count) (localCount s s.trn.cur) :=
  getF_setFmax_same _ F.INT_COUNT_count _ (by decide)

theorem mem_counts_ownCountKept (s : State) : (myAddr s, s.trn.cur, localCount s s.trn.cur) ∈ (ownCountKept s).trn.counts :=
  List.mem_append_right _ (List.mem_singleton_self _)

/-- The other members are those of any state with the same records of the chain, the same address and the same lost modules. -/
theorem Only.others_eq {ps : List Part} {l : List Nat} {s t : State} (h : Only ps l s t) (hc : Part.chn ∉ ps) (ha : Off.CHN_ADDR ∉ l)
    (hl : Off.CHN_LOST ∉ l) : others t = others s := by
  have hchn : t.chn = s.chn := h.1 .chn hc
  have haddr : myAddr t = myAddr s := h.field F.CHN_ADDR_address ha
  have hmember : isMember t = isMember s := by
    funext a
    simp only [isMember, roleEntry, hchn]
  have hlost : isLost t = isLost s := by
    funext a
    simp only [isLost, hchn, h.field F.CHN_LOST_lost hl]
  simp only [others, members, hmember, haddr, hlost]

section
variable {s : State} {p : Plan} (hp : s.plan = some p) (hs : s.int.sent ≤ s.trn.cur)
include hp hs

/-- A local count that is fixed is kept, and goes out to the other members. -/
theorem countSend_of_ready (ht : p.training = true) (hi : p.iterations = 0)
    (hr : countReady s p (s.trn.cur - p.header.startStep) = true) :
    countSend s = postAll (ownCountKept s) 0x18 (others s) fun _ =>
      wordBytes [s.trn.cur % 2 ^ 32 + 2 ^ 32 * myAddr s, localCount s s.trn.cur] := by
  have hcur : max s.int.sent s.trn.cur = s.trn.cur := Nat.max_eq_right hs
  have hnear : nearStep (countShown s) s.trn.cur = some s.trn.cur := if_pos rfl
  have haddr : myAddr (countShown s) = myAddr s := (only_countShown s).field F.CHN_ADDR_address (by decide)
  have hkept : countIn (countShown s) (myAddr (countShown s)) s.trn.cur (localCount s s.trn.cur) = ownCountKept s := by
    rw [haddr]
    exact countIn_near _ _ hnear
  have haddr' : myAddr (ownCountKept s) = myAddr s := (only_ownCountKept s).field F.CHN_ADDR_address (by decide)
  rw [← (only_ownCountKept s).others_eq (by decide) (by decide) (by decide), ← haddr', ← hkept]
  simp only [countSend, hp, hcur, ht, hi, hr, Nat.not_lt.mpr (Nat.le_succ _), ne_eq, not_true_eq_false, decide_false, Bool.not_true,
    Bool.false_and, Bool.or_self, Bool.false_eq_true, if_false]
  rfl

theorem countSend_of_not_ready (hr : countReady s p (s.trn.cur - p.header.startStep) = false) : countSend s = s := by
  simp [countSend, hp, Nat.max_eq_right hs, hr]

end

theorem does_countMessageSend (s : State) (p : Plan) (h : Up s) (hp : s.plan = some p) (ht : p.training = true)
    (hs : s.int.sent ≤ s.trn.cur) (hi : p.iterations = 0) (hr : countReady s p (s.trn.cur - p.header.startStep) = true)
    (ho : others s = []) :
    Does .countMessageSend s fun t => getF t F.INT_COUNT_step = s.trn.cur % 2 ^ 32 ∧ t.int.sent = s.trn.cur + 1 ∧
      getF t F.INT_COUNT_count = min (Field.max F.INT_COUNT_count) (localCount s s.trn.cur) ∧
      (myAddr s, s.trn.cur, localCount s s.trn.cur) ∈ t.trn.counts ∧ Only [.int, .trn] [Off.INT_COUNT] s t :=
  have hend : countSend s = ownCountKept s := by
    rw [countSend_of_ready hp hs ht hi hr, ho]
    rfl
  does_eq rfl hend h (only_ownCountKept s) (by decide) (by decide)
    ⟨getF_step_ownCountKept s, rfl, getF_count_ownCountKept s, mem_counts_ownCountKept s, only_ownCountKept s⟩

/-- Settles O43: a descriptor by the branch of R292 that its check and its step pick, the pressure window by its two fields, the count
message by whether the count is fixed. -/
theorem samplesAreFiledAndCounted : Obligations.SamplesAreFiledAndCounted :=
  ⟨does_sampleDescriptor_bad,
    fun s h hp hr hd hlo hhi =>
      does_eq rfl (descriptorStep_of_ahead hp hr hd hlo hhi) h (Only.rfl' [] [] s) (by decide) (by decide) rfl,
    does_sampleDescriptor_expected, does_pressureWindow, does_countMessageSend,
    fun s _ h hp hs hr => does_eq rfl (countSend_of_not_ready hp hs hr) h (Only.rfl' [] [] s) (by decide) (by decide) rfl⟩

end Sys2Proof.Machine
end

section
/-!
PROOFS. LOAD and END (R321, R337): how a host command shows that it has ended or waits, the ways in which a load ends, and the stages of
the end of a plan.
-/

namespace Sys2Proof.Machine

/-! ### The plan state, Table 12.9 -/

theorem planState_of_code {s : State} {p : PlanState} (h : getF s F.HST_STATUS_plan_state = p.code) : planState s = p := by
  unfold planState
  rw [h]
  cases p <;> rfl

theorem planState_setPlanState (s : State) (p : PlanState) : planState (setPlanState s p) = p := by
  apply planState_of_code
  unfold setPlanState
  split
  · assumption
  · rw [getF_raise_other _ _ _ (by decide), getF_setF_same _ _ _ (by decide)]
    cases p <;> rfl

/-- A change of the plan state leaves stop_in_force, which shares its register. -/
theorem stopInForce_setPlanState (s : State) (p : PlanState) : stopInForce (setPlanState s p) = stopInForce s := by
  unfold setPlanState
  split
  · rfl
  · unfold stopInForce hasF
    rw [getF_raise_other _ _ _ (by decide), getF_setF_other _ _ _ _ (by decide) (by decide)]

theorem Only.planState_eq {ps : List Part} {l : List Nat} {s t : State} (h : Only ps l s t) (hn : Off.HST_STATUS ∉ l) :
    planState t = planState s := by
  unfold planState
  rw [h.field F.HST_STATUS_plan_state hn]

/-! ### What HST_CMD_STATUS shows of a command, R321 and R322 -/

/-- HST_CMD_STATUS shows a command with its tag and its result; a command that waits shows result 0. -/
def CommandShown (code tag result : Nat) (s : State) : Prop :=
  getF s F.HST_CMD_STATUS_tag = tag % 2 ^ 48 ∧ getF s F.HST_CMD_STATUS_command = code ∧ getF s F.HST_CMD_STATUS_result = result

theorem commandShown_of_reg {s : State} {code tag result : Nat} (hc : code < 16) (hr : result < 16)
    (h : getReg s Off.HST_CMD_STATUS = BitVec.ofNat 64 (tag % 2 ^ 48 + 2 ^ 48 * code + 2 ^ 52 * result)) : CommandShown code tag result s := by
  have hfield : ∀ f : Field, f.off = Off.HST_CMD_STATUS →
      getF s f = (tag % 2 ^ 48 + 2 ^ 48 * code + 2 ^ 52 * result) % 2 ^ 64 / 2 ^ f.lo % 2 ^ (f.hi + 1 - f.lo) := fun f hf => by
    rw [getF, hf, h, bits, BitVec.toNat_ofNat]
  refine ⟨(hfield _ rfl).trans ?_, (hfield _ rfl).trans ?_, (hfield _ rfl).trans ?_⟩
  · change _ / 2 ^ 0 % 2 ^ 48 = _
    omega
  · change _ / 2 ^ 48 % 2 ^ 4 = _
    omega
  · change _ / 2 ^ 52 % 2 ^ 4 = _
    omega

theorem Only.commandShown {ps : List Part} {l : List Nat} {s t : State} (h : Only ps l s t) (hn : Off.HST_CMD_STATUS ∉ l)
    {code tag result : Nat} (hs : CommandShown code tag result s) : CommandShown code tag result t := by
  obtain ⟨htag, hcode, hresult⟩ := hs
  exact ⟨(h.field _ hn).trans htag, (h.field _ hn).trans hcode, (h.field _ hn).trans hresult⟩

/-! ### A command that ends -/

theorem only_commandResult (s : State) (code tag result : Nat) :
    Only eventParts [Off.HST_CMD_STATUS, Off.HST_IRQ_PENDING] s (commandResult s code tag result) := by
  unfold commandResult
  refine Only.trans ?_ ((only_raise _ 0).mono (fun _ h => h) (by decide))
  exact ((only_host s _).mono (by decide) (by simp)).trans ((only_setReg _ Off.HST_CMD_STATUS _).mono (by simp) (by simp))

theorem commandShown_commandResult {code result : Nat} (hc : code < 16) (hr : result < 16) (s : State) (tag : Nat) :
    CommandShown code tag result (commandResult s code tag result) := by
  apply commandShown_of_reg hc hr
  unfold commandResult
  rw [getReg_raise_other _ _ _ (by decide), getReg_setReg_self, Nat.mod_eq_of_lt hc]

theorem cmd_commandResult (s : State) (code tag result : Nat) : (commandResult s code tag result).host.cmd = none := cmd_raise _ 0

theorem pends_commandResult (s : State) (code tag result : Nat) : Pends 0 (commandResult s code tag result) := raise_bit _ 0 (by decide)

theorem planState_commandResult (s : State) (code tag result : Nat) : planState (commandResult s code tag result) = planState s :=
  (only_commandResult s code tag result).planState_eq (by decide)

/-! ### A command that waits -/

theorem only_commandPending (s : State) (code tag : Nat) : Only [.host] [Off.HST_CMD_STATUS] s (commandPending s code tag) :=
  ((only_host s _).mono (by simp) (by simp)).trans ((only_setReg _ Off.HST_CMD_STATUS _).mono (by simp) (by simp))

theorem cmd_commandPending (s : State) (code tag : Nat) : (commandPending s code tag).host.cmd = some code := rfl

theorem lch_commandPending (s : State) (code tag : Nat) : (commandPending s code tag).lch = s.lch := rfl

theorem commandShown_commandPending {code : Nat} (hc : code < 16) (s : State) (tag : Nat) :
    CommandShown code tag 0 (commandPending s code tag) :=
  commandShown_of_reg hc (by decide) (getReg_setReg_self _ _ _)

/-! ### A command that its plan state accepts -/

theorem command_of_accepted {s : State} {ok : Bool} (code tag : Nat) (act : State → State) (hc : s.host.cmd = none) (ho : ok = true) :
    command s code tag ok act = act s := by
  simp [command, hc, ho]

theorem only_queue_and_store (s : State) (q : List Instr) (f : OneTime) : Only [.pending, .fuse] [] s { s with pending := q, fuse := f } :=
  only_parts _ _ _ rfl fun p hp => by
    revert hp
    cases p <;> simp [Part.stands]

/-- A command of a module that is up answers its effect, but for the queue and the one-time store. -/
theorem does_but_queue_and_store {c : Instr} {s t u : State} {p : State → Prop} (he : exec c s = settle s t) (hw : t = u) (h : Up s)
    (hp : ∀ v, Only [.pending, .fuse] [] u v → p v) : Does c s p :=
  ⟨_, by rw [he, hw, settle_up s u h], hp _ (only_queue_and_store u _ _)⟩

/-! ### A load that has ended, R319 and R321 -/

theorem only_loadFailed (s : State) (e : PlanFail) (tag : Nat) :
    Only eventParts [Off.HST_STATUS, Off.HST_CMD_STATUS, Off.HST_PLAN_FAIL, Off.HST_IRQ_PENDING] s (loadFailed s e tag) := by
  unfold loadFailed
  refine Only.trans ?_ ((only_commandResult _ 1 tag 3).mono (fun _ h => h) (by decide))
  exact ((only_setReg s Off.HST_PLAN_FAIL _).mono (by simp) (by simp)).trans ((only_setPlanState _ .empty).mono (fun _ h => h) (by decide))

theorem planState_loadFailed (s : State) (e : PlanFail) (tag : Nat) : planState (loadFailed s e tag) = .empty :=
  (planState_commandResult _ 1 tag 3).trans (planState_setPlanState _ _)

theorem commandShown_loadFailed (s : State) (e : PlanFail) (tag : Nat) : CommandShown 1 tag 3 (loadFailed s e tag) :=
  commandShown_commandResult (by decide) (by decide) _ tag

theorem code_loadFailed (s : State) (e : PlanFail) (tag : Nat) : getF (loadFailed s e tag) F.HST_PLAN_FAIL_code = e.code % 16 := by
  unfold loadFailed
  rw [(only_commandResult _ 1 tag 3).field F.HST_PLAN_FAIL_code (by decide), (only_setPlanState _ .empty).field F.HST_PLAN_FAIL_code (by decide),
    getF, bits, show F.HST_PLAN_FAIL_code.off = Off.HST_PLAN_FAIL from rfl, getReg_setReg_self, BitVec.toNat_ofNat]
  change _ / 2 ^ 0 % 2 ^ 4 = _
  omega

/-- A plan that has been placed: LOADED, with no failure shown. -/
def planLoaded (s : State) (tag : Nat) : State := commandResult (setPlanState (setReg s Off.HST_PLAN_FAIL 0) .loaded) 1 tag 1

theorem planState_planLoaded (s : State) (tag : Nat) : planState (planLoaded s tag) = .loaded :=
  (planState_commandResult _ 1 tag 1).trans (planState_setPlanState _ _)

theorem commandShown_planLoaded (s : State) (tag : Nat) : CommandShown 1 tag 1 (planLoaded s tag) :=
  commandShown_commandResult (by decide) (by decide) _ tag

theorem code_planLoaded (s : State) (tag : Nat) : getF (planLoaded s tag) F.HST_PLAN_FAIL_code = 0 := by
  unfold planLoaded
  rw [(only_commandResult _ 1 tag 1).field F.HST_PLAN_FAIL_code (by decide),
    (only_setPlanState _ .loaded).field F.HST_PLAN_FAIL_code (by decide), getF,
    show F.HST_PLAN_FAIL_code.off = Off.HST_PLAN_FAIL from rfl, getReg_setReg_self]
  rfl

/-! ### LOAD, R321 and R337 -/

section
variable {s : State} (tag : Nat)

theorem beginLoad_of_refused (hp : loadPermitted (setPlanState s .loading) = false) :
    beginLoad s tag = loadFailed (setPlanState s .loading) ⟨0xC, 0, 0⟩ tag := by
  simp [beginLoad, hp]

theorem beginLoad_of_early (hp : loadPermitted (setPlanState s .loading) = true) (hr : loadReady (setPlanState s .loading) = false) :
    beginLoad s tag = commandPending (setPlanState s .loading) 1 tag := by
  simp [beginLoad, hp, hr]

theorem beginLoad_of_ready (hp : loadPermitted (setPlanState s .loading) = true) (hr : loadReady (setPlanState s .loading) = true) :
    beginLoad s tag = loadNow (setPlanState s .loading) tag := by
  simp [beginLoad, hp, hr]

theorem loadNow_of_ok {u : State} (h : loadImage s = .ok u) : loadNow s tag = planLoaded u tag := by
  unfold loadNow
  rw [h]
  rfl

theorem loadNow_of_error {e : PlanFail × State} (h : loadImage s = .error e) : loadNow s tag = loadFailed e.2 e.1 tag := by
  unfold loadNow
  rw [h]

variable (s)

theorem only_refusedLoad : Only eventParts [Off.HST_STATUS, Off.HST_CMD_STATUS, Off.HST_PLAN_FAIL, Off.HST_IRQ_PENDING] s
    (loadFailed (setPlanState s .loading) ⟨0xC, 0, 0⟩ tag) :=
  ((only_setPlanState s .loading).mono (fun _ h => h) (by decide)).trans (only_loadFailed _ _ tag)

theorem only_earlyLoad : Only eventParts [Off.HST_STATUS, Off.HST_CMD_STATUS, Off.HST_IRQ_PENDING] s
    (commandPending (setPlanState s .loading) 1 tag) :=
  ((only_setPlanState s .loading).mono (fun _ h => h) (by decide)).trans ((only_commandPending _ 1 tag).mono (by decide) (by decide))

theorem planState_earlyLoad : planState (commandPending (setPlanState s .loading) 1 tag) = .loading :=
  ((only_commandPending _ 1 tag).planState_eq (by decide)).trans (planState_setPlanState s .loading)

end

section
variable {s : State} {tag : Nat} (h : HostUp s) (hc : s.host.cmd = none) (he : planState s = .empty)
include h hc he

/-- LOAD in EMPTY with no command pending comes down to the load itself. -/
theorem execLoad_of_empty : execLoad tag s = settle s (beginLoad s tag) := by
  rw [execLoad, hostStep, if_pos h.2, command_of_accepted 1 tag _ hc (beq_iff_eq.mpr he)]

theorem does_load_refused (hp : loadPermitted (setPlanState s .loading) = false) :
    Does (.load tag) s fun t => CommandShown 1 tag 3 t ∧ planState t = .empty ∧ getF t F.HST_PLAN_FAIL_code = 0xC ∧ t.host.cmd = none ∧
      Pends 0 t ∧ Only eventParts [Off.HST_STATUS, Off.HST_CMD_STATUS, Off.HST_PLAN_FAIL, Off.HST_IRQ_PENDING] s t :=
  have hframe := only_refusedLoad s tag
  does_eq (execLoad_of_empty h hc he) (beginLoad_of_refused tag hp) h.1 hframe (by decide) (by decide)
    ⟨commandShown_loadFailed _ _ tag, planState_loadFailed _ _ tag, code_loadFailed _ _ tag, cmd_commandResult _ _ _ _,
      pends_commandResult _ _ _ _, hframe⟩

theorem does_load_early (hp : loadPermitted (setPlanState s .loading) = true) (hr : loadReady (setPlanState s .loading) = false) :
    Does (.load tag) s fun t => CommandShown 1 tag 0 t ∧ planState t = .loading ∧ t.host.cmd = some 1 ∧
      Only eventParts [Off.HST_STATUS, Off.HST_CMD_STATUS, Off.HST_IRQ_PENDING] s t :=
  have hframe := only_earlyLoad s tag
  does_eq (execLoad_of_empty h hc he) (beginLoad_of_early tag hp hr) h.1 hframe (by decide) (by decide)
    ⟨commandShown_commandPending (by decide) _ tag, planState_earlyLoad s tag, cmd_commandPending _ 1 tag, hframe⟩

section
variable (hp : loadPermitted (setPlanState s .loading) = true) (hr : loadReady (setPlanState s .loading) = true)
include hp hr

theorem does_load_placed {u : State} (hl : loadImage (setPlanState s .loading) = .ok u) :
    Does (.load tag) s fun t => CommandShown 1 tag 1 t ∧ planState t = .loaded ∧ getF t F.HST_PLAN_FAIL_code = 0 ∧ t.host.cmd = none :=
  does_but_queue_and_store (execLoad_of_empty h hc he) ((beginLoad_of_ready tag hp hr).trans (loadNow_of_ok tag hl)) h.1
    fun _ hv => ⟨hv.commandShown (by decide) (commandShown_planLoaded u tag), (hv.planState_eq (by decide)).trans (planState_planLoaded u tag),
      (hv.field _ (by decide)).trans (code_planLoaded u tag), (congrArg HostState.cmd (hv.1 .host (by decide))).trans (cmd_commandResult _ _ _ _)⟩

theorem does_load_failed {e : PlanFail × State} (hl : loadImage (setPlanState s .loading) = .error e) :
    Does (.load tag) s fun t => CommandShown 1 tag 3 t ∧ planState t = .empty ∧ getF t F.HST_PLAN_FAIL_code = e.1.code % 16 ∧
      t.host.cmd = none :=
  does_but_queue_and_store (execLoad_of_empty h hc he) ((beginLoad_of_ready tag hp hr).trans (loadNow_of_error tag hl)) h.1
    fun _ hv => ⟨hv.commandShown (by decide) (commandShown_loadFailed e.2 e.1 tag),
      (hv.planState_eq (by decide)).trans (planState_loadFailed e.2 e.1 tag), (hv.field _ (by decide)).trans (code_loadFailed e.2 e.1 tag),
      (congrArg HostState.cmd (hv.1 .host (by decide))).trans (cmd_commandResult _ _ _ _)⟩

end

end

/-! ### Parts that stand, whatever the registers -/

/-- Every part of the state stands but those listed. -/
def PartsBut (ps : List Part) (s t : State) : Prop := ∀ p, p ∉ ps → p.stands s t

theorem PartsBut.trans {ps : List Part} {s t u : State} (h : PartsBut ps s t) (g : PartsBut ps t u) : PartsBut ps s u :=
  fun p hp => Part.stands_trans (h p hp) (g p hp)

theorem Only.partsBut {ps qs : List Part} {l : List Nat} {s t : State} (h : Only ps l s t) (hs : ∀ p ∈ ps, p ∈ qs) : PartsBut qs s t :=
  fun p hp => h.1 p fun hm => hp (hs p hm)

/-! ### END: the requests, the tables and the plan go, R321 -/

theorem only_writeResult (s : State) (k kind status : Nat) (id : Word) (payload : List Byte) :
    Only ([.mem, .flash] ++ eventParts) [Off.HST_RESULT_SEQ, Off.HST_RESULT_READY (k / 64), Off.HST_IRQ_PENDING] s
      (writeResult s k kind status id payload) := by
  unfold writeResult
  refine Only.trans ?_ ((only_raise _ 1).mono (by decide) (by simp [eventRegs]))
  refine Only.trans ?_ ((only_setReg _ (Off.HST_RESULT_READY (k / 64)) _).mono (by simp) (by simp))
  refine Only.trans ?_ ((only_setF _ F.HST_RESULT_SEQ_next _).mono (by simp) (by simp [F.HST_RESULT_SEQ_next]))
  exact (only_wr s _ _).mono (by decide) (by simp)

theorem only_clearBytes (s : State) (a n : Nat) : Only [.mem, .flash] [] s (clearBytes s a n) := by
  unfold clearBytes
  dsimp only
  split
  · exact (only_flash s _).mono (by decide) (by simp)
  · exact (only_mem s _).mono (by decide) (by simp)

/-- The parts that the end of a plan changes. -/
def endParts : List Part := [.mem, .flash, .plan, .lch, .arr, .host, .chn, .trn, .maint, .int, .sent]

theorem partsBut_cancelRequests (s : State) : PartsBut endParts s (cancelRequests s) := by
  unfold cancelRequests
  refine List.foldlRecOn (motive := fun t => PartsBut endParts s t) _ _ ((only_arr s _).partsBut (by decide)) fun t ht r _ => ?_
  exact ht.trans ((only_writeResult t _ _ _ _ _).partsBut (by decide))

/-- The requests cancelled and both copies of the frond table cleared. -/
def tablesCleared (s : State) : State :=
  clearBytes (clearBytes (cancelRequests s) (ftPrimary (cancelRequests s) 0) (16 * ftCount (cancelRequests s)))
    (ftMirror (cancelRequests s) 0) (16 * ftCount (cancelRequests s))

/-- Everything that a load placed is gone. -/
def planDropped (s : State) : State :=
  let l := s.lch
  { s with plan := none,
           lch := { LchState.init with skipped := l.skipped, flags := l.flags, signals := l.signals, clearReq := l.clearReq,
                                       numClear := l.numClear, refFault := l.refFault, holdEnd := l.holdEnd, seals := l.seals },
           arr := { s.arr with banks := [], restarts := [], arrays := s.arr.arrays.map fun a =>
             (a.1, { a.2 with feeding := none, step := 0, drains := [], rerun := [], ready := [] }) },
           chn := { s.chn with colls := [], perm := none, reqs := [] },
           trn := { TrnState.init with fencedUpd := s.trn.fencedUpd },
           int := IntState.init,
           host := { s.host with reports := [], planHash := [] } }

theorem partsBut_tablesCleared (s : State) : PartsBut endParts s (tablesCleared s) :=
  (partsBut_cancelRequests s).trans <| ((only_clearBytes _ _ _).partsBut (by decide)).trans ((only_clearBytes _ _ _).partsBut (by decide))

theorem partsBut_planDropped (s : State) : PartsBut endParts s (planDropped s) := by
  intro p hp
  revert hp
  cases p <;> simp [endParts, Part.stands, planDropped]

/-! ### HOLD causes cleared, R387 -/

/-- Taking away the bits that a number shares with a mask clears every bit of the mask. -/
theorem testBit_sub_and {m i : Nat} (p : Nat) (h : m.testBit i = true) : (p - (p &&& m)).testBit i = false := by
  have hle : p &&& m ≤ p := Nat.and_le_left
  induction i generalizing p m with
  | zero =>
    have hbit : (p &&& m) % 2 = p % 2 := by
      have hm : m % 2 = 1 := by simpa using h
      simpa [hm] using Nat.and_mod_two_pow (a := p) (b := m) (n := 1)
    simp only [Nat.testBit_zero, decide_eq_false_iff_not]
    omega
  | succ i ih =>
    have hhalf : (p - (p &&& m)) / 2 = p / 2 - (p / 2 &&& m / 2) := by
      have hdiv : (p &&& m) / 2 = p / 2 &&& m / 2 := Nat.and_div_two
      have hpar : (p &&& m) % 2 ≤ p % 2 := by
        have hmod : (p &&& m) % 2 = p % 2 &&& m % 2 := Nat.and_mod_two_pow (n := 1)
        rw [hmod]
        exact Nat.and_le_left
      omega
    rw [Nat.testBit_succ, hhalf]
    exact ih (p / 2) (by rwa [Nat.testBit_succ] at h) Nat.and_le_left

theorem only_clearCauses (s : State) (mask : Nat) : Only [.lch] [Off.SAF_HOLD] s (clearCauses s mask) := by
  unfold clearCauses
  dsimp only
  split
  · exact Only.rfl' _ _ s
  · have hcleared := fun v => (only_setF s F.SAF_HOLD_pending v).mono (qs := [Part.lch]) (m := [Off.SAF_HOLD]) (by simp) (by decide)
    split
    · exact (hcleared _).trans (((only_setF _ F.SAF_HOLD_first 0).mono (by simp) (by decide)).trans
        ((only_lch _ _).mono (fun _ h => h) (by simp)))
    · exact hcleared _

theorem pending_clearCauses (s : State) (mask : Nat) :
    getF (clearCauses s mask) F.SAF_HOLD_pending =
      (getF s F.SAF_HOLD_pending - (getF s F.SAF_HOLD_pending &&& mask)) % 2 ^ 14 := by
  have hset := fun v => getF_setF_same s F.SAF_HOLD_pending v (by decide)
  unfold clearCauses
  dsimp only
  split
  · next h => simp [h]
  · split
    · exact (getF_setF_other _ F.SAF_HOLD_first F.SAF_HOLD_pending 0 (by decide) (by decide)).trans (hset _)
    · exact hset _

theorem not_holds_clearCauses (s : State) {mask c : Nat} (h : mask.testBit c = true) : ¬Holds c (clearCauses s mask) := by
  unfold Holds
  rw [pending_clearCauses, Nat.testBit_mod_two_pow, testBit_sub_and _ h]
  simp

/-! ### END, R321 -/

/-- The plan gone, with no stop in force and in EMPTY. -/
def planEmptied (s : State) : State :=
  setPlanState (setF (endActivity (planDropped (tablesCleared s)) ⟨5, 0, 0⟩) F.HST_STATUS_stop_in_force 0) .empty

theorem finishEnd_eq (s : State) :
    finishEnd s = commandResult (clearCauses (planEmptied s) 0x60) 5 (getF s F.HST_CMD_STATUS_tag) 1 := rfl

theorem partsBut_planEmptied (s : State) : PartsBut endParts s (planEmptied s) :=
  (partsBut_tablesCleared s).trans <| (partsBut_planDropped _).trans <| ((only_endActivity _ _).partsBut (by decide)).trans <|
    ((only_setF _ _ 0).partsBut (by simp)).trans ((only_setPlanState _ _).partsBut (by decide))

theorem partsBut_finishEnd (s : State) : PartsBut endParts s (finishEnd s) :=
  (partsBut_planEmptied s).trans <| ((only_clearCauses _ _).partsBut (by decide)).trans ((only_commandResult _ _ _ _).partsBut (by decide))

/-- The causes that END clears and the result that it shows leave the plan as it is. -/
theorem only_finishEnd_of_emptied (s : State) :
    Only (.lch :: eventParts) [Off.SAF_HOLD, Off.HST_CMD_STATUS, Off.HST_IRQ_PENDING] (planEmptied s) (finishEnd s) :=
  ((only_clearCauses _ _).mono (by simp) (by simp)).trans ((only_commandResult _ _ _ _).mono (by decide) (by simp))

theorem plan_finishEnd (s : State) : (finishEnd s).plan = none :=
  ((only_finishEnd_of_emptied s).1 .plan (by decide)).trans (setPlanState_plan _ _)

theorem planState_finishEnd (s : State) : planState (finishEnd s) = .empty :=
  ((only_finishEnd_of_emptied s).planState_eq (by decide)).trans (planState_setPlanState _ _)

theorem stopInForce_finishEnd (s : State) : stopInForce (finishEnd s) = false := by
  have hcleared : stopInForce (planEmptied s) = false := by
    unfold planEmptied
    rw [stopInForce_setPlanState, stopInForce, hasF, getF_setF_same _ _ _ (by decide)]
    rfl
  exact ((only_finishEnd_of_emptied s).hasF_eq F.HST_STATUS_stop_in_force (by decide)).trans hcleared

theorem not_holds_finishEnd (s : State) {c : Nat} (h : Nat.testBit 0x60 c = true) : ¬Holds c (finishEnd s) := by
  unfold Holds
  rw [finishEnd_eq, (only_commandResult _ _ _ _).field F.SAF_HOLD_pending (by decide)]
  exact not_holds_clearCauses _ h

theorem stepsInFlight_congr {s t : State} (h : t.lch = s.lch) : stepsInFlight t = stepsInFlight s := by unfold stepsInFlight; rw [h]

theorem endIfIdle_of_idle {s : State} (hc : s.host.cmd = some 5) (hf : stepsInFlight s = false) : endIfIdle s = finishEnd s :=
  if_pos ⟨hc, hf⟩

theorem endIfIdle_of_busy {s : State} (hf : stepsInFlight s = true) : endIfIdle s = s := by simp [endIfIdle, hf]

section
variable {s : State} {tag : Nat} (h : HostUp s) (hc : s.host.cmd = none) (hs : planState s ∈ [.loaded, .stopped, .held, .ended])
include h hc hs

/-- END where the plan state accepts it, with no command pending, comes down to the end of the plan. -/
theorem execEndPlan_of_accepted : execEndPlan tag s = settle s (endPlan s tag) := by
  rw [execEndPlan, hostStep, if_pos h.2, command_of_accepted 5 tag _ hc]
  simp only [List.mem_cons, List.not_mem_nil, or_false] at hs
  obtain he | he | he | he := hs <;> rw [he]

theorem does_endPlan_idle (hf : stepsInFlight s = false) :
    Does (.endPlan tag) s fun t => t.plan = none ∧ planState t = .empty ∧ stopInForce t = false ∧ CommandShown 5 tag 1 t ∧ ¬Holds 5 t ∧
      ¬Holds 6 t ∧ t.host.cmd = none ∧ PartsBut endParts s t := by
  have hend : endPlan s tag = finishEnd (commandPending s 5 tag) :=
    endIfIdle_of_idle (cmd_commandPending s 5 tag) ((stepsInFlight_congr (lch_commandPending s 5 tag)).trans hf)
  have hparts : PartsBut endParts s (finishEnd (commandPending s 5 tag)) :=
    ((only_commandPending s 5 tag).partsBut (by decide)).trans (partsBut_finishEnd _)
  obtain ⟨htag, -, -⟩ := commandShown_commandPending (code := 5) (by decide) s tag
  have hshown : CommandShown 5 tag 1 (finishEnd (commandPending s 5 tag)) := by
    rw [finishEnd_eq, htag]
    obtain ⟨hendTag, hcode, hresult⟩ := commandShown_commandResult (code := 5) (result := 1) (by decide) (by decide)
      (clearCauses (planEmptied (commandPending s 5 tag)) 0x60) (tag % 2 ^ 48)
    exact ⟨hendTag.trans (Nat.mod_mod _ _), hcode, hresult⟩
  exact does_settle ((execEndPlan_of_accepted h hc hs).trans (congrArg (settle s) hend)) h.1 (hparts .pending (by decide))
    (hparts .fuse (by decide))
    ⟨plan_finishEnd _, planState_finishEnd _, stopInForce_finishEnd _, hshown, not_holds_finishEnd _ (by decide),
      not_holds_finishEnd _ (by decide), cmd_commandResult _ _ _ _, hparts⟩

theorem does_endPlan_waits (hf : stepsInFlight s = true) :
    Does (.endPlan tag) s fun t => CommandShown 5 tag 0 t ∧ t.host.cmd = some 5 ∧ Only [.host] [Off.HST_CMD_STATUS] s t := by
  have hwaits : endPlan s tag = commandPending s 5 tag :=
    endIfIdle_of_busy ((stepsInFlight_congr (lch_commandPending s 5 tag)).trans hf)
  have hframe := only_commandPending s 5 tag
  exact does_eq (execEndPlan_of_accepted h hc hs) hwaits h.1 hframe (by decide) (by decide)
    ⟨commandShown_commandPending (by decide) s tag, cmd_commandPending s 5 tag, hframe⟩

end

/-- Settles O7: LOAD by the permission, the readiness and the load itself, END by the stages in which a plan goes or by the wait. -/
theorem plansAreLoadedAndRemoved : Obligations.PlansAreLoadedAndRemoved := by
  refine ⟨fun s tag h hc he => ?_, fun s tag h hc hs hf => ?_, fun s tag h hc hs hf => ?_⟩
  · intro v
    cases hp : loadPermitted v with
    | false =>
      obtain ⟨t, ht, ⟨htag, hcode, hresult⟩, hplan, hfail, hcmd, hpends, hframe⟩ := does_load_refused (tag := tag) h hc he hp
      exact ⟨t, ht, htag, hcode, fun _ => ⟨hplan, hresult, hfail, hcmd, hpends, hframe⟩, by simp, by simp, by simp⟩
    | true =>
      cases hr : loadReady v with
      | false =>
        obtain ⟨t, ht, ⟨htag, hcode, hresult⟩, hplan, hcmd, hframe⟩ := does_load_early (tag := tag) h hc he hp hr
        exact ⟨t, ht, htag, hcode, by simp, fun _ _ => ⟨hplan, hresult, hcmd, hframe⟩, by simp, by simp⟩
      | true =>
        cases hl : loadImage v with
        | ok u =>
          obtain ⟨t, ht, ⟨htag, hcode, hresult⟩, hplan, hfail, hcmd⟩ := does_load_placed (tag := tag) h hc he hp hr hl
          exact ⟨t, ht, htag, hcode, by simp, by simp, fun _ _ _ _ => ⟨hplan, hresult, hfail, hcmd⟩, by simp⟩
        | error e =>
          obtain ⟨t, ht, ⟨htag, hcode, hresult⟩, hplan, hfail, hcmd⟩ := does_load_failed (tag := tag) h hc he hp hr hl
          refine ⟨t, ht, htag, hcode, by simp, by simp, by simp, fun _ _ d hd => ?_⟩
          cases hd
          exact ⟨hplan, hresult, hfail, hcmd⟩
  · obtain ⟨t, ht, hplan, hstate, hstop, ⟨htag, hcode, hresult⟩, h5, h6, hcmd, hparts⟩ := does_endPlan_idle (tag := tag) h hc hs hf
    exact ⟨t, ht, hplan, hstate, hstop, hresult, hcode, htag, h5, h6, hcmd, hparts⟩
  · obtain ⟨t, ht, ⟨-, hcode, hresult⟩, hcmd, hframe⟩ := does_endPlan_waits (tag := tag) h hc hs hf
    exact ⟨t, ht, hcmd, hresult, hcode, hframe⟩

end Sys2Proof.Machine
end

section
/-!
PROOFS. REQUEST_DESCRIPTOR, ROW_ACCEPTED and BATCH_LAUNCH (R101, R102, R325): a descriptor by its check, a row that takes its place among
those that wait, and a batch by whether it is due.
-/

namespace Sys2Proof.Machine

/-! ### A batch queue, read after a write -/

@[simp] theorem queueOf_setQueue_self (s : State) (q : Nat) (r : QueueRun) : queueOf (setQueue s q r) q = r :=
  FMap.get_set_self QueueRun.empty s.arr.queues q r

theorem queueOf_setQueue_other (s : State) {q p : Nat} (r : QueueRun) (h : p ≠ q) : queueOf (setQueue s q r) p = queueOf s p :=
  FMap.get_set_other QueueRun.empty s.arr.queues r h

theorem queueOf_congr {s t : State} (h : t.arr = s.arr) (q : Nat) : queueOf t q = queueOf s q := by unfold queueOf; rw [h]

/-! ### The head of a request ring, R324 -/

theorem only_nextRequest (s : State) (q : Nat) : Only [] [Off.HST_REQ_HEAD q] s (nextRequest s q) := only_setF s (F.HST_REQ_HEAD_head q) _

theorem head_nextRequest (s : State) (q : Nat) :
    getF (nextRequest s q) (F.HST_REQ_HEAD_head q) = (getF s (F.HST_REQ_HEAD_head q) + 1) % 2 ^ 32 :=
  getF_setF_same s (F.HST_REQ_HEAD_head q) _ (show 31 < 64 by decide)

/-- The heads of the request rings lie past the counters and status registers of the host block. -/
theorem reqHead_ne {o : Nat} (q : Nat) (h : o < 0x400) : Off.HST_REQ_HEAD q ≠ o := by
  unfold Off.HST_REQ_HEAD
  omega

/-! ### The descriptor at the head of a request ring, Table 12.10 and R325 -/

/-- The descriptor at the head of a request ring. -/
def requestDesc (s : State) (q : Nat) (b : BatchQueue) : List Byte :=
  rd s (b.ringBase + 64 * (getF s (F.HST_REQ_HEAD_head q) % 2 ^ b.ringSize)) 64

/-- The row that a descriptor names. -/
def rowOf (d : List Byte) : Nat := 256 * bits (wordAt d 1) 39 0

/-- The three conditions on which a descriptor waits: a free entry, room in the queue and a free result slot. -/
structure ConditionsMet (s : State) (b : BatchQueue) (d : List Byte) (e : Nat) : Prop where
  entry : freeEntry s b = some e
  room : (queueOf s b.q).rows.length + (queueOf s b.q).copying.length < 256
  slot : slotFree s (bits (wordAt d 2) 10 0) = true

/-- The row lies where it may, has the length of the queue's rows and passes its check. -/
structure RowSound (s : State) (b : BatchQueue) (d : List Byte) : Prop where
  inTier : inStackTier (rowOf d) b.rowBytes = true
  clear : touchesResults (rowOf d) b.rowBytes = false
  length : bits (wordAt d 3) 31 0 = b.rowBytes
  check : (crc32c (rd s (rowOf d) b.rowBytes)).toNat = bits (wordAt d 3) 63 32

/-! ### A descriptor whose check fails, R325 -/

/-- A descriptor passed over and counted. -/
def requestDropped (s : State) (q : Nat) : State :=
  hostErr (bumpF (nextRequest s q) F.HST_REQ_DROP_count 1) F.HST_ERR_STATUS_req_dropped

theorem only_requestDropped (s : State) (q : Nat) :
    Only eventParts [Off.HST_REQ_HEAD q, Off.HST_REQ_DROP, Off.HST_ERR_STATUS, Off.HST_IRQ_PENDING] s (requestDropped s q) := by
  refine ((only_nextRequest s q).mono (by simp) (by simp)).trans (Only.trans ?_ ((only_hostErr _ _).mono (fun _ h => h) ?_))
  · exact (only_bumpF _ F.HST_REQ_DROP_count 1).mono (by simp) (by simp [F.HST_REQ_DROP_count])
  · simp [eventRegs, F.HST_ERR_STATUS_req_dropped]

theorem head_requestDropped (s : State) (q : Nat) :
    getF (requestDropped s q) (F.HST_REQ_HEAD_head q) = (getF s (F.HST_REQ_HEAD_head q) + 1) % 2 ^ 32 := by
  have herr := reqHead_ne q (show Off.HST_ERR_STATUS < 0x400 by decide)
  have hirq := reqHead_ne q (show Off.HST_IRQ_PENDING < 0x400 by decide)
  have hdrop := reqHead_ne q (show Off.HST_REQ_DROP < 0x400 by decide)
  unfold requestDropped
  rw [(only_hostErr _ _).field (F.HST_REQ_HEAD_head q) (by simp [eventRegs, F.HST_REQ_HEAD_head, F.HST_ERR_STATUS_req_dropped, herr, hirq]),
    (only_bumpF _ _ 1).field (F.HST_REQ_HEAD_head q) (by simp [F.HST_REQ_HEAD_head, F.HST_REQ_DROP_count, hdrop]), head_nextRequest]

theorem count_requestDropped (s : State) (q : Nat) :
    getF (requestDropped s q) F.HST_REQ_DROP_count = min (Field.max F.HST_REQ_DROP_count) (getF s F.HST_REQ_DROP_count + 1) := by
  have hhead := reqHead_ne q (show Off.HST_REQ_DROP < 0x400 by decide)
  unfold requestDropped
  rw [(only_hostErr _ _).field F.HST_REQ_DROP_count (by decide), getF_bumpF_same _ _ _ (by decide),
    (only_nextRequest s q).field F.HST_REQ_DROP_count (by simpa [F.HST_REQ_DROP_count] using hhead.symm)]

theorem requestStep_of_bad {s : State} {q : Nat} {b : BatchQueue} (hq : queueDesc s q = some b) (hr : readsRequests s = true)
    (hne : getF s (F.HST_REQ_HEAD_head q) ≠ getF s (F.HST_REQ_HEAD_tail q))
    (hd : (crc32c ((requestDesc s q b).take 56)).toNat ≠ bits (wordAt (requestDesc s q b) 7) 31 0) :
    requestStep s q = requestDropped s q := by
  unfold requestDesc at hd
  simp only [requestStep, hq, hr, Bool.not_true, beq_eq_false_iff_ne.mpr hne, Bool.or_self, Bool.false_eq_true, if_false,
    bne_iff_ne.mpr hd, if_true]
  rfl

theorem requestStep_of_not_reading {s : State} (q : Nat) (hr : readsRequests s = false) : requestStep s q = s := by
  unfold requestStep
  split
  · rfl
  · simp [hr]

theorem does_requestDescriptor_bad (s : State) (q : Nat) (b : BatchQueue) (h : Up s) (hq : queueDesc s q = some b)
    (hr : readsRequests s = true) (hne : getF s (F.HST_REQ_HEAD_head q) ≠ getF s (F.HST_REQ_HEAD_tail q))
    (hd : (crc32c ((requestDesc s q b).take 56)).toNat ≠ bits (wordAt (requestDesc s q b) 7) 31 0) :
    Does (.requestDescriptor q) s fun t => getF t (F.HST_REQ_HEAD_head q) = (getF s (F.HST_REQ_HEAD_head q) + 1) % 2 ^ 32 ∧
      getF t F.HST_REQ_DROP_count = min (Field.max F.HST_REQ_DROP_count) (getF s F.HST_REQ_DROP_count + 1) ∧
      hasF t F.HST_ERR_STATUS_req_dropped = true ∧ Pends 3 t ∧
      Only eventParts [Off.HST_REQ_HEAD q, Off.HST_REQ_DROP, Off.HST_ERR_STATUS, Off.HST_IRQ_PENDING] s t :=
  have hframe := only_requestDropped s q
  does_eq rfl (requestStep_of_bad hq hr hne hd) h hframe (by decide) (by decide)
    ⟨head_requestDropped s q, count_requestDropped s q, hasF_flag _ _ 3 (by decide) (by decide) (by decide), flag_bit _ _ 3 (by decide), hframe⟩

/-! ### The copy of a row begins, R325 -/

/-- The row of a descriptor copied into entry e of its queue, and its request noted. -/
def rowCopied (s : State) (b : BatchQueue) (d : List Byte) (e : Nat) : State :=
  setQueue (wr (nextRequest s b.q) (b.queueArea + e * b.rowBytes) (rd s (rowOf d) b.rowBytes)) b.q
    { queueOf s b.q with copying := (queueOf s b.q).copying ++ [⟨e, wordAt d 0, bits (wordAt d 2) 10 0, 0⟩] }

theorem only_rowCopied (s : State) (b : BatchQueue) (d : List Byte) (e : Nat) :
    Only [.arr, .mem, .flash] [Off.HST_REQ_HEAD b.q] s (rowCopied s b d e) :=
  ((only_nextRequest s b.q).mono (by simp) (fun _ h => h)).trans <|
    ((only_wr _ _ _).mono (by decide) (by simp)).trans ((only_setQueue _ _ _).mono (by decide) (by simp))

theorem head_rowCopied (s : State) (b : BatchQueue) (d : List Byte) (e : Nat) :
    getF (rowCopied s b d e) (F.HST_REQ_HEAD_head b.q) = (getF s (F.HST_REQ_HEAD_head b.q) + 1) % 2 ^ 32 :=
  ((only_setQueue _ _ _).field _ (by simp)).trans ((getF_wr _ _ _ _).trans (head_nextRequest s b.q))

theorem copying_rowCopied (s : State) (b : BatchQueue) (d : List Byte) (e : Nat) :
    (queueOf (rowCopied s b d e) b.q).copying = (queueOf s b.q).copying ++ [⟨e, wordAt d 0, bits (wordAt d 2) 10 0, 0⟩] := by
  rw [rowCopied, queueOf_setQueue_self]

theorem rd_rowCopied (s : State) (b : BatchQueue) (d : List Byte) (e : Nat) :
    rd (rowCopied s b d e) (b.queueArea + e * b.rowBytes) b.rowBytes = rd s (rowOf d) b.rowBytes := by
  have hwritten := rd_wr_same (nextRequest s b.q) (b.queueArea + e * b.rowBytes) (rd s (rowOf d) b.rowBytes)
  rwa [length_rd] at hwritten

theorem bytesBut_rowCopied (s : State) (b : BatchQueue) (d : List Byte) (e : Nat) :
    BytesBut [(b.queueArea + e * b.rowBytes, b.rowBytes)] s (rowCopied s b d e) :=
  ((only_nextRequest s b.q).bytesBut (by simp) (by simp) _).trans <|
    (bytesBut_wr _ (le_refl _) (by rw [length_rd])).trans ((only_setQueue _ _ _).bytesBut (by decide) (by decide) _)

/-- A descriptor that passes its check is handled once its three conditions are met. -/
theorem requestStep_of_met {s : State} {b : BatchQueue} {e : Nat} (hq : queueDesc s b.q = some b) (hr : readsRequests s = true)
    (hne : getF s (F.HST_REQ_HEAD_head b.q) ≠ getF s (F.HST_REQ_HEAD_tail b.q))
    (hd : (crc32c ((requestDesc s b.q b).take 56)).toNat = bits (wordAt (requestDesc s b.q b) 7) 31 0)
    (hmet : ConditionsMet s b (requestDesc s b.q b) e) : requestStep s b.q = handleRequest s b (requestDesc s b.q b) e := by
  obtain ⟨hentry, hroom, hslot⟩ := hmet
  unfold requestDesc at hd hslot ⊢
  simp only [requestStep, hq, hr, Bool.not_true, beq_eq_false_iff_ne.mpr hne, Bool.or_self, Bool.false_eq_true, if_false, hd, bne_self_eq_false,
    hentry, decide_eq_true hroom, hslot, Bool.and_self, if_true]

theorem handleRequest_of_sound {s : State} {b : BatchQueue} {d : List Byte} (e : Nat) (hrow : RowSound s b d) :
    handleRequest s b d e = rowCopied s b d e := by
  obtain ⟨hin, hclear, hlen, hcheck⟩ := hrow
  have hread : rd (nextRequest s b.q) (rowOf d) b.rowBytes = rd s (rowOf d) b.rowBytes := rfl
  have hqueue : queueOf (wr (nextRequest s b.q) (b.queueArea + e * b.rowBytes) (rd s (rowOf d) b.rowBytes)) b.q = queueOf s b.q :=
    queueOf_congr (wr_arr _ _ _) b.q
  unfold rowOf at hin hclear hcheck hread hqueue
  simp only [handleRequest, rowCopied, rowOf, hlen, hin, hclear, hread, hcheck, hqueue, bne_self_eq_false, Bool.not_true, Bool.or_self,
    Bool.false_eq_true, if_false]

theorem does_requestDescriptor_sound (s : State) (e : Nat) (b : BatchQueue) (h : Up s) (hq : queueDesc s b.q = some b)
    (hr : readsRequests s = true) (hne : getF s (F.HST_REQ_HEAD_head b.q) ≠ getF s (F.HST_REQ_HEAD_tail b.q)) {d : List Byte}
    (hd : requestDesc s b.q b = d) (hok : (crc32c (d.take 56)).toNat = bits (wordAt d 7) 31 0) (hmet : ConditionsMet s b d e)
    (hrow : RowSound s b d) :
    Does (.requestDescriptor b.q) s fun t => getF t (F.HST_REQ_HEAD_head b.q) = (getF s (F.HST_REQ_HEAD_head b.q) + 1) % 2 ^ 32 ∧
      (queueOf t b.q).copying = (queueOf s b.q).copying ++ [⟨e, wordAt d 0, bits (wordAt d 2) 10 0, 0⟩] ∧
      rd t (b.queueArea + e * b.rowBytes) b.rowBytes = rd s (rowOf d) b.rowBytes ∧
      BytesBut [(b.queueArea + e * b.rowBytes, b.rowBytes)] s t ∧ Only [.arr, .mem, .flash] [Off.HST_REQ_HEAD b.q] s t := by
  subst hd
  exact does_eq rfl ((requestStep_of_met hq hr hne hok hmet).trans (handleRequest_of_sound e hrow)) h (only_rowCopied s b _ e) (by decide)
    (by decide) ⟨head_rowCopied s b _ e, copying_rowCopied s b _ e, rd_rowCopied s b _ e, bytesBut_rowCopied s b _ e, only_rowCopied s b _ e⟩

/-! ### ROW_ACCEPTED, R101 and R325 -/

theorem mem_insertRow (x : QueueRow) (ys : List QueueRow) : x ∈ insertRow x ys := by
  induction ys with
  | nil => simp [insertRow]
  | cons y ys ih =>
    unfold insertRow
    split
    · exact List.mem_cons_of_mem _ ih
    · exact List.mem_cons_self

theorem length_insertRow (x : QueueRow) (ys : List QueueRow) : (insertRow x ys).length = ys.length + 1 := by
  induction ys with
  | nil => rfl
  | cons y ys ih =>
    unfold insertRow
    split
    · simp [ih]
    · rfl

/-- The oldest row copy of a queue ended: the row waits, accepted in the present slot. -/
def rowJoined (s : State) (q : Nat) (x : QueueRow) (xs : List QueueRow) : State :=
  setQueue s q { queueOf s q with copying := xs, rows := insertRow { x with accept := slot s } (queueOf s q).rows }

theorem acceptStep_of_copying {s : State} {q : Nat} {x : QueueRow} {xs : List QueueRow} (h : (queueOf s q).copying = x :: xs) :
    acceptStep s q = rowJoined s q x xs := by
  simp only [acceptStep, h]
  rfl

theorem acceptStep_of_idle {s : State} {q : Nat} (h : (queueOf s q).copying = []) : acceptStep s q = s := by
  simp only [acceptStep, h]

theorem does_rowAccepted (s : State) (q : Nat) (x : QueueRow) (xs : List QueueRow) (h : Up s) (hx : (queueOf s q).copying = x :: xs) :
    Does (.rowAccepted q) s fun t => (queueOf t q).copying = xs ∧ { x with accept := slot s } ∈ (queueOf t q).rows ∧
      (queueOf t q).rows.length = (queueOf s q).rows.length + 1 ∧ (∀ p, p ≠ q → queueOf t p = queueOf s p) ∧ Only [.arr] [] s t := by
  have hframe : Only [.arr] [] s (rowJoined s q x xs) := only_setQueue s q _
  refine does_eq rfl (acceptStep_of_copying hx) h hframe (by decide) (by decide) ?_
  rw [show queueOf (rowJoined s q x xs) q = _ from queueOf_setQueue_self s q _]
  exact ⟨rfl, mem_insertRow _ _, length_insertRow _ _, fun p hp => queueOf_setQueue_other s _ hp, hframe⟩

/-! ### BATCH_LAUNCH, R101 and R102 -/

section
variable (s : State) (q a : Nat) (rows : List QueueRow)

/-- A launch with the counter of full or of timed batches and the count of masked rows that it raises. -/
def batchCounted : State :=
  bumpF (bumpF s (if 32 ≤ (seenRows s q).length then F.ARR_BATCH_FULL_count else F.ARR_BATCH_TIMED_count) 1) F.ARR_ROWS_MASKED_count
    (32 - rows.length)

theorem only_batchCounted :
    Only [] [Off.ARR_BATCH_FULL, Off.ARR_BATCH_TIMED, Off.ARR_ROWS_MASKED] s (batchCounted s q rows) := by
  refine Only.trans ((only_bumpF s _ 1).mono (by simp) ?_) ((only_bumpF _ F.ARR_ROWS_MASKED_count _).mono (by simp) (by decide))
  split <;> decide

theorem masked_batchCounted : getF (batchCounted s q rows) F.ARR_ROWS_MASKED_count =
    min (Field.max F.ARR_ROWS_MASKED_count) (getF s F.ARR_ROWS_MASKED_count + (32 - rows.length)) := by
  unfold batchCounted
  rw [getF_bumpF_same _ _ _ (by decide), (only_bumpF s _ 1).field F.ARR_ROWS_MASKED_count (by split <;> decide)]

theorem launchBatch_eq : launchBatch s q a rows = setQueue (batchCounted s q rows) q
    { queueOf s q with rows := (queueOf s q).rows.filter (fun x => !rows.contains x), count := (queueOf s q).count + 1,
                       batches := (queueOf s q).batches ++ [⟨(queueOf s q).count, rows, a, slot s, false, false⟩] } := by
  have hslot : slot (batchCounted s q rows) = slot s := (only_batchCounted s q rows).field F.LCH_SLOT_slot (by decide)
  rw [← hslot]
  rfl

theorem only_launchBatch :
    Only [.arr] [Off.ARR_BATCH_FULL, Off.ARR_BATCH_TIMED, Off.ARR_ROWS_MASKED] s (launchBatch s q a rows) := by
  rw [launchBatch_eq]
  exact ((only_batchCounted s q rows).mono (by simp) (fun _ h => h)).trans ((only_setQueue _ _ _).mono (fun _ h => h) (by simp))

theorem queueOf_launchBatch : queueOf (launchBatch s q a rows) q =
    { queueOf s q with rows := (queueOf s q).rows.filter (fun x => !rows.contains x), count := (queueOf s q).count + 1,
                       batches := (queueOf s q).batches ++ [⟨(queueOf s q).count, rows, a, slot s, false, false⟩] } := by
  rw [launchBatch_eq, queueOf_setQueue_self]

theorem masked_launchBatch : getF (launchBatch s q a rows) F.ARR_ROWS_MASKED_count =
    min (Field.max F.ARR_ROWS_MASKED_count) (getF s F.ARR_ROWS_MASKED_count + (32 - rows.length)) := by
  rw [launchBatch_eq, (only_setQueue _ _ _).field F.ARR_ROWS_MASKED_count (by decide), masked_batchCounted]

end

section
variable {s : State} {q : Nat} {b : BatchQueue} (hq : queueDesc s q = some b)
include hq

theorem batchStep_of_due {a : Nat} (hp : planState s = .running) (hs : stopInForce s = false) (hh : inHold s = false)
    (hdue : batchDue s b = true) (hk : s.lch.skipped = false)
    (ha : standIn s (if ((seenRows s q).take 32).length ≤ b.quiet then b.quietArray else b.holdArray) = some a) (hu : unitFree s a = true) :
    batchStep s q = launchBatch s q a ((seenRows s q).take 32) := by
  simp only [batchStep, hq, hp, hs, hh, hdue, hk, ha, hu, bne_self_eq_false, Bool.not_true, Bool.or_self, Bool.false_eq_true, if_false, if_true]

theorem batchStep_of_not_due (hdue : batchDue s b = false) : batchStep s q = s := by
  simp [batchStep, hq, hdue]

end

theorem does_batchLaunch (s : State) (q a : Nat) (b : BatchQueue) (h : Up s) (hq : queueDesc s q = some b) (hp : planState s = .running)
    (hs : stopInForce s = false) (hh : inHold s = false) (hdue : batchDue s b = true) (hk : s.lch.skipped = false)
    (ha : standIn s (if ((seenRows s q).take 32).length ≤ b.quiet then b.quietArray else b.holdArray) = some a) (hu : unitFree s a = true) :
    Does (.batchLaunch q) s fun t =>
      (queueOf t q).batches = (queueOf s q).batches ++ [⟨(queueOf s q).count, (seenRows s q).take 32, a, slot s, false, false⟩] ∧
      (queueOf t q).count = (queueOf s q).count + 1 ∧
      (queueOf t q).rows = (queueOf s q).rows.filter (fun x => !((seenRows s q).take 32).contains x) ∧
      getF t F.ARR_ROWS_MASKED_count =
        min (Field.max F.ARR_ROWS_MASKED_count) (getF s F.ARR_ROWS_MASKED_count + (32 - ((seenRows s q).take 32).length)) ∧
      Only [.arr] [Off.ARR_BATCH_FULL, Off.ARR_BATCH_TIMED, Off.ARR_ROWS_MASKED] s t := by
  have hframe := only_launchBatch s q a ((seenRows s q).take 32)
  refine does_eq rfl (batchStep_of_due hq hp hs hh hdue hk ha hu) h hframe (by decide) (by decide) ?_
  rw [queueOf_launchBatch]
  exact ⟨rfl, rfl, rfl, masked_launchBatch s q a _, hframe⟩

/-- Settles O27: a descriptor by its check, a row copy by whether one is under way, a batch by whether it is due. -/
theorem requestsBecomeBatches : Obligations.RequestsBecomeBatches := by
  refine ⟨fun s q b h hq hr _ hne hd => does_requestDescriptor_bad s q b h hq hr hne hd, ?_,
    fun s q h hr => does_eq rfl (requestStep_of_not_reading q hr) h (Only.rfl' [] [] s) (by decide) (by decide) rfl, does_rowAccepted,
    fun s q h hx => does_eq rfl (acceptStep_of_idle hx) h (Only.rfl' [] [] s) (by decide) (by decide) rfl,
    fun s q a b h hq hp hs hh hdue hk ha hu => does_batchLaunch s q a b h hq hp hs hh hdue hk ha hu,
    fun s q b h hq hdue => does_eq rfl (batchStep_of_not_due hq hdue) h (Only.rfl' [] [] s) (by decide) (by decide) rfl⟩
  intro s q e b h hq hbq hr _ hne d row hok he hroom hslot hin hout hlen hcrc
  subst hbq
  exact does_requestDescriptor_sound s e b h hq hr hne rfl hok ⟨he, hroom, hslot⟩ ⟨hin, hout, hlen, hcrc⟩

end Sys2Proof.Machine
end

section
/-!
PROOFS. Frames field by field: the parts of the state that an operation leaves and the register fields that it leaves, for operations that
share a register with others. The entries into HOLD and the log, the alarms, the erasures and the records, each said once.
-/

namespace Sys2Proof.Machine

/-! ### Frames field by field -/

/-- An operation changes no part but those listed and no register field but those outside a predicate. -/
structure Frame (ps : List Part) (keeps : Field → Bool) (s t : State) : Prop where
  parts : PartsBut ps s t
  fields : ∀ g : Field, keeps g = true → getF t g = getF s g

/-- A register taken as one field. -/
def wholeReg (o : Nat) : Field := ⟨o, 63, 0, .ro, .val 0⟩

/-- The fields of registers outside a list. -/
def outside (l : List Nat) (g : Field) : Bool := !l.contains g.off

theorem outside_mono {l n : List Nat} {g : Field} (hs : ∀ o ∈ n, o ∈ l) (h : outside l g = true) : outside n g = true := by
  simp only [outside, List.contains_eq_mem, Bool.not_eq_true', decide_eq_false_iff_not] at h ⊢
  exact fun hm => h (hs _ hm)

theorem getReg_of_wholeReg {s t : State} {o : Nat} (h : getF t (wholeReg o) = getF s (wholeReg o)) : getReg t o = getReg s o := by
  have hw : ∀ u : State, getF u (wholeReg o) = (getReg u o).toNat := fun u => by
    show (getReg u o).toNat / 2 ^ 0 % 2 ^ 64 = _
    rw [Nat.pow_zero, Nat.div_one, Nat.mod_eq_of_lt (getReg u o).isLt]
  exact BitVec.eq_of_toNat_eq (by rw [← hw, ← hw, h])

section
variable {ps qs : List Part} {k m : Field → Bool} {s t u : State}

theorem Frame.rfl' (ps : List Part) (k : Field → Bool) (s : State) : Frame ps k s s := ⟨fun p _ => p.stands_rfl s, fun _ _ => rfl⟩

theorem Frame.trans (h : Frame ps k s t) (g : Frame ps k t u) : Frame ps k s u :=
  ⟨h.parts.trans g.parts, fun f hf => (g.fields f hf).trans (h.fields f hf)⟩

theorem Frame.mono (h : Frame ps k s t) (hp : ∀ p ∈ ps, p ∈ qs) (hk : ∀ f, m f = true → k f = true) : Frame qs m s t :=
  ⟨fun p hq => h.parts p fun hm => hq (hp p hm), fun f hf => h.fields f (hk f hf)⟩

/-- One operation after another changes what either changes. -/
theorem Frame.comp (h : Frame ps k s t) (g : Frame qs m t u) : Frame (ps ++ qs) (fun f => k f && m f) s u :=
  (h.mono (fun _ hp => List.mem_append_left _ hp) fun _ hf => (Bool.and_eq_true_iff.mp hf).1).trans
    (g.mono (fun _ hp => List.mem_append_right _ hp) fun _ hf => (Bool.and_eq_true_iff.mp hf).2)

theorem Frame.ite {c : Prop} [Decidable c] (h : Frame ps k s t) (g : Frame ps k s u) : Frame ps k s (if c then t else u) := by
  split
  · exact h
  · exact g

theorem Frame.hasF_eq (h : Frame ps k s t) (g : Field) (hg : k g = true) : hasF t g = hasF s g := by
  unfold hasF
  rw [h.fields g hg]

theorem Frame.reg (h : Frame ps k s t) (o : Nat) (ho : k (wholeReg o) = true) : getReg t o = getReg s o :=
  getReg_of_wholeReg (h.fields _ ho)

theorem Frame.fuse (h : Frame ps k s t) (hp : Part.fuse ∉ ps) : t.fuse = s.fuse := h.parts .fuse hp

theorem Only.frame {l : List Nat} (h : Only ps l s t) : Frame ps (outside l) s t :=
  ⟨fun p hp => h.1 p hp, fun g hg => h.field g (by simpa [outside] using hg)⟩

/-- A frame, then another operation that keeps to its own registers. -/
theorem Only.comp {l n : List Nat} (h : Only ps l s t) (g : Only qs n t u) : Only (ps ++ qs) (l ++ n) s u :=
  (h.mono (fun _ hp => List.mem_append_left _ hp) fun _ ho => List.mem_append_left _ ho).trans
    (g.mono (fun _ hp => List.mem_append_right _ hp) fun _ ho => List.mem_append_right _ ho)

theorem Only.ite {c : Prop} [Decidable c] {l : List Nat} (h : Only ps l s t) (g : Only ps l s u) : Only ps l s (if c then t else u) := by
  split
  · exact h
  · exact g

end

theorem frame_setF (s : State) (f : Field) (v : Nat) (hf : f.hi < 64) : Frame [] f.apart s (setF s f v) :=
  ⟨fun p hp => (only_setF s f v).1 p hp, fun g hg => getF_setF_other s f g v hf hg⟩

theorem frame_flag (s : State) (f : Field) (n : Nat) (hf : f.hi < 64) :
    Frame eventParts (fun g => f.apart g && outside eventRegs g) s (flag s f n) :=
  (frame_setF s f 1 hf).comp (only_raise _ n).frame

/-! ### The log and HOLD, R386 and R402 -/

/-- The fields that an entry of the fault log leaves. -/
def besideLog (g : Field) : Bool :=
  (decide (g.off < 0x310000) || decide (0x311000 ≤ g.off)) && outside [Off.SAF_LOG_HEAD, Off.SAF_FAULT_CNT, Off.HST_IRQ_PENDING] g
    && F.SAF_STATUS_fault_seen.apart g

theorem frame_logFault (s : State) (code oc die unit detail : Nat) : Frame eventParts besideLog s (logFault s code oc die unit detail) := by
  refine ⟨fun p hp => (only_logFault s code oc die unit detail).1 p hp, fun g hg => ?_⟩
  simp only [besideLog, outside, Bool.and_eq_true, Bool.or_eq_true, decide_eq_true_eq, Bool.not_eq_true', List.contains_eq_mem, List.mem_cons,
    List.not_mem_nil, or_false, decide_eq_false_iff_not, not_or] at hg
  obtain ⟨⟨hwindow, hhead, hcount, hirq⟩, hseen⟩ := hg
  unfold logFault
  dsimp only
  rw [getF_flag_other _ _ _ _ (by decide) hseen hirq]
  unfold getF
  rw [getReg_bumpF_other _ _ _ _ hcount, getReg_setF_other _ _ _ _ hhead, getReg_setReg_other _ _ _ _ (by unfold logEntry; omega),
    getReg_setReg_other _ _ _ _ (by unfold logEntry; omega)]

/-- The fields that a HOLD cause leaves. -/
def besideHold (g : Field) : Bool := outside (stopRegs ++ [Off.SAF_HOLD, Off.HST_STATUS]) g && F.SAF_STATUS_hold_entered.apart g

/-- The passes in flight stopped and the plan held, before HOLD shows. -/
def heldPasses (s : State) (code : Nat) : State :=
  holdPlan (abandonMoves (faultStop (setF s F.SAF_HOLD_first code)
    ((knownPasses (setF s F.SAF_HOLD_first code)).filter (passInFlight (setF s F.SAF_HOLD_first code)))))

theorem only_heldPasses (s : State) (code : Nat) : Only stopParts (stopRegs ++ [Off.SAF_HOLD, Off.HST_STATUS]) s (heldPasses s code) := by
  refine Only.trans ?_ ((only_holdPlan _).mono (by decide) (by decide))
  refine Only.trans ?_ ((only_abandonMoves _).mono (by decide) (by simp))
  exact ((only_setF s F.SAF_HOLD_first code).mono (by simp) (by decide)).trans
    ((only_faultStop _ _).mono (fun _ h => h) fun _ h => List.mem_append_left _ h)

theorem frame_enterHold (s : State) (code : Nat) : Frame holdParts besideHold s (enterHold s code) := by
  refine ((only_heldPasses s code).frame.comp (frame_flag _ F.SAF_STATUS_hold_entered 11 (by decide))).mono (by decide) fun g hg => ?_
  obtain ⟨hregs, hentered⟩ := Bool.and_eq_true_iff.mp hg
  exact Bool.and_eq_true_iff.mpr ⟨hregs, Bool.and_eq_true_iff.mpr ⟨hentered, outside_mono (by decide) hregs⟩⟩

theorem frame_holdCause (s : State) (c code : Nat) : Frame holdParts besideHold s (holdCause s c code) := by
  have hmark : Frame holdParts besideHold s (markHold s c) := 
    (only_markHold s c).frame.mono (by decide) fun g hg => outside_mono (by decide) (Bool.and_eq_true_iff.mp hg).1
  unfold holdCause
  split
  · exact hmark
  · exact hmark.trans (frame_enterHold _ code)

theorem frame_holdFault (s : State) (code c die unit detail : Nat) :
    Frame (eventParts ++ holdParts) (fun g => besideLog g && besideHold g) s (holdFault s code c die unit detail) :=
  (frame_logFault s code 2 die unit detail).comp (frame_holdCause _ c code)

theorem hasF_fault_seen_holdFault (s : State) (code c die unit detail : Nat) :
    hasF (holdFault s code c die unit detail) F.SAF_STATUS_fault_seen = true :=
  ((frame_holdCause _ c code).hasF_eq F.SAF_STATUS_fault_seen (by decide)).trans (hasF_fault_seen_logFault s code 2 die unit detail)

theorem frame_rangeFault (s : State) (a : Nat) : Frame (eventParts ++ holdParts)
    (fun g => outside [Off.MEM_LAST_ERROR, Off.MEM_LAST_ERROR_ADDR, Off.MEM_STATUS] g && (besideLog g && besideHold g)) s (rangeFault s a) :=
  (Only.frame (((only_setReg s Off.MEM_LAST_ERROR _).comp (only_setF _ F.MEM_LAST_ERROR_ADDR_addr a)).comp
    (only_setF _ F.MEM_STATUS_range_fault 1))).comp (frame_holdFault _ 0x1C 6 0 0 0)

/-! ### Windows of BAR0 -/

/-- The registers of a window. -/
def window (off n : Nat) : List Nat := (List.range n).map fun i => off + 8 * i

theorem not_mem_window {off n o : Nat} (h : o < off ∨ off + 8 * n ≤ o) : o ∉ window off n := by
  simp only [window, List.mem_map, List.mem_range, not_exists, not_and]
  omega

theorem only_setWindow_of_le (s : State) (off : Nat) {bs : List Byte} {n : Nat} (h : bs.length ≤ 8 * n) :
    Only [] (window off n) s (setWindow s off bs) := by
  refine (only_setWindow s off bs).mono (by simp) fun o ho => ?_
  simp only [window, List.mem_map, List.mem_range] at ho ⊢
  obtain ⟨i, hi, rfl⟩ := ho
  exact ⟨i, by omega, rfl⟩

/-- The fields that a window of n words leaves. -/
def besideWindow (off n : Nat) (g : Field) : Bool := decide (g.off < off) || decide (off + 8 * n ≤ g.off)

theorem frame_setWindow (s : State) (off : Nat) {bs : List Byte} {n : Nat} (h : bs.length ≤ 8 * n) :
    Frame [] (besideWindow off n) s (setWindow s off bs) :=
  ⟨fun p hp => (only_setWindow_of_le s off h).1 p hp, fun g hg => (only_setWindow_of_le s off h).field g
    (not_mem_window (by simpa [besideWindow] using hg))⟩

/-! ### Alarms and the lock, R419 and R420 -/

/-- The counter of a class of alarms. -/
def alarmCounter (cls : Nat) : Field :=
  if cls = 1 then F.SEC_ALARM_CNT_class1 else if cls = 2 then F.SEC_ALARM_CNT_class2 else F.SEC_ALARM_CNT_class3

/-- An alarm entered in its registers, before it is seen. -/
def alarmEntered (s : State) (code cls : Nat) : State :=
  let s := setReg s Off.SEC_ALARM (BitVec.ofNat 64 (cls + 4 * code))
  bumpF (setF s F.SEC_ALARM_SLOT_slot (slot s)) (alarmCounter cls) 1

theorem logAlarm_eq (s : State) (code cls : Nat) : logAlarm s code cls = flag (alarmEntered s code cls) F.SEC_STATUS_alarm_seen 12 := rfl

theorem off_alarmCounter (cls : Nat) : (alarmCounter cls).off = Off.SEC_ALARM_CNT := by
  unfold alarmCounter
  split
  · rfl
  · split <;> rfl

theorem only_alarmEntered (s : State) (code cls : Nat) :
    Only [] [Off.SEC_ALARM, Off.SEC_ALARM_SLOT, Off.SEC_ALARM_CNT] s (alarmEntered s code cls) :=
  (((only_setReg s Off.SEC_ALARM _).comp (only_setF _ F.SEC_ALARM_SLOT_slot _)).comp (only_bumpF _ (alarmCounter cls) 1)).mono (by simp)
    (by rw [off_alarmCounter]; decide)

/-- The fields that an entry of the alarm log leaves. -/
def besideAlarmLog (g : Field) : Bool :=
  outside [Off.SEC_ALARM, Off.SEC_ALARM_SLOT, Off.SEC_ALARM_CNT] g && (F.SEC_STATUS_alarm_seen.apart g && outside eventRegs g)

theorem frame_logAlarm (s : State) (code cls : Nat) : Frame eventParts besideAlarmLog s (logAlarm s code cls) :=
  (only_alarmEntered s code cls).frame.comp (frame_flag _ F.SEC_STATUS_alarm_seen 12 (by decide))

theorem getReg_logAlarm (s : State) (code cls : Nat) : getReg (logAlarm s code cls) Off.SEC_ALARM = BitVec.ofNat 64 (cls + 4 * code) := by
  rw [logAlarm_eq, getReg_flag_other _ _ _ _ (by decide) (by decide)]
  unfold alarmEntered
  rw [getReg_bumpF_other _ _ _ _ (by rw [off_alarmCounter]; decide), getReg_setF_other _ _ _ _ (by decide), getReg_setReg_self]

theorem slot_logAlarm (s : State) (code cls : Nat) : getF (logAlarm s code cls) F.SEC_ALARM_SLOT_slot = slot s := by
  rw [logAlarm_eq, getF_flag_other _ _ _ _ (by decide) (by decide) (by decide)]
  unfold alarmEntered getF
  rw [getReg_bumpF_other _ _ _ _ (by rw [off_alarmCounter]; decide)]
  refine (getF_setF_same _ F.SEC_ALARM_SLOT_slot _ (by decide)).trans ?_
  rw [show slot (setReg s Off.SEC_ALARM (BitVec.ofNat 64 (cls + 4 * code))) = slot s from
    (only_setReg s Off.SEC_ALARM _).field F.LCH_SLOT_slot (by decide)]
  exact Nat.mod_eq_of_lt (getF_lt s F.LCH_SLOT_slot)

/-- The fields that a set withdrawn leaves. -/
def besideDiscard (g : Field) : Bool :=
  outside [Off.CTL_CROZIER, Off.CTL_CROZIER_SLOT, Off.CTL_CROZIER_CNT] g && (F.CTL_STATUS_crozier_discarded.apart g && outside eventRegs g)

/-- The frozen set z gone and its result shown, before the flag. -/
def discardEntered (s : State) (z : Crozier) (result offset : Nat) : State :=
  let s := { s with ctl := { s.ctl with frozen := none, dropped := [] } }
  let s := setReg s Off.CTL_CROZIER (BitVec.ofNat 64 (2 ^ 4 * result + 2 ^ 8 * z.changed + 2 ^ 16 * offset))
  bumpF (setF s F.CTL_CROZIER_SLOT_slot s.ctl.lastC) F.CTL_CROZIER_CNT_discarded 1

theorem discardSet_of_frozen {s : State} {z : Crozier} (h : s.ctl.frozen = some z) (result offset : Nat) :
    discardSet s result offset = flag (discardEntered s z result offset) F.CTL_STATUS_crozier_discarded 13 := by
  rw [discardSet, h]
  rfl

theorem discardSet_of_none {s : State} (h : s.ctl.frozen = none) (result offset : Nat) : discardSet s result offset = s := by
  rw [discardSet, h]

theorem only_discardEntered (s : State) (z : Crozier) (result offset : Nat) :
    Only [.ctl] [Off.CTL_CROZIER, Off.CTL_CROZIER_SLOT, Off.CTL_CROZIER_CNT] s (discardEntered s z result offset) :=
  Only.comp (ps := [.ctl]) (l := []) (qs := []) (only_ctl s _) (((only_setReg _ Off.CTL_CROZIER _).comp
    (only_setF _ F.CTL_CROZIER_SLOT_slot _)).comp (only_bumpF _ F.CTL_CROZIER_CNT_discarded 1))

theorem frame_discardSet (s : State) (result offset : Nat) : Frame [.ctl, .host, .sent] besideDiscard s (discardSet s result offset) := by
  cases h : s.ctl.frozen with
  | none =>
    rw [discardSet_of_none h]
    exact Frame.rfl' _ _ _
  | some z =>
    rw [discardSet_of_frozen h]
    exact (only_discardEntered s z result offset).frame.comp (frame_flag _ F.CTL_STATUS_crozier_discarded 13 (by decide))

/-- The lock of a class 2 alarm, with the set that it withdraws. -/
def locked (s : State) : State := lockWithdraw (if hasF s F.SEC_STATUS_lock then s else flag s F.SEC_STATUS_lock 12)

/-- The fields that the lock leaves. -/
def besideLock (g : Field) : Bool := F.SEC_STATUS_lock.apart g && outside eventRegs g && besideDiscard g

theorem frame_lockWithdraw (s : State) : Frame [.ctl, .host, .sent] besideDiscard s (lockWithdraw s) := by
  rcases lockWithdraw_cases s with h | h <;> rw [h]
  · exact Frame.rfl' _ _ _
  · exact frame_discardSet s 6 0

theorem frame_locked (s : State) : Frame [.ctl, .host, .sent] besideLock s (locked s) := by
  unfold locked
  exact ((Frame.ite (Frame.rfl' _ _ s) (frame_flag s F.SEC_STATUS_lock 12 (by decide))).comp (frame_lockWithdraw _)).mono (by decide) fun _ h => h

theorem hasF_lock_locked (s : State) : hasF (locked s) F.SEC_STATUS_lock = true := by
  unfold locked
  rw [(frame_lockWithdraw _).hasF_eq F.SEC_STATUS_lock (by decide)]
  split
  · assumption
  · exact hasF_flag s _ 12 (by decide) (by decide) (by decide)

theorem alarmLock_eq (s : State) (code : Nat) : alarmLock s code = locked (logAlarm s code 2) := rfl

theorem frame_alarmLock (s : State) (code : Nat) :
    Frame [.ctl, .host, .sent] (fun g => besideAlarmLog g && besideLock g) s (alarmLock s code) := by
  rw [alarmLock_eq]
  exact ((frame_logAlarm s code 2).comp (frame_locked _)).mono (by decide) fun _ h => h

/-- The class 1 alarms of the last 3,600 s, with the one that comes now. -/
def recentAlarms (s : State) : List Nat := (slot s :: s.sec.class1.filter fun t => decide (slot s < t + 14062500000)).take 8

/-- A class 1 alarm entered, before what the eighth brings. -/
def alarmNoted (s : State) (code : Nat) : State :=
  { logAlarm s code 1 with sec := { s.sec with class1 := recentAlarms s } }

theorem alarm1_eq (s : State) (code : Nat) :
    alarm1 s code = if (recentAlarms s).length = 8 then alarmLock (alarmNoted s code) 4 else alarmNoted s code := by
  have hslot : slot (logAlarm s code 1) = slot s := (frame_logAlarm s code 1).fields F.LCH_SLOT_slot (by decide)
  have hsec : (logAlarm s code 1).sec = s.sec := (frame_logAlarm s code 1).parts .sec (by decide)
  unfold alarm1 alarmNoted recentAlarms
  dsimp only
  rw [hslot, hsec]

theorem frame_alarmNoted (s : State) (code : Nat) : Frame [.sec, .host, .sent] (fun g => besideAlarmLog g && outside [] g) s
    (alarmNoted s code) :=
  ((frame_logAlarm s code 1).comp (only_sec _ _).frame).mono (by decide) fun _ h => h

/-- The fields that a class 1 alarm leaves. -/
def besideAlarm (g : Field) : Bool := besideAlarmLog g && besideLock g

theorem frame_alarm1 (s : State) (code : Nat) : Frame alarmParts besideAlarm s (alarm1 s code) := by
  have hnoted : Frame alarmParts besideAlarm s (alarmNoted s code) :=
    (frame_alarmNoted s code).mono (by decide) fun g hg => Bool.and_eq_true_iff.mpr ⟨(Bool.and_eq_true_iff.mp hg).1, rfl⟩
  rw [alarm1_eq]
  exact Frame.ite (hnoted.trans ((frame_alarmLock _ 4).mono (by decide) fun _ h => h)) hnoted

theorem sec_alarm1 (s : State) (code : Nat) : (alarm1 s code).sec = { s.sec with class1 := recentAlarms s } := by
  rw [alarm1_eq]
  split
  · exact (frame_alarmLock (alarmNoted s code) 4).parts .sec (by decide)
  · rfl

/-! ### The key store shown, and what an erasure removes, R404 and R416 -/

/-- The fields that show neither the one-time store nor the keys. -/
def besideStore (g : Field) : Bool :=
  outside [Off.SEC_LIFECYCLE, Off.SEC_LIFECYCLE, Off.SEC_LIFECYCLE, Off.SEC_ROLLBACK, Off.SEC_ROLLBACK] g && F.SEC_STATUS_mesh_breach.apart g
    && F.SEC_STATUS_identity_present.apart g && outside [Off.SEC_KEY, Off.SEC_KEY, Off.SEC_KEY_COMMIT] g

theorem frame_showStore (s : State) : Frame [] besideStore s (showStore s) :=
  ((((((only_setF s F.SEC_LIFECYCLE_state _).comp (only_setF _ F.SEC_LIFECYCLE_t _)).comp (only_setF _ F.SEC_LIFECYCLE_owner_life _)).comp
    (only_setF _ F.SEC_ROLLBACK_floor _)).comp (only_setF _ F.SEC_ROLLBACK_used _)).frame.comp
      (frame_setF _ F.SEC_STATUS_mesh_breach _ (by decide))).comp (frame_setF _ F.SEC_STATUS_identity_present _ (by decide)) |>.comp
    (((only_setF _ F.SEC_KEY_key_loaded _).comp (only_setF _ F.SEC_KEY_session_valid _)).comp (only_setReg _ Off.SEC_KEY_COMMIT _)).frame

theorem only_showStore (s : State) :
    Only [] [Off.SEC_LIFECYCLE, Off.SEC_ROLLBACK, Off.SEC_STATUS, Off.SEC_KEY, Off.SEC_KEY_COMMIT] s (showStore s) :=
  ((((((((only_setF s F.SEC_LIFECYCLE_state _).comp (only_setF _ F.SEC_LIFECYCLE_t _)).comp (only_setF _ F.SEC_LIFECYCLE_owner_life _)).comp
    (only_setF _ F.SEC_ROLLBACK_floor _)).comp (only_setF _ F.SEC_ROLLBACK_used _)).comp (only_setF _ F.SEC_STATUS_mesh_breach _)).comp
    (only_setF _ F.SEC_STATUS_identity_present _)).comp (((only_setF _ F.SEC_KEY_key_loaded _).comp
    (only_setF _ F.SEC_KEY_session_valid _)).comp (only_setReg _ Off.SEC_KEY_COMMIT _))).mono (by simp) (by decide)

theorem frame_closeTier (s : State) :
    Frame eventParts (fun g => F.FLS_STATUS_flash_closed.apart g && outside eventRegs g) s (closeTier s) :=
  Frame.ite (Frame.rfl' _ _ s) (frame_flag s F.FLS_STATUS_flash_closed 6 (by decide))

theorem hasF_closed_closeTier (s : State) : hasF (closeTier s) F.FLS_STATUS_flash_closed = true := by
  unfold closeTier
  split
  · assumption
  · exact hasF_flag s _ 6 (by decide) (by decide) (by decide)

/-- The tenant's key and its id gone. -/
def tenantGone (s : State) : State := setReg { s with sec := { s.sec with tenant := none } } Off.SEC_KEY_ID 0

theorem dropTenant_eq (s : State) : dropTenant s = closeTier (tenantGone s) := rfl

theorem frame_dropTenant (s : State) : Frame [.sec, .host, .sent]
    (fun g => outside [Off.SEC_KEY_ID] g && (F.FLS_STATUS_flash_closed.apart g && outside eventRegs g)) s (dropTenant s) := by
  rw [dropTenant_eq]
  exact (((only_sec s _).comp (only_setReg _ Off.SEC_KEY_ID 0)).frame.comp (frame_closeTier (tenantGone s))).mono (by decide) fun _ h => h

theorem sec_dropTenant (s : State) : (dropTenant s).sec = { s.sec with tenant := none } :=
  (frame_closeTier _).parts .sec (by decide)

theorem keyId_dropTenant (s : State) : getReg (dropTenant s) Off.SEC_KEY_ID = 0 :=
  ((frame_closeTier _).reg Off.SEC_KEY_ID (by decide)).trans (getReg_setReg_self _ _ _)

theorem frame_dropSession (s : State) : Frame [.sec] (besideWindow 0x420000 196) s (dropSession s) :=
  ((only_sec s _).frame.comp (frame_setWindow _ 0x420000 (by rw [List.length_replicate]))).mono (by simp) fun _ h => h

theorem sec_setWindow (s : State) (off : Nat) (bs : List Byte) : (setWindow s off bs).sec = s.sec := (only_setWindow s off bs).1 .sec (by decide)

theorem sec_dropSession (s : State) : (dropSession s).sec = { s.sec with session := none, sessionId := 0 } := sec_setWindow _ _ _

theorem only_dropMap (s : State) : Only [.flash, .nv] [] s (dropMap s) :=
  ((only_flash s []).comp (only_nv { s with flash := [] } { s.nv with commitment := none })).mono (by simp) (by simp)

/-- The key and the map gone, and an erasure of a key seen. -/
def keyErased (s : State) : State :=
  if s.sec.tenant.isSome then flag (dropMap (dropTenant s)) F.SEC_STATUS_erased_seen 12 else dropMap (dropTenant s)

theorem cryptoErase_eq (s : State) :
    cryptoErase s = showStore (match movingFlash s with | some a => rangeFault (keyErased s) a | none => keyErased s) := rfl

/-- The fields that the key and the map gone leave. -/
def besideErased (g : Field) : Bool :=
  (outside [Off.SEC_KEY_ID] g && (F.FLS_STATUS_flash_closed.apart g && outside eventRegs g)) && outside [] g
    && (F.SEC_STATUS_erased_seen.apart g && outside eventRegs g)

theorem frame_keyErased (s : State) : Frame [.sec, .flash, .nv, .host, .sent] besideErased s (keyErased s) := by
  unfold keyErased
  exact (((frame_dropTenant s).comp (only_dropMap _).frame).comp
    (Frame.ite (frame_flag _ F.SEC_STATUS_erased_seen 12 (by decide)) (Frame.rfl' _ _ _))).mono (by decide) fun _ h => h

/-- What the flag of an erasure leaves of the state without key and map. -/
theorem frame_keyErased_of_dropped (s : State) :
    Frame eventParts (fun g => F.SEC_STATUS_erased_seen.apart g && outside eventRegs g) (dropMap (dropTenant s)) (keyErased s) :=
  Frame.ite (frame_flag _ F.SEC_STATUS_erased_seen 12 (by decide)) (Frame.rfl' _ _ _)

/-- The fields that a fault of the move under way leaves. -/
def besideRange (g : Field) : Bool :=
  outside [Off.MEM_LAST_ERROR, Off.MEM_LAST_ERROR_ADDR, Off.MEM_STATUS] g && (besideLog g && besideHold g)

/-- The fields that a crypto-erase leaves once the key and the map are gone. -/
def besideErase (g : Field) : Bool := besideRange g && besideStore g

theorem frame_cryptoErase_of_erased (s : State) : Frame holdParts besideErase (keyErased s) (cryptoErase s) := by
  rw [cryptoErase_eq]
  refine (Frame.comp (ps := holdParts) (k := besideRange) ?_ (frame_showStore _)).mono (by simp) fun _ h => h
  split
  · exact (frame_rangeFault _ _).mono (by decide) fun _ h => h
  · exact Frame.rfl' _ _ _

theorem frame_cryptoErase (s : State) : Frame (.sec :: .nv :: holdParts)
    (fun g => besideErased g && besideErase g) s (cryptoErase s) :=
  ((frame_keyErased s).comp (frame_cryptoErase_of_erased s)).mono (by decide) fun _ h => h

theorem sec_cryptoErase (s : State) : (cryptoErase s).sec = { s.sec with tenant := none } :=
  ((frame_cryptoErase_of_erased s).parts .sec (by decide)).trans
    (((frame_keyErased_of_dropped s).parts .sec (by decide)).trans (sec_dropTenant s))

theorem nv_cryptoErase (s : State) : (cryptoErase s).nv = { s.nv with commitment := none } := by
  have hnv : (dropTenant s).nv = s.nv := (frame_dropTenant s).parts .nv (by decide)
  refine ((frame_cryptoErase_of_erased s).parts .nv (by decide)).trans (((frame_keyErased_of_dropped s).parts .nv (by decide)).trans ?_)
  rw [← hnv]
  rfl

theorem hasF_closed_cryptoErase (s : State) : hasF (cryptoErase s) F.FLS_STATUS_flash_closed = true :=
  ((frame_cryptoErase_of_erased s).hasF_eq F.FLS_STATUS_flash_closed (by decide)).trans
    (((frame_keyErased_of_dropped s).hasF_eq F.FLS_STATUS_flash_closed (by decide)).trans (hasF_closed_closeTier _))

theorem keyId_cryptoErase (s : State) : getReg (cryptoErase s) Off.SEC_KEY_ID = 0 :=
  ((frame_cryptoErase_of_erased s).reg Off.SEC_KEY_ID (by decide)).trans
    (((frame_keyErased_of_dropped s).reg Off.SEC_KEY_ID (by decide)).trans (keyId_dropTenant s))

/-! ### A class 3 alarm, R420 -/

theorem alarm3_eq (s : State) (code : Nat) : alarm3 s code = cryptoErase (dropSession (locked (logAlarm s code 3))) := rfl

/-- The fields that the erasures of a class 3 alarm leave. -/
def besideErasure (g : Field) : Bool := besideWindow 0x420000 196 g && (besideErased g && besideErase g)

/-- What the erasures of a class 3 alarm leave of the module that it has locked. -/
theorem frame_alarm3_of_locked (s : State) (code : Nat) : Frame (.sec :: .nv :: holdParts) besideErasure
    (locked (logAlarm s code 3)) (alarm3 s code) := by
  rw [alarm3_eq]
  exact ((frame_dropSession _).comp (frame_cryptoErase _)).mono (by decide) fun _ h => h

/-- The parts that a class 3 alarm changes. -/
def alarm3Parts : List Part := .sec :: .ctl :: .nv :: holdParts

/-- The fields that a class 3 alarm leaves. -/
def besideAlarm3 (g : Field) : Bool := besideAlarmLog g && besideLock g && besideErasure g

theorem frame_alarm3 (s : State) (code : Nat) : Frame alarm3Parts besideAlarm3 s (alarm3 s code) :=
  (((frame_logAlarm s code 3).comp (frame_locked _)).comp (frame_alarm3_of_locked s code)).mono (by decide) fun _ h => h

theorem hasF_lock_alarm3 (s : State) (code : Nat) : hasF (alarm3 s code) F.SEC_STATUS_lock = true :=
  ((frame_alarm3_of_locked s code).hasF_eq F.SEC_STATUS_lock (by decide)).trans (hasF_lock_locked _)

theorem getReg_alarm_alarm3 (s : State) (code : Nat) : getReg (alarm3 s code) Off.SEC_ALARM = BitVec.ofNat 64 (3 + 4 * code) :=
  ((frame_alarm3_of_locked s code).reg Off.SEC_ALARM (by decide)).trans
    (((frame_locked _).reg Off.SEC_ALARM (by decide)).trans (getReg_logAlarm s code 3))

theorem sec_alarm3 (s : State) (code : Nat) : (alarm3 s code).sec = { s.sec with tenant := none, session := none, sessionId := 0 } := by
  have hlocked : (locked (logAlarm s code 3)).sec = s.sec :=
    ((frame_locked _).parts .sec (by decide)).trans ((frame_logAlarm s code 3).parts .sec (by decide))
  rw [alarm3_eq, sec_cryptoErase, sec_dropSession, hlocked]

theorem commitment_alarm3 (s : State) (code : Nat) : (alarm3 s code).nv.commitment = none := by rw [alarm3_eq, nv_cryptoErase]

theorem hasF_closed_alarm3 (s : State) (code : Nat) : hasF (alarm3 s code) F.FLS_STATUS_flash_closed = true := by
  rw [alarm3_eq]
  exact hasF_closed_cryptoErase _

/-! ### A SEC command that ends, R423 -/

/-- A SEC command shown as done, before the alarm of some results. -/
def secShown (s : State) (op tag result : Nat) : State :=
  flag (setReg s Off.SEC_CMD_STATUS (BitVec.ofNat 64 (tag % 2 ^ 48 + 2 ^ 48 * op + 2 ^ 52 * 2 + 2 ^ 54 * result))) F.SEC_STATUS_cmd_done 12

theorem secDone_eq (s : State) (op tag result : Nat) : secDone s op tag result =
    if [5, 6, 8, 9, 10].contains result then alarm1 (secShown s op tag result) 2 else secShown s op tag result := rfl

theorem only_secShown (s : State) (op tag result : Nat) :
    Only eventParts [Off.SEC_CMD_STATUS, Off.SEC_STATUS, Off.HST_IRQ_PENDING] s (secShown s op tag result) :=
  ((only_setReg s Off.SEC_CMD_STATUS _).comp (only_flag _ F.SEC_STATUS_cmd_done 12)).mono (by decide) (by decide)

/-- The fields that the end of a SEC command leaves. -/
def besideDone (g : Field) : Bool :=
  outside [Off.SEC_CMD_STATUS] g && (F.SEC_STATUS_cmd_done.apart g && outside eventRegs g) && besideAlarm g

theorem frame_secDone_of_shown (s : State) (op tag result : Nat) :
    Frame alarmParts besideAlarm (secShown s op tag result) (secDone s op tag result) :=
  Frame.ite (frame_alarm1 _ 2) (Frame.rfl' _ _ _)

theorem frame_secShown (s : State) (op tag result : Nat) : Frame eventParts
    (fun g => outside [Off.SEC_CMD_STATUS] g && (F.SEC_STATUS_cmd_done.apart g && outside eventRegs g)) s (secShown s op tag result) :=
  (only_setReg s Off.SEC_CMD_STATUS _).frame.comp (frame_flag _ F.SEC_STATUS_cmd_done 12 (by decide))

theorem frame_secDone (s : State) (op tag result : Nat) : Frame alarmParts besideDone s (secDone s op tag result) :=
  ((frame_secShown s op tag result).comp (frame_secDone_of_shown s op tag result)).mono (by decide) fun _ h => h

theorem only_secDone (s : State) (op tag result : Nat) : Only alarmParts (Off.SEC_CMD_STATUS :: alarmRegs) s (secDone s op tag result) := by
  have hshown : Only alarmParts (Off.SEC_CMD_STATUS :: alarmRegs) s (secShown s op tag result) :=
    (only_secShown s op tag result).mono (by decide) (by decide)
  rw [secDone_eq]
  exact Only.ite (hshown.trans ((only_alarm1 _ 2).mono (fun _ h => h) fun _ h => List.mem_cons_of_mem _ h)) hshown

theorem secDone_of_quiet (s : State) (op tag : Nat) {result : Nat} (h : result ∉ [5, 6, 8, 9, 10]) :
    secDone s op tag result = secShown s op tag result := by
  rw [secDone_eq, if_neg (by simpa using h)]

theorem replies_secDone (s : State) (op tag result : Nat) : Replies op tag result (secDone s op tag result) := by
  have hafter := frame_secDone_of_shown s op tag result
  refine ⟨(hafter.reg Off.SEC_CMD_STATUS (by decide)).trans ?_, (hafter.hasF_eq F.SEC_STATUS_cmd_done (by decide)).trans ?_⟩
  · exact (getReg_flag_other _ _ _ _ (by decide) (by decide)).trans (getReg_setReg_self _ _ _)
  · exact hasF_flag _ _ 12 (by decide) (by decide) (by decide)

/-- The key store keeps both keys and the debug flag as a SEC command ends. -/
theorem sec_secDone (s : State) (op tag result : Nat) : ∃ xs, (secDone s op tag result).sec = { s.sec with class1 := xs } := by
  have hshown : (secShown s op tag result).sec = s.sec := (only_secShown s op tag result).1 .sec (by decide)
  rw [secDone_eq]
  split
  · exact ⟨_, (sec_alarm1 _ 2).trans (by rw [hshown])⟩
  · exact ⟨s.sec.class1, hshown⟩

end Sys2Proof.Machine
end

section
/-!
PROOFS. What every command keeps: the queue, the module that is not up, the host's and the rack controller's reach, the one-time store
(R336, R337, R373, R388, R406, R433, R435), and the step itself.
-/

namespace Sys2Proof.Machine

/-! ### The step -/

/-- Settles O56: the step's own two cases, and the decoder that spells nothing. -/
theorem stepRunsTheFrontCommand : Obligations.StepRunsTheFrontCommand := by
  refine ⟨fun c rest s h => ?_, fun s h => ?_, fun s n w => ⟨rfl, rfl⟩⟩
  · rw [step, h]
  · rw [step, h]

/-! ### How a command settles -/

/-- The pins, the supply, the always-on circuits and the watchdog act in every power mode. -/
def settlesAlways (c : Instr) : Bool :=
  match c with
  | .watchdogExpiry => true
  | c => alwaysOn c && !programsStore c

theorem exec_settlesAlways (c : Instr) (s : State) (h : settlesAlways c = true) : ∃ t, exec c s = settleAny s t := by
  cases c with
  | pwrEnRise | pwrEnFall | inputPowerLoss | perstNAssert | perstNDeassert | meterBlock | overcurrentTrip | overvoltageTrip | railTrip
  | junctionTrip | watchdogExpiry => exact ⟨_, rfl⟩
  | _ => cases h

theorem exec_programsStore (c : Instr) (s : State) (h : programsStore c = true) : ∃ t, exec c s = settleFuse s t := by
  cases c with
  | lifecycleToken | raiseFloor | meshMeasure | bringupPhaseEnd => exact ⟨_, rfl⟩
  | _ => cases h

/-- Every other command is one of a module that is up. -/
theorem exec_settles (c : Instr) (s : State) (ha : settlesAlways c = false) (hp : programsStore c = false) : ∃ t, exec c s = settle s t := by
  cases c with
  | pwrEnRise | pwrEnFall | inputPowerLoss | perstNAssert | perstNDeassert | meterBlock | overcurrentTrip | overvoltageTrip | railTrip
  | junctionTrip | watchdogExpiry => cases ha
  | lifecycleToken | raiseFloor | meshMeasure | bringupPhaseEnd => cases hp
  | _ => exact ⟨_, rfl⟩

theorem exec_keepsQueue (c : Instr) (s : State) : Does c s fun t => t.pending = s.pending := by
  cases hp : programsStore c with
  | true =>
    obtain ⟨t, he⟩ := exec_programsStore c s hp
    exact ⟨_, he, rfl⟩
  | false =>
    cases ha : settlesAlways c with
    | true =>
      obtain ⟨t, he⟩ := exec_settlesAlways c s ha
      exact ⟨_, he, rfl⟩
    | false =>
      obtain ⟨t, he⟩ := exec_settles c s ha hp
      obtain ⟨u, hu⟩ := settle_next s t
      exact ⟨u, he.trans hu, (settle_keeps s t u hu).1⟩

theorem exec_keepsStore (c : Instr) (s : State) (hp : programsStore c = false) : Does c s fun t => t.fuse = s.fuse := by
  cases ha : settlesAlways c with
  | true =>
    obtain ⟨t, he⟩ := exec_settlesAlways c s ha
    exact ⟨_, he, rfl⟩
  | false =>
    obtain ⟨t, he⟩ := exec_settles c s ha hp
    obtain ⟨u, hu⟩ := settle_next s t
    exact ⟨u, he.trans hu, (settle_keeps s t u hu).2⟩

/-! ### A module that is not up, R336, R388, R433 -/

theorem watchdog_of_not_up {s : State} (h : ¬Up s) : watchdog s = s := if_neg fun hc => h hc.1

theorem exec_of_not_up (c : Instr) (s : State) (h : ¬Up s) (ha : alwaysOn c = false) : Does c s fun t => t = s := by
  have hif : ∀ t : State, (if s.pwr.mode = .up then t else s) = s := fun t => if_neg h
  cases c with
  | watchdogExpiry => exact ⟨s, congrArg (settleAny s) (watchdog_of_not_up h), rfl⟩
  | lifecycleToken | raiseFloor | bringupPhaseEnd => exact ⟨s, congrArg (settleFuse s) (hif _), rfl⟩
  | pwrEnRise | pwrEnFall | inputPowerLoss | perstNAssert | perstNDeassert | meterBlock | overcurrentTrip | overvoltageTrip | railTrip
  | junctionTrip | meshMeasure => cases ha
  | _ => exact ⟨s, settle_down s _ h, rfl⟩

/-! ### The host without its link, the rack controller without an answer, R337, R373, R435 -/

theorem settle_self (s : State) : settle s s = .next s := by
  unfold settle
  split <;> rfl

theorem hostStep_of_no_link {s : State} (h : hostLink s = false) (f : State → State) : hostStep s f = s := by simp [hostStep, h]

theorem rackStep_of_silent {s : State} (h : rackUp s = false) (f : State → State) : rackStep s f = s := by simp [rackStep, h]

theorem settle_rackStep_of_silent {s : State} (h : rackUp s = false) (f : State → State) : settle s (rackStep s f) = .next s := by
  rw [rackStep_of_silent h, settle_self]

/-- A command of the host reaches the module through the link, in the commands that program the one-time store too. -/
theorem exec_hostCommand (c : Instr) (s : State) (hc : hostCommand c = true) : (∃ f, exec c s = settle s (hostStep s f)) ∨
    ∃ f, exec c s = settleFuse s (if s.pwr.mode = .up then hostStep s f else s) := by
  cases c with
  | lifecycleToken | raiseFloor => exact .inr ⟨_, rfl⟩
  | load | start | stop | resume | endPlan | commandReserved | commandOverrun | release | requestTail | bar2InvalidWrite | bar0BadAccess
  | apertureAccess | registerWrite | stWrite | arrInject | numClear | numRingTail | lchTsRingTail | lchSyncSignal | lchClear | intSubTail
  | intEvTail | hostClaim | hostRelease | commitRequest | commitAbort | cfgProgram | safResume | safBistCmd | attest | keyLoad | erase
  | storeCertificate | secCommandReserved | secCommandOverrun => exact .inl ⟨_, rfl⟩
  | _ => cases hc

theorem exec_hostCommand_of_no_link (c : Instr) (s : State) (h : hostLink s = false) (hc : hostCommand c = true) :
    Does c s fun t => t = s := by
  rcases exec_hostCommand c s hc with ⟨f, he⟩ | ⟨f, he⟩
  · exact ⟨s, by rw [he, hostStep_of_no_link h, settle_self], rfl⟩
  · exact ⟨s, by rw [he, hostStep_of_no_link h, ite_self]; rfl, rfl⟩

/-- Settles O57: each command settles in one of three ways, and each way keeps the queue; the commands of the host go through the link and
those of the rack controller through the control pair. -/
theorem commandsReachOnlyWhatTheyMay : Obligations.CommandsReachOnlyWhatTheyMay := by
  refine ⟨exec_keepsQueue, exec_of_not_up, exec_hostCommand_of_no_link, ?_, exec_keepsStore⟩
  intro c s a p m off n v rq h hc
  simp only [List.mem_cons, List.not_mem_nil, or_false] at hc
  rcases hc with rfl | rfl | rfl | rfl | rfl | rfl | rfl | rfl <;> exact ⟨s, settle_rackStep_of_silent h _, rfl⟩

/-! ### The one-time store, R406 and R407 -/

/-- A one-time store that may follow another: sound, no fuse less, and a breach marked for good. -/
def OneTime.Follows (f g : OneTime) : Prop := g.sound ∧ f.t ≤ g.t ∧ (f.breach = true → g.breach = true)

theorem OneTime.Follows.refl {f : OneTime} (h : f.sound) : OneTime.Follows f f := ⟨h, Nat.le_refl _, id⟩

theorem follows_writeCount {f : OneTime} {n : Nat} (h : f.t ≤ n) (hn : n ≤ 13) : OneTime.Follows f (writeCount f n) := ⟨⟨rfl, hn⟩, h, id⟩

/-- DECOMMISSIONED is the count at its 13th fuse. -/
theorem lifecycleOf_eq_five (t : Nat) (debug : Bool) : lifecycleOf t debug = 5 ↔ 13 ≤ t := by
  unfold lifecycleOf
  split
  · omega
  · split
    · omega
    · split
      · omega
      · split
        · omega
        · split <;> omega

theorem lifecycle_eq_five (s : State) : lifecycle s = 5 ↔ 13 ≤ s.fuse.t := lifecycleOf_eq_five _ _

/-- A token that passes names a signer, and no signer moves the lifecycle out of DECOMMISSIONED. -/
theorem src_ne_five_of_signerNamed {t : Token} (hk : t.kind ≠ 2) (h : signerNamed t = true) : t.src ≠ 5 := by
  intro h5
  rw [signerNamed, if_neg hk, h5] at h
  simp at h

theorem signerNamed_of_tokenResult {s : State} {bs : List Byte} {t : Token} (h : tokenResult s bs t = 1) :
    signerNamed t = true ∧ t.src = lifecycle s := by
  unfold tokenResult at h
  dsimp only at h
  split at h
  · simp at h
  split at h
  · simp at h
  next hsigner =>
  split at h
  · simp at h
  split at h
  · simp at h
  split at h
  · simp at h
  next hmatch =>
  simp only [Bool.or_eq_true, not_or, Bool.not_eq_true', bne_iff_ne, ne_eq, Decidable.not_not] at hsigner hmatch
  exact ⟨by simpa using hsigner.1, hmatch.2⟩

/-- The one-time store of a state. -/
def StoreIs (f : OneTime) (s : State) : Prop := s.fuse = f

section
variable {f : OneTime} {s t : State}

theorem StoreIs.parts {ps : List Part} (h : StoreIs f s) (hp : PartsBut ps s t) (hf : Part.fuse ∉ ps) : StoreIs f t := (hp .fuse hf).trans h

protected theorem StoreIs.only {ps : List Part} {l : List Nat} (h : StoreIs f s) (ho : Only ps l s t) (hf : Part.fuse ∉ ps) : StoreIs f t :=
  h.parts ho.1 hf

protected theorem StoreIs.frame {ps : List Part} {k : Field → Bool} (h : StoreIs f s) (hf : Frame ps k s t) (hp : Part.fuse ∉ ps) :
    StoreIs f t := h.parts hf.parts hp

protected theorem StoreIs.ite {c : Prop} [Decidable c] (h : StoreIs f s) (g : StoreIs f t) : StoreIs f (if c then s else t) := by
  split
  · exact h
  · exact g

/-- An update of other parts of the state. -/
protected theorem StoreIs.upd {p r me fs pl l a ho c tr fl ma i pw ct n se sa sn fr} (h : StoreIs f s) :
    StoreIs f ⟨p, r, me, fs, pl, l, a, ho, c, tr, s.fuse, fl, ma, i, pw, ct, n, se, sa, sn, fr⟩ := h

variable (h : StoreIs f s)
include h

protected theorem StoreIs.setReg {o : Nat} {w : Word} : StoreIs f (setReg s o w) := h.only (only_setReg s o w) (by decide)
protected theorem StoreIs.setF {g : Field} {v : Nat} : StoreIs f (setF s g v) := h.only (only_setF s g v) (by decide)
protected theorem StoreIs.flag {g : Field} {n : Nat} : StoreIs f (flag s g n) := h.only (only_flag s g n) (by decide)
protected theorem StoreIs.send {x : Sent} : StoreIs f (send s x) := h.only (only_send s x) (by decide)
protected theorem StoreIs.setUnit {u : Nat} {x : UnitRun} : StoreIs f (setUnit s u x) := h
protected theorem StoreIs.setWindow {o : Nat} {bs : List Byte} : StoreIs f (setWindow s o bs) := h.only (only_setWindow s o bs) (by decide)
protected theorem StoreIs.showStore : StoreIs f (showStore s) := h.only (only_showStore s) (by decide)
protected theorem StoreIs.requestActivity {x : Activity} : StoreIs f (requestActivity s x) := h.only (only_requestActivity s x) (by decide)
protected theorem StoreIs.alarm1 {code : Nat} : StoreIs f (alarm1 s code) := h.frame (frame_alarm1 s code) (by decide)
protected theorem StoreIs.holdCause {c code : Nat} : StoreIs f (holdCause s c code) := h.frame (frame_holdCause s c code) (by decide)
protected theorem StoreIs.holdFault {code c die unit detail : Nat} : StoreIs f (holdFault s code c die unit detail) :=
  h.frame (frame_holdFault s code c die unit detail) (by decide)
protected theorem StoreIs.secDone {op tag result : Nat} : StoreIs f (secDone s op tag result) :=
  h.frame (frame_secDone s op tag result) (by decide)
protected theorem StoreIs.dropSession : StoreIs f (dropSession s) := h.frame (frame_dropSession s) (by decide)
protected theorem StoreIs.dropTenant : StoreIs f (dropTenant s) := h.frame (frame_dropTenant s) (by decide)
protected theorem StoreIs.dropMap : StoreIs f (dropMap s) := h.only (only_dropMap s) (by decide)

protected theorem StoreIs.tokenErase {t : Token} : StoreIs f (tokenErase s t) :=
  .ite (.dropMap (.ite h.dropSession.dropTenant h)) (.ite h.dropSession.dropTenant h)

end

theorem follows_tokenWrite (s : State) (t : Token) (h : s.fuse.sound) (ht : s.fuse.t < 13) : OneTime.Follows s.fuse (tokenWrite s t).fuse := by
  unfold tokenWrite
  dsimp only
  split
  · exact follows_writeCount (n := s.fuse.t + 1) (by omega) ht
  · exact .refl h
  · exact follows_writeCount (n := 13) (by omega) (by omega)
  · exact follows_writeCount (n := s.fuse.t + 1) (by omega) ht

/-- What a block does to the module that reads it as a token: its result, and the state before the nonce is replaced. -/
def tokenTaken (s : State) (bs : List Byte) : Nat × State :=
  match readToken bs with
  | none => (7, s)
  | some t =>
    let r := tokenResult s bs t
    if r ≠ 1 then (r, s)
    else if t.kind = 2 then (r, setF s F.SEC_STATUS_lock 0)
    else (r, showStore (tokenWrite (tokenErase s t) t))

/-- The nonce replaced and the command ended with its result. -/
def tokenDone (tag : Nat) (p : Nat × State) : State := secDone (setReg (takeFree p.2).2 Off.SEC_TOKEN_NONCE (takeFree p.2).1) 4 tag p.1

theorem lifecycleToken_eq (s : State) (tag : Nat) : lifecycleToken s tag = tokenDone tag (tokenTaken s (secBlock s 29984)) := by
  unfold lifecycleToken tokenDone tokenTaken
  generalize secBlock s 29984 = bs
  dsimp only <;> rfl

theorem follows_tokenTaken (s : State) (bs : List Byte) (h : s.fuse.sound) : OneTime.Follows s.fuse (tokenTaken s bs).2.fuse := by
  unfold tokenTaken
  split
  · exact .refl h
  next t _ =>
  dsimp only
  split
  · exact .refl h
  next hr =>
  split
  · exact .refl h
  next hk =>
  obtain ⟨hsigner, hsrc⟩ := signerNamed_of_tokenResult (of_not_not hr)
  have hlt : s.fuse.t < 13 := by
    have h5 := src_ne_five_of_signerNamed hk hsigner
    rw [hsrc, Ne, lifecycle_eq_five] at h5
    omega
  have herased : StoreIs s.fuse (tokenErase s t) := .tokenErase rfl
  rw [(only_showStore _).1 .fuse (by decide), ← herased]
  exact follows_tokenWrite _ t (herased.symm ▸ h) (herased.symm ▸ hlt)

theorem follows_lifecycleToken (s : State) (tag : Nat) (h : s.fuse.sound) : OneTime.Follows s.fuse (lifecycleToken s tag).fuse := by
  have hdone : StoreIs (tokenTaken s (secBlock s 29984)).2.fuse (lifecycleToken s tag) := by
    rw [lifecycleToken_eq]
    exact .secDone (.setReg (StoreIs.upd (s := (tokenTaken s (secBlock s 29984)).2) rfl))
  rw [hdone]
  exact follows_tokenTaken s _ h

theorem follows_raiseFloor (s : State) (tag : Nat) (h : s.fuse.sound) : OneTime.Follows s.fuse (raiseFloor s tag).fuse := by
  have hdone : ∀ r, OneTime.Follows s.fuse (secDone s 5 tag r).fuse := fun r => by
    rw [(frame_secDone s 5 tag r).fuse (by decide)]
    exact .refl h
  unfold raiseFloor
  dsimp only
  split
  · exact hdone _
  split
  · exact hdone _
  split
  · exact hdone _
  split
  · split
    · exact hdone _
    next l _ _ =>
    have hwritten : ∀ f, StoreIs f (secDone (showStore { s with fuse := f }) 5 tag 1) := fun f => .secDone (.showStore rfl)
    rw [hwritten]
    exact ⟨h, Nat.le_refl _, id⟩
  · exact hdone _

/-! ### A breach of the mesh, R421 -/

section
variable {f : OneTime} {s : State} (h : StoreIs f s)
include h

protected theorem StoreIs.closeRecord {minute w extra : Nat} : StoreIs f (closeRecord s minute w extra) := h.setWindow.setF.upd.upd

protected theorem StoreIs.partialRecord : StoreIs f (partialRecord s) := .ite h.closeRecord.upd h

protected theorem StoreIs.coldState {m : PowerMode} : StoreIs f (coldState s m) := h

protected theorem StoreIs.selfReset : StoreIs f (selfReset s) := .ite h.partialRecord.coldState.setF.setF.setF.setF.setF.setF.setF h

end

theorem fuse_breach (s : State) : (breach s).fuse = { writeCount s.fuse 13 with seed := List.replicate 96 0xFF, breach := true } := by
  have halarm : (alarm3 s 9).fuse = s.fuse := (frame_alarm3 s 9).fuse (by decide)
  have hbroken : ∀ (u : State) (f : OneTime), StoreIs f (selfReset { u with fuse := f }) := fun u f => .selfReset rfl
  rw [← halarm]
  unfold breach
  exact StoreIs.ite (hbroken _ _).setF (hbroken _ _)

theorem follows_breach (s : State) (h : s.fuse.t ≤ 13) : OneTime.Follows s.fuse (breach s).fuse := by
  rw [fuse_breach]
  exact ⟨⟨rfl, Nat.le_refl _⟩, h, fun _ => rfl⟩

/-- The resistances shown that a measurement of the mesh found. -/
def meshShown (s : State) (a b : Nat) : State :=
  if s.pwr.mode = .up then setF (setF s F.SEC_MESH_trace0 a) F.SEC_MESH_trace1 b else s

theorem meshMeasure_eq (s : State) (a b : Nat) (shorted : Bool) : meshMeasure s a b shorted =
    if meshBroken a b shorted && !(meshShown s a b).fuse.breach then breach (meshShown s a b) else meshShown s a b := rfl

theorem only_meshShown (s : State) (a b : Nat) : Only [] [Off.SEC_MESH] s (meshShown s a b) :=
  Only.ite (((only_setF s F.SEC_MESH_trace0 a).comp (only_setF _ F.SEC_MESH_trace1 b)).mono (by simp) (by decide)) (Only.rfl' _ _ s)

theorem follows_meshMeasure (s : State) (a b : Nat) (shorted : Bool) (h : s.fuse.sound) :
    OneTime.Follows s.fuse (meshMeasure s a b shorted).fuse := by
  have hshown : (meshShown s a b).fuse = s.fuse := (only_meshShown s a b).1 .fuse (by decide)
  rw [meshMeasure_eq, ← hshown]
  split
  · exact follows_breach _ (hshown ▸ h.2)
  · exact .refl (hshown ▸ h)

/-! ### The phases of bring-up leave the store, but for the first, R404 and R337 -/

section
variable {f : OneTime} {s : State} (h : StoreIs f s)
include h

protected theorem StoreIs.noteFail {code die : Nat} : StoreIs f (noteFail s code die) := h.setF.setF

protected theorem StoreIs.showFence {a : Nat} : StoreIs f (showFence s a) := h.setReg.setF.requestActivity

protected theorem StoreIs.fenceArray {a : Nat} : StoreIs f (fenceArray s a) := by
  rw [fenceArray_eq]
  exact .ite h.showFence.flag.holdFault h.showFence

protected theorem StoreIs.fenceVe {core : Nat} : StoreIs f (fenceVe s core) := by
  unfold fenceVe
  dsimp only
  split
  · split
    · exact h.upd.requestActivity.setUnit.setUnit
    · exact h.upd.requestActivity
  · exact h.upd.requestActivity.flag.holdFault

protected theorem StoreIs.fenceUnit {u : Nat} : StoreIs f (fenceUnit s u) :=
  .ite h.fenceArray (.ite h.fenceVe h.fenceArray.fenceArray.fenceVe)

protected theorem StoreIs.phaseFail {n : Nat} {r : PhaseReport} : StoreIs f (phaseFail s n r) := by
  unfold phaseFail
  split
  · exact h.noteFail.setF.setF.flag
  · exact h.noteFail.upd
  · exact h.noteFail.flag.upd.flag.holdFault
  · exact h.noteFail.fenceUnit
  · exact h.noteFail.flag.holdCause
  · exact h.noteFail.flag.holdCause
  · exact h.noteFail.upd
  · exact h

protected theorem StoreIs.imageAlarm {reason : Nat} : StoreIs f (imageAlarm s reason) := .ite h.alarm1 h

protected theorem StoreIs.selectImage {a b : Bool} : StoreIs f (selectImage s a b) := h.imageAlarm.imageAlarm.setReg.setReg.setF.setF

protected theorem StoreIs.clearBytes {a n : Nat} : StoreIs f (clearBytes s a n) := .ite h h

protected theorem StoreIs.restoreJournal : StoreIs f (restoreJournal s) := by
  have hrecords : ∀ (l : List (Nat × List Byte)) {u : State}, StoreIs f u →
      StoreIs f (l.foldl (fun s r => setWindow s (recordOff r.1) r.2) u) := by
    intro l
    induction l with
    | nil => exact fun h => h
    | cons r l ih => exact fun h => ih h.setWindow
  unfold restoreJournal
  extract_lets n s1 s2 s3 signed due d s4
  have h2 : StoreIs f s2 := hrecords _ h.upd
  have h4 : StoreIs f s4 := by
    refine .upd ?_
    unfold s3
    split
    · exact h2.setWindow.setF
    · exact h2
  split
  · exact h4.ite h4.upd
  · exact h4

protected theorem StoreIs.mountFlash {journalOk : Bool} : StoreIs f (mountFlash s journalOk) := by
  unfold mountFlash
  extract_lets s1 s2 s3 s4 g s5
  have h1 : StoreIs f s1 := .ite h.restoreJournal h.upd.upd.flag.send
  have h3 : StoreIs f s3 := .ite h1.setF.setF.setWindow.setF h1.setF.setF
  exact .ite h3 (.showStore (.ite h3.setF.upd h3.setF.upd.setReg))

end

/-- The first phase repairs a count of which the copies differ, and draws the seed of a store that has none. -/
theorem follows_checkStore (s : State) (h : s.fuse.sound) : OneTime.Follows s.fuse (checkStore s).fuse := by
  have hcopies : ¬s.fuse.t ≠ s.fuse.tCopy := fun hne => hne h.1
  unfold checkStore
  dsimp only
  rw [(only_showStore _).1 .fuse (by decide)]
  simp only [if_neg hcopies]
  split
  · exact ⟨h, Nat.le_refl _, id⟩
  · exact .refl h

theorem follows_phaseWork {f : OneTime} {s : State} (hs : StoreIs f s) (h : f.sound) (n : Nat) (r : PhaseReport) :
    OneTime.Follows f (phaseWork s n r).fuse := by
  have hkept : ∀ t, StoreIs f t → OneTime.Follows f t.fuse := fun t ht => ht.symm ▸ .refl h
  unfold phaseWork
  split
  · exact hs ▸ follows_checkStore s (hs.symm ▸ h)
  · exact hkept _ hs.selectImage
  · exact hkept _ hs.clearBytes
  · exact hkept _ hs.mountFlash
  · exact hkept _ hs

theorem follows_bringupPhase (s : State) (n : Nat) (r : PhaseReport) (h : s.fuse.sound) :
    OneTime.Follows s.fuse (bringupPhase s n r).fuse := by
  have hfail : StoreIs s.fuse (phaseFail { s with pwr := { s.pwr with phases := s.pwr.phases ++ [n] } } n r) := .phaseFail rfl
  unfold bringupPhase
  split
  · exact .refl h
  · rw [setF_fuse]
    exact follows_phaseWork hfail h n r

/-! ### Every command, R406 -/

theorem exec_follows (c : Instr) (s t : State) (h : s.fuse.sound) (he : exec c s = .next t) : OneTime.Follows s.fuse t.fuse := by
  cases hp : programsStore c with
  | false =>
    obtain ⟨u, hu, hfuse⟩ := exec_keepsStore c s hp
    rw [he] at hu
    cases hu
    rw [hfuse]
    exact .refl h
  | true =>
    have hup : ∀ v : State, OneTime.Follows s.fuse v.fuse → OneTime.Follows s.fuse (if s.pwr.mode = .up then v else s).fuse := fun v hv => by
      split
      · exact hv
      · exact .refl h
    have hhost : ∀ f : State → State, OneTime.Follows s.fuse (f s).fuse → OneTime.Follows s.fuse (hostStep s f).fuse := fun f hf => by
      unfold hostStep
      split
      · exact hf
      · exact .refl h
    cases c with
    | lifecycleToken tag =>
      rw [(settleFuse_keeps s _ t he).2]
      exact hup _ (hhost (lifecycleToken · tag) (follows_lifecycleToken s tag h))
    | raiseFloor tag =>
      rw [(settleFuse_keeps s _ t he).2]
      exact hup _ (hhost (raiseFloor · tag) (follows_raiseFloor s tag h))
    | meshMeasure a b shorted =>
      rw [(settleFuse_keeps s _ t he).2]
      exact follows_meshMeasure s a b shorted h
    | bringupPhaseEnd n r =>
      rw [(settleFuse_keeps s _ t he).2]
      exact hup _ (follows_bringupPhase s n r h)
    | _ => cases hp

/-- Settles O58: a step runs one command or none, and every command leaves a store that may follow the one before. -/
theorem theOneTimeStoreStaysSound : Obligations.TheOneTimeStoreStaysSound := by
  intro s t h hstep
  have hfollows : OneTime.Follows s.fuse t.fuse := by
    unfold step at hstep
    split at hstep
    · cases hstep
      exact .refl h
    next c rest _ => exact exec_follows c { s with pending := rest } t h hstep
  obtain ⟨hsound, hcount, hbreach⟩ := hfollows
  refine ⟨hsound, hcount, hbreach, ?_⟩
  rw [lifecycle_eq_five, lifecycle_eq_five]
  omega

end Sys2Proof.Machine
end

section
/-!
PROOFS. How the commands of the host and of the rack controller reach the module; the withdrawal of a frozen set (R353) and the slices
that the host requests (R401).
-/

namespace Sys2Proof.Machine

/-! ### What a command does -/

theorem PartsBut.weaken {ps qs : List Part} {s t : State} (h : PartsBut ps s t) (hp : ∀ p ∈ ps, p ∈ qs) : PartsBut qs s t :=
  fun p hq => h p fun hm => hq (hp p hm)

section
variable {c : Instr} {s t u : State} {p : State → Prop} {ps : List Part}

/-- A command of a module that is up, of which the frame leaves the queue and the one-time store. -/
theorem does_parts (he : exec c s = settle s t) (hw : t = u) (h : Up s) (ho : PartsBut ps s u) (hq : Part.pending ∉ ps) (hf : Part.fuse ∉ ps)
    (hp : p u) : Does c s p :=
  does_settle (he.trans (congrArg (settle s) hw)) h (ho .pending hq) (ho .fuse hf) hp

theorem does_hostParts {f : State → State} (he : exec c s = settle s (hostStep s f)) (hw : f s = u) (h : HostUp s) (ho : PartsBut ps s u)
    (hq : Part.pending ∉ ps) (hf : Part.fuse ∉ ps) (hp : p u) : Does c s p :=
  does_parts he ((if_pos h.2).trans hw) h.1 ho hq hf hp

theorem does_rackParts {f : State → State} (he : exec c s = settle s (rackStep s f)) (hw : f s = u) (h : RackUp s) (ho : PartsBut ps s u)
    (hq : Part.pending ∉ ps) (hf : Part.fuse ∉ ps) (hp : p u) : Does c s p :=
  does_parts he ((if_pos h.2).trans hw) h.1 ho hq hf hp

end

theorem only_rackReply (s : State) (status : Nat) (ws : List Word) : Only [.sent] [] s (rackReply s status ws) := only_send s _

/-! ### A frozen set withdrawn, R353 -/

/-- The registers that a withdrawal changes. -/
def discardRegs : List Nat := [Off.CTL_CROZIER, Off.CTL_CROZIER_SLOT, Off.CTL_CROZIER_CNT, Off.CTL_STATUS, Off.HST_IRQ_PENDING]

/-- What a set discarded with a result shows. -/
def Discarded (result : Nat) (t : State) : Prop :=
  t.ctl.frozen = none ∧ getF t F.CTL_CROZIER_result = result ∧ hasF t F.CTL_STATUS_crozier_discarded = true

theorem discarded_discardSet {s : State} {z : Crozier} (h : s.ctl.frozen = some z) (result offset : Nat) (hr : result < 16) :
    Discarded result (discardSet s result offset) := by
  have hctl : ∀ u : State, (flag u F.CTL_STATUS_crozier_discarded 13).ctl = u.ctl := fun u => (only_flag u _ 13).1 .ctl (by decide)
  rw [discardSet_of_frozen h]
  refine ⟨?_, ?_, hasF_flag _ _ _ (by decide) (by decide) (by decide)⟩
  · rw [hctl, discardEntered, bumpF_ctl, setF_ctl, setReg_ctl]
  · rw [getF_flag_other _ _ _ _ (by decide) (by decide) (by decide)]
    unfold discardEntered getF
    rw [getReg_bumpF_other _ _ _ _ (by decide), getReg_setF_other _ _ _ _ (by decide)]
    dsimp only [F.CTL_CROZIER_result]
    rw [getReg_setReg_self]
    unfold bits
    rw [BitVec.toNat_ofNat]
    show (2 ^ 4 * result + 2 ^ 8 * z.changed + 2 ^ 16 * offset) % 2 ^ 64 / 2 ^ 4 % 2 ^ 4 = result
    omega

/-- The slot of the latest write of CTL_COMMIT noted. -/
def abortNoted (s : State) : State := { s with ctl := { s.ctl with wroteAt := slot s } }

theorem commitAbort_of_frozen {s : State} {src : Nat} {z : Crozier} (hm : mayStage s src = true) (hz : s.ctl.frozen = some z) :
    commitAbort s src = match z.commit with
      | some c => if slot s + 2 < c then discardSet (abortNoted s) 5 0 else setF (abortNoted s) F.CTL_STATUS_abort_late 1
      | none => discardSet (abortNoted s) 5 0 := by
  unfold commitAbort
  rw [if_neg (by simp [hm])]
  dsimp only
  split
  next y hy =>
    obtain rfl : z = y := Option.some.inj (hz.symm.trans hy)
    rfl
  next hy => cases hz.symm.trans hy

theorem commitAbort_early {s : State} {src : Nat} {z : Crozier} (hm : mayStage s src = true) (hz : s.ctl.frozen = some z)
    (hc : z.commit = none ∨ ∃ c, z.commit = some c ∧ slot s + 2 < c) : commitAbort s src = discardSet (abortNoted s) 5 0 := by
  rw [commitAbort_of_frozen hm hz]
  rcases hc with hc | ⟨c, hc, hlt⟩
  · rw [hc]
  · rw [hc]
    exact if_pos hlt

theorem commitAbort_late {s : State} {src c : Nat} {z : Crozier} (hm : mayStage s src = true) (hz : s.ctl.frozen = some z)
    (hc : z.commit = some c) (hle : c ≤ slot s + 2) : commitAbort s src = setF (abortNoted s) F.CTL_STATUS_abort_late 1 := by
  rw [commitAbort_of_frozen hm hz, hc]
  exact if_neg (Nat.not_lt.mpr hle)

theorem only_abortNoted (s : State) : Only [.ctl] [] s (abortNoted s) := only_ctl s _

theorem only_withdrawn (s : State) : Only [.ctl, .host, .sent] discardRegs s (discardSet (abortNoted s) 5 0) :=
  ((only_abortNoted s).comp (only_discardSet _ 5 0)).mono (by decide) fun _ h => h

theorem only_lateAbort (s : State) : Only [.ctl] [Off.CTL_STATUS] s (setF (abortNoted s) F.CTL_STATUS_abort_late 1) :=
  (only_abortNoted s).comp (only_setF _ F.CTL_STATUS_abort_late 1)

theorem ctl_lateAbort (s : State) :
    (setF (abortNoted s) F.CTL_STATUS_abort_late 1).ctl = { s.ctl with wroteAt := slot s } := setF_ctl _ _ _

theorem does_commitAbort_early {s : State} {z : Crozier} (h : HostUp s) (hm : mayStage s 1 = true) (hz : s.ctl.frozen = some z)
    (hc : z.commit = none ∨ ∃ c, z.commit = some c ∧ slot s + 2 < c) :
    Does .commitAbort s fun t => t.ctl.frozen = none ∧ getF t F.CTL_CROZIER_result = 5 ∧ hasF t F.CTL_STATUS_crozier_discarded = true ∧
      Only [.ctl, .host, .sent] discardRegs s t := by
  obtain ⟨hnone, hresult, hflag⟩ := discarded_discardSet (s := abortNoted s) hz 5 0 (by decide)
  exact does_hostStep_eq rfl (commitAbort_early hm hz hc) h (only_withdrawn s) (by decide) (by decide)
    ⟨hnone, hresult, hflag, only_withdrawn s⟩

/-- A write of CTL_COMMIT over the rack bus that a stager makes, with the state that the command leaves. -/
theorem does_writeCommit {s u : State} {v : Word} {p : State → Prop} {ps : List Part} (h : RackUp s) (hm : mayStage s 2 = true)
    (hw : commitWrite s 2 v = u) (ho : PartsBut ps s u) (hq : Part.pending ∉ ps) (hf : Part.fuse ∉ ps) (hp : p (rackReply u 0 [])) :
    Does (.write Off.CTL_COMMIT v) s p := by
  have hwrite : rackWrite s Off.CTL_COMMIT v = rackReply u 0 [] := by
    unfold rackWrite
    rw [if_neg (by decide), if_pos rfl, hw, if_pos hm]
  refine does_rackParts (ps := .sent :: ps) rfl hwrite h ?_ (by simpa using hq) (by simpa using hf) hp
  exact (ho.weaken fun _ hq => List.mem_cons_of_mem _ hq).trans (PartsBut.weaken (only_rackReply u 0 []).1 (by simp))

theorem commitWrite_abort {s : State} {v : Word} (hv : bits v 1 0 = 2) (src : Nat) : commitWrite s src v = commitAbort s src := by
  simp only [commitWrite, hv]

/-- Settles O13: the abort of the host and the abort of the rack controller are one operation, of a set early or late. -/
theorem abortWithdrawsASetBeforeItsSlot : Obligations.AbortWithdrawsASetBeforeItsSlot := by
  refine ⟨fun s z h hm hz hc => does_commitAbort_early h hm hz (.inl hc),
    fun s z c h hm hz hc hlt => does_commitAbort_early h hm hz (.inr ⟨c, hc, hlt⟩), ?_, ?_, ?_⟩
  · intro s z c h hm hz hc hle
    refine does_hostStep_eq rfl (commitAbort_late hm hz hc hle) h (only_lateAbort s) (by decide) (by decide) ?_
    rw [ctl_lateAbort]
    exact ⟨hz, rfl, hasF_setF_one _ _ (by decide) (by decide), only_lateAbort s⟩
  · intro s v z c h hv hm hz hc
    have hw := (commitWrite_abort hv 2).trans (commitAbort_early hm hz (hc.imp_right fun hc => ⟨c, hc⟩))
    obtain ⟨hnone, hresult, -⟩ := discarded_discardSet (s := abortNoted s) hz 5 0 (by decide)
    have hreply := only_rackReply (discardSet (abortNoted s) 5 0) 0 []
    refine does_writeCommit h hm hw (only_withdrawn s).1 (by decide) (by decide) ?_
    rw [hreply.1 .ctl (by decide), hreply.field F.CTL_CROZIER_result (by decide)]
    exact ⟨hnone, hresult⟩
  · intro s v z c h hv hm hz hc hle
    have hw := (commitWrite_abort hv 2).trans (commitAbort_late hm hz hc hle)
    have hreply := only_rackReply (setF (abortNoted s) F.CTL_STATUS_abort_late 1) 0 []
    refine does_writeCommit h hm hw (only_lateAbort s).1 (by decide) (by decide) ?_
    rw [hreply.1 .ctl (by decide), hreply.hasF_eq F.CTL_STATUS_abort_late (by decide), ctl_lateAbort]
    exact ⟨hz, hasF_setF_one _ _ (by decide) (by decide)⟩

/-! ### The slices that the host requests, R401 -/

/-- Settles O49: the two sides of the test of the lifecycle. -/
theorem hostSlicesNeedManufactureOrReturn : Obligations.HostSlicesNeedManufactureOrReturn := by
  refine ⟨fun s k u h hl hk hu => ?_, fun s k u h h0 h4 => ?_⟩
  · have hcmd : bistCmd s k u = requestActivity s ⟨0, k, u⟩ := by
      unfold bistCmd
      dsimp only
      rw [if_neg (by omega), if_neg (by omega), Nat.mod_eq_of_lt (show k < 8 by omega), Nat.mod_eq_of_lt hu]
    have honly := only_requestActivity s ⟨0, k, u⟩
    exact does_hostStep_eq rfl hcmd h honly (by decide) (by decide) ⟨mem_requestActivity s _, honly⟩
  · have hcmd : bistCmd s k u = setF s F.SAF_STATUS_bist_refused 1 := if_pos ⟨h0, h4⟩
    have honly := only_setF s F.SAF_STATUS_bist_refused 1
    exact does_hostStep_eq rfl hcmd h honly (by decide) (by decide) ⟨hasF_setF_one _ _ (by decide) (by decide), honly⟩

end Sys2Proof.Machine
end

section
/-!
PROOFS. The programming of configuration copies (R346) and bring-up to DEVICE_READY (R337 to R339, R344).
-/

namespace Sys2Proof.Machine

theorem getF_setF_of_lt (s : State) (f : Field) {v : Nat} (h : f.hi < 64) (hv : v < 2 ^ (f.hi + 1 - f.lo)) : getF (setF s f v) f = v := by
  rw [getF_setF_same s f v h, Nat.mod_eq_of_lt hv]

/-! ### Configuration copies, R346 -/

theorem imageReason_lt (s : State) (ok : Bool) (bs : List Byte) : imageReason s ok bs < 8 := by
  unfold imageReason
  split
  · decide
  split
  · decide
  split
  · decide
  split
  · decide
  split
  · decide
  split
  · decide
  split
  · decide
  · decide

theorem frame_imageAlarm (s : State) (reason : Nat) : Frame alarmParts besideAlarm s (imageAlarm s reason) :=
  Frame.ite (frame_alarm1 s 1) (Frame.rfl' _ _ s)

theorem prog_imageAlarm (s : State) (reason : Nat) : (imageAlarm s reason).ctl.prog = s.ctl.prog := by
  unfold imageAlarm
  split
  · exact alarm1_prog s 1
  · rfl

theorem only_cfgFailed (s : State) (result reason : Nat) :
    Only eventParts [Off.CTL_CFG_STATUS, Off.CTL_STATUS, Off.HST_IRQ_PENDING] s (cfgFailed s result reason) :=
  (((only_setF s F.CTL_CFG_STATUS_result result).comp (only_setF _ F.CTL_CFG_STATUS_reason reason)).comp
    (only_flag _ F.CTL_STATUS_cfg_fail 13)).mono (by decide) (by decide)

/-- What a programming that failed shows. -/
def CfgShows (result reason : Nat) (t : State) : Prop :=
  getF t F.CTL_CFG_STATUS_result = result ∧ getF t F.CTL_CFG_STATUS_reason = reason ∧ hasF t F.CTL_STATUS_cfg_fail = true

theorem cfgShows_cfgFailed (s : State) {result reason : Nat} (hresult : result < 16) (hreason : reason < 8) :
    CfgShows result reason (cfgFailed s result reason) := by
  unfold cfgFailed
  refine ⟨?_, ?_, hasF_flag _ _ _ (by decide) (by decide) (by decide)⟩
  · rw [getF_flag_other _ _ _ _ (by decide) (by decide) (by decide), getF_setF_other _ _ _ _ (by decide) (by decide)]
    exact getF_setF_of_lt _ _ (by decide) hresult
  · rw [getF_flag_other _ _ _ _ (by decide) (by decide) (by decide)]
    exact getF_setF_of_lt _ _ (by decide) hreason

/-- The fields of CTL_CFG_STATUS that a failure leaves. -/
theorem getF_cfgFailed_other (s : State) (result reason : Nat) (g : Field) (h1 : F.CTL_CFG_STATUS_result.apart g = true)
    (h2 : F.CTL_CFG_STATUS_reason.apart g = true) (h3 : F.CTL_STATUS_cfg_fail.apart g = true) (h4 : g.off ≠ Off.HST_IRQ_PENDING) :
    getF (cfgFailed s result reason) g = getF s g := by
  unfold cfgFailed
  rw [getF_flag_other _ _ _ _ (by decide) h3 h4, getF_setF_other _ _ _ _ (by decide) h2, getF_setF_other _ _ _ _ (by decide) h1]

theorem CfgShows.imageAlarm {result reason : Nat} {s : State} (h : CfgShows result reason s) (r : Nat) :
    CfgShows result reason (imageAlarm s r) := by
  have hframe := frame_imageAlarm s r
  obtain ⟨hresult, hreason, hfail⟩ := h
  exact ⟨(hframe.fields _ (by decide)).trans hresult, (hframe.fields _ (by decide)).trans hreason, (hframe.hasF_eq _ (by decide)).trans hfail⟩

/-- The stack tier's image of n bytes that CTL_CFG_PROG names. -/
def cfgImage (s : State) (n : Nat) : List Byte := rd s (4096 * getF s F.CTL_CFG_PROG_addr) n

/-- The length noted that a request names. -/
def cfgAsked (s : State) (n : Nat) : State := setF s F.CTL_CFG_LEN_bytes n

/-- The target erased, with the job under way. -/
def cfgStarted (s : State) (n : Nat) : State :=
  let u := setReg (setCopy (cfgAsked s n) (hasF s F.CTL_CFG_PROG_copy) []) Off.CTL_CFG_STATUS 2
  { u with ctl := { u.ctl with prog := some ⟨hasF s F.CTL_CFG_PROG_copy, cfgImage s n⟩ } }

/-- The request refused for the reason that its image gives. -/
def cfgRefused (s : State) (n : Nat) : State :=
  imageAlarm (cfgFailed (cfgAsked s n) 2 (imageReason s true (cfgImage s n))) (imageReason s true (cfgImage s n))

theorem cfgProgram_of_target {s : State} {n : Nat} (hn : n ≤ 16777216) (hp : s.ctl.prog = none) (hl : lifecycle s ≠ 5)
    (hsrc : getF s F.CTL_STATUS_config_source ≠ (if hasF s F.CTL_CFG_PROG_copy then 2 else 1))
    (ha : inStackTier (4096 * getF s F.CTL_CFG_PROG_addr) n = true) :
    cfgProgram s n = if imageReason s true (cfgImage s n) ≠ 0 then cfgRefused s n else cfgStarted s n := by
  have honly : Only [] [Off.CTL_CFG_LEN] s (cfgAsked s n) := only_setF s F.CTL_CFG_LEN_bytes n
  have hreason : ∀ bs, imageReason (cfgAsked s n) true bs = imageReason s true bs := fun _ => rfl
  have himage : rd (cfgAsked s n) (4096 * getF s F.CTL_CFG_PROG_addr) n = cfgImage s n := rfl
  have hprog : ¬(cfgAsked s n).ctl.prog.isSome = true := by simp [cfgAsked, hp]
  unfold cfgProgram
  rw [Nat.mod_eq_of_lt (show n < 2 ^ 25 by omega)]
  dsimp only
  rw [← cfgAsked, honly.field F.CTL_CFG_PROG_addr (by decide), honly.hasF_eq F.CTL_CFG_PROG_copy (by decide),
    honly.field F.CTL_STATUS_config_source (by decide), Nat.min_eq_left hn, if_neg hprog, if_neg (show ¬lifecycle (cfgAsked s n) = 5 from hl),
    if_neg hsrc, ha, if_pos rfl, himage, hreason]
  rfl

theorem frame_cfgRefused (s : State) (n : Nat) : PartsBut alarmParts s (cfgRefused s n) :=
  (((only_setF s F.CTL_CFG_LEN_bytes n).comp (only_cfgFailed _ 2 _)).frame.comp (frame_imageAlarm _ _)).mono (qs := alarmParts) (by decide)
    (fun _ h => h) |>.parts

theorem only_cfgStarted (s : State) (n : Nat) : Only [.nv, .ctl] [Off.CTL_CFG_LEN, Off.CTL_CFG_STATUS] s (cfgStarted s n) :=
  (((only_setF s F.CTL_CFG_LEN_bytes n).comp (only_nv _ _)).comp (only_setReg _ Off.CTL_CFG_STATUS 2)).comp (only_ctl _ _)

theorem does_cfgProgram {s : State} {n : Nat} (h : HostUp s) (hn : n ≤ 16777216) (hp : s.ctl.prog = none) (hl : lifecycle s ≠ 5)
    (hsrc : getF s F.CTL_STATUS_config_source ≠ (if hasF s F.CTL_CFG_PROG_copy then 2 else 1))
    (ha : inStackTier (4096 * getF s F.CTL_CFG_PROG_addr) n = true) :
    Does (.cfgProgram n) s fun t =>
      (imageReason s true (cfgImage s n) = 0 → t.ctl.prog = some ⟨hasF s F.CTL_CFG_PROG_copy, cfgImage s n⟩ ∧
        getReg t Off.CTL_CFG_STATUS = 2 ∧ (if hasF s F.CTL_CFG_PROG_copy then t.nv.copyB = [] else t.nv.copyA = [])) ∧
      (imageReason s true (cfgImage s n) ≠ 0 → t.ctl.prog = none ∧ getF t F.CTL_CFG_STATUS_result = 2 ∧
        getF t F.CTL_CFG_STATUS_reason = imageReason s true (cfgImage s n) ∧ hasF t F.CTL_STATUS_cfg_fail = true ∧
        t.nv.copyA = s.nv.copyA ∧ t.nv.copyB = s.nv.copyB) := by
  have hcmd := cfgProgram_of_target hn hp hl hsrc ha
  by_cases hr : imageReason s true (cfgImage s n) = 0
  · have hstarted := hcmd.trans (if_neg (not_not_intro hr))
    refine does_hostStep_eq rfl hstarted h (only_cfgStarted s n) (by decide) (by decide) ⟨fun _ => ⟨rfl, ?_, ?_⟩, fun hne => absurd hr hne⟩
    · exact ((only_ctl _ _).2 Off.CTL_CFG_STATUS (by simp)).trans (getReg_setReg_self _ Off.CTL_CFG_STATUS 2)
    · show if hasF s F.CTL_CFG_PROG_copy then (setCopy s (hasF s F.CTL_CFG_PROG_copy) []).nv.copyB = [] else
        (setCopy s (hasF s F.CTL_CFG_PROG_copy) []).nv.copyA = []
      cases hasF s F.CTL_CFG_PROG_copy <;> rfl
  · have hrefused := hcmd.trans (if_pos hr)
    have hparts := frame_cfgRefused s n
    obtain ⟨hresult, hreason, hfail⟩ : CfgShows 2 _ (cfgRefused s n) :=
      (cfgShows_cfgFailed _ (by decide) (imageReason_lt s true (cfgImage s n))).imageAlarm _
    have hnv : (cfgRefused s n).nv = s.nv := hparts .nv (by decide)
    have hprog : (cfgRefused s n).ctl.prog = s.ctl.prog := by
      rw [cfgRefused, prog_imageAlarm, (only_cfgFailed _ _ _).1 .ctl (by decide), cfgAsked, setF_ctl]
    refine does_hostParts rfl hrefused h hparts (by decide) (by decide) ⟨fun h0 => absurd h0 hr, fun _ => ?_⟩
    rw [hnv, hprog]
    exact ⟨hp, hresult, hreason, hfail, rfl, rfl⟩

/-- The job over and no state of programming shown. -/
def cfgEnded (s : State) : State := setF { s with ctl := { s.ctl with prog := none } } F.CTL_CFG_STATUS_state 0

theorem only_cfgEnded (s : State) : Only [.ctl] [Off.CTL_CFG_STATUS] s (cfgEnded s) := (only_ctl s _).comp (only_setF _ F.CTL_CFG_STATUS_state 0)

theorem prog_cfgEnded (s : State) : (cfgEnded s).ctl.prog = none := by rw [cfgEnded, setF_ctl]

/-- The copy in place that a job wrote, with its length shown. -/
def cfgWritten (s : State) (j : CfgJob) : State := setF (setCopy (cfgEnded s) j.copyB j.bytes) F.CTL_CFG_STATUS_done_bytes j.bytes.length

theorem only_cfgWritten (s : State) (j : CfgJob) : Only [.ctl, .nv] [Off.CTL_CFG_STATUS] s (cfgWritten s j) :=
  (((only_cfgEnded s).comp (only_nv _ _)).comp (only_setF _ F.CTL_CFG_STATUS_done_bytes _)).mono (by decide) (by decide)

theorem doneBytes_cfgWritten (s : State) (j : CfgJob) :
    getF (cfgWritten s j) F.CTL_CFG_STATUS_done_bytes = j.bytes.length % 2 ^ 25 := getF_setF_same _ _ _ (by decide)

theorem prog_cfgWritten (s : State) (j : CfgJob) : (cfgWritten s j).ctl.prog = none := by
  rw [cfgWritten, setF_ctl]
  exact prog_cfgEnded s

theorem copy_cfgWritten (s : State) (j : CfgJob) :
    if j.copyB then (cfgWritten s j).nv.copyB = j.bytes else (cfgWritten s j).nv.copyA = j.bytes := by
  have hnv : (cfgWritten s j).nv = (setCopy (cfgEnded s) j.copyB j.bytes).nv := setF_nv _ _ _
  rw [hnv, setCopy]
  cases j.copyB <;> rfl

/-- The copy accepted that read back without an error. -/
def cfgAccepted (s : State) (j : CfgJob) : State :=
  flag (setF (setF (cfgWritten s j) F.CTL_CFG_STATUS_result 1) F.CTL_CFG_STATUS_reason 0) F.CTL_STATUS_cfg_done 13

theorem only_cfgAccepted (s : State) (j : CfgJob) :
    Only [.host, .sent] [Off.CTL_CFG_STATUS, Off.CTL_STATUS, Off.HST_IRQ_PENDING] (cfgWritten s j) (cfgAccepted s j) :=
  (((only_setF _ F.CTL_CFG_STATUS_result 1).comp (only_setF _ F.CTL_CFG_STATUS_reason 0)).comp
    (only_flag _ F.CTL_STATUS_cfg_done 13)).mono (by decide) (by decide)

theorem getF_cfgAccepted_doneBytes (s : State) (j : CfgJob) :
    getF (cfgAccepted s j) F.CTL_CFG_STATUS_done_bytes = getF (cfgWritten s j) F.CTL_CFG_STATUS_done_bytes := by
  unfold cfgAccepted
  rw [getF_flag_other _ _ _ _ (by decide) (by decide) (by decide), getF_setF_other _ _ _ _ (by decide) (by decide),
    getF_setF_other _ _ _ _ (by decide) (by decide)]

theorem getF_cfgAccepted_result (s : State) (j : CfgJob) : getF (cfgAccepted s j) F.CTL_CFG_STATUS_result = 1 := by
  unfold cfgAccepted
  rw [getF_flag_other _ _ _ _ (by decide) (by decide) (by decide), getF_setF_other _ _ _ _ (by decide) (by decide)]
  exact getF_setF_of_lt _ _ (by decide) (by decide)

/-- The copy rejected that read back with a reason. -/
def cfgRejected (s : State) (j : CfgJob) : State :=
  imageAlarm (cfgFailed (cfgWritten s j) 2 (imageReason s true j.bytes)) (imageReason s true j.bytes)

theorem cfgDone_true {s : State} {j : CfgJob} (h : s.ctl.prog = some j) :
    cfgDone s true = if imageReason s true j.bytes ≠ 0 then cfgRejected s j else cfgAccepted s j := by
  unfold cfgDone
  rw [h]
  rfl

theorem cfgDone_false {s : State} {j : CfgJob} (h : s.ctl.prog = some j) : cfgDone s false = cfgFailed (cfgEnded s) 5 0 := by
  unfold cfgDone
  rw [h]
  rfl

theorem does_cfgProgramDone_false {s : State} {j : CfgJob} (h : Up s) (hj : s.ctl.prog = some j) :
    Does (.cfgProgramDone false) s fun t => t.ctl.prog = none ∧ getF t F.CTL_CFG_STATUS_state = 0 ∧ getF t F.CTL_CFG_STATUS_result = 5 ∧
      hasF t F.CTL_STATUS_cfg_fail = true ∧ t.nv = s.nv := by
  have hfailed := only_cfgFailed (cfgEnded s) 5 0
  have hparts := ((only_cfgEnded s).comp hfailed).1
  obtain ⟨hresult, -, hfail⟩ := cfgShows_cfgFailed (cfgEnded s) (result := 5) (reason := 0) (by decide) (by decide)
  refine does_parts rfl (cfgDone_false hj) h hparts (by decide) (by decide) ⟨?_, ?_, hresult, hfail, hparts .nv (by decide)⟩
  · rw [hfailed.1 .ctl (by decide), prog_cfgEnded]
  · rw [getF_cfgFailed_other _ _ _ _ (by decide) (by decide) (by decide) (by decide), cfgEnded]
    exact getF_setF_of_lt _ _ (by decide) (by decide)

theorem does_cfgProgramDone_true {s : State} {j : CfgJob} (h : Up s) (hj : s.ctl.prog = some j) :
    Does (.cfgProgramDone true) s fun t => t.ctl.prog = none ∧ getF t F.CTL_CFG_STATUS_done_bytes = j.bytes.length % 2 ^ 25 ∧
      (if j.copyB then t.nv.copyB = j.bytes else t.nv.copyA = j.bytes) ∧
      (imageReason s true j.bytes = 0 → getF t F.CTL_CFG_STATUS_result = 1 ∧ hasF t F.CTL_STATUS_cfg_done = true) ∧
      (imageReason s true j.bytes ≠ 0 → getF t F.CTL_CFG_STATUS_result = 2 ∧ hasF t F.CTL_STATUS_cfg_fail = true) := by
  have hwritten := only_cfgWritten s j
  by_cases hr : imageReason s true j.bytes = 0
  · have haccepted := only_cfgAccepted s j
    refine does_parts rfl ((cfgDone_true hj).trans (if_neg (not_not_intro hr))) h (hwritten.comp haccepted).1 (by decide) (by decide) ?_
    rw [haccepted.1 .ctl (by decide), haccepted.1 .nv (by decide), getF_cfgAccepted_doneBytes]
    exact ⟨prog_cfgWritten s j, doneBytes_cfgWritten s j, copy_cfgWritten s j,
      fun _ => ⟨getF_cfgAccepted_result s j, hasF_flag _ _ _ (by decide) (by decide) (by decide)⟩, fun hne => absurd hr hne⟩
  · have hfailed := only_cfgFailed (cfgWritten s j) 2 (imageReason s true j.bytes)
    have halarm := frame_imageAlarm (cfgFailed (cfgWritten s j) 2 (imageReason s true j.bytes)) (imageReason s true j.bytes)
    obtain ⟨hresult, -, hfail⟩ : CfgShows 2 _ (cfgRejected s j) :=
      (cfgShows_cfgFailed (cfgWritten s j) (by decide) (imageReason_lt s true j.bytes)).imageAlarm _
    have hnv : (cfgRejected s j).nv = (cfgWritten s j).nv := (halarm.parts .nv (by decide)).trans (hfailed.1 .nv (by decide))
    refine does_parts rfl ((cfgDone_true hj).trans (if_pos hr)) h ((hwritten.comp hfailed).frame.comp halarm).parts (by decide) (by decide)
      ⟨?_, ?_, ?_, fun h0 => absurd h0 hr, fun _ => ⟨hresult, hfail⟩⟩
    · rw [cfgRejected, prog_imageAlarm, hfailed.1 .ctl (by decide), prog_cfgWritten]
    · rw [cfgRejected, halarm.fields _ (by decide), getF_cfgFailed_other _ _ _ _ (by decide) (by decide) (by decide) (by decide),
        doneBytes_cfgWritten]
    · rw [hnv]
      exact copy_cfgWritten s j

/-- Settles O6: the request by what its image gives, and the end of the job by what the flash and the read-back give. -/
theorem configurationCopiesAreProgrammed : Obligations.ConfigurationCopiesAreProgrammed :=
  ⟨fun _ _ h hn hp hl hsrc ha => does_cfgProgram h hn hp hl hsrc ha, fun _ _ h hj => does_cfgProgramDone_false h hj,
    fun _ _ h hj => does_cfgProgramDone_true h hj⟩

/-! ### Bring-up, R337 to R339 and R344 -/

/-- A phase noted as ended. -/
def phaseNoted (s : State) (n : Nat) : State := { s with pwr := { s.pwr with phases := s.pwr.phases ++ [n] } }

theorem only_phaseNoted (s : State) (n : Nat) : Only [.pwr] [] s (phaseNoted s n) := only_pwr s _

theorem phaseEnded_phaseNoted (s : State) (n : Nat) : phaseEnded (phaseNoted s n) n = true := by
  simp [phaseEnded, phaseNoted, List.contains_eq_mem]

/-- A phase that is due, with its failures, its work and its number shown. -/
def phaseRun (s : State) (n : Nat) (r : PhaseReport) : State := setF (phaseWork (phaseFail (phaseNoted s n) n r) n r) F.CTL_BRINGUP_phase n

theorem bringupPhase_of_due {s : State} {n : Nat} (h : phaseDue s n = true) (r : PhaseReport) : bringupPhase s n r = phaseRun s n r :=
  if_neg (by simp [h])

theorem phaseDue_le {s : State} {n : Nat} (h : phaseDue s n = true) : n ≤ 7 := by
  simp only [phaseDue, Bool.and_eq_true, Bool.or_eq_true, beq_iff_eq, decide_eq_true_eq] at h
  omega

theorem pairBad_of_phaseDue {s : State} {n : Nat} (h : phaseDue s n = true) : s.pwr.pairBad = false := by
  simp only [phaseDue, Bool.and_eq_true, Bool.not_eq_true'] at h
  exact h.1.2

theorem phaseFail_of_quiet (s : State) {n : Nat} (r : PhaseReport) (h : n = 2 ∨ n = 3 ∨ (n = 6 ∧ r.failCode ≠ 5)) : phaseFail s n r = s := by
  unfold phaseFail
  split
  · omega
  · omega
  · omega
  · omega
  · omega
  · omega
  · omega
  · rfl

/-- A phase in a module that is up, with the state that it leaves. -/
theorem does_bringupPhase {s u : State} {n : Nat} {r : PhaseReport} {p : State → Prop} (h : Up s) (hw : bringupPhase s n r = u)
    (hq : u.pending = s.pending) (hp : p u) : Does (.bringupPhaseEnd n r) s p :=
  does_settleFuse (congrArg (settleFuse s) ((if_pos h).trans hw)) hq hp

/-- A field of a phase that runs stands whatever the queue becomes. -/
theorem does_bringupPhase_field {s : State} {n : Nat} {r : PhaseReport} (h : Up s) (hd : phaseDue s n = true) (g : Field) (v : Nat)
    (hv : getF (phaseRun s n r) g = v) : Does (.bringupPhaseEnd n r) s fun t => getF t g = v :=
  ⟨_, congrArg (settleFuse s) ((if_pos h).trans (bringupPhase_of_due hd r)), hv⟩

theorem only_phaseRun_three (s : State) (r : PhaseReport) : Only [.pwr] [Off.CTL_BRINGUP] s (phaseRun s 3 r) := by
  unfold phaseRun
  rw [phaseFail_of_quiet _ r (.inr (.inl rfl))]
  exact (only_phaseNoted s 3).comp (only_setF _ F.CTL_BRINGUP_phase 3)

theorem pwr_phaseRun_three (s : State) (r : PhaseReport) : (phaseRun s 3 r).pwr = (phaseNoted s 3).pwr := by
  unfold phaseRun
  rw [phaseFail_of_quiet _ r (.inr (.inl rfl)), setF_pwr]
  rfl

theorem hostLink_phaseRun_three {s : State} (r : PhaseReport) (hb : s.pwr.pairBad = false) (hr : hasF s F.LCH_REF_STATUS_refclk_absent = false) :
    hostLink (phaseRun s 3 r) = true := by
  have hended : phaseEnded (phaseRun s 3 r) 3 = true := by
    unfold phaseEnded
    rw [pwr_phaseRun_three]
    exact phaseEnded_phaseNoted s 3
  have hbad : (phaseRun s 3 r).pwr.pairBad = false := by rw [pwr_phaseRun_three]; exact hb
  simp [hostLink, hended, hbad, (only_phaseRun_three s r).hasF_eq F.LCH_REF_STATUS_refclk_absent (by decide), hr]

/-- The stack tier cleared: every byte of it zero, and every byte above as before. -/
theorem readByte_clearTier (s : State) (a : Nat) :
    readByte (clearBytes s 0 stackEnd).mem a = if stackEnd ≤ a then readByte s.mem a else 0 := by
  have hmem : (clearBytes s 0 stackEnd).mem = s.mem.filter fun c => decide (stackEnd ≤ c.1) := by
    unfold clearBytes
    rw [if_neg (by decide)]
    simp
  unfold readByte
  rw [hmem, FMap.get_filter unlistedByte s.mem fun k => decide (stackEnd ≤ k)]
  simp only [decide_eq_true_eq]
  rfl

/-- Phase 6 clears the stack tier and shows its number. -/
def tierZeroed (s : State) : State := setF (clearBytes (phaseNoted s 6) 0 stackEnd) F.CTL_BRINGUP_phase 6

theorem phaseRun_six (s : State) {r : PhaseReport} (h : r.failCode ≠ 5) : phaseRun s 6 r = tierZeroed s := by
  unfold phaseRun
  rw [phaseFail_of_quiet _ r (.inr (.inr ⟨rfl, h⟩))]
  rfl

theorem only_tierZeroed (s : State) : Only [.pwr, .mem, .flash] [Off.CTL_BRINGUP] s (tierZeroed s) :=
  (((only_phaseNoted s 6).comp (only_clearBytes _ 0 stackEnd)).comp (only_setF _ F.CTL_BRINGUP_phase 6)).mono (by decide) (by decide)

theorem frame_selectImage (s : State) (a b : Bool) : PartsBut alarmParts s (selectImage s a b) := by
  unfold selectImage showImage
  exact (((((frame_imageAlarm s _).trans (frame_imageAlarm _ _)).comp ((only_setReg _ Off.CTL_IMAGE_A _).comp
    (only_setReg _ Off.CTL_IMAGE_B _)).frame).comp ((only_setF _ F.CTL_STATUS_config_source _).comp
    (only_setF _ F.HST_STATUS_pcie_mode _)).frame).mono (qs := alarmParts) (by decide) fun _ h => h).parts

theorem chooseCopy_lt (ra rb qa qb : Nat) : chooseCopy ra rb qa qb < 4 := by
  unfold chooseCopy
  split
  · split <;> decide
  · split <;> decide

/-- The copy that bring-up selects, R344. -/
def copyChosen (s : State) (a b : Bool) : Nat :=
  chooseCopy (imageReason s a s.nv.copyA) (imageReason s b s.nv.copyB) (bits (wordAt s.nv.copyA 1) 31 0) (bits (wordAt s.nv.copyB 1) 31 0)

theorem source_selectImage (s : State) (a b : Bool) : getF (selectImage s a b) F.CTL_STATUS_config_source = copyChosen s a b := by
  unfold selectImage
  dsimp only
  rw [getF_setF_other _ _ _ _ (by decide) (by decide)]
  exact getF_setF_of_lt _ _ (by decide) (chooseCopy_lt _ _ _ _)

theorem phaseRun_two (s : State) (r : PhaseReport) :
    phaseRun s 2 r = setF (selectImage (phaseNoted s 2) r.flashReadA r.flashReadB) F.CTL_BRINGUP_phase 2 := by
  unfold phaseRun
  rw [phaseFail_of_quiet _ r (.inl rfl)]
  rfl

/-- What phase 2 leaves of the module that has noted it. -/
theorem parts_phaseRun_two (s : State) (r : PhaseReport) : PartsBut alarmParts (phaseNoted s 2) (phaseRun s 2 r) := by
  rw [phaseRun_two]
  exact (frame_selectImage _ _ _).trans fun p _ => (only_setF _ F.CTL_BRINGUP_phase 2).1 p (by simp)

theorem copyChosen_phaseNoted (s : State) (n : Nat) (a b : Bool) : copyChosen (phaseNoted s n) a b = copyChosen s a b := rfl

theorem source_phaseRun_two (s : State) (r : PhaseReport) :
    getF (phaseRun s 2 r) F.CTL_STATUS_config_source = copyChosen s r.flashReadA r.flashReadB := by
  rw [phaseRun_two, (only_setF _ F.CTL_BRINGUP_phase 2).field _ (by decide), source_selectImage, copyChosen_phaseNoted]

/-- Bring-up stopped with a code and a die, before HOLD. -/
def bringupStopped (s : State) : State := stopBringup (noteFail s 7 0)

theorem only_bringupStopped (s : State) :
    Only eventParts [Off.CTL_BRINGUP, Off.CTL_STATUS, Off.HST_IRQ_PENDING] s (bringupStopped s) :=
  (((only_setF s F.CTL_BRINGUP_fail 7).comp (only_setF _ F.CTL_BRINGUP_die 0)).comp (only_flag _ F.CTL_STATUS_bringup_fail 13)).mono
    (by decide) (by decide)

theorem fail_bringupStopped (s : State) : getF (bringupStopped s) F.CTL_BRINGUP_fail = 7 := by
  unfold bringupStopped stopBringup noteFail
  rw [getF_flag_other _ _ _ _ (by decide) (by decide) (by decide), getF_setF_other _ _ _ _ (by decide) (by decide)]
  exact getF_setF_of_lt _ _ (by decide) (by decide)

theorem does_bringupTimeout {s : State} (h : Up s) (hready : hasF s F.CTL_STATUS_device_ready = false)
    (hfail : hasF s F.CTL_STATUS_bringup_fail = false) (hbad : s.pwr.pairBad = false) :
    Does .bringupTimeout s fun t => getF t F.CTL_BRINGUP_fail = 7 ∧ hasF t F.CTL_STATUS_bringup_fail = true ∧ Holds 12 t ∧
      Only holdParts ([Off.CTL_BRINGUP, Off.CTL_STATUS] ++ holdRegs) s t := by
  have hhold := only_holdCause (bringupStopped s) 12 0
  have honly : Only holdParts ([Off.CTL_BRINGUP, Off.CTL_STATUS] ++ holdRegs) s (holdCause (bringupStopped s) 12 0) :=
    ((only_bringupStopped s).comp hhold).mono (by decide) (by decide)
  have hcmd : bringupTimeout s = holdCause (bringupStopped s) 12 0 := if_neg (by simp [hready, hfail, hbad])
  refine does_parts rfl hcmd h honly.1 (by decide) (by decide) ⟨?_, ?_, holds_holdCause _ _ _ (by decide), honly⟩
  · rw [hhold.field _ (by decide), fail_bringupStopped]
  · rw [hhold.hasF_eq _ (by decide)]
    exact hasF_flag _ _ _ (by decide) (by decide) (by decide)

/-- The module ready, from the state that has taken its image, its record, its governor, its keys and its roles. -/
def readyShown (u : State) (ms : Nat) : State :=
  setF (setF (phaseNoted (setF (setF u F.CTL_BRINGUP_phase 8) F.CTL_BRINGUP_ready_ms ms) 8) F.CTL_STATUS_device_ready 1)
    F.HST_STATUS_device_ready 1

theorem readyShown_shows (u : State) (ms : Nat) : hasF (readyShown u ms) F.CTL_STATUS_device_ready = true ∧
    hasF (readyShown u ms) F.HST_STATUS_device_ready = true ∧ getF (readyShown u ms) F.CTL_BRINGUP_phase = 8 ∧
    getF (readyShown u ms) F.CTL_BRINGUP_ready_ms = ms % 2 ^ 16 := by
  have hready := only_setF (setF (phaseNoted (setF (setF u F.CTL_BRINGUP_phase 8) F.CTL_BRINGUP_ready_ms ms) 8) F.CTL_STATUS_device_ready 1)
    F.HST_STATUS_device_ready 1
  have hshown := (only_phaseNoted (setF (setF u F.CTL_BRINGUP_phase 8) F.CTL_BRINGUP_ready_ms ms) 8).comp
    ((only_setF _ F.CTL_STATUS_device_ready 1).comp hready)
  unfold readyShown
  refine ⟨?_, hasF_setF_one _ _ (by decide) (by decide), ?_, ?_⟩
  · rw [hready.hasF_eq _ (by decide)]
    exact hasF_setF_one _ _ (by decide) (by decide)
  · rw [hshown.field _ (by decide), getF_setF_other _ _ _ _ (by decide) (by decide)]
    exact getF_setF_of_lt _ _ (by decide) (by decide)
  · rw [hshown.field _ (by decide)]
    exact getF_setF_same _ _ _ (by decide)

theorem deviceReady_of_ok {s : State} (ms mv p : Nat) (hp : ∀ n, n ∈ [1, 2, 3, 4, 5, 6, 7] → phaseEnded s n = true)
    (hfail : hasF s F.CTL_STATUS_bringup_fail = false) (hbad : s.pwr.pairBad = false) (hready : hasF s F.CTL_STATUS_device_ready = false) :
    deviceReady s ms mv p =
      readyShown (startRoles (startKeys (startGovernor (closeRecord (applyImage s) 0xFFFFFFFF 0 1) mv p))) ms := by
  have hall : [1, 2, 3, 4, 5, 6, 7].all (phaseEnded s) = true := List.all_eq_true.mpr hp
  unfold deviceReady
  exact if_neg (by simp only [hall, hfail, hbad, hready]; decide)

/-- Settles O5: each phase by what its work is, then the timeout and the ready bits. -/
theorem bringupRunsToReadyOrHeld : Obligations.BringupRunsToReadyOrHeld := by
  refine ⟨fun s n r h hd => ?_, fun s n r h hd => ?_, fun s r h hd hr => ?_, fun s r h hd hr => ?_, fun s r h hd => ?_,
    fun s h hready hfail hbad => does_bringupTimeout h hready hfail hbad, fun s ms mv p h hp hfail hbad hready => ?_⟩
  · exact does_bringupPhase h (if_pos (by simp [hd])) rfl rfl
  · exact does_bringupPhase_field h hd _ _ (getF_setF_of_lt _ _ (by decide) (show n < 16 from by have := phaseDue_le hd; omega))
  · have honly := only_tierZeroed s
    have hmem : (tierZeroed s).mem = (clearBytes s 0 stackEnd).mem := rfl
    refine does_bringupPhase h ((bringupPhase_of_due hd r).trans (phaseRun_six s hr)) (honly.1 .pending (by decide))
      ⟨?_, fun a ha => ?_, fun a ha => ?_, honly.2, honly.1 .fuse (by decide), ?_⟩
    · exact phaseEnded_phaseNoted s 6
    · rw [hmem, readByte_clearTier, if_neg (by omega)]
    · rw [hmem, readByte_clearTier, if_pos ha]
    · rfl
  · have honly := only_phaseRun_three s r
    exact does_bringupPhase h (bringupPhase_of_due hd r) (honly.1 .pending (by decide))
      ⟨hostLink_phaseRun_three r (pairBad_of_phaseDue hd) hr, honly⟩
  · have hparts := parts_phaseRun_two s r
    have hpwr : (phaseRun s 2 r).pwr = (phaseNoted s 2).pwr := hparts .pwr (by decide)
    refine does_bringupPhase h (bringupPhase_of_due hd r) (hparts .pending (by decide))
      ⟨?_, source_phaseRun_two s r, hparts .mem (by decide), hparts .nv (by decide)⟩
    unfold phaseEnded
    rw [hpwr]
    exact phaseEnded_phaseNoted s 2
  · refine does_but_queue_and_store rfl (deviceReady_of_ok ms mv p hp hfail hbad hready) h fun v hv => ?_
    rw [hv.hasF_eq _ (by simp), hv.hasF_eq _ (by simp), hv.field _ (by simp), hv.field _ (by simp)]
    exact readyShown_shows _ ms

end Sys2Proof.Machine
end

section
/-!
PROOFS. The supply that is metered and limited (R356, R358, R371), and the energy records that close, are signed and are stored (R364, R376,
R378, R379).
-/

namespace Sys2Proof.Machine

/-! ### A meter block, R356 -/

/-- A block judged once the draw shows, and the governor shown. -/
def blockJudged (s : State) (b : MeterBlock) : State := showGovernor (countFloor (judgeAverage (judgePeak (compareMeters s) b)))

theorem only_countFloor (s : State) : Only [.pwr] [] s (countFloor s) := only_pwr s _

theorem only_takeBlock (s : State) (vin : Nat) (b : MeterBlock) : Only [.pwr] [] s (takeBlock s vin b) := only_pwr s _

/-- The registers that a block judged may change. -/
def judgeRegs : List Nat := [Off.PWR_STATUS, Off.PWR_BREACH_CNT, Off.PWR_GOV]

theorem only_blockJudged (s : State) (b : MeterBlock) : Only [.pwr, .host, .sent] (judgeRegs ++ logRegs s) s (blockJudged s b) := by
  have hirq : Off.HST_IRQ_PENDING ∈ logRegs s := by simp [logRegs]
  refine (((((only_compareMeters s).comp (only_judgePeak _ b)).comp (only_judgeAverage _)).comp (only_countFloor _)).comp
    (only_showGovernor _)).mono (by decide) fun o ho => ?_
  have hjudge : ∀ q, q ∈ judgeRegs ∨ q = Off.HST_IRQ_PENDING → q ∈ judgeRegs ++ logRegs s := fun q hq =>
    List.mem_append.mpr (hq.imp_right fun he => by rwa [he])
  simp only [List.mem_append] at ho
  rcases ho with (((((ho | ho) | ho) | ho) | ho) | ho)
  · exact hjudge o (.inl (by revert o; decide))
  · exact List.mem_append_right _ ho
  · exact hjudge o (by revert o; decide)
  · exact hjudge o (by revert o; decide)
  · cases ho
  · exact hjudge o (.inl (by revert o; decide))

theorem energy_blockJudged (s : State) (b : MeterBlock) : (blockJudged s b).pwr.energy = s.pwr.energy := by
  have hfloor : ∀ u : State, (countFloor u).pwr.energy = u.pwr.energy := fun _ => rfl
  rw [blockJudged, showGovernor_energy, hfloor, judgeAverage_energy, judgePeak_energy, compareMeters_energy]

/-- The draw shown and entered in the open record. -/
def drawShown (s : State) (vin iin : Nat) (b : MeterBlock) : State := recordBlock (showDraw (takeBlock s vin b) vin iin b.w b.check) vin b

theorem only_drawShown (s : State) (vin iin : Nat) (b : MeterBlock) :
    Only [.pwr] [Off.PWR_INPUT, Off.PWR_DRAW, Off.PWR_ENERGY] s (drawShown s vin iin b) :=
  (((only_takeBlock s vin b).comp (only_showDraw _ vin iin b.w b.check)).comp (only_onRecord _ _)).mono (by decide) (by decide)

theorem energy_drawShown (s : State) (vin iin : Nat) (b : MeterBlock) : (drawShown s vin iin b).pwr.energy = s.pwr.energy + b.w := rfl

/-- What a draw shown shows. -/
theorem showDraw_shows (s : State) (vin iin w check : Nat) :
    getF (showDraw s vin iin w check) F.PWR_INPUT_vin = vin % 2 ^ 16 ∧ getF (showDraw s vin iin w check) F.PWR_INPUT_iin = iin % 2 ^ 16 ∧
      getF (showDraw s vin iin w check) F.PWR_INPUT_check_w = check % 2 ^ 16 ∧
      getF (showDraw s vin iin w check) F.PWR_DRAW_block_w = w % 2 ^ 16 ∧
      getF (showDraw s vin iin w check) F.PWR_ENERGY_mj = s.pwr.energy / 10 % 2 ^ 64 := by
  have hother : ∀ (u : State) (f g : Field) (v : Nat), f.hi < 64 → f.apart g = true → getF (setF u f v) g = getF u g :=
    fun u f g v => getF_setF_other u f g v
  unfold showDraw
  refine ⟨?_, ?_, ?_, ?_, getF_setF_same _ _ _ (by decide)⟩
  · rw [hother _ _ _ _ (by decide) (by decide), hother _ _ _ _ (by decide) (by decide), hother _ _ _ _ (by decide) (by decide),
      hother _ _ _ _ (by decide) (by decide), hother _ _ _ _ (by decide) (by decide), hother _ _ _ _ (by decide) (by decide)]
    exact getF_setF_same _ _ _ (by decide)
  · rw [hother _ _ _ _ (by decide) (by decide), hother _ _ _ _ (by decide) (by decide), hother _ _ _ _ (by decide) (by decide),
      hother _ _ _ _ (by decide) (by decide), hother _ _ _ _ (by decide) (by decide)]
    exact getF_setF_same _ _ _ (by decide)
  · rw [hother _ _ _ _ (by decide) (by decide), hother _ _ _ _ (by decide) (by decide), hother _ _ _ _ (by decide) (by decide),
      hother _ _ _ _ (by decide) (by decide)]
    exact getF_setF_same _ _ _ (by decide)
  · rw [hother _ _ _ _ (by decide) (by decide), hother _ _ _ _ (by decide) (by decide), hother _ _ _ _ (by decide) (by decide)]
    exact getF_setF_same _ _ _ (by decide)

/-- The block that the meters report. -/
def blockOf (s : State) (w check : Nat) : MeterBlock := ⟨w, check, enforcement s⟩

theorem meterBlock_of_up {s : State} (h : Up s) (vin iin w check : Nat) :
    meterBlock s vin iin w check = blockJudged (drawShown s vin iin (blockOf s w check)) (blockOf s w check) := by
  have hpowered : ¬(s.pwr.mode = .unpowered ∨ s.pwr.mode = .off) := by
    rw [show s.pwr.mode = .up from h]
    decide
  unfold meterBlock
  rw [if_neg hpowered]
  exact if_pos h

theorem does_meterBlock {s : State} (h : Up s) (vin iin w check : Nat) :
    Does (.meterBlock vin iin w check) s fun t => getF t F.PWR_INPUT_vin = vin % 2 ^ 16 ∧ getF t F.PWR_INPUT_iin = iin % 2 ^ 16 ∧
      getF t F.PWR_INPUT_check_w = check % 2 ^ 16 ∧ getF t F.PWR_DRAW_block_w = w % 2 ^ 16 ∧ t.pwr.energy = s.pwr.energy + w ∧
      getF t F.PWR_ENERGY_mj = (s.pwr.energy + w) / 10 % 2 ^ 64 ∧
      Only [.pwr, .host, .sent] ([Off.PWR_INPUT, Off.PWR_DRAW, Off.PWR_ENERGY, Off.PWR_STATUS, Off.PWR_BREACH_CNT, Off.PWR_GOV] ++ logRegs s)
        s t := by
  have hdrawn := only_drawShown s vin iin (blockOf s w check)
  have hjudged := only_blockJudged (drawShown s vin iin (blockOf s w check)) (blockOf s w check)
  have hlog : logRegs (drawShown s vin iin (blockOf s w check)) = logRegs s := logRegs_congr (hdrawn.2 _ (by decide))
  rw [hlog] at hjudged
  have honly : Only [.pwr, .host, .sent] ([Off.PWR_INPUT, Off.PWR_DRAW, Off.PWR_ENERGY, Off.PWR_STATUS, Off.PWR_BREACH_CNT, Off.PWR_GOV]
      ++ logRegs s) s (blockJudged (drawShown s vin iin (blockOf s w check)) (blockOf s w check)) :=
    (hdrawn.comp hjudged).mono (by decide) fun o ho => by simpa only [judgeRegs, List.append_assoc, List.cons_append, List.nil_append] using ho
  have hfield : ∀ g : Field, g.off ∈ [Off.PWR_INPUT, Off.PWR_DRAW, Off.PWR_ENERGY] →
      getF (blockJudged (drawShown s vin iin (blockOf s w check)) (blockOf s w check)) g =
        getF (showDraw (takeBlock s vin (blockOf s w check)) vin iin w check) g := fun g hg => by
    have hout : g.off ∉ judgeRegs ++ logRegs s := by
      simp only [List.mem_cons, List.not_mem_nil, or_false] at hg
      rw [List.mem_append, not_or]
      rcases hg with hg | hg | hg <;> rw [hg] <;> exact ⟨by decide, not_mem_logRegs s _ (by decide) (by decide)⟩
    exact (hjudged.field g hout).trans ((only_onRecord _ _).field g (by simp))
  obtain ⟨hvin, hiin, hcheck, hw, henergy⟩ := showDraw_shows (takeBlock s vin (blockOf s w check)) vin iin w check
  refine does_settleAny (congrArg (settleAny s) (meterBlock_of_up h vin iin w check)) (honly.1 .pending (by decide))
    (honly.1 .fuse (by decide)) ⟨?_, ?_, ?_, ?_, ?_, ?_, honly⟩
  · rw [hfield _ (by decide), hvin]
  · rw [hfield _ (by decide), hiin]
  · rw [hfield _ (by decide), hcheck]
  · rw [hfield _ (by decide), hw]
  · rw [energy_blockJudged, energy_drawShown]
    rfl
  · rw [hfield _ (by decide), henergy]
    rfl

/-! ### The input range and the envelope, R358 and R371 -/

/-- A power flag raised before a HOLD cause: what the module that is up shows afterwards. -/
theorem holds_of_powerFlag {s u : State} (hu : Only holdParts [] s u) (f : Field) (code : Nat) {c : Nat} (hc : c < 14)
    (hf : f.off = Off.PWR_STATUS) (hh : f.hi < 64) (hl : f.lo ≤ f.hi) :
    Holds c (holdFault (powerFlag u f) code c 96 0 0) ∧ hasF (holdFault (powerFlag u f) code c 96 0 0) f = true ∧
      Only holdParts (Off.PWR_STATUS :: (holdRegs ++ logRegs s)) s (holdFault (powerFlag u f) code c 96 0 0) := by
  have hflag : Only holdParts [Off.PWR_STATUS, Off.HST_IRQ_PENDING] s (powerFlag u f) :=
    (hu.comp (only_powerFlag u f hf)).mono (by decide) fun _ h => h
  have honly := hflag.holdFault (by decide) code c 96 0 0
  refine ⟨holds_holdFault _ _ _ _ _ _ hc, ?_, honly.mono (fun _ h => h) fun o ho => ?_⟩
  · unfold hasF
    rw [getF_holdFault f _ _ _ _ _ _ (by rw [hf]; decide) (by rw [hf]; exact not_mem_logRegs _ _ (by decide) (by decide))]
    exact hasF_powerFlag u f hh hl (by rw [hf]; decide)
  · have hirq : Off.HST_IRQ_PENDING ∈ holdRegs := by decide
    simp only [List.mem_append, List.mem_cons, List.not_mem_nil, or_false] at ho ⊢
    rcases ho with (ho | rfl) | ho
    · exact .inl ho
    · exact .inr (.inl hirq)
    · exact .inr ho

/-- Settles O2: the block of a module that is up, the modules that meter nothing, and the two limits that take the module into HOLD. -/
theorem supplyIsMeteredAndLimited : Obligations.SupplyIsMeteredAndLimited := by
  refine ⟨fun s vin iin w check h => does_meterBlock h vin iin w check, fun s vin iin w check h => ?_, fun s vin h hv => ?_,
    fun s h hrun hbroken => ?_⟩
  · exact does_settleAny (congrArg (settleAny s) (if_pos h)) rfl rfl rfl
  · obtain ⟨hholds, hflag, honly⟩ := holds_of_powerFlag (s := s) (u := { s with pwr := { s.pwr with vinOk := 0 } })
      ((only_pwr s _).mono (by decide) (by simp)) F.PWR_STATUS_input_range 0x03 (c := 3) (by decide) rfl (by decide) (by decide)
    exact does_eq rfl (if_neg (by omega)) h honly (by decide) (by decide) ⟨hholds, hflag, honly⟩
  · obtain ⟨hholds, hflag, honly⟩ := holds_of_powerFlag (Only.rfl' holdParts [] s) F.PWR_STATUS_envelope_hold 0x21 (c := 4) (by decide)
      rfl (by decide) (by decide)
    exact does_eq rfl (if_pos (by simp [hrun, hbroken])) h honly (by decide) (by decide) ⟨hholds, hflag, honly⟩

/-! ### The grid minute, R364 and R376 -/

/-- A window changes no register below it. -/
theorem getReg_setWindow_below (s : State) {off o : Nat} (bs : List Byte) (h : o < off) : getReg (setWindow s off bs) o = getReg s o :=
  (only_setWindow s off bs).2 o (by simp only [List.mem_map, List.mem_range, not_exists, not_and]; omega)

/-- The window of a record lies above the registers of the power envelope. -/
theorem lt_recordOff {o : Nat} (h : o < 0x210000) (i : Nat) : o < recordOff i := by
  unfold recordOff
  omega

theorem only_openRecord (s : State) : Only [.pwr] [] s (openRecord s) := only_pwr s _

theorem only_queueRecord (s : State) (i : Nat) : Only [.pwr] [] s (queueRecord s i) := only_pwr s _

theorem next_closeRecord (s : State) (minute w extra : Nat) :
    getF (closeRecord s minute w extra) F.PWR_REC_HEAD_next = (getF s F.PWR_REC_HEAD_next + 1) % 2 ^ 64 := by
  unfold closeRecord
  dsimp only
  rw [(only_openRecord _).field _ (by simp), (only_queueRecord _ _).field _ (by simp)]
  exact getF_setF_same _ _ _ (by decide)

theorem getReg_closeRecord (s : State) (minute w extra : Nat) {o : Nat} (ho : o < 0x210000) (hn : o ≠ Off.PWR_REC_HEAD) :
    getReg (closeRecord s minute w extra) o = getReg s o :=
  (getReg_setF_other _ F.PWR_REC_HEAD_next _ _ hn).trans (getReg_setWindow_below s _ (lt_recordOff ho _))

theorem unstored_closeRecord (s : State) (minute w extra : Nat) :
    (closeRecord s minute w extra).pwr.unstored = s.pwr.unstored ++ [getF s F.PWR_REC_HEAD_next] := by
  have hpwr : (setWindow s (recordOff (getF s F.PWR_REC_HEAD_next))
      (closingBytes s (getF s F.PWR_REC_HEAD_next) minute w (s.pwr.acc.flags ||| extra))).pwr = s.pwr := (only_setWindow _ _ _).1 .pwr (by decide)
  simp only [closeRecord, openRecord, queueRecord, setF_pwr, hpwr]

theorem parts_closeRecord (s : State) (minute w extra : Nat) : PartsBut [.pwr] s (closeRecord s minute w extra) :=
  ((((only_setWindow s _ _).comp (only_setF _ F.PWR_REC_HEAD_next _)).comp (only_queueRecord _ _)).comp (only_openRecord _)).mono (m := _)
    (by decide) (fun _ h => h) |>.1

theorem getReg_nextMinute (s : State) {o : Nat} (ho : o < 0x210000) (hn : o ∉ [Off.PWR_REC_HEAD, Off.PWR_MINUTE, Off.PWR_MINUTE_SLOT]) :
    getReg (nextMinute s) o = getReg s o := by
  simp only [List.mem_cons, List.not_mem_nil, or_false, not_or] at hn
  unfold nextMinute
  rw [getReg_setF_other _ _ _ _ hn.2.2, getReg_setF_other _ _ _ _ hn.2.1, getReg_closeRecord s _ _ _ ho hn.1]

theorem getF_nextMinute (s : State) (g : Field) (ho : g.off < 0x210000) (hn : g.off ∉ [Off.PWR_REC_HEAD, Off.PWR_MINUTE, Off.PWR_MINUTE_SLOT]) :
    getF (nextMinute s) g = getF s g := by
  unfold getF
  rw [getReg_nextMinute s ho hn]

theorem schedEntry_nextMinute (s : State) {e : Nat} (he : e < 2048) : schedEntry (nextMinute s) e = schedEntry s e := by
  unfold schedEntry
  rw [getReg_nextMinute s (by unfold Off.PWR_SCHED; omega) (by
    simp only [Off.PWR_SCHED, Off.PWR_REC_HEAD, Off.PWR_MINUTE, Off.PWR_MINUTE_SLOT, List.mem_cons, List.not_mem_nil, or_false, not_or]
    omega)]

/-- The schedule reads the same after the minute has moved on. -/
theorem scheduled_nextMinute (s : State) (m : Nat) : scheduled (nextMinute s) m = scheduled s m := by
  have hcount : getF s F.PWR_SCHED_CTL_count < 2048 := getF_lt s F.PWR_SCHED_CTL_count
  unfold scheduled
  rw [getF_nextMinute s F.PWR_SCHED_CTL_first_minute (by decide) (by decide), getF_nextMinute s F.PWR_SCHED_CTL_count (by decide) (by decide),
    getF_nextMinute s F.PWR_SCHED_CTL_tail_w (by decide) (by decide)]
  dsimp only
  split
  · exact schedEntry_nextMinute s (by omega)
  · rfl

theorem nextMinute_shows (s : State) : getF (nextMinute s) F.PWR_MINUTE_minute = (getF s F.PWR_MINUTE_minute + 1) % 2 ^ 32 ∧
    getF (nextMinute s) F.PWR_MINUTE_SLOT_slot = (getF s F.PWR_MINUTE_SLOT_slot + 234375000) % 2 ^ 56 ∧
    getF (nextMinute s) F.PWR_REC_HEAD_next = (getF s F.PWR_REC_HEAD_next + 1) % 2 ^ 64 ∧
    (nextMinute s).pwr.unstored = s.pwr.unstored ++ [getF s F.PWR_REC_HEAD_next] := by
  unfold nextMinute
  refine ⟨?_, getF_setF_same _ _ _ (by decide), ?_, ?_⟩
  · rw [getF_setF_other _ _ _ _ (by decide) (by decide)]
    exact getF_setF_same _ _ _ (by decide)
  · rw [getF_setF_other _ _ _ _ (by decide) (by decide), getF_setF_other _ _ _ _ (by decide) (by decide), next_closeRecord]
  · rw [setF_pwr, setF_pwr, unstored_closeRecord]

theorem parts_nextMinute (s : State) : PartsBut [.pwr] s (nextMinute s) :=
  (parts_closeRecord s _ _ 0).trans fun p _ => ((only_setF _ F.PWR_MINUTE_minute _).comp (only_setF _ F.PWR_MINUTE_SLOT_slot _)).1 p (by simp)

/-- The ceiling shown, and a late cut where the draw stands above it. -/
def cutShown (s : State) : State :=
  recordFlag (powerFlag { s with pwr := { s.pwr with cut := some (slot s, inputDraw s) } } F.PWR_STATUS_late_cut) 6

theorem newCeiling_cases (s : State) (old : Nat) : newCeiling s old = setF s F.PWR_DRAW_ceiling_w (ceiling s) ∨
    newCeiling s old = cutShown (setF s F.PWR_DRAW_ceiling_w (ceiling s)) := by
  unfold newCeiling
  dsimp only
  split
  · exact .inr rfl
  · exact .inl rfl

theorem only_cutShown (s : State) : Only [.pwr, .host, .sent] [Off.PWR_STATUS, Off.HST_IRQ_PENDING] s (cutShown s) :=
  (((only_pwr s _).comp (only_powerFlag _ F.PWR_STATUS_late_cut rfl)).comp (only_onRecord _ _)).mono (by decide) (by decide)

/-- What a new ceiling leaves of the minute and of the records that wait. -/
def SameMinute (s t : State) : Prop := t.pwr.minuteW = s.pwr.minuteW ∧ t.pwr.unstored = s.pwr.unstored

theorem sameMinute_cutShown (s : State) : SameMinute s (cutShown s) := by
  simp [SameMinute, cutShown, recordFlag, onRecord, powerFlag]

theorem newCeiling_spec (s : State) (old : Nat) :
    Only [.pwr, .host, .sent] [Off.PWR_DRAW, Off.PWR_STATUS, Off.HST_IRQ_PENDING] s (newCeiling s old) ∧ SameMinute s (newCeiling s old) ∧
      getF (newCeiling s old) F.PWR_DRAW_ceiling_w = ceiling s % 2 ^ 16 := by
  have hshown : getF (setF s F.PWR_DRAW_ceiling_w (ceiling s)) F.PWR_DRAW_ceiling_w = ceiling s % 2 ^ 16 := getF_setF_same _ _ _ (by decide)
  have honly := only_setF s F.PWR_DRAW_ceiling_w (ceiling s)
  rcases newCeiling_cases s old with h | h <;> rw [h]
  · exact ⟨honly.mono (by simp) (by decide), ⟨rfl, rfl⟩, hshown⟩
  · have hcut := only_cutShown (setF s F.PWR_DRAW_ceiling_w (ceiling s))
    exact ⟨(honly.comp hcut).mono (by decide) (by decide), sameMinute_cutShown _, (hcut.field _ (by decide)).trans hshown⟩

theorem ceiling_congr {s t : State} (hc : getF t F.PWR_THROTTLE_cap_w = getF s F.PWR_THROTTLE_cap_w) (hm : t.pwr.minuteW = s.pwr.minuteW) :
    ceiling t = ceiling s := by
  unfold ceiling
  rw [hc, hm]

/-- The minute moved on, with the scheduled ceiling of the next one in force. -/
def minuteTaken (s : State) : State :=
  { nextMinute s with pwr := { (nextMinute s).pwr with minuteW := scheduled (nextMinute s) (getF s F.PWR_MINUTE_minute + 1) } }

theorem only_minuteTaken (s : State) : Only [.pwr] [] (nextMinute s) (minuteTaken s) := only_pwr _ _

theorem does_minuteBoundary {s : State} (h : Up s) (hready : hasF s F.HST_STATUS_device_ready = true)
    (hslot : getF s F.PWR_MINUTE_SLOT_slot + 234375000 ≤ slot s) :
    Does .minuteBoundary s fun t => getF t F.PWR_MINUTE_minute = (getF s F.PWR_MINUTE_minute + 1) % 2 ^ 32 ∧
      getF t F.PWR_MINUTE_SLOT_slot = (getF s F.PWR_MINUTE_SLOT_slot + 234375000) % 2 ^ 56 ∧
      getF t F.PWR_REC_HEAD_next = (getF s F.PWR_REC_HEAD_next + 1) % 2 ^ 64 ∧
      t.pwr.unstored = s.pwr.unstored ++ [getF s F.PWR_REC_HEAD_next] ∧
      t.pwr.minuteW = scheduled s (getF s F.PWR_MINUTE_minute + 1) ∧ getF t F.PWR_DRAW_ceiling_w = ceiling t % 2 ^ 16 := by
  have hcmd : minuteBoundary s = newCeiling (minuteTaken s) (ceiling (nextMinute s)) :=
    if_pos (by rw [hready, Bool.true_and]; exact decide_eq_true hslot)
  obtain ⟨honly, ⟨hminuteW, hunstored⟩, hceiling⟩ := newCeiling_spec (minuteTaken s) (ceiling (nextMinute s))
  obtain ⟨hminute, hslot', hnext, hwaits⟩ := nextMinute_shows s
  have hfields := (only_minuteTaken s).comp honly
  have hparts : PartsBut [.pwr, .host, .sent] s (newCeiling (minuteTaken s) (ceiling (nextMinute s))) :=
    ((parts_nextMinute s).weaken (by decide)).trans (PartsBut.weaken hfields.1 (by decide))
  refine does_parts rfl hcmd h hparts (by decide) (by decide) ⟨?_, ?_, ?_, ?_, ?_, ?_⟩
  · rw [hfields.field _ (by decide), hminute]
  · rw [hfields.field _ (by decide), hslot']
  · rw [hfields.field _ (by decide), hnext]
  · exact hunstored.trans hwaits
  · exact hminuteW.trans (scheduled_nextMinute s _)
  · rw [hceiling, ceiling_congr (honly.field F.PWR_THROTTLE_cap_w (by decide)) hminuteW]

/-! ### The signing and the storing of records, R378 and R379 -/

theorem mem_setWindow (s : State) (off : Nat) (bs : List Byte) : (setWindow s off bs).mem = s.mem := by
  unfold setWindow
  generalize List.range ((bs.length + 7) / 8) = l
  induction l generalizing s with
  | nil => rfl
  | cons i l ih => exact ih (setReg s _ _)

theorem flash_setWindow (s : State) (off : Nat) (bs : List Byte) : (setWindow s off bs).flash = s.flash := by
  unfold setWindow
  generalize List.range ((bs.length + 7) / 8) = l
  induction l generalizing s with
  | nil => rfl
  | cons i l ih => exact ih (setReg s _ _)

/-- A record's window written with its signature, the signature kept. -/
theorem parts_signRecord (s : State) (i : Nat) : PartsBut [.nv] s (signRecord s i) :=
  (((only_setWindow s _ _).comp (only_setF _ F.PWR_SIG_HEAD_index i)).comp (only_nv _ _)).mono (m := _) (by decide) (fun _ h => h) |>.1

theorem index_signRecord (s : State) (i : Nat) : getF (signRecord s i) F.PWR_SIG_HEAD_index = i % 2 ^ 64 := by
  unfold signRecord
  dsimp only
  rw [(only_nv _ _).field _ (by simp)]
  exact getF_setF_same _ _ _ (by decide)

/-- The oldest record taken from those that wait for a signature. -/
def signatureTaken (s : State) (rest : List Nat) : State := { s with pwr := { s.pwr with sigWait := rest } }

theorem energySigning_of_waiting {s : State} {i : Nat} {rest : List Nat} (hw : s.pwr.sigWait = i :: rest) (hseed : seedPresent s.fuse = true)
    (hl : lifecycle s ≠ 5) (hr : (⟨8, 0, 0⟩ : Activity) ∉ s.maint.running) :
    energySigning s = powerFlag (signRecord (signatureTaken s rest) i) F.PWR_STATUS_sig_ready := by
  have hsign : canSign s = true := by simp [canSign, hseed, hl, hr, List.contains_eq_mem]
  unfold energySigning
  rw [hw]
  exact if_pos hsign

theorem does_energySigning {s : State} {i : Nat} {rest : List Nat} (h : Up s) (hw : s.pwr.sigWait = i :: rest)
    (hseed : seedPresent s.fuse = true) (hl : lifecycle s ≠ 5) (hr : (⟨8, 0, 0⟩ : Activity) ∉ s.maint.running) :
    Does .energySigning s fun t => t.pwr.sigWait = rest ∧ getF t F.PWR_SIG_HEAD_index = i % 2 ^ 64 ∧
      hasF t F.PWR_STATUS_sig_ready = true ∧
      t.nv.sig = some (i, signingStatement s i ++ (Config.slhSign s.fuse.seed (signingStatement s i)).take 49856) ∧
      t.nv.records = s.nv.records ∧ t.mem = s.mem ∧ t.flash = s.flash := by
  have hsigned := parts_signRecord (signatureTaken s rest) i
  have hflag := only_powerFlag (signRecord (signatureTaken s rest) i) F.PWR_STATUS_sig_ready rfl
  have hparts : PartsBut [.pwr, .nv, .host, .sent] s (powerFlag (signRecord (signatureTaken s rest) i) F.PWR_STATUS_sig_ready) :=
    ((PartsBut.weaken (only_pwr s _).1 (by decide)).trans (hsigned.weaken (by decide))).trans (PartsBut.weaken hflag.1 (by decide))
  have hpwr : (powerFlag (signRecord (signatureTaken s rest) i) F.PWR_STATUS_sig_ready).pwr = (signatureTaken s rest).pwr :=
    (hflag.1 .pwr (by decide)).trans (hsigned .pwr (by decide))
  have hnv : (powerFlag (signRecord (signatureTaken s rest) i) F.PWR_STATUS_sig_ready).nv = (signRecord (signatureTaken s rest) i).nv :=
    hflag.1 .nv (by decide)
  refine does_parts rfl (energySigning_of_waiting hw hseed hl hr) h hparts (by decide) (by decide) ⟨?_, ?_, ?_, ?_, ?_, ?_, ?_⟩
  · rw [hpwr]
    rfl
  · rw [hflag.field _ (by decide), index_signRecord]
  · exact hasF_powerFlag _ _ (by decide) (by decide) (by decide)
  · rw [hnv]
    rfl
  · rw [hnv]
    rfl
  · simp [powerFlag, signRecord, signatureTaken, mem_setWindow]
  · simp [powerFlag, signRecord, signatureTaken, flash_setWindow]

/-- The records with those that waited, before the oldest are dropped. -/
def recordsJoined (s : State) : List (Nat × List Byte) := s.nv.records ++ s.pwr.unstored.map fun i => (i, recordBytes s i)

theorem records_storeRecords (s : State) :
    (storeRecords s).nv.records = (recordsJoined s).drop ((recordsJoined s).length - 2048) := by
  simp only [storeRecords, recordsJoined]

/-- The last entries of a list hold what was appended, where they are as many. -/
theorem mem_drop_append {α : Type} {l m : List α} {n : Nat} {x : α} (hx : x ∈ m) (hm : m.length ≤ n) :
    x ∈ (l ++ m).drop ((l ++ m).length - n) := by
  rw [List.drop_append_of_le_length (by rw [List.length_append]; omega)]
  exact List.mem_append_right _ hx

theorem does_journalWrite {s : State} (h : Up s) (hlen : s.pwr.unstored.length ≤ 2048) :
    Does .journalWrite s fun t => t.pwr.unstored = [] ∧ t.nv.records.length ≤ 2048 ∧
      (∀ i ∈ s.pwr.unstored, (i, recordBytes s i) ∈ t.nv.records) ∧ Only [.nv, .pwr] [] s t := by
  have honly : Only [.nv, .pwr] [] s (storeRecords s) :=
    (Only.comp (t := { s with pwr := { s.pwr with unstored := [] } }) (only_pwr s _) (only_nv _ _)).mono (by decide) (by simp)
  refine does_eq rfl rfl h honly (by decide) (by decide) ⟨rfl, ?_, fun i hi => ?_, honly⟩
  · rw [records_storeRecords, List.length_drop]
    omega
  · rw [records_storeRecords]
    exact mem_drop_append (List.mem_map_of_mem hi) (by rwa [List.length_map])

/-- Settles O4: the minute that moves on, the signature of the oldest record and the journal. -/
theorem energyRecordsCloseSignAndStore : Obligations.EnergyRecordsCloseSignAndStore :=
  ⟨fun _ h hready hslot => does_minuteBoundary h hready hslot, fun _ _ _ h hw hseed hl hr => does_energySigning h hw hseed hl hr,
    fun _ h hlen => does_journalWrite h hlen⟩

end Sys2Proof.Machine
end

section
/-!
PROOFS. The faults that trip or hold the module (R386, R388, R389, R394, R446), the sensors (R391, R435, R439) and the control pair (R393,
R394).
-/

namespace Sys2Proof.Machine

/-! ### Trips, R388 and R394 -/

/-- The module in OFF with a fault code latched. -/
def tripped (s : State) (code : Nat) (both : Bool) : State :=
  { coldState s .off with pwr := { (coldState s .off).pwr with trip := code, tripBoth := both, tripped := true } }

theorem tripOff_of_powered {s : State} (h : s.pwr.mode = .up ∨ s.pwr.mode = .inReset) (code : Nat) (both : Bool) :
    tripOff s code both = tripped s code both := by
  refine if_neg ?_
  rcases h with h | h <;> rw [h] <;> decide

theorem tripOff_of_off {s : State} (h : s.pwr.mode = .off ∨ s.pwr.mode = .unpowered) (code : Nat) (both : Bool) : tripOff s code both = s :=
  if_pos h.symm

/-- What a trip leaves of a module. -/
def TrippedTo (s : State) (code : Nat) (t : State) : Prop :=
  t.pwr.mode = .off ∧ t.pwr.trip = code ∧ t.pwr.tripped = true ∧ t.pwr.pwrEn = s.pwr.pwrEn ∧ t.plan = none ∧ t.mem = [] ∧
    t.regs = State.reset.regs ∧ t.fuse = s.fuse ∧ t.flash = s.flash ∧ t.nv = s.nv

theorem trippedTo_tripped (s : State) (code : Nat) (both : Bool) : TrippedTo s code (tripped s code both) :=
  ⟨rfl, rfl, rfl, rfl, rfl, rfl, rfl, rfl, rfl, rfl⟩

theorem does_trip {c : Instr} {s u : State} {code : Nat} {both : Bool} (he : exec c s = settleAny s u) (hw : u = tripOff s code both)
    (h : s.pwr.mode = .up ∨ s.pwr.mode = .inReset) : Does c s (TrippedTo s code) :=
  does_settleAny (he.trans (congrArg (settleAny s) (hw.trans (tripOff_of_powered h code both)))) rfl rfl (trippedTo_tripped s code both)

theorem does_noTrip {c : Instr} {s u : State} (he : exec c s = settleAny s u) (hw : u = s) : Does c s fun t => t = s :=
  does_settleAny (he.trans (congrArg (settleAny s) hw)) rfl rfl rfl

/-! ### The faults whose outcome is HOLD, R389 -/

theorem does_holdFault {c : Instr} {s : State} {code hold die unit detail : Nat} (h : Up s) (hc : hold < 14) {u : State}
    (he : exec c s = settle s u) (hw : u = holdFault s code hold die unit detail) :
    Does c s fun t => Holds hold t ∧ hasF t F.SAF_STATUS_fault_seen = true ∧ Only holdParts (holdRegs ++ logRegs s) s t := by
  have honly := only_holdFault s code hold die unit detail
  exact does_parts he hw h honly.1 (by decide) (by decide) ⟨holds_holdFault _ _ _ _ _ _ hc, hasF_fault_seen_holdFault _ _ _ _ _ _, honly⟩

theorem Does.imp {c : Instr} {s : State} {p q : State → Prop} (h : Does c s p) (hpq : ∀ t, p t → q t) : Does c s q :=
  let ⟨t, he, hp⟩ := h
  ⟨t, he, hpq t hp⟩

/-- The lost reference noted, before HOLD. -/
def refLost (s : State) : State := flag { s with lch := { s.lch with refFault := true } } F.LCH_STATUS_ref_fault 5

theorem only_refLost (s : State) : Only [.lch, .host, .sent] [Off.LCH_STATUS, Off.HST_IRQ_PENDING] s (refLost s) :=
  ((only_lch s _).comp (only_flag _ F.LCH_STATUS_ref_fault 5)).mono (by decide) fun _ h => h

theorem refFault_eq (s : State) : refFault s = holdFault (refLost s) 0x14 10 96 0 0 := rfl

/-- What a lost reference shows: HOLD with its cause, and the flag. -/
theorem refFault_spec (s : State) : Holds 10 (refFault s) ∧ hasF (refFault s) F.LCH_STATUS_ref_fault = true ∧
    Only holdParts (Off.LCH_STATUS :: (holdRegs ++ logRegs s)) s (refFault s) := by
  rw [refFault_eq]
  have hlost : Only holdParts [Off.LCH_STATUS, Off.HST_IRQ_PENDING] s (refLost s) := (only_refLost s).mono (by decide) fun _ h => h
  refine ⟨holds_holdFault _ _ _ _ _ _ (by decide), ?_, (hlost.holdFault (by decide) 0x14 10 96 0 0).mono (fun _ h => h) fun o ho => ?_⟩
  · rw [(frame_holdFault _ _ _ _ _ _).hasF_eq _ (by decide)]
    exact hasF_flag _ _ _ (by decide) (by decide) (by decide)
  · have hirq : Off.HST_IRQ_PENDING ∈ holdRegs := by decide
    simp only [List.mem_append, List.mem_cons, List.not_mem_nil, or_false] at ho ⊢
    rcases ho with (ho | rfl) | ho
    · exact .inl ho
    · exact .inr (.inl hirq)
    · exact .inr ho

theorem does_refFault {c : Instr} {s u : State} (h : Up s) (he : exec c s = settle s u) (hw : u = refFault s) :
    Does c s fun t => Holds 10 t ∧ hasF t F.LCH_STATUS_ref_fault = true ∧ Only holdParts (Off.LCH_STATUS :: (holdRegs ++ logRegs s)) s t := by
  obtain ⟨hholds, hflag, honly⟩ := refFault_spec s
  exact does_parts he hw h honly.1 (by decide) (by decide) ⟨hholds, hflag, honly⟩

/-- The deviation of the reference shown. -/
def deviationShown (s : State) (ppm : Int) : State := setF s F.LCH_REF_STATUS_deviation_ppm (lowBits (max (-32768) (min 32767 ppm)) 16)

theorem refWindow_eq {s : State} (ppm : Int) (hp : phaseEnded s 4 = true) (ha : hasF s F.LCH_REF_STATUS_refclk_absent = false) :
    refWindow s ppm = if 1000 < ppm ∨ ppm < -1000 then refFault (deviationShown s ppm) else deviationShown s ppm :=
  if_neg (by simp [hp, ha])

theorem only_deviationShown (s : State) (ppm : Int) : Only [] [Off.LCH_REF_STATUS] s (deviationShown s ppm) :=
  only_setF s F.LCH_REF_STATUS_deviation_ppm _

theorem getF_deviationShown (s : State) {ppm : Int} (h1 : ppm ≤ 1000) (h2 : -1000 ≤ ppm) :
    getF (deviationShown s ppm) F.LCH_REF_STATUS_deviation_ppm = (ppm % 65536).toNat := by
  have hclamp : max (-32768) (min 32767 ppm) = ppm := by omega
  unfold deviationShown
  rw [hclamp, getF_setF_same _ _ _ (by decide)]
  show (ppm % 65536).toNat % 65536 = _
  omega

theorem does_refDeviation {s : State} {ppm : Int} (h : Up s) (hp : phaseEnded s 4 = true)
    (ha : hasF s F.LCH_REF_STATUS_refclk_absent = false) (hppm : 1000 < ppm ∨ ppm < -1000) :
    Does (.refDeviationWindow ppm) s fun t => Holds 10 t ∧ hasF t F.LCH_STATUS_ref_fault = true ∧
      Only holdParts (Off.LCH_REF_STATUS :: Off.LCH_STATUS :: (holdRegs ++ logRegs s)) s t := by
  have hshown := only_deviationShown s ppm
  obtain ⟨hholds, hflag, honly⟩ := refFault_spec (deviationShown s ppm)
  rw [logRegs_congr (hshown.2 _ (by decide))] at honly
  have hall : Only holdParts (Off.LCH_REF_STATUS :: Off.LCH_STATUS :: (holdRegs ++ logRegs s)) s (refFault (deviationShown s ppm)) :=
    hshown.comp honly
  exact does_parts rfl ((refWindow_eq ppm hp ha).trans (if_pos hppm)) h hall.1 (by decide) (by decide) ⟨hholds, hflag, hall⟩

/-! ### A SYNC object that fails, R133 -/

/-- The flags of the SYNC objects. -/
def SyncIs (m : FMap SyncFlags) (s : State) : Prop := s.lch.flags = m

section
variable {m : FMap SyncFlags} {s : State}

protected theorem SyncIs.only {ps : List Part} {l : List Nat} {t : State} (h : SyncIs m s) (ho : Only ps l s t) (hl : Part.lch ∉ ps) :
    SyncIs m t := by
  have hlch : t.lch = s.lch := ho.1 .lch hl
  unfold SyncIs
  rw [hlch]
  exact h

protected theorem SyncIs.foldl {α : Type} {f : State → α → State} {xs : List α} (h : SyncIs m s) (hf : ∀ s x, SyncIs m s → SyncIs m (f s x)) :
    SyncIs m (xs.foldl f s) := List.foldlRecOn xs f h fun s hs x _ => hf s x hs

variable (h : SyncIs m s)
include h

protected theorem SyncIs.discard {ks : List Nat} : SyncIs m (discard s ks) := by
  have hunits : SyncIs m (leaveUnits s ks) := .foldl h fun _ _ h => h
  have harrays : SyncIs m (leaveArrays (leaveUnits s ks) ks) := hunits.only (only_leaveArrays _ ks) (by decide)
  exact .foldl harrays fun _ _ h => h

protected theorem SyncIs.releaseStopped {ps : List Nat} : SyncIs m (releaseStopped s ps) := h.only (only_releaseStash s _) (by decide)

protected theorem SyncIs.setPass {p : Nat} {r : PassRun} : SyncIs m (setPass s p r) := h

protected theorem SyncIs.stopPass {p : Nat} : SyncIs m (stopPass s p) := by
  unfold stopPass
  split
  · exact h
  · exact h.discard.releaseStopped.setPass

protected theorem SyncIs.faultStop {ps : List Nat} : SyncIs m (faultStop s ps) :=
  (SyncIs.foldl h fun _ _ h => h.stopPass).only (only_noteStop _ 2 _) (by decide)

protected theorem SyncIs.enterHold {code : Nat} : SyncIs m (enterHold s code) :=
  ((((h.only (only_setF s F.SAF_HOLD_first code) (by decide)).faultStop).only (only_abandonMoves _) (by decide)).only
    (only_holdPlan _) (by decide)).only (only_flag _ F.SAF_STATUS_hold_entered 11) (by decide)

protected theorem SyncIs.holdFault {code c die unit detail : Nat} : SyncIs m (holdFault s code c die unit detail) := by
  have hmark : SyncIs m (markHold (logFault s code 2 die unit detail) c) :=
    (h.only (only_logFault s code 2 die unit detail) (by decide)).only (only_markHold _ c) (by decide)
  unfold holdFault holdCause
  split
  · exact hmark
  · exact hmark.enterHold

end

/-- The object cleared and marked as failed. -/
def syncCleared (s : State) (o : Nat) : State :=
  setReg { s with lch := { s.lch with flags := FMap.set ⟨false, false, false, false⟩ s.lch.flags o { syncFlags s o with failed := true } } }
    (Off.LCH_SYNC o) 0

theorem syncFailed_eq (s : State) (o : Nat) : syncFailed s o = holdFault (syncCleared s o) 0x17 12 (80 + o / 1024 % 8) 0 0 := rfl

theorem only_syncCleared (s : State) (o : Nat) : Only [.lch] [Off.LCH_SYNC o] s (syncCleared s o) :=
  (only_lch s _).comp (only_setReg _ (Off.LCH_SYNC o) 0)

theorem off_sync_not_mem {o : Nat} (s : State) (h : o < 8192) : Off.LCH_SYNC o ∉ holdRegs ++ logRegs s := by
  have hoff : 0x510000 ≤ Off.LCH_SYNC o ∧ Off.LCH_SYNC o < 0x520000 := by
    unfold Off.LCH_SYNC
    omega
  have hlog : Off.LCH_SYNC o ∉ logRegs s :=
    not_mem_logRegs s _ (by refine ⟨?_, ?_, ?_, ?_⟩ <;> intro he <;> rw [he] at hoff <;> revert hoff <;> decide) (by omega)
  have hhold : ∀ q ∈ holdRegs, ¬(0x510000 ≤ q ∧ q < 0x520000) := by decide
  rw [List.mem_append, not_or]
  exact ⟨fun hm => hhold _ hm hoff, hlog⟩

theorem does_syncObjectFailed {s : State} {o : Nat} (h : Up s) (ho : o < 8192) :
    Does (.syncObjectFailed o) s fun t => Holds 12 t ∧ syncValue t o = 0 ∧ (syncFlags t o).failed = true ∧
      Only holdParts (Off.LCH_SYNC o :: (holdRegs ++ logRegs s)) s t := by
  have hcleared := only_syncCleared s o
  have hhead : Off.SAF_LOG_HEAD ∉ [Off.LCH_SYNC o] := by
    simp only [Off.LCH_SYNC, Off.SAF_LOG_HEAD, List.mem_cons, List.not_mem_nil, or_false]
    omega
  have honly : Only holdParts (Off.LCH_SYNC o :: (holdRegs ++ logRegs s)) s (syncFailed s o) :=
    (hcleared.mono (by decide) fun _ h => h).holdFault hhead _ _ _ _ _
  have hfault := only_holdFault (syncCleared s o) 0x17 12 (80 + o / 1024 % 8) 0 0
  have hflags : SyncIs (syncCleared s o).lch.flags (syncFailed s o) := SyncIs.holdFault rfl
  refine does_parts rfl (congrArg (syncFailed s) (Nat.mod_eq_of_lt ho)) h honly.1 (by decide) (by decide)
    ⟨holds_holdFault _ _ _ _ _ _ (by decide), ?_, ?_, honly⟩
  · unfold syncValue
    rw [syncFailed_eq, hfault.2 _ (off_sync_not_mem _ ho), syncCleared, getReg_setReg_self]
    rfl
  · unfold syncFlags
    rw [hflags, syncCleared, setReg_lch, FMap.get_set_self]

/-- Settles O45: the trips by the power mode, then each fault that takes the module into HOLD and each that does not. -/
theorem faultsTripOrHoldTheModule : Obligations.FaultsTripOrHoldTheModule := by
  refine ⟨fun s c both die code h hc => ?_, fun s c both die h hc => ?_, fun s h hm hb => ?_, fun s c die h hc => ?_,
    fun s die c h hc => ?_, fun s die c h hc => ?_, fun s h hready hlow => ?_, fun s m h hp hm => ?_,
    fun s ppm h hp ha hppm => does_refDeviation h hp ha hppm, fun s ppm h hp ha h1 h2 => ?_,
    fun s o h ho => does_syncObjectFailed h ho⟩
  · rcases hc with ⟨rfl, rfl⟩ | ⟨rfl, rfl⟩ | ⟨rfl, rfl⟩ | ⟨rfl, rfl⟩ | ⟨rfl, rfl, hup, hbeat⟩
    · exact does_trip rfl rfl h
    · exact does_trip rfl rfl h
    · exact does_trip rfl rfl h
    · exact does_trip rfl rfl h
    · exact does_trip rfl (if_pos ⟨hup, hbeat⟩) h
  · have hdown : ¬Up s := by
      unfold Up
      rcases h with h | h <;> rw [h] <;> decide
    simp only [List.mem_cons, List.not_mem_nil, or_false] at hc
    rcases hc with rfl | rfl | rfl | rfl | rfl
    · exact does_noTrip rfl (tripOff_of_off h _ _)
    · exact does_noTrip rfl (tripOff_of_off h _ _)
    · exact does_noTrip rfl (tripOff_of_off h _ _)
    · exact does_noTrip rfl (tripOff_of_off h _ _)
    · exact does_noTrip rfl (watchdog_of_not_up hdown)
  · refine does_noTrip rfl (if_neg fun hc => ?_)
    rcases hc.2 with hm' | hb'
    · rw [hm] at hm'
      cases hm'
    · omega
  · simp only [List.mem_cons, List.not_mem_nil, or_false] at hc
    rcases hc with rfl | rfl | rfl
    · exact does_holdFault h (by decide) rfl rfl
    · exact does_holdFault h (by decide) rfl rfl
    · exact does_holdFault h (by decide) rfl rfl
  · exact (does_holdFault h (by decide) rfl (if_neg (by omega))).imp fun t ht => ⟨ht.1, ht.2.2⟩
  · exact does_parts rfl (if_pos hc) h (Only.rfl' [] [] s).1 (by decide) (by decide) rfl
  · exact (does_holdFault h (by decide) rfl (if_pos (by simp [hready, hlow]))).imp fun t ht => ⟨ht.1, ht.2.2⟩
  · exact does_refFault h rfl (if_neg (by simp [hp, hm]))
  · have honly := only_deviationShown s ppm
    exact does_parts rfl ((refWindow_eq ppm hp ha).trans (if_neg (by omega))) h honly.1 (by decide) (by decide)
      ⟨getF_deviationShown s h1 h2, honly⟩

end Sys2Proof.Machine
end

section
/-!
PROOFS. The sensors (R391, R435, R439) and the control pair (R393, R394).
-/

namespace Sys2Proof.Machine

/-! ### The hottest junction shown, R391 -/

/-- The hottest junction and its die shown. -/
def hottestShown (s : State) : State :=
  setF (setF s F.SAF_THERMAL_hottest_c (lowBits (Int.fdiv (hottest s).2 10) 8)) F.SAF_THERMAL_die (hottest s).1

/-- The thermal warning raised above 95 degrees and cleared below 90. -/
def warnJudged (s : State) (t : Int) : State :=
  if !hasF s F.SAF_STATUS_thermal_warn && decide (950 < t) then flag s F.SAF_STATUS_thermal_warn 11
  else if hasF s F.SAF_STATUS_thermal_warn && decide (t < 900) then setF s F.SAF_STATUS_thermal_warn 0
  else s

theorem showThermal_eq (s : State) : showThermal s = setF (warnJudged (hottestShown s) (hottest s).2) F.PWR_GOV_limit_mv
    (voltageLimit (warnJudged (hottestShown s) (hottest s).2)) := rfl

theorem only_hottestShown (s : State) : Only [] [Off.SAF_THERMAL] s (hottestShown s) :=
  ((only_setF s F.SAF_THERMAL_hottest_c _).comp (only_setF _ F.SAF_THERMAL_die _)).mono (by simp) (by decide)

theorem only_warnJudged (s : State) (t : Int) : Only eventParts [Off.SAF_STATUS, Off.HST_IRQ_PENDING] s (warnJudged s t) :=
  Only.ite (only_flag s F.SAF_STATUS_thermal_warn 11)
    (Only.ite ((only_setF s F.SAF_STATUS_thermal_warn 0).mono (by simp) (by decide)) (Only.rfl' _ _ s))

/-- What follows the hottest junction shown. -/
theorem only_showThermal_of_hottest (s : State) :
    Only eventParts [Off.SAF_STATUS, Off.PWR_GOV, Off.HST_IRQ_PENDING] (hottestShown s) (showThermal s) := by
  rw [showThermal_eq]
  exact ((only_warnJudged _ _).comp (only_setF _ F.PWR_GOV_limit_mv _)).mono (by simp) (by decide)

theorem only_showThermal (s : State) :
    Only eventParts [Off.SAF_THERMAL, Off.SAF_STATUS, Off.PWR_GOV, Off.HST_IRQ_PENDING] s (showThermal s) :=
  (only_hottestShown s).comp (only_showThermal_of_hottest s)

theorem die_showThermal (s : State) : getF (showThermal s) F.SAF_THERMAL_die = (hottest s).1 % 128 :=
  ((only_showThermal_of_hottest s).field _ (by decide)).trans (getF_setF_same _ _ _ (by decide))

/-! ### A reading judged, R391 and R420 -/

/-- A reading of a die noted. -/
def tempsNoted (s : State) (d : Nat) (t : Int × Int) : State := { s with saf := { s.saf with temps := FMap.set noTemp s.saf.temps d t } }

theorem only_tempsNoted (s : State) (d : Nat) (t : Int × Int) : Only [.saf] [] s (tempsNoted s d t) := only_saf s _

/-- A reading noted and shown. -/
def tempsShown (s : State) (d : Nat) (t : Int × Int) : State := showThermal (tempsNoted s d t)

theorem only_tempsShown (s : State) (d : Nat) (t : Int × Int) :
    Only (.saf :: eventParts) [Off.SAF_THERMAL, Off.SAF_STATUS, Off.PWR_GOV, Off.HST_IRQ_PENDING] s (tempsShown s d t) :=
  (only_tempsNoted s d t).comp (only_showThermal _)

theorem saf_tempsShown (s : State) (d : Nat) (t : Int × Int) : (tempsShown s d t).saf = (tempsNoted s d t).saf :=
  (only_showThermal _).1 .saf (by decide)

/-- A reading noted, shown and judged. -/
def sensorsJudged (s : State) (d : Nat) (t : Int × Int) : State := judgeSensors (tempsShown s d t) d (FMap.get noTemp s.saf.temps d) t

/-- A die that was below -20 degrees before the reading. -/
def wasCold (s : State) (d : Nat) : Bool := FMap.get noTemp s.saf.temps d != noTemp && decide (dieTemp s d < -200)

theorem sensorRead_eq {s : State} {d : Nat} (hp : phaseEnded s 1 = true) (hr : (⟨6, 0, d⟩ : Activity) ∉ s.maint.running) (t0 t1 : Int) :
    sensorRead s d t0 t1 = if !wasCold s d && decide (dieTemp (sensorsJudged s d (t0, t1)) d < -200) then
      alarm3 (sensorsJudged s d (t0, t1)) 8 else sensorsJudged s d (t0, t1) :=
  if_neg (by simp [hp, hr, List.contains_eq_mem])

theorem implausible_congr {s t : State} (h : t.saf.alone = s.saf.alone) (d : Nat) (x : Int × Int) : implausible t d x = implausible s d x := by
  unfold implausible
  rw [h]

theorem dieTemp_congr {s t : State} (h : t.saf = s.saf) (d : Nat) : dieTemp t d = dieTemp s d := by
  unfold dieTemp
  rw [h]

theorem hottest_congr {s t : State} (h : t.saf = s.saf) : hottest t = hottest s := by
  unfold hottest
  simp only [dieTemp_congr h]
  rw [h]

theorem implausible_tempsShown (s : State) (d : Nat) (x : Int × Int) : implausible (tempsShown s d x) d x = implausible s d x :=
  implausible_congr (by rw [saf_tempsShown]; rfl) d x

theorem temps_tempsNoted_self (s : State) (d : Nat) (t : Int × Int) : FMap.get noTemp (tempsNoted s d t).saf.temps d = t :=
  FMap.get_set_self _ _ _ _

theorem temps_tempsNoted_other (s : State) {d e : Nat} (t : Int × Int) (h : e ≠ d) :
    FMap.get noTemp (tempsNoted s d t).saf.temps e = FMap.get noTemp s.saf.temps e := FMap.get_set_other _ _ _ h

/-- The temperature of a die is one of the two that were read, or the higher. -/
theorem dieTemp_tempsNoted (s : State) (d : Nat) (t0 t1 : Int) : dieTemp (tempsNoted s d (t0, t1)) d = t0 ∨
    dieTemp (tempsNoted s d (t0, t1)) d = t1 := by
  unfold dieTemp
  rw [temps_tempsNoted_self]
  dsimp only
  split
  · exact .inl rfl
  · exact .inr rfl
  · exact (max_choice t0 t1)

theorem sensorsJudged_of_plausible {s : State} {d : Nat} {t : Int × Int} (h : implausible s d t = false) :
    sensorsJudged s d t = tempsShown s d t := by
  unfold sensorsJudged judgeSensors
  rw [implausible_tempsShown, h]
  rfl

/-- The fault of a sensor noted. -/
def sensorFaulted (s : State) (d : Nat) (t : Int × Int) : State := flag (tempsShown s d t) F.SAF_STATUS_sensor_fault 11

theorem only_sensorFaulted (s : State) (d : Nat) (t : Int × Int) :
    Only eventParts [Off.SAF_STATUS, Off.HST_IRQ_PENDING] (tempsShown s d t) (sensorFaulted s d t) :=
  only_flag _ F.SAF_STATUS_sensor_fault 11

/-- The fields that the judgement of a sensor leaves. -/
def besideSensor (g : Field) : Bool := besideLog g && besideHold g

theorem frame_sensorsJudged {s : State} {d : Nat} {t : Int × Int} (h : implausible s d t = true) :
    Frame (eventParts ++ holdParts) besideSensor (sensorFaulted s d t) (sensorsJudged s d t) := by
  have hlog : Frame (eventParts ++ holdParts) besideSensor (sensorFaulted s d t)
      (logFault (sensorFaulted s d t) 0x09 1 d 0 (lowBits (dieTemp (sensorFaulted s d t) d) 32)) :=
    (frame_logFault _ _ _ _ _ _).mono (fun _ hp => List.mem_append_left _ hp) fun _ hg => (Bool.and_eq_true_iff.mp hg).1
  unfold sensorsJudged judgeSensors
  rw [if_neg (by simp [implausible_tempsShown, h])]
  exact Frame.ite (Frame.rfl' _ _ _) (Frame.ite (frame_holdFault _ _ _ _ _ _) hlog)

theorem fault_sensorsJudged {s : State} {d : Nat} {t : Int × Int} (h : implausible s d t = true) :
    hasF (sensorsJudged s d t) F.SAF_STATUS_sensor_fault = true :=
  ((frame_sensorsJudged h).hasF_eq _ (by decide)).trans (hasF_flag _ _ _ (by decide) (by decide) (by decide))

theorem saf_sensorsJudged {s : State} {d : Nat} {t : Int × Int} (h : implausible s d t = true) :
    (sensorsJudged s d t).saf = (tempsNoted s d t).saf :=
  (((frame_sensorsJudged h).parts .saf (by decide)).trans ((only_sensorFaulted s d t).1 .saf (by decide))).trans (saf_tempsShown s d t)

theorem parts_sensorsJudged {s : State} {d : Nat} {t : Int × Int} (h : implausible s d t = true) :
    PartsBut (.saf :: alarm3Parts) s (sensorsJudged s d t) :=
  ((PartsBut.weaken (only_tempsShown s d t).1 (by decide)).trans (PartsBut.weaken (only_sensorFaulted s d t).1 (by decide))).trans
    ((frame_sensorsJudged h).parts.weaken (by decide))

theorem does_sensorRead_plausible {s : State} {d : Nat} {t0 t1 : Int} (h : Up s) (hp : phaseEnded s 1 = true)
    (hr : (⟨6, 0, d⟩ : Activity) ∉ s.maint.running) (hi : implausible s d (t0, t1) = false) (h0 : -200 ≤ t0) (h1 : -200 ≤ t1) :
    Does (.sensorRead d t0 t1) s fun t => FMap.get noTemp t.saf.temps d = (t0, t1) ∧
      (∀ e, e ≠ d → FMap.get noTemp t.saf.temps e = FMap.get noTemp s.saf.temps e) ∧ getF t F.SAF_THERMAL_die = (hottest t).1 % 128 ∧
      Only (.saf :: eventParts) [Off.SAF_THERMAL, Off.SAF_STATUS, Off.PWR_GOV, Off.HST_IRQ_PENDING] s t := by
  have honly := only_tempsShown s d (t0, t1)
  have hsaf := saf_tempsShown s d (t0, t1)
  have hwarm : ¬dieTemp (tempsShown s d (t0, t1)) d < -200 := by
    rw [dieTemp_congr hsaf]
    rcases dieTemp_tempsNoted s d t0 t1 with he | he <;> omega
  have hcmd : sensorRead s d t0 t1 = tempsShown s d (t0, t1) := by
    rw [sensorRead_eq hp hr, sensorsJudged_of_plausible hi, if_neg (by simp [hwarm])]
  refine does_parts rfl hcmd h honly.1 (by decide) (by decide) ⟨?_, fun e he => ?_, ?_, honly⟩
  · rw [hsaf, temps_tempsNoted_self]
  · rw [hsaf, temps_tempsNoted_other s _ he]
  · rw [hottest_congr hsaf]
    exact die_showThermal _

theorem does_sensorRead_implausible {s : State} {d : Nat} {t0 t1 : Int} (h : Up s) (hp : phaseEnded s 1 = true)
    (hr : (⟨6, 0, d⟩ : Activity) ∉ s.maint.running) (hi : implausible s d (t0, t1) = true) :
    Does (.sensorRead d t0 t1) s fun t => FMap.get noTemp t.saf.temps d = (t0, t1) ∧ hasF t F.SAF_STATUS_sensor_fault = true := by
  have hparts := parts_sensorsJudged hi
  have hfault := fault_sensorsJudged hi
  have htemps : FMap.get noTemp (sensorsJudged s d (t0, t1)).saf.temps d = (t0, t1) := by
    rw [saf_sensorsJudged hi, temps_tempsNoted_self]
  have hcmd := sensorRead_eq hp hr t0 t1
  by_cases hc : (!wasCold s d && decide (dieTemp (sensorsJudged s d (t0, t1)) d < -200)) = true
  · have halarm := frame_alarm3 (sensorsJudged s d (t0, t1)) 8
    refine does_parts rfl (hcmd.trans (if_pos hc)) h (hparts.trans (halarm.parts.weaken (by decide))) (by decide) (by decide) ⟨?_, ?_⟩
    · have hsaf : (alarm3 (sensorsJudged s d (t0, t1)) 8).saf = _ := halarm.parts .saf (by decide)
      rw [hsaf, htemps]
    · exact (halarm.hasF_eq _ (by decide)).trans hfault
  · exact does_parts rfl (hcmd.trans (if_neg hc)) h hparts (by decide) (by decide) ⟨htemps, hfault⟩

theorem does_sensorRead_cold {s : State} {d : Nat} {t0 t1 : Int} (h : Up s) (hp : phaseEnded s 1 = true)
    (hr : (⟨6, 0, d⟩ : Activity) ∉ s.maint.running) (hi : implausible s d (t0, t1) = false) (h0 : t0 < -200) (h1 : t1 < -200)
    (hw : FMap.get noTemp s.saf.temps d = noTemp ∨ -200 ≤ dieTemp s d) :
    Does (.sensorRead d t0 t1) s fun t => hasF t F.SEC_STATUS_lock = true ∧ t.sec.tenant = none ∧ t.sec.session = none := by
  have hcold : wasCold s d = false := by
    unfold wasCold
    rcases hw with hw | hw
    · rw [hw]
      simp
    · simp [show ¬dieTemp s d < -200 by omega]
  have hnow : dieTemp (tempsShown s d (t0, t1)) d < -200 := by
    rw [dieTemp_congr (saf_tempsShown s d (t0, t1))]
    rcases dieTemp_tempsNoted s d t0 t1 with he | he <;> omega
  have hcmd : sensorRead s d t0 t1 = alarm3 (tempsShown s d (t0, t1)) 8 := by
    rw [sensorRead_eq hp hr, sensorsJudged_of_plausible hi, if_pos (by simp [hcold, hnow])]
  have hparts : PartsBut (.saf :: alarm3Parts) s (alarm3 (tempsShown s d (t0, t1)) 8) :=
    (PartsBut.weaken (only_tempsShown s d (t0, t1)).1 (by decide)).trans ((frame_alarm3 _ 8).parts.weaken (by decide))
  refine does_parts rfl hcmd h hparts (by decide) (by decide) ⟨hasF_lock_alarm3 _ _, ?_, ?_⟩
  · rw [sec_alarm3]
  · rw [sec_alarm3]

/-! ### The flow and the reference clock, R435 and R439 -/

/-- A reading of the flow counted as one that reaches the minimum, or as one that does not. -/
def flowCounted (s : State) (ok : Bool) : State :=
  if ok then { s with saf := { s.saf with flowOk := s.saf.flowOk + 1, flowLow := 0 } }
  else { s with saf := { s.saf with flowOk := 0, flowLow := s.saf.flowLow + 1 } }

theorem only_flowCounted (s : State) (ok : Bool) : Only [.saf] [] s (flowCounted s ok) := Only.ite (only_saf s _) (only_saf s _)

theorem does_flowRead {s u : State} {r : Option Nat} {v : Nat} {ok : Bool} (h : Up s)
    (hw : flowRead s r = flowCounted (setF s F.SAF_THERMAL_flow v) ok) (hv : v < 65536) (hu : u = flowCounted (setF s F.SAF_THERMAL_flow v) ok) :
    Does (.flowRead r) s fun t => t = u ∧ getF t F.SAF_THERMAL_flow = v ∧ Only [.saf] [Off.SAF_THERMAL] s t := by
  have honly := (only_setF s F.SAF_THERMAL_flow v).comp (only_flowCounted (setF s F.SAF_THERMAL_flow v) ok)
  refine does_parts rfl hw h honly.1 (by simp) (by simp) ⟨hu.symm, ?_, honly⟩
  rw [(only_flowCounted _ _).field _ (by simp)]
  exact getF_setF_of_lt _ _ (by decide) hv

theorem flowRead_of_reading (s : State) (x : Nat) : flowRead s (some x) =
    flowCounted (setF s F.SAF_THERMAL_flow (if x < 50 then 0 else min x 65535)) (decide (flowMin s ≤ if x < 50 then 0 else min x 65535)) := by
  have hmin : flowMin (setF s F.SAF_THERMAL_flow (if x < 50 then 0 else min x 65535)) = flowMin s := by
    unfold flowMin
    rw [(only_setF s F.SAF_THERMAL_flow _).field F.SAF_POLICY_flow_min (by decide)]
  unfold flowRead
  simp only [Option.isSome_some, if_true, hmin, Bool.true_and]
  rfl

/-- Settles O46: the readings of a die by whether they are plausible and cold, the flow by whether it reaches the minimum, the clock. -/
theorem sensorsAreShownAndJudged : Obligations.SensorsAreShownAndJudged := by
  refine ⟨fun s d t0 t1 h hp hr hi h0 h1 => does_sensorRead_plausible h hp hr hi h0 h1,
    fun s d t0 t1 h hp hr hi => does_sensorRead_implausible h hp hr hi,
    fun s d t0 t1 h hp hr hi h0 h1 hw => does_sensorRead_cold h hp hr hi h0 h1 hw, fun s x h h50 hx hmin => ?_, fun s x h h50 hmin => ?_,
    fun s h => ?_, fun s h => ?_, fun s h => ?_⟩
  · have hread : flowRead s (some x) = flowCounted (setF s F.SAF_THERMAL_flow x) true := by
      rw [flowRead_of_reading, if_neg (by omega), Nat.min_eq_left (by omega), decide_eq_true hmin]
    refine (does_flowRead h hread hx rfl).imp fun t ht => ?_
    obtain ⟨rfl, hflow, honly⟩ := ht
    exact ⟨hflow, rfl, rfl, honly⟩
  · have hread : flowRead s (some x) = flowCounted (setF s F.SAF_THERMAL_flow 0) false := by
      rw [flowRead_of_reading, if_pos h50, decide_eq_false (by omega)]
    refine (does_flowRead h hread (by decide) rfl).imp fun t ht => ?_
    obtain ⟨rfl, hflow, honly⟩ := ht
    exact ⟨hflow, rfl, rfl, honly⟩
  · exact does_parts rfl rfl h (only_flowCounted s false).1 (by decide) (by decide) ⟨rfl, rfl, only_flowCounted s false⟩
  · have honly := only_setF s F.LCH_REF_STATUS_refclk_absent 1
    exact does_parts rfl rfl h honly.1 (by decide) (by decide) ⟨hasF_setF_one _ _ (by decide) (by decide), honly⟩
  · have honly := only_setF s F.LCH_REF_STATUS_refclk_absent 0
    refine does_parts rfl rfl h honly.1 (by decide) (by decide) ⟨?_, honly⟩
    unfold hasF
    rw [getF_setF_of_lt _ _ (by decide) (by decide)]
    rfl

/-! ### The control pair, R393 and R394 -/

/-- The self-check over, its result still to be judged. -/
def checkEnded (s : State) : State := { s with saf := { s.saf with checking := false } }

theorem only_checkEnded (s : State) : Only [.saf] [] s (checkEnded s) := only_saf s _

section
variable {s : State} (h : s.saf.checking = true)
include h

theorem selfCheckEnd_equal : selfCheckEnd s true true true = bumpF (checkEnded s) F.SAF_CONTROL_transients 1 :=
  (if_neg (by simp [h])).trans (if_pos rfl)

theorem selfCheckEnd_unequal : selfCheckEnd s true true false = holdFault (checkEnded s) 0x22 11 96 0 0 :=
  (if_neg (by simp [h])).trans (if_neg Bool.false_ne_true)

theorem selfCheckEnd_lost (ok96 equal : Bool) : selfCheckEnd s ok96 (!ok96) equal = loseControl (checkEnded s) (if ok96 then 97 else 96) := by
  cases ok96 with
  | true => exact if_neg (by simp [h])
  | false => exact if_neg (by simp [h])

theorem selfCheckEnd_neither (equal : Bool) : selfCheckEnd s false false equal = muteControl (checkEnded s) := if_neg (by simp [h])

end

theorem only_fenceControl (s : State) (die : Nat) :
    Only eventParts [Off.SAF_CONTROL, Off.SAF_STATUS, Off.HST_IRQ_PENDING] s (fenceControl s die) :=
  (((only_setF s F.SAF_CONTROL_fenced_die die).comp (only_setF _ F.SAF_STATUS_single_control 1)).comp
    (only_flag _ F.SAF_STATUS_single_control_seen 11)).mono (by decide) (by decide)

/-- What the fence of a control die shows. -/
theorem fenceControl_shows (s : State) {die : Nat} (hd : die < 128) : getF (fenceControl s die) F.SAF_CONTROL_fenced_die = die ∧
    hasF (fenceControl s die) F.SAF_STATUS_single_control = true := by
  unfold fenceControl
  constructor
  · rw [getF_flag_other _ _ _ _ (by decide) (by decide) (by decide), getF_setF_other _ _ _ _ (by decide) (by decide)]
    exact getF_setF_of_lt _ _ (by decide) hd
  · rw [hasF_flag_other _ _ _ _ (by decide) (by decide) (by decide)]
    exact hasF_setF_one _ _ (by decide) (by decide)

/-- The loss of a control die entered in the log. -/
def controlLogged (s : State) (die : Nat) : State := logFault (fenceControl s die) 0x15 1 die 0 0

/-- What follows the fence of a control die that is lost. -/
theorem frame_loseControl (s : State) (die : Nat) : Frame [.ctl, .host, .sent] (fun g => besideLog g && besideDiscard g) (fenceControl s die)
    (loseControl s die) := by
  have hlog := frame_logFault (fenceControl s die) 0x15 1 die 0 0
  have hrest : Frame [.ctl, .host, .sent] besideDiscard (controlLogged s die)
      (if getF (controlLogged s die) F.CTL_CROZIER_state = 1 then discardSet (controlLogged s die) 2 0 else controlLogged s die) :=
    Frame.ite (frame_discardSet _ 2 0) (Frame.rfl' _ _ _)
  exact (hlog.comp hrest).mono (by decide) fun _ h => h

theorem parts_loseControl (s : State) (die : Nat) : PartsBut [.ctl, .host, .sent] s (loseControl s die) :=
  (PartsBut.weaken (only_fenceControl s die).1 (by decide)).trans (frame_loseControl s die).parts

theorem does_selfCheckEnd_lost {s : State} (h : Up s) (hc : s.saf.checking = true) (ok96 equal : Bool) :
    Does (.selfCheckEnd ok96 (!ok96) equal) s fun t => getF t F.SAF_CONTROL_fenced_die = (if ok96 then 97 else 96) ∧
      hasF t F.SAF_STATUS_single_control = true ∧ t.saf.checking = false := by
  have hd : (if ok96 then 97 else 96) < 128 := by split <;> decide
  have hframe := frame_loseControl (checkEnded s) (if ok96 then 97 else 96)
  have hparts : PartsBut [.saf, .ctl, .host, .sent] s (loseControl (checkEnded s) (if ok96 then 97 else 96)) :=
    (PartsBut.weaken (only_checkEnded s).1 (by decide)).trans ((parts_loseControl _ _).weaken (by decide))
  have hsaf : (loseControl (checkEnded s) (if ok96 then 97 else 96)).saf = (checkEnded s).saf := parts_loseControl _ _ .saf (by decide)
  obtain ⟨hdie, hsingle⟩ := fenceControl_shows (checkEnded s) hd
  exact does_parts rfl (selfCheckEnd_lost hc ok96 equal) h hparts (by decide) (by decide)
    ⟨(hframe.fields _ (by decide)).trans hdie, (hframe.hasF_eq _ (by decide)).trans hsingle, by rw [hsaf]; rfl⟩

theorem only_muteControl (s : State) : Only [.saf] [] s (muteControl s) := only_saf s _

/-- Settles O47: the disagreement, the self-check by the results of the two dies, the check of a single die and the heartbeat. -/
theorem theControlPairDecides : Obligations.TheControlPairDecides := by
  refine ⟨fun s h hp hs => ?_, fun s h hc => ?_, fun s h hc => ?_, fun s ok96 e h hc => does_selfCheckEnd_lost h hc ok96 e, fun s e h hc => ?_,
    fun s a b e h hc => ?_, fun s h hs => ?_, fun s h => ?_, fun s die h hd hf hm => ?_⟩
  · have honly := (only_saf s { s.saf with checking := true }).comp (only_bumpF _ F.SAF_CONTROL_disagreements 1)
    exact does_parts rfl (if_neg (by simp [hs, hp])) h honly.1 (by simp) (by simp) ⟨rfl, getF_bumpF_same _ _ _ (by decide), honly⟩
  · have honly := (only_checkEnded s).comp (only_bumpF _ F.SAF_CONTROL_transients 1)
    exact does_parts rfl (selfCheckEnd_equal hc) h honly.1 (by simp) (by simp) ⟨rfl, getF_bumpF_same _ _ _ (by decide), honly⟩
  · have hlog : logRegs (checkEnded s) = logRegs s := logRegs_congr rfl
    have honly := (only_checkEnded s).comp (only_holdFault (checkEnded s) 0x22 11 96 0 0)
    rw [hlog] at honly
    exact does_parts rfl (selfCheckEnd_unequal hc) h honly.1 (by decide) (by decide)
      ⟨holds_holdFault _ _ _ _ _ _ (by decide), honly⟩
  · have honly : Only [.saf] [] s (muteControl (checkEnded s)) := (only_checkEnded s).trans (only_muteControl _)
    exact does_parts rfl (selfCheckEnd_neither hc e) h honly.1 (by decide) (by decide) ⟨rfl, rfl, honly⟩
  · exact does_parts rfl (if_pos (by simp [hc])) h (Only.rfl' [] [] s).1 (by decide) (by decide) rfl
  · have honly := only_muteControl s
    exact does_parts rfl (if_pos (by simp [hs])) h honly.1 (by decide) (by decide) ⟨rfl, honly⟩
  · exact does_parts rfl (if_neg (by simp)) h (Only.rfl' [] [] s).1 (by decide) (by decide) rfl
  · have honly := only_saf s { s.saf with beatAt := slot s }
    exact does_parts rfl (if_pos ⟨hd, hf, hm⟩) h honly.1 (by decide) (by decide) ⟨rfl, honly⟩

end Sys2Proof.Machine
end

section
/-!
PROOFS. The release of HOLD causes, SAF_RESUME (R387).
-/

namespace Sys2Proof.Machine

/-- Every cause that a write names is pending and may be released. -/
def Releasable (s : State) (v : Word) : Prop :=
  ∀ c, c < 14 → bit v c = true → (getF s F.SAF_HOLD_pending).testBit c = true ∧ releaseOk s c = true

theorem safResume_of_releasable {s : State} {v : Word} (h : Releasable s v) : safResume s v = leaveHold (clearCauses s (bits v 13 0)) := by
  refine if_pos (List.all_eq_true.mpr fun c hc => ?_)
  obtain ⟨hlt, hbit⟩ := List.mem_filter.mp hc
  obtain ⟨hpend, hok⟩ := h c (List.mem_range.mp hlt) hbit
  rw [hpend, hok]
  rfl

theorem safResume_of_refused {s : State} {v : Word} {c : Nat} (hc : c < 14) (hv : bit v c = true)
    (h : (getF s F.SAF_HOLD_pending).testBit c = false ∨ releaseOk s c = false) : safResume s v = flag s F.SAF_STATUS_resume_refused 11 := by
  refine if_neg fun hall => ?_
  have hone := List.all_eq_true.mp hall c (List.mem_filter.mpr ⟨List.mem_range.mpr hc, hv⟩)
  rw [Bool.and_eq_true] at hone
  rcases h with h | h
  · rw [hone.1] at h
    cases h
  · rw [hone.2] at h
    cases h

/-! ### Some causes released -/

theorem clearCauses_of_some {s : State} {mask : Nat} (h : getF s F.SAF_HOLD_pending &&& mask ≠ getF s F.SAF_HOLD_pending) :
    clearCauses s mask = setF s F.SAF_HOLD_pending (getF s F.SAF_HOLD_pending - (getF s F.SAF_HOLD_pending &&& mask)) := by
  have hle := Nat.and_le_left (n := getF s F.SAF_HOLD_pending) (m := mask)
  have hpending : getF s F.SAF_HOLD_pending ≠ 0 := fun h0 => h (by rw [h0, Nat.zero_and])
  unfold clearCauses
  exact (if_neg hpending).trans (if_neg (by omega))

theorem does_safResume_some {s : State} {v : Word} (h : HostUp s) (hr : Releasable s v)
    (hsome : getF s F.SAF_HOLD_pending &&& bits v 13 0 ≠ getF s F.SAF_HOLD_pending) :
    Does (.safResume v) s fun t =>
      getF t F.SAF_HOLD_pending = getF s F.SAF_HOLD_pending - (getF s F.SAF_HOLD_pending &&& bits v 13 0) ∧ Only [] [Off.SAF_HOLD] s t := by
  have hle := Nat.and_le_left (n := getF s F.SAF_HOLD_pending) (m := bits v 13 0)
  have hlt : getF s F.SAF_HOLD_pending < 2 ^ 14 := getF_lt s F.SAF_HOLD_pending
  have hvalue := getF_setF_of_lt s F.SAF_HOLD_pending (v := getF s F.SAF_HOLD_pending - (getF s F.SAF_HOLD_pending &&& bits v 13 0)) (by decide)
    (show _ < 2 ^ 14 by omega)
  have honly := only_setF s F.SAF_HOLD_pending (getF s F.SAF_HOLD_pending - (getF s F.SAF_HOLD_pending &&& bits v 13 0))
  have hcmd : safResume s v = setF s F.SAF_HOLD_pending (getF s F.SAF_HOLD_pending - (getF s F.SAF_HOLD_pending &&& bits v 13 0)) := by
    rw [safResume_of_releasable hr, clearCauses_of_some hsome]
    refine if_pos ?_
    simp only [inHold, hvalue, Bool.or_eq_true, bne_iff_ne, ne_eq]
    omega
  exact does_hostStep_eq rfl hcmd h honly (by simp) (by simp) ⟨hvalue, honly⟩

/-! ### The last cause released -/

/-- No cause left, and the end of HOLD noted. -/
def causesGone (s : State) : State :=
  let u := setF s F.SAF_HOLD_pending 0
  { setF u F.SAF_HOLD_first 0 with lch := { u.lch with holdEnd := slot u } }

theorem clearCauses_of_all {s : State} {mask : Nat} (hp : getF s F.SAF_HOLD_pending ≠ 0)
    (h : getF s F.SAF_HOLD_pending &&& mask = getF s F.SAF_HOLD_pending) : clearCauses s mask = causesGone s := by
  unfold clearCauses
  dsimp only
  rw [if_neg hp, h, Nat.sub_self, if_pos rfl]
  rfl

theorem only_causesGone (s : State) : Only [.lch] [Off.SAF_HOLD] s (causesGone s) :=
  (((only_setF s F.SAF_HOLD_pending 0).comp (only_setF _ F.SAF_HOLD_first 0)).comp (only_lch _ _)).mono (by decide) (by decide)

theorem inHold_causesGone (s : State) : inHold (causesGone s) = false := by
  have hpending : getF (causesGone s) F.SAF_HOLD_pending = 0 := by
    unfold causesGone
    dsimp only
    rw [(only_lch _ _).field _ (by simp), getF_setF_other _ _ _ _ (by decide) (by decide)]
    exact getF_setF_of_lt _ _ (by decide) (by decide)
  rw [inHold, hpending]
  rfl

theorem inHold_setPlanState (s : State) (p : PlanState) : inHold (setPlanState s p) = inHold s := by
  unfold inHold
  rw [(only_setPlanState s p).field _ (by decide)]

theorem restartAll_of_no_layers {s : State} (h : ∀ pl, s.plan = some pl → pl.layers = []) : restartAll s = restartPasses s := by
  have hplan : (restartPasses s).plan = s.plan := (only_restartPasses s).1 .plan (by decide)
  exact List.foldl_fixed' (decideAgain_of_no_layers (hplan ▸ h)) _

theorem stopped_restartPasses {s : State} {k : Nat} (hk : k ∈ FMap.keys s.lch.passes) : (passOf (restartPasses s) k).stopped = false := by
  rw [restartPasses_eq, passOf_foldl_restartPass, if_pos hk, PassRun.restarted]
  split
  next => rfl
  next hrun => exact Bool.eq_false_iff.mpr hrun

/-- The plan of a module that has left HOLD: stopped while a stop is in force, and running with its passes restarted otherwise. -/
def planResumed (s : State) : State :=
  if stopInForce s then setPlanState (causesGone s) .stopped else restartPasses (setPlanState (causesGone s) .running)

theorem parts_planResumed (s : State) : PartsBut (.lch :: eventParts) s (planResumed s) := by
  have hplan := fun p => (only_causesGone s).comp (only_setPlanState (causesGone s) p)
  unfold planResumed
  split
  · exact PartsBut.weaken (hplan _).1 (by decide)
  · exact (PartsBut.weaken (hplan _).1 (by decide)).trans (PartsBut.weaken (only_restartPasses _).1 (by decide))

theorem leaveHold_causesGone {s : State} (hh : planState s = .held) (hl : ∀ p, s.plan = some p → p.layers = []) :
    leaveHold (causesGone s) = planResumed s := by
  have honly := only_causesGone s
  have hstate : planState (causesGone s) = .held := (honly.planState_eq (by decide)).trans hh
  have hstop : stopInForce (causesGone s) = stopInForce s := honly.hasF_eq _ (by decide)
  have hplan : (setPlanState (causesGone s) .running).plan = s.plan := setPlanState_plan _ _
  unfold leaveHold planResumed
  rw [if_neg (by simp [inHold_causesGone, hstate]), hstop, restartAll_of_no_layers (hplan ▸ hl)]

theorem planResumed_shows (s : State) : inHold (planResumed s) = false ∧
    planState (planResumed s) = (if stopInForce s then .stopped else .running) ∧
    (stopInForce s = false → ∀ k ∈ FMap.keys s.lch.passes, (passOf (planResumed s) k).stopped = false) := by
  have hgone : ∀ p, inHold (setPlanState (causesGone s) p) = false := fun p => by rw [inHold_setPlanState, inHold_causesGone]
  have hrestart := only_restartPasses (setPlanState (causesGone s) .running)
  have hpasses : (setPlanState (causesGone s) .running).lch.passes = s.lch.passes := by
    rw [setPlanState_lch]
    rfl
  unfold planResumed
  cases hstop : stopInForce s with
  | true => exact ⟨hgone _, planState_setPlanState _ _, fun h => by cases h⟩
  | false =>
    refine ⟨?_, ?_, fun _ k hk => stopped_restartPasses (hpasses.symm ▸ hk)⟩
    · rw [if_neg Bool.false_ne_true, inHold, hrestart.field _ (by simp)]
      exact hgone _
    · rw [if_neg Bool.false_ne_true, hrestart.planState_eq (by simp), planState_setPlanState]
      rfl

/-- Settles O48: some causes released, the last one released, and a write that names a cause that cannot be. -/
theorem resumeReleasesTheCauses : Obligations.ResumeReleasesTheCauses := by
  refine ⟨fun s v h hr hsome => does_safResume_some h hr hsome, fun s v h hr hp hall hh hl => ?_, fun s v c h hc hv href => ?_⟩
  · have hcmd : safResume s v = planResumed s := by
      rw [safResume_of_releasable hr, clearCauses_of_all hp hall, leaveHold_causesGone hh hl]
    exact does_hostParts rfl hcmd h (parts_planResumed s) (by decide) (by decide) (planResumed_shows s)
  · have honly := only_flag s F.SAF_STATUS_resume_refused 11
    exact does_hostStep_eq rfl (safResume_of_refused hc hv href) h honly (by decide) (by decide)
      ⟨hasF_flag _ _ _ (by decide) (by decide) (by decide), honly⟩

end Sys2Proof.Machine
end

section
/-!
PROOFS. Maintenance: activities that start and end, the verdict of a BIST slice, the calibration of sensors and of links (R391, R395 to
R399).
-/

namespace Sys2Proof.Machine

/-! ### An activity starts, R395 to R397 -/

theorem maintenanceStart_of_waiting {s : State} {x : Activity} (hx : x ∈ s.maint.waiting) (hm : mayStart s x = true)
    (ho : ∀ y ∈ s.maint.waiting.takeWhile (· != x), mayStart s y = false) : maintenanceStart s x = beginActivity s x := by
  have hasked : requestActivity s x = s := if_pos (by simp [List.contains_eq_mem, hx])
  have holder : (s.maint.waiting.takeWhile (· != x)).any (mayStart s) = false :=
    List.any_eq_false.mpr fun y hy => by simp [ho y hy]
  unfold maintenanceStart
  rw [hasked, ite_self]
  exact if_pos (by simp [List.contains_eq_mem, hx, hm, holder])

theorem only_beginActivity (s : State) (x : Activity) : Only [.maint, .arr] [Off.SAF_MAINT] s (beginActivity s x) := by
  have hrun := (only_runActivity s x).mono (qs := [.maint, .arr]) (by decide) fun _ h => h
  unfold beginActivity
  dsimp only
  split
  · exact hrun.trans ((only_setArray _ _ _).mono (by decide) (by simp))
  · exact hrun

theorem maint_beginActivity (s : State) (x : Activity) : (beginActivity s x).maint = (runActivity s x).maint := by
  unfold beginActivity
  dsimp only
  split
  · exact setArray_maint _ _ _
  · rfl

theorem maint_showMaint (s : State) : (showMaint s).maint = s.maint := by simp [showMaint]

theorem maint_runActivity (s : State) (x : Activity) : (runActivity s x).maint =
    { running := s.maint.running.filter (· != x) ++ [x], waiting := s.maint.waiting.filter (· != x) } := maint_showMaint _

theorem maint_endActivity (s : State) (x : Activity) : (endActivity s x).maint =
    { s.maint with running := s.maint.running.filter (· != x), waiting := s.maint.waiting.filter (· != x) } := maint_showMaint _

theorem does_maintenanceStart {s : State} {a k u : Nat} (h : Up s) (hx : (⟨a, k, u⟩ : Activity) ∈ s.maint.waiting)
    (hm : mayStart s ⟨a, k, u⟩ = true) (ho : ∀ y ∈ s.maint.waiting.takeWhile (· != ⟨a, k, u⟩), mayStart s y = false) :
    Does (.maintenanceStart a k u) s fun t => ⟨a, k, u⟩ ∈ t.maint.running ∧ ⟨a, k, u⟩ ∉ t.maint.waiting ∧
      (a = 0 → k = 0 → (arrayOf t u).heldTest = true) ∧ Only [.maint, .arr] [Off.SAF_MAINT] s t := by
  have honly := only_beginActivity s ⟨a, k, u⟩
  refine does_parts rfl (maintenanceStart_of_waiting hx hm ho) h honly.1 (by decide) (by decide) ⟨?_, ?_, fun ha hk => ?_, honly⟩
  · rw [maint_beginActivity, maint_runActivity]
    simp
  · rw [maint_beginActivity, maint_runActivity]
    simp
  · unfold beginActivity
    dsimp only
    rw [if_pos ⟨ha, hk⟩, arrayOf_setArray_self]

/-! ### A BIST slice ends, R398 and R399 -/

theorem only_noteSlice (s : State) (x : Activity) (found : Nat) : Only [] [Off.SAF_BIST_STATUS] s (noteSlice s x found) :=
  (((only_setF s F.SAF_BIST_STATUS_kind x.kind).comp (only_setF _ F.SAF_BIST_STATUS_unit x.unit)).comp
    (only_setF _ F.SAF_BIST_STATUS_verdict found)).mono (by simp) (by decide)

/-- The slice over, its verdict shown and its array free again. -/
def sliceNoted (s : State) (x : Activity) (found : Nat) : State :=
  let t := noteSlice (endActivity s x) x found
  if x.kind = 0 then setArray t x.unit { arrayOf t x.unit with heldTest := false } else t

section
variable {s : State} {x : Activity} (hr : s.maint.running = [x]) (hx : x.act = 0)
include hr hx

theorem find_slice : s.maint.running.find? (fun y => y.act == 0) = some x := by simp [hr, hx]

theorem sliceEnd_pass : sliceEnd s 1 = clearFence (sliceNoted s x 1) x := by
  unfold sliceEnd
  rw [find_slice hr hx]
  exact if_neg (by decide)

theorem sliceEnd_fail : sliceEnd s 2 = failUnit (sliceNoted s x 2) x := by
  unfold sliceEnd
  rw [find_slice hr hx]
  exact if_neg (by decide)

theorem sliceEnd_abandoned : sliceEnd s 3 = requestActivity (bumpF (sliceNoted s x 3) F.SAF_BIST_STATUS_abandoned 1) x := by
  unfold sliceEnd
  rw [find_slice hr hx]
  exact if_neg (by decide)

omit hx in
theorem running_sliceNoted (found : Nat) : (sliceNoted s x found).maint.running = [] := by
  have hnote : (noteSlice (endActivity s x) x found).maint.running = [] := by
    rw [(only_noteSlice _ x found).1 .maint (by simp), maint_endActivity, hr]
    simp
  unfold sliceNoted
  dsimp only
  split
  · rw [(only_setArray _ _ _).1 .maint (by decide), hnote]
  · exact hnote

end

/-- The registers that the end of a slice changes. -/
def sliceRegs : List Nat := [Off.SAF_MAINT, Off.SAF_BIST_STATUS]

theorem only_sliceNoted (s : State) (x : Activity) (found : Nat) : Only [.maint, .arr] sliceRegs s (sliceNoted s x found) := by
  have hnote : Only [.maint, .arr] sliceRegs s (noteSlice (endActivity s x) x found) :=
    ((only_endActivity s x).comp (only_noteSlice _ x found)).mono (by decide) fun _ h => h
  unfold sliceNoted
  dsimp only
  split
  · exact hnote.trans ((only_setArray _ _ _).mono (by decide) (by simp))
  · exact hnote

/-- What a slice noted keeps of the counts of SAF_BIST_STATUS, and the verdict that it shows. -/
theorem getF_sliceNoted (s : State) (x : Activity) (found : Nat) (g : Field) (hk : F.SAF_BIST_STATUS_kind.apart g = true)
    (hu : F.SAF_BIST_STATUS_unit.apart g = true) (hv : F.SAF_BIST_STATUS_verdict.apart g = true) (hm : g.off ≠ Off.SAF_MAINT) :
    getF (sliceNoted s x found) g = getF s g := by
  have hnote : getF (noteSlice (endActivity s x) x found) g = getF s g := by
    unfold noteSlice
    rw [getF_setF_other _ _ _ _ (by decide) hv, getF_setF_other _ _ _ _ (by decide) hu, getF_setF_other _ _ _ _ (by decide) hk,
      (only_endActivity s x).field g (by simpa using hm)]
  unfold sliceNoted
  dsimp only
  split
  · exact ((only_setArray _ _ _).field g (by simp)).trans hnote
  · exact hnote

theorem verdict_sliceNoted (s : State) (x : Activity) {found : Nat} (h : found < 4) :
    getF (sliceNoted s x found) F.SAF_BIST_STATUS_verdict = found := by
  have hnote : getF (noteSlice (endActivity s x) x found) F.SAF_BIST_STATUS_verdict = found := getF_setF_of_lt _ _ (by decide) h
  unfold sliceNoted
  dsimp only
  split
  · exact ((only_setArray _ _ _).field _ (by simp)).trans hnote
  · exact hnote

theorem heldTest_sliceNoted (s : State) (u found : Nat) : (arrayOf (sliceNoted s ⟨0, 0, u⟩ found) u).heldTest = false := by
  unfold sliceNoted
  dsimp only
  rw [if_pos rfl, arrayOf_setArray_self]

theorem fenceOff_not_mem_sliceRegs {i : Nat} (h : i < 8) : Off.ARR_FENCED i ∉ sliceRegs := by
  simp only [sliceRegs, Off.ARR_FENCED, Off.SAF_MAINT, Off.SAF_BIST_STATUS, List.mem_cons, List.not_mem_nil, or_false, not_or]
  omega

/-- The fence of an array cleared, R399. -/
def fenceCleared (s : State) (u : Nat) : State :=
  setF (setReg s (Off.ARR_FENCED (u / 64)) (getReg s (Off.ARR_FENCED (u / 64)) &&& ~~~(BitVec.ofNat 64 (2 ^ (u % 64)))))
    F.ARR_STATUS_fence_changed 1

theorem clearFence_array {s : State} {u : Nat} (h : fenced s u = true) : clearFence s ⟨0, 0, u⟩ = fenceCleared s u :=
  if_neg (by simp [unitFenced, h])

theorem only_fenceCleared (s : State) (u : Nat) : Only [] [Off.ARR_FENCED (u / 64), Off.ARR_STATUS] s (fenceCleared s u) :=
  (only_setReg s (Off.ARR_FENCED (u / 64)) _).comp (only_setF _ F.ARR_STATUS_fence_changed 1)

theorem fenced_fenceCleared (s : State) {u : Nat} (hu : u < 512) : fenced (fenceCleared s u) u = false := by
  have hother : Off.ARR_FENCED (u / 64) ≠ F.ARR_STATUS_fence_changed.off := by
    have hoff := fenceOff_not_mem (i := u / 64) (by omega)
    simp only [List.mem_cons, not_or] at hoff
    exact hoff.1
  unfold fenced fenceCleared
  rw [getReg_setF_other _ _ _ _ hother, getReg_setReg_self, bit_and, bit_not _ (by omega), bit_two_pow _ (by omega)]
  simp

theorem does_bistSliceEnd_pass {s : State} {u : Nat} (h : Up s) (hr : s.maint.running = [⟨0, 0, u⟩]) (hu : u < 512) (hf : fenced s u = true) :
    Does (.bistSliceEnd 1) s fun t => t.maint.running = [] ∧ fenced t u = false ∧ (arrayOf t u).heldTest = false ∧
      getF t F.SAF_BIST_STATUS_verdict = 1 ∧
      Only [.maint, .arr] [Off.SAF_MAINT, Off.SAF_BIST_STATUS, Off.ARR_FENCED (u / 64), Off.ARR_STATUS] s t := by
  have hnoted := only_sliceNoted s ⟨0, 0, u⟩ 1
  have hfenced : fenced (sliceNoted s ⟨0, 0, u⟩ 1) u = true :=
    (fenced_of_regsBut hnoted.2 (fenceOff_not_mem_sliceRegs (by omega))).trans hf
  have hcleared := only_fenceCleared (sliceNoted s ⟨0, 0, u⟩ 1) u
  have honly : Only [.maint, .arr] [Off.SAF_MAINT, Off.SAF_BIST_STATUS, Off.ARR_FENCED (u / 64), Off.ARR_STATUS] s
      (fenceCleared (sliceNoted s ⟨0, 0, u⟩ 1) u) := hnoted.comp hcleared
  have hverdict : F.SAF_BIST_STATUS_verdict.off ∉ [Off.ARR_FENCED (u / 64), Off.ARR_STATUS] := by
    simp only [F.SAF_BIST_STATUS_verdict, Off.SAF_BIST_STATUS, Off.ARR_FENCED, Off.ARR_STATUS, List.mem_cons, List.not_mem_nil, or_false,
      not_or]
    omega
  refine does_parts rfl ((sliceEnd_pass hr rfl).trans (clearFence_array hfenced)) h honly.1 (by decide) (by decide)
    ⟨?_, fenced_fenceCleared _ hu, ?_, ?_, honly⟩
  · rw [hcleared.1 .maint (by simp), running_sliceNoted hr]
  · have harr : (fenceCleared (sliceNoted s ⟨0, 0, u⟩ 1) u).arr = (sliceNoted s ⟨0, 0, u⟩ 1).arr := hcleared.1 .arr (by simp)
    unfold arrayOf
    rw [harr]
    exact heldTest_sliceNoted s u 1
  · rw [hcleared.field _ hverdict]
    exact verdict_sliceNoted s _ (by decide)

/-- The failure of an array counted and seen, before its entry in the log. -/
def failSeen (s : State) : State := flag (bumpF s F.SAF_BIST_STATUS_failed 1) F.SAF_STATUS_bist_fail 11

theorem only_failSeen (s : State) : Only eventParts [Off.SAF_BIST_STATUS, Off.SAF_STATUS, Off.HST_IRQ_PENDING] s (failSeen s) :=
  (only_bumpF s F.SAF_BIST_STATUS_failed 1).comp (only_flag _ F.SAF_STATUS_bist_fail 11)

theorem failUnit_array {s : State} {u : Nat} (h : fenced s u = false) :
    failUnit s ⟨0, 0, u⟩ = fenceArray (logFault (failSeen s) 0x0B 1 (u / 8) u 0) u := by
  have hseen : fenced (failSeen s) u = false := by
    refine (fenced_of_regsBut (only_failSeen s).2 ?_).trans h
    simp only [Off.ARR_FENCED, Off.SAF_BIST_STATUS, Off.SAF_STATUS, Off.HST_IRQ_PENDING, List.mem_cons, List.not_mem_nil, or_false, not_or]
    omega
  exact if_neg (by rw [← Bool.not_eq_false, not_not]; exact hseen)

/-- The fields that a lost cluster leaves, once a fence shows. -/
def besideCluster (g : Field) : Bool := (F.ARR_STATUS_cluster_lost.apart g && outside eventRegs g) && (besideLog g && besideHold g)

theorem frame_fenceArray (s : State) (a : Nat) : Frame (eventParts ++ holdParts) besideCluster (showFence s a) (fenceArray s a) := by
  rw [fenceArray_eq]
  exact Frame.ite (((frame_flag _ F.ARR_STATUS_cluster_lost 4 (by decide)).comp (frame_holdFault _ 0x0E 5 (a / 8) a 0)).mono (by decide)
    fun _ h => h) (Frame.rfl' _ _ _)

theorem fenced_fenceArray (s : State) {a : Nat} (ha : a < 512) : fenced (fenceArray s a) a = true := by
  have hbeside : ∀ i, i < 8 → besideCluster (wholeReg (Off.ARR_FENCED i)) = true := by decide
  unfold fenced
  rw [(frame_fenceArray s a).reg _ (hbeside (a / 64) (by omega))]
  exact (fenced_showFence s a ha).trans (by simp)

/-- A field of the safety registers that neither a fence nor a lost cluster writes. -/
theorem getF_fenceArray (s : State) {a : Nat} {g : Field} (hc : besideCluster g = true) (hf : g.off < 0xC00000) (hm : g.off ≠ Off.SAF_MAINT) :
    getF (fenceArray s a) g = getF s g := by
  rw [(frame_fenceArray s a).fields g hc]
  refine (only_showFence s a).field g ?_
  simp only [Off.ARR_FENCED, Off.ARR_STATUS, List.mem_cons, List.not_mem_nil, or_false, not_or]
  omega

theorem does_bistSliceEnd_fail {s : State} {u : Nat} (h : Up s) (hr : s.maint.running = [⟨0, 0, u⟩]) (hu : u < 512) (hf : fenced s u = false) :
    Does (.bistSliceEnd 2) s fun t => fenced t u = true ∧ hasF t F.SAF_STATUS_bist_fail = true ∧
      getF t F.SAF_BIST_STATUS_failed = min (Field.max F.SAF_BIST_STATUS_failed) (getF s F.SAF_BIST_STATUS_failed + 1) := by
  have hnoted := only_sliceNoted s ⟨0, 0, u⟩ 2
  have hfenced : fenced (sliceNoted s ⟨0, 0, u⟩ 2) u = false :=
    (fenced_of_regsBut hnoted.2 (fenceOff_not_mem_sliceRegs (by omega))).trans hf
  have hseen := only_failSeen (sliceNoted s ⟨0, 0, u⟩ 2)
  have hlog := frame_logFault (failSeen (sliceNoted s ⟨0, 0, u⟩ 2)) 0x0B 1 (u / 8) u 0
  have hshown := only_showFence (logFault (failSeen (sliceNoted s ⟨0, 0, u⟩ 2)) 0x0B 1 (u / 8) u 0) u
  have hparts : PartsBut (.maint :: .arr :: holdParts) s (fenceArray (logFault (failSeen (sliceNoted s ⟨0, 0, u⟩ 2)) 0x0B 1 (u / 8) u 0) u) :=
    ((((PartsBut.weaken hnoted.1 (by decide)).trans (PartsBut.weaken hseen.1 (by decide))).trans (hlog.parts.weaken (by decide))).trans
      (PartsBut.weaken hshown.1 (by decide))).trans ((frame_fenceArray _ u).parts.weaken (by decide))
  refine does_parts rfl ((sliceEnd_fail hr rfl).trans (failUnit_array hfenced)) h hparts (by decide) (by decide)
    ⟨fenced_fenceArray _ hu, ?_, ?_⟩
  · unfold hasF
    rw [getF_fenceArray _ (by decide) (by decide) (by decide), hlog.fields _ (by decide)]
    exact hasF_flag _ F.SAF_STATUS_bist_fail _ (by decide) (by decide) (by decide)
  · rw [getF_fenceArray _ (by decide) (by decide) (by decide), hlog.fields _ (by decide)]
    unfold failSeen
    rw [getF_flag_other _ _ _ _ (by decide) (by decide) (by decide), getF_bumpF_same _ _ _ (by decide),
      getF_sliceNoted s _ 2 _ (by decide) (by decide) (by decide) (by decide)]

theorem running_requestActivity (s : State) (x : Activity) : (requestActivity s x).maint.running = s.maint.running := by
  unfold requestActivity
  split
  · rfl
  · rw [maint_showMaint]

theorem does_bistSliceEnd_abandoned {s : State} {x : Activity} (h : Up s) (hr : s.maint.running = [x]) (hx : x.act = 0) :
    Does (.bistSliceEnd 3) s fun t => t.maint.running = [] ∧ x ∈ t.maint.waiting ∧
      getF t F.SAF_BIST_STATUS_abandoned = min (Field.max F.SAF_BIST_STATUS_abandoned) (getF s F.SAF_BIST_STATUS_abandoned + 1) ∧
      Only [.maint, .arr] [Off.SAF_MAINT, Off.SAF_BIST_STATUS] s t := by
  have hbump := only_bumpF (sliceNoted s x 3) F.SAF_BIST_STATUS_abandoned 1
  have hasked := only_requestActivity (bumpF (sliceNoted s x 3) F.SAF_BIST_STATUS_abandoned 1) x
  have honly : Only [.maint, .arr] sliceRegs s (requestActivity (bumpF (sliceNoted s x 3) F.SAF_BIST_STATUS_abandoned 1) x) :=
    (((only_sliceNoted s x 3).comp hbump).comp hasked).mono (by decide) (by decide)
  have hrunning : (requestActivity (bumpF (sliceNoted s x 3) F.SAF_BIST_STATUS_abandoned 1) x).maint.running = [] := by
    rw [running_requestActivity, bumpF_maint, running_sliceNoted hr]
  refine does_parts rfl (sliceEnd_abandoned hr hx) h honly.1 (by decide) (by decide) ⟨hrunning, ?_, ?_, honly⟩
  · rcases mem_requestActivity (bumpF (sliceNoted s x 3) F.SAF_BIST_STATUS_abandoned 1) x with hw | hw
    · exact hw
    · rw [hrunning] at hw
      cases hw
  · rw [hasked.field _ (by decide), getF_bumpF_same _ _ _ (by decide),
      getF_sliceNoted s x 3 _ (by decide) (by decide) (by decide) (by decide)]

/-! ### The calibration of a sensor, R391 -/

/-- The third calibration of a die that doubts its first sensor: the die left on the second. -/
def sensorLeft (s : State) (d : Nat) : State :=
  { endActivity s ⟨6, 0, d⟩ with saf := { s.saf with doubt := FMap.set (0, 0) s.saf.doubt d (3, 0),
                                                     alone := FMap.set none s.saf.alone d (some true) } }

theorem nextDoubt_first {t0 t1 : Int} (h0 : outOfRange t0 = true) (h1 : outOfRange t1 = false) : nextDoubt (2, 0) (t0, t1) = (3, 0) := by
  simp [nextDoubt, h0, h1]

theorem sensorCalibration_third {s : State} {d : Nat} {t0 t1 : Int} (hr : (⟨6, 0, d⟩ : Activity) ∈ s.maint.running)
    (ht : FMap.get noTemp s.saf.temps d = (t0, t1)) (hn : (t0, t1) ≠ noTemp) (ha : FMap.get none s.saf.alone d = none)
    (hd : FMap.get (0, 0) s.saf.doubt d = (2, 0)) (h0 : outOfRange t0 = true) (h1 : outOfRange t1 = false) :
    sensorCalibration s d = showThermal (bumpF (sensorLeft s d) F.SAF_THERMAL_single_sensor 1) := by
  have hsaf : (endActivity s ⟨6, 0, d⟩).saf = s.saf := (only_endActivity s _).1 .saf (by decide)
  unfold sensorCalibration
  dsimp only
  rw [if_neg (by simp [List.contains_eq_mem, hr]), hsaf, ht, hd, nextDoubt_first h0 h1, if_neg (by simp [ha, hn]), if_neg (by decide),
    if_pos (by decide)]
  rfl

theorem only_sensorLeft (s : State) (d : Nat) : Only [.maint, .saf] [Off.SAF_MAINT] s (sensorLeft s d) :=
  (only_endActivity s _).comp (only_saf _ _)

theorem maint_sensorLeft (s : State) (d : Nat) : (sensorLeft s d).maint = (endActivity s ⟨6, 0, d⟩).maint :=
  (only_saf _ _).1 .maint (by decide)

theorem single_showThermal (s : State) : getF (showThermal s) F.SAF_THERMAL_single_sensor = getF s F.SAF_THERMAL_single_sensor := by
  rw [(only_showThermal_of_hottest s).field _ (by decide)]
  unfold hottestShown
  rw [getF_setF_other _ _ _ _ (by decide) (by decide), getF_setF_other _ _ _ _ (by decide) (by decide)]

theorem does_sensorCalibration {s : State} {d : Nat} {t0 t1 : Int} (h : Up s) (hr : (⟨6, 0, d⟩ : Activity) ∈ s.maint.running)
    (ht : FMap.get noTemp s.saf.temps d = (t0, t1)) (hn : (t0, t1) ≠ noTemp) (ha : FMap.get none s.saf.alone d = none)
    (hd : FMap.get (0, 0) s.saf.doubt d = (2, 0)) (h0 : outOfRange t0 = true) (h1 : outOfRange t1 = false) :
    Does (.sensorCalibration d) s fun t => FMap.get none t.saf.alone d = some true ∧ ⟨6, 0, d⟩ ∉ t.maint.running ∧
      getF t F.SAF_THERMAL_single_sensor = min (Field.max F.SAF_THERMAL_single_sensor) (getF s F.SAF_THERMAL_single_sensor + 1) := by
  have hleft := only_sensorLeft s d
  have hbump := only_bumpF (sensorLeft s d) F.SAF_THERMAL_single_sensor 1
  have hshown := only_showThermal (bumpF (sensorLeft s d) F.SAF_THERMAL_single_sensor 1)
  have hsaf : (showThermal (bumpF (sensorLeft s d) F.SAF_THERMAL_single_sensor 1)).saf = (sensorLeft s d).saf :=
    (hshown.1 .saf (by decide)).trans (hbump.1 .saf (by simp))
  have hmaint : (showThermal (bumpF (sensorLeft s d) F.SAF_THERMAL_single_sensor 1)).maint = (sensorLeft s d).maint :=
    (hshown.1 .maint (by decide)).trans (hbump.1 .maint (by simp))
  refine does_parts rfl (sensorCalibration_third hr ht hn ha hd h0 h1) h ((hleft.comp hbump).comp hshown).1 (by decide) (by decide)
    ⟨?_, ?_, ?_⟩
  · rw [hsaf]
    exact FMap.get_set_self none s.saf.alone d (some true)
  · rw [hmaint, maint_sensorLeft]
    exact (not_mem_endActivity s _).1
  · rw [single_showThermal, getF_bumpF_same _ _ _ (by decide), hleft.field _ (by decide)]

/-- Settles O50: the start of an activity, the three ends of a slice, and the two calibrations. -/
theorem maintenanceRunsAndEnds : Obligations.MaintenanceRunsAndEnds := by
  refine ⟨fun s a k u h hx hm ho => does_maintenanceStart h hx hm ho, fun s u h hr hu hf => does_bistSliceEnd_pass h hr hu hf,
    fun s u h hr hu hf => does_bistSliceEnd_fail h hr hu hf, fun s x h hr hx => does_bistSliceEnd_abandoned h hr hx,
    fun s d t0 t1 h hr ht hn ha hd h0 h1 => does_sensorCalibration h hr ht hn ha hd h0 h1, fun s p h => ?_⟩
  have honly := only_endActivity s ⟨4, 0, p⟩
  obtain ⟨hrunning, hwaiting⟩ := not_mem_endActivity s ⟨4, 0, p⟩
  exact does_parts rfl rfl h honly.1 (by decide) (by decide) ⟨hrunning, hwaiting, honly⟩

end Sys2Proof.Machine
end

section
/-!
PROOFS. Attestation and the certificate (R412, R413), the load and the erase of a key (R415, R416).
-/

namespace Sys2Proof.Machine

/-! ### Windows read back -/

/-- A window reads back the words that were written. -/
theorem getReg_setWindow (s : State) (off : Nat) (bs : List Byte) {i : Nat} (h : i < (bs.length + 7) / 8) :
    getReg (setWindow s off bs) (off + 8 * i) = wordAt bs i := by
  have hwords : ∀ n, i < n → getReg ((List.range n).foldl (fun s i => setReg s (off + 8 * i) (wordAt bs i)) s) (off + 8 * i) = wordAt bs i := by
    intro n
    induction n with
    | zero => intro hi; omega
    | succ n ih =>
      intro hi
      rw [List.range_succ, List.foldl_append, List.foldl_cons, List.foldl_nil]
      by_cases he : i = n
      · rw [he, getReg_setReg_self]
      · rw [getReg_setReg_other _ _ _ _ (by omega), ih (by omega)]
  exact hwords _ h

/-! ### The commands of the security window -/

/-- The registers that a SEC command which ends without an alarm changes. -/
def quietRegs : List Nat := [Off.SEC_CMD_STATUS, Off.SEC_STATUS, Off.HST_IRQ_PENDING]

theorem only_secDone_of_quiet (s : State) (op tag : Nat) {result : Nat} (h : result ∉ [5, 6, 8, 9, 10]) :
    Only eventParts quietRegs s (secDone s op tag result) := by
  rw [secDone_of_quiet s op tag h]
  exact only_secShown s op tag result

/-- A SEC command that ends without an alarm and changes nothing besides. -/
theorem does_secDone_quiet {c : Instr} {s : State} {f : State → State} {op tag result : Nat} (he : exec c s = settle s (hostStep s f))
    (hw : f s = secDone s op tag result) (h : HostUp s) (hq : result ∉ [5, 6, 8, 9, 10]) :
    Does c s fun t => Replies op tag result t ∧ Only eventParts quietRegs s t := by
  have honly := only_secDone_of_quiet s op tag hq
  exact does_hostParts he hw h honly.1 (by decide) (by decide) ⟨replies_secDone _ _ _ _, honly⟩

/-! ### Attestation, R412 -/

theorem attest_refused {s : State} (tag : Nat) (h : lifecycle s = 5 ∨ seedPresent s.fuse = false) : attest s tag = secDone s 1 tag 14 :=
  if_pos (by rcases h with h | h <;> simp [h])

/-- The attestation of a module with its signature. -/
def signedAttestation (s : State) : List Byte :=
  attestation s (secBlock s 32) ++ (Config.slhSign s.fuse.seed (attestation s (secBlock s 32))).take 49856

theorem attest_made {s : State} (tag : Nat) (hl : lifecycle s ≠ 5) (hs : seedPresent s.fuse = true) (hb : (secBlock s 32).length = 32) :
    attest s tag = secDone (setWindow s 0x430000 (signedAttestation s)) 1 tag 1 :=
  (if_neg (by simp [hl, hs])).trans (if_neg (by simp [hb]))

theorem does_attest {s : State} {tag : Nat} (h : HostUp s) (hl : lifecycle s ≠ 5) (hs : seedPresent s.fuse = true)
    (hb : (secBlock s 32).length = 32) :
    Does (.attest tag) s fun t => Replies 1 tag 1 t ∧
      (∀ i, i < ((signedAttestation s).length + 7) / 8 → getReg t (0x430000 + 8 * i) = wordAt (signedAttestation s) i) ∧
      (∀ p : Part, p ∉ eventParts → p.stands s t) := by
  have hwindow := only_setWindow s 0x430000 (signedAttestation s)
  have hdone := only_secDone_of_quiet (setWindow s 0x430000 (signedAttestation s)) 1 tag (result := 1) (by decide)
  have hparts : PartsBut eventParts s (secDone (setWindow s 0x430000 (signedAttestation s)) 1 tag 1) :=
    (PartsBut.weaken hwindow.1 (by simp)).trans hdone.1
  refine does_hostParts rfl (attest_made tag hl hs hb) h hparts (by decide) (by decide) ⟨replies_secDone _ _ _ _, fun i hi => ?_, hparts⟩
  have hout : 0x430000 + 8 * i ∉ quietRegs := by
    simp only [quietRegs, Off.SEC_CMD_STATUS, Off.SEC_STATUS, Off.HST_IRQ_PENDING, List.mem_cons, List.not_mem_nil, or_false, not_or]
    omega
  rw [hdone.2 _ hout, getReg_setWindow s 0x430000 _ hi]

/-! ### The certificate, R413 -/

theorem storeCertificate_refused {s : State} (tag : Nat) (h0 : lifecycle s ≠ 0) (h4 : lifecycle s ≠ 4) :
    storeCertificate s tag = secDone s 7 tag 3 := if_pos ⟨h0, h4⟩

theorem storeCertificate_checked {s : State} (tag : Nat) (h : lifecycle s = 0 ∨ lifecycle s = 4) : storeCertificate s tag =
    if certResult s (secBlock s 29920) ≠ 1 then secDone s 7 tag (certResult s (secBlock s 29920))
    else secDone (setF (setWindow { s with nv := { s.nv with cert := secBlock s 29920 } } 0x410000 (secBlock s 29920))
      F.SEC_STATUS_cert_valid 1) 7 tag 1 :=
  if_neg (by omega)

/-- The certificate kept and in its window. -/
def certKept (s : State) (bs : List Byte) : State :=
  setF (setWindow { s with nv := { s.nv with cert := bs } } 0x410000 bs) F.SEC_STATUS_cert_valid 1

theorem parts_certKept (s : State) (bs : List Byte) : PartsBut [.nv] s (certKept s bs) :=
  (((only_nv s _).comp (only_setWindow _ 0x410000 bs)).comp (only_setF _ F.SEC_STATUS_cert_valid 1)).mono (m := _) (by decide) (fun _ h => h) |>.1

theorem nv_certKept (s : State) (bs : List Byte) : (certKept s bs).nv = { s.nv with cert := bs } :=
  ((only_setF _ F.SEC_STATUS_cert_valid 1).1 .nv (by simp)).trans ((only_setWindow _ 0x410000 bs).1 .nv (by simp))

theorem does_storeCertificate {s : State} {tag : Nat} (h : HostUp s) (hl : lifecycle s = 0 ∨ lifecycle s = 4) :
    Does (.storeCertificate tag) s fun t => Replies 7 tag (certResult s (secBlock s 29920)) t ∧
      (certResult s (secBlock s 29920) = 1 → t.nv = { s.nv with cert := secBlock s 29920 } ∧ hasF t F.SEC_STATUS_cert_valid = true) ∧
      (certResult s (secBlock s 29920) ≠ 1 → t.nv = s.nv ∧ Only alarmParts (Off.SEC_CMD_STATUS :: alarmRegs) s t) := by
  have hcmd := storeCertificate_checked tag hl
  by_cases hr : certResult s (secBlock s 29920) = 1
  · have hdone := frame_secDone (certKept s (secBlock s 29920)) 7 tag 1
    have hkept := (parts_certKept s (secBlock s 29920)).weaken (qs := .nv :: alarmParts) (by decide)
    refine does_hostParts rfl (hcmd.trans (if_neg (not_not_intro hr))) h (hkept.trans (hdone.parts.weaken (by decide))) (by decide) (by decide)
      ⟨?_, fun _ => ⟨?_, ?_⟩, fun hne => absurd hr hne⟩
    · rw [hr]
      exact replies_secDone _ _ _ _
    · exact (hdone.parts .nv (by decide)).trans (nv_certKept s _)
    · exact (hdone.hasF_eq _ (by decide)).trans (hasF_setF_one _ _ (by decide) (by decide))
  · have honly := only_secDone s 7 tag (certResult s (secBlock s 29920))
    exact does_hostParts rfl (hcmd.trans (if_pos hr)) h honly.1 (by decide) (by decide)
      ⟨replies_secDone _ _ _ _, fun h1 => absurd h1 hr, fun _ => ⟨honly.1 .nv (by decide), honly⟩⟩

/-- Settles O51: the attestation refused and made, the certificate refused and checked. -/
theorem attestationAndCertificates : Obligations.AttestationAndCertificates :=
  ⟨fun _ tag h hl => does_secDone_quiet rfl (attest_refused tag hl) h (by decide), fun _ _ h hl hs hb => does_attest h hl hs hb,
    fun _ tag h h0 h4 => does_secDone_quiet rfl (storeCertificate_refused tag h0 h4) h (by decide),
    fun _ _ h hl => does_storeCertificate h hl⟩

/-! ### The load of a key, R415 -/

section
variable {s : State} (tag : Nat)

theorem keyLoad_of_lifecycle (h : lifecycle s = 1 ∨ lifecycle s = 5) : keyLoad s tag = secDone s 2 tag 3 :=
  if_pos (by rcases h with h | h <;> simp [h])

variable (h1 : lifecycle s ≠ 1) (h5 : lifecycle s ≠ 5)
include h1 h5

theorem keyLoad_of_lock (hl : hasF s F.SEC_STATUS_lock = true) : keyLoad s tag = secDone s 2 tag 4 :=
  (if_neg (by simp [h1, h5])).trans (if_pos hl)

variable (hl : hasF s F.SEC_STATUS_lock = false)
include hl

theorem keyLoad_of_tenant (ht : s.sec.tenant.isSome = true) : keyLoad s tag = secDone s 2 tag 2 :=
  (if_neg (by simp [h1, h5])).trans ((if_neg (by simp [hl])).trans (if_pos ht))

/-- What a load that passes the checks of its block comes to, by the key that the block gives. -/
def keyTaken (s : State) (tag : Nat) (bs : List Byte) : Option (List Byte) → State
  | none => secDone s 2 tag 8
  | some k =>
    if k.take 32 = k.drop 32 then secDone s 2 tag 7 else secDone (installKey s k (wordAt bs 2) (commitmentOf s k) true) 2 tag 1

theorem keyLoad_of_block (ht : s.sec.tenant = none) (hu : tierUsable s = true) (hb : keyBlockOk (secBlock s 1704) = true)
    (hs : s.sec.session.isSome = true) (hid : wordAt (secBlock s 1704) 1 = s.sec.sessionId) (hc : s.nv.commitment = none) :
    keyLoad s tag = keyTaken s tag (secBlock s 1704) (blockKey s (secBlock s 1704)) := by
  have hsession : s.sec.session.isNone = false := by rw [Option.isNone_eq_false_iff]; exact hs
  unfold keyLoad
  dsimp only
  rw [if_neg (by simp [h1, h5]), if_neg (by simp [hl]), if_neg (by simp [ht]), if_neg (by simp [hu]), if_neg (by simp [hb]),
    if_neg (by simp [hsession, hid])]
  cases blockKey s (secBlock s 1704) with
  | none => rfl
  | some k =>
    dsimp only
    rw [hc, if_neg (show ¬(false && !bit (wordAt (secBlock s 1704) 0) 48) = true by simp), Option.isNone_none, Bool.or_true]
    rfl

end

/-- The key, its commitment and its id in place. -/
def keyPlaced (s : State) (k : List Byte) (id c : Word) : State :=
  setF (setReg { dropMap s with nv := { s.nv with commitment := some c }, sec := { s.sec with tenant := some k } } Off.SEC_KEY_ID id)
    F.FLS_STATUS_flash_closed 0

theorem installKey_fresh (s : State) (k : List Byte) (id c : Word) : installKey s k id c true = showStore (keyPlaced s k id c) := rfl

theorem parts_keyPlaced (s : State) (k : List Byte) (id c : Word) : PartsBut [.flash, .nv, .sec] s (keyPlaced s k id c) := by
  have hmap := (only_dropMap s).comp ((only_nv (dropMap s) { s.nv with commitment := some c }).comp
    (only_sec { dropMap s with nv := { s.nv with commitment := some c } } { s.sec with tenant := some k }))
  exact ((hmap.comp ((only_setReg _ Off.SEC_KEY_ID id).comp (only_setF _ F.FLS_STATUS_flash_closed 0))).mono (qs := [.flash, .nv, .sec])
    (by decide) fun _ h => h).1

/-- What an installed key shows, once the command has ended. -/
theorem installed_shows (s : State) (tag : Nat) (k : List Byte) (id c : Word) :
    PartsBut ([.flash, .nv, .sec] ++ eventParts) s (secDone (installKey s k id c true) 2 tag 1) ∧
      (secDone (installKey s k id c true) 2 tag 1).sec = { s.sec with tenant := some k } ∧
      (secDone (installKey s k id c true) 2 tag 1).nv = { s.nv with commitment := some c } ∧
      getReg (secDone (installKey s k id c true) 2 tag 1) Off.SEC_KEY_ID = id ∧
      hasF (secDone (installKey s k id c true) 2 tag 1) F.FLS_STATUS_flash_closed = false ∧
      (secDone (installKey s k id c true) 2 tag 1).flash = [] := by
  have hdone : Only eventParts (quietRegs ++ [Off.SEC_LIFECYCLE, Off.SEC_ROLLBACK, Off.SEC_STATUS, Off.SEC_KEY, Off.SEC_KEY_COMMIT])
      (keyPlaced s k id c) (secDone (installKey s k id c true) 2 tag 1) := by
    rw [installKey_fresh]
    exact ((only_showStore _).comp (only_secDone_of_quiet _ 2 tag (by decide))).mono (by decide) (by decide)
  refine ⟨((parts_keyPlaced s k id c).weaken (by decide)).trans (PartsBut.weaken hdone.1 (by decide)), ?_, ?_, ?_, ?_, ?_⟩
  · exact (hdone.1 .sec (by decide)).trans rfl
  · exact (hdone.1 .nv (by decide)).trans rfl
  · rw [hdone.2 _ (by decide), keyPlaced, getReg_setF_other _ _ _ _ (by decide), getReg_setReg_self]
  · rw [hdone.hasF_eq _ (by decide), hasF, keyPlaced, getF_setF_of_lt _ _ (by decide) (by decide)]
    rfl
  · rw [secDone_of_quiet _ _ _ (by decide), installKey_fresh, secShown, flag_flash, setReg_flash]
    simp [showStore, keyPlaced, dropMap]

theorem does_keyLoad {s : State} {tag : Nat} (h : HostUp s) (h1 : lifecycle s ≠ 1) (h5 : lifecycle s ≠ 5)
    (hl : hasF s F.SEC_STATUS_lock = false) (ht : s.sec.tenant = none) (hu : tierUsable s = true) (hb : keyBlockOk (secBlock s 1704) = true)
    (hs : s.sec.session.isSome = true) (hid : wordAt (secBlock s 1704) 1 = s.sec.sessionId) (hc : s.nv.commitment = none) :
    Does (.keyLoad tag) s fun t =>
      (blockKey s (secBlock s 1704) = none → Replies 2 tag 8 t ∧ t.sec.tenant = none ∧ t.nv = s.nv) ∧
      (∀ k, blockKey s (secBlock s 1704) = some k → k.take 32 = k.drop 32 → Replies 2 tag 7 t ∧ t.sec = s.sec ∧ t.nv = s.nv) ∧
      (∀ k, blockKey s (secBlock s 1704) = some k → k.take 32 ≠ k.drop 32 → Replies 2 tag 1 t ∧ t.sec = { s.sec with tenant := some k } ∧
        t.nv = { s.nv with commitment := some (commitmentOf s k) } ∧ getReg t Off.SEC_KEY_ID = wordAt (secBlock s 1704) 2 ∧
        hasF t F.FLS_STATUS_flash_closed = false ∧ t.flash = []) := by
  have hcmd := keyLoad_of_block tag h1 h5 hl ht hu hb hs hid hc
  cases hk : blockKey s (secBlock s 1704) with
  | none =>
    rw [hk] at hcmd
    have hdone := frame_secDone s 2 tag 8
    obtain ⟨xs, hsec⟩ := sec_secDone s 2 tag 8
    refine does_hostParts rfl hcmd h hdone.parts (by decide) (by decide) ⟨fun _ => ⟨replies_secDone _ _ _ _, ?_, hdone.parts .nv (by decide)⟩, ?_, ?_⟩
    · rw [keyTaken, hsec]
      exact ht
    · exact fun k hk => nomatch hk
    · exact fun k hk => nomatch hk
  | some k =>
    rw [hk] at hcmd
    by_cases heq : k.take 32 = k.drop 32
    · have honly := only_secDone_of_quiet s 2 tag (result := 7) (by decide)
      refine does_hostParts rfl (hcmd.trans (if_pos heq)) h honly.1 (by decide) (by decide) ⟨(fun hk => nomatch hk), fun k' hk' _ => ?_,
        fun k' hk' hne => ?_⟩
      · exact ⟨replies_secDone _ _ _ _, honly.1 .sec (by decide), honly.1 .nv (by decide)⟩
      · cases hk'
        exact absurd heq hne
    · obtain ⟨hparts, hshows⟩ := installed_shows s tag k (wordAt (secBlock s 1704) 2) (commitmentOf s k)
      refine does_hostParts rfl (hcmd.trans (if_neg heq)) h hparts (by decide) (by decide) ⟨(fun hk => nomatch hk), fun k' hk' he => ?_,
        fun k' hk' _ => ?_⟩
      · cases hk'
        exact absurd he heq
      · cases hk'
        exact ⟨replies_secDone _ _ _ _, hshows⟩

/-! ### The erase of a key, R416 -/

theorem cryptoErase_of_still {s : State} (h : movingFlash s = none) : cryptoErase s = showStore (keyErased s) := by
  rw [cryptoErase_eq, h]

theorem flash_keyErased (s : State) : (keyErased s).flash = [] := by
  unfold keyErased
  split
  · rw [flag_flash]
    rfl
  · rfl

theorem mem_keyErased (s : State) : Part.mem.stands s (keyErased s) := (frame_keyErased s).parts .mem (by decide)

theorem does_erase {s : State} {tag : Nat} (h : HostUp s) (hm : movingFlash s = none) :
    Does (.erase tag) s fun t => Replies 3 tag 1 t ∧ t.sec = { s.sec with tenant := none } ∧ t.nv = { s.nv with commitment := none } ∧
      t.flash = [] ∧ hasF t F.FLS_STATUS_flash_closed = true ∧ getReg t Off.SEC_KEY_ID = 0 ∧ Part.mem.stands s t ∧ t.fuse = s.fuse := by
  have herase := frame_cryptoErase s
  have hdone := only_secDone_of_quiet (cryptoErase s) 3 tag (result := 1) (by decide)
  have hflash : (cryptoErase s).flash = [] := by
    rw [cryptoErase_of_still hm]
    simp [showStore, flash_keyErased]
  have hmem : Part.mem.stands s (cryptoErase s) := by
    rw [cryptoErase_of_still hm]
    exact Part.stands_trans (p := .mem) (mem_keyErased s) ((frame_showStore _).parts .mem (by simp))
  have hparts : PartsBut (.sec :: .nv :: holdParts) s (secDone (cryptoErase s) 3 tag 1) :=
    herase.parts.trans (PartsBut.weaken hdone.1 (by decide))
  refine does_hostParts rfl rfl h hparts (by decide) (by decide)
    ⟨replies_secDone _ _ _ _, ?_, ?_, ?_, ?_, ?_, ?_, hparts .fuse (by decide)⟩
  · exact (hdone.1 .sec (by decide)).trans (sec_cryptoErase s)
  · exact (hdone.1 .nv (by decide)).trans (nv_cryptoErase s)
  · rw [secDone_of_quiet _ _ _ (by decide), secShown, flag_flash, setReg_flash, hflash]
  · exact (hdone.hasF_eq _ (by decide)).trans (hasF_closed_cryptoErase s)
  · exact (hdone.2 _ (by decide)).trans (keyId_cryptoErase s)
  · exact Part.stands_trans (p := .mem) hmem (hdone.1 .mem (by decide))

/-- Settles O52: the refusals of a load in their order, the load by the key that its block gives, and the erase. -/
theorem keysAreLoadedAndErased : Obligations.KeysAreLoadedAndErased :=
  ⟨fun _ tag h hl => does_secDone_quiet rfl (keyLoad_of_lifecycle tag hl) h (by decide),
    fun _ tag h h1 h5 hl => does_secDone_quiet rfl (keyLoad_of_lock tag h1 h5 hl) h (by decide),
    fun _ tag h h1 h5 hl ht => does_secDone_quiet rfl (keyLoad_of_tenant tag h1 h5 hl ht) h (by decide),
    fun _ _ h h1 h5 hl ht hu hb hs hid hc => does_keyLoad h h1 h5 hl ht hu hb hs hid hc, fun _ _ h hm => does_erase h hm⟩

end Sys2Proof.Machine
end

section
/-!
PROOFS. The lifecycle token, the raised floor and the commands that are discarded (R409, R411, R418, R423).
-/

namespace Sys2Proof.Machine

/-- A command of the host that may program the one-time store. -/
theorem does_hostStore {c : Instr} {s u : State} {f : State → State} {p : State → Prop} {ps : List Part}
    (he : exec c s = settleFuse s (if s.pwr.mode = .up then hostStep s f else s)) (hw : f s = u) (h : HostUp s) (ho : PartsBut ps s u)
    (hq : Part.pending ∉ ps) (hp : p u) : Does c s p :=
  does_settleFuse (he.trans (congrArg (settleFuse s) ((if_pos h.1).trans ((if_pos h.2).trans hw)))) (ho .pending hq) hp

theorem only_store (s : State) (f : OneTime) : Only [.fuse] [] s { s with fuse := f } :=
  only_parts _ _ _ rfl fun p hp => by
    cases p with
    | fuse => exact absurd (by decide) hp
    | mem | flash => exact fun _ => rfl
    | _ => rfl

theorem hasF_setF_zero (s : State) (f : Field) (h : f.hi < 64) : hasF (setF s f 0) f = false := by
  unfold hasF
  rw [getF_setF_same s f 0 h, Nat.zero_mod]
  rfl

/-! ### What a token erases and writes, R410 and R411 -/

theorem parts_tokenErase (s : State) (k : Token) : PartsBut [.sec, .flash, .nv, .host, .sent] s (tokenErase s k) := by
  have hkeys : PartsBut [.sec, .host, .sent] s (dropTenant (dropSession s)) :=
    ((frame_dropSession s).comp (frame_dropTenant _)).parts.weaken (by decide)
  have hstart : PartsBut [.sec, .host, .sent] s
      (if k.dst == 5 || (k.src, k.dst) != (1, 2) then dropTenant (dropSession s) else s) := by
    split
    · exact hkeys
    · exact fun p _ => p.stands_rfl s
  unfold tokenErase
  dsimp only
  split
  · exact (hstart.weaken (by decide)).trans ((only_dropMap _).partsBut (by decide))
  · exact hstart.weaken (by decide)

theorem fuse_tokenErase (s : State) (k : Token) : (tokenErase s k).fuse = s.fuse := parts_tokenErase s k .fuse (by decide)

theorem keys_dropped (s : State) : (dropTenant (dropSession s)).sec.tenant = none := by rw [sec_dropTenant]

/-- A token to any state but state 2 removes the tenant's key. -/
theorem tenant_tokenErase (s : State) {k : Token} (h : k.dst ≠ 2) : (tokenErase s k).sec.tenant = none := by
  have hkeys : (k.dst == 5 || (k.src, k.dst) != (1, 2)) = true := by simp [h]
  unfold tokenErase
  dsimp only
  rw [if_pos hkeys]
  split
  · exact (congrArg SecState.tenant ((only_dropMap _).1 .sec (by decide))).trans (keys_dropped s)
  · exact keys_dropped s

theorem flash_tokenErase (s : State) {k : Token} (h : k.dst = 5) : (tokenErase s k).flash = [] := by
  unfold tokenErase
  dsimp only
  rw [h]
  rfl

theorem parts_tokenWrite (s : State) (k : Token) : PartsBut [.sec, .fuse] s (tokenWrite s k) := by
  unfold tokenWrite
  dsimp only
  split
  · exact (only_store s _).partsBut (by decide)
  · exact (only_sec s _).partsBut (by decide)
  · exact (only_store s _).partsBut (by decide)
  · exact (only_store s _).partsBut (by decide)

theorem flash_tokenWrite (s : State) (k : Token) : (tokenWrite s k).flash = s.flash := by
  unfold tokenWrite
  dsimp only
  split <;> rfl

/-- Only a token to DEBUG writes the key store. -/
theorem sec_tokenWrite (s : State) {k : Token} (h : k.dst ≠ 3) : (tokenWrite s k).sec = s.sec := by
  unfold tokenWrite
  dsimp only
  split
  · rfl
  · contradiction
  · rfl
  · rfl

theorem fuse_tokenWrite_counted (s : State) {k : Token} (h : k.dst = 2 ∨ k.dst = 4) :
    (tokenWrite s k).fuse = { s.fuse with t := s.fuse.t + 1, tCopy := s.fuse.t + 1 } := by
  rcases h with h | h <;> simp only [tokenWrite, h, writeCount]

theorem fuse_tokenWrite_owner (s : State) {k : Token} (h : k.dst = 1) :
    (tokenWrite s k).fuse = writeOwner (writeCount s.fuse (s.fuse.t + 1)) ((ownerLife (writeCount s.fuse (s.fuse.t + 1))).getD 0) k.owner := by
  simp only [tokenWrite, h]

theorem tokenWrite_debug (s : State) {k : Token} (h : k.dst = 3) : tokenWrite s k = { s with sec := { s.sec with debug := true } } := by
  simp only [tokenWrite, h]

theorem fuse_tokenWrite_decommission (s : State) {k : Token} (h : k.dst = 5) :
    (tokenWrite s k).fuse = { s.fuse with t := 13, tCopy := 13, seed := List.replicate 96 0xFF } := by
  simp only [tokenWrite, h, writeCount]

/-! ### A token taken and its nonce replaced, R409 -/

/-- The lifecycle moved as a token says. -/
def tokenMoved (s : State) (k : Token) : State := showStore (tokenWrite (tokenErase s k) k)

theorem parts_tokenMoved (s : State) (k : Token) : PartsBut [.sec, .flash, .nv, .host, .sent, .fuse] s (tokenMoved s k) :=
  (((parts_tokenErase s k).weaken (by decide)).trans ((parts_tokenWrite _ k).weaken (by decide))).trans
    ((only_showStore _).partsBut (by decide))

theorem fuse_tokenMoved (s : State) (k : Token) : (tokenMoved s k).fuse = (tokenWrite (tokenErase s k) k).fuse :=
  (only_showStore _).1 .fuse (by decide)

theorem sec_tokenMoved (s : State) (k : Token) : (tokenMoved s k).sec = (tokenWrite (tokenErase s k) k).sec :=
  (only_showStore _).1 .sec (by decide)

theorem flash_tokenMoved (s : State) {k : Token} (h : k.dst = 5) : (tokenMoved s k).flash = [] := by
  simp [tokenMoved, showStore, flash_tokenWrite, flash_tokenErase s h]

theorem tenant_tokenMoved (s : State) {k : Token} (h : k.dst ≠ 2) : (tokenMoved s k).sec.tenant = none := by
  rw [sec_tokenMoved]
  by_cases hd : k.dst = 3
  · rw [tokenWrite_debug _ hd]
    exact tenant_tokenErase s h
  · rw [sec_tokenWrite _ hd]
    exact tenant_tokenErase s h

section
variable {s : State} {bs : List Byte} {k : Token}

theorem tokenTaken_of_none (h : readToken bs = none) : tokenTaken s bs = (7, s) := by
  unfold tokenTaken
  rw [h]

theorem tokenTaken_of_token (h : readToken bs = some k) : tokenTaken s bs = (tokenResult s bs k,
    if tokenResult s bs k ≠ 1 then s else if k.kind = 2 then setF s F.SEC_STATUS_lock 0 else tokenMoved s k) := by
  unfold tokenTaken tokenMoved
  rw [h]
  dsimp only
  split
  · rfl
  · split <;> rfl

theorem parts_tokenTaken (s : State) (bs : List Byte) : PartsBut [.sec, .flash, .nv, .host, .sent, .fuse] s (tokenTaken s bs).2 := by
  cases h : readToken bs with
  | none =>
    rw [tokenTaken_of_none h]
    exact fun p _ => p.stands_rfl s
  | some k =>
    rw [tokenTaken_of_token h]
    dsimp only
    split
    · exact fun p _ => p.stands_rfl s
    · split
      · exact (only_setF s _ 0).partsBut (by decide)
      · exact parts_tokenMoved s k

end

section
variable (tag : Nat) (p : Nat × State)

/-- The nonce replaced, before the command ends. -/
def nonceReplaced (u : State) : State := setReg (takeFree u).2 Off.SEC_TOKEN_NONCE (takeFree u).1

theorem only_nonceReplaced (u : State) : Only [.freeCtr] [Off.SEC_TOKEN_NONCE] u (nonceReplaced u) :=
  (only_takeFree u).comp (only_setReg _ Off.SEC_TOKEN_NONCE _)

theorem frame_tokenDone : Frame (.freeCtr :: alarmParts) (fun g => outside [Off.SEC_TOKEN_NONCE] g && besideDone g) p.2 (tokenDone tag p) :=
  (only_nonceReplaced p.2).frame.comp (frame_secDone _ 4 tag p.1)

theorem nonce_tokenDone : getReg (tokenDone tag p) Off.SEC_TOKEN_NONCE = Config.freeWord p.2.freeCtr :=
  ((frame_secDone (nonceReplaced p.2) 4 tag p.1).reg Off.SEC_TOKEN_NONCE (by decide)).trans (getReg_setReg_self _ _ _)

theorem freeCtr_tokenDone : (tokenDone tag p).freeCtr = p.2.freeCtr + 1 :=
  ((frame_secDone (nonceReplaced p.2) 4 tag p.1).parts .freeCtr (by decide)).trans ((only_setReg _ Off.SEC_TOKEN_NONCE _).1 .freeCtr (by decide))

theorem fuse_tokenDone : (tokenDone tag p).fuse = p.2.fuse := (frame_tokenDone tag p).parts .fuse (by decide)

theorem sec_tokenDone : ∃ xs, (tokenDone tag p).sec = { p.2.sec with class1 := xs } := by
  obtain ⟨xs, h⟩ := sec_secDone (nonceReplaced p.2) 4 tag p.1
  exact ⟨xs, h.trans (by rw [(only_nonceReplaced p.2).1 .sec (by decide)])⟩

theorem tenant_tokenDone : (tokenDone tag p).sec.tenant = p.2.sec.tenant := by
  obtain ⟨xs, h⟩ := sec_tokenDone tag p
  rw [h]

theorem debug_tokenDone : (tokenDone tag p).sec.debug = p.2.sec.debug := by
  obtain ⟨xs, h⟩ := sec_tokenDone tag p
  rw [h]

theorem tokenDone_of_passed (u : State) : tokenDone tag (1, u) = secShown (nonceReplaced u) 4 tag 1 := secDone_of_quiet _ 4 tag (result := 1) (by decide)

theorem flash_tokenDone (u : State) : (tokenDone tag (1, u)).flash = u.flash := by
  rw [tokenDone_of_passed, secShown, flag_flash, setReg_flash, nonceReplaced, setReg_flash]
  rfl

theorem hasF_lock_tokenDone (u : State) : hasF (tokenDone tag (1, u)) F.SEC_STATUS_lock = hasF u F.SEC_STATUS_lock := by
  rw [tokenDone_of_passed]
  exact ((only_nonceReplaced u).frame.comp (frame_secShown _ 4 tag 1)).hasF_eq F.SEC_STATUS_lock (by decide)

end

/-- LIFECYCLE_TOKEN in a module that hears the host. -/
theorem does_lifecycleToken {s : State} {tag : Nat} {p : State → Prop} (h : HostUp s)
    (hp : p (tokenDone tag (tokenTaken s (secBlock s 29984)))) : Does (.lifecycleToken tag) s p :=
  does_hostStore rfl (lifecycleToken_eq s tag) h
    (((parts_tokenTaken s _).weaken (qs := .freeCtr :: .fuse :: .flash :: .nv :: alarmParts) (by decide)).trans
      ((frame_tokenDone tag _).parts.weaken (by decide))) (by decide) hp

/-- What every token leaves, whatever its result: the result shown and the nonce replaced. -/
theorem answered_tokenDone (s : State) (tag : Nat) {r : Nat} (bs : List Byte) (h : (tokenTaken s bs).1 = r) :
    Replies 4 tag r (tokenDone tag (tokenTaken s bs)) ∧
      getReg (tokenDone tag (tokenTaken s bs)) Off.SEC_TOKEN_NONCE = Config.freeWord s.freeCtr ∧
      (tokenDone tag (tokenTaken s bs)).freeCtr = s.freeCtr + 1 := by
  have hfree : (tokenTaken s bs).2.freeCtr = s.freeCtr := parts_tokenTaken s bs .freeCtr (by decide)
  refine ⟨h ▸ replies_secDone _ 4 tag _, ?_, ?_⟩
  · rw [nonce_tokenDone, hfree]
  · rw [freeCtr_tokenDone, hfree]

section
variable {s : State} {bs : List Byte} {k : Token} (tag : Nat)

theorem refused_tokenDone (h : readToken bs = some k) (hr : tokenResult s bs k ≠ 1) :
    (tokenDone tag (tokenTaken s bs)).fuse = s.fuse ∧ (tokenDone tag (tokenTaken s bs)).sec.debug = s.sec.debug ∧
      (tokenDone tag (tokenTaken s bs)).sec.tenant = s.sec.tenant := by
  rw [fuse_tokenDone, debug_tokenDone, tenant_tokenDone, tokenTaken_of_token h, if_pos hr]
  exact ⟨rfl, rfl, rfl⟩

theorem tokenTaken_unlock (h : readToken bs = some k) (hr : tokenResult s bs k = 1) (hk : k.kind = 2) :
    tokenTaken s bs = (1, setF s F.SEC_STATUS_lock 0) := by
  rw [tokenTaken_of_token h, hr, if_neg (by decide), if_pos hk]

theorem unlocked_tokenDone (h : readToken bs = some k) (hr : tokenResult s bs k = 1) (hk : k.kind = 2) :
    (tokenDone tag (tokenTaken s bs)).fuse = s.fuse ∧ hasF (tokenDone tag (tokenTaken s bs)) F.SEC_STATUS_lock = false := by
  rw [tokenTaken_unlock h hr hk, fuse_tokenDone, hasF_lock_tokenDone]
  exact ⟨(only_setF s _ 0).1 .fuse (by decide), hasF_setF_zero s _ (by decide)⟩

theorem tokenTaken_move (h : readToken bs = some k) (hr : tokenResult s bs k = 1) (hk : k.kind = 1) :
    tokenTaken s bs = (1, tokenMoved s k) := by
  rw [tokenTaken_of_token h, hr, if_neg (by decide), if_neg (by rw [hk]; decide)]

/-- The store after a token that moves the lifecycle is what the token writes into the store as it was. -/
theorem fuse_moved (h : readToken bs = some k) (hr : tokenResult s bs k = 1) (hk : k.kind = 1) :
    (tokenDone tag (tokenTaken s bs)).fuse = (tokenWrite (tokenErase s k) k).fuse := by
  rw [tokenTaken_move h hr hk, fuse_tokenDone, fuse_tokenMoved]

theorem debug_moved (h : readToken bs = some k) (hr : tokenResult s bs k = 1) (hk : k.kind = 1) (hd : k.dst = 3) :
    (tokenDone tag (tokenTaken s bs)).fuse = s.fuse ∧ (tokenDone tag (tokenTaken s bs)).sec.debug = true := by
  rw [fuse_moved tag h hr hk, tokenTaken_move h hr hk, debug_tokenDone, sec_tokenMoved, tokenWrite_debug _ hd]
  exact ⟨fuse_tokenErase s k, rfl⟩

theorem tenant_moved (h : readToken bs = some k) (hr : tokenResult s bs k = 1) (hk : k.kind = 1) (hd : k.dst ≠ 2) :
    (tokenDone tag (tokenTaken s bs)).sec.tenant = none := by
  rw [tokenTaken_move h hr hk, tenant_tokenDone, tenant_tokenMoved s hd]

theorem counted_moved (h : readToken bs = some k) (hr : tokenResult s bs k = 1) (hk : k.kind = 1) (hd : k.dst = 2 ∨ k.dst = 4) :
    (tokenDone tag (tokenTaken s bs)).fuse = { s.fuse with t := s.fuse.t + 1, tCopy := s.fuse.t + 1 } := by
  rw [fuse_moved tag h hr hk, fuse_tokenWrite_counted _ hd, fuse_tokenErase]

theorem owner_moved (h : readToken bs = some k) (hr : tokenResult s bs k = 1) (hk : k.kind = 1) (hd : k.dst = 1) :
    (tokenDone tag (tokenTaken s bs)).fuse = writeOwner (writeCount s.fuse (s.fuse.t + 1))
      ((ownerLife (writeCount s.fuse (s.fuse.t + 1))).getD 0) k.owner := by
  rw [fuse_moved tag h hr hk, fuse_tokenWrite_owner _ hd, fuse_tokenErase]

theorem decommissioned_moved (h : readToken bs = some k) (hr : tokenResult s bs k = 1) (hk : k.kind = 1) (hd : k.dst = 5) :
    (tokenDone tag (tokenTaken s bs)).fuse = { s.fuse with t := 13, tCopy := 13, seed := List.replicate 96 0xFF } ∧
      (tokenDone tag (tokenTaken s bs)).flash = [] := by
  refine ⟨?_, ?_⟩
  · rw [fuse_moved tag h hr hk, fuse_tokenWrite_decommission _ hd, fuse_tokenErase]
  · rw [tokenTaken_move h hr hk, flash_tokenDone, flash_tokenMoved s hd]

end

/-! ### The raised floor, R418 -/

theorem raiseFloor_of_lock {s : State} (tag : Nat) (h : hasF s F.SEC_STATUS_lock = true) : raiseFloor s tag = secDone s 5 tag 4 := by
  unfold raiseFloor
  exact if_pos h

section
variable {s : State} (tag : Nat) (hlock : hasF s F.SEC_STATUS_lock = false) (hlen : (secBlock s 8).length = 8)
include hlock hlen

theorem raiseFloor_of_low (hv : bits (wordAt (secBlock s 8) 0) 31 0 ≤ rollbackFloor s.fuse) : raiseFloor s tag = secDone s 5 tag 6 := by
  unfold raiseFloor
  dsimp only
  rw [if_neg (by simp [hlock]), if_neg (fun h => h hlen), if_pos (by simp [hv])]

theorem raiseFloor_of_raise {l : Nat} (hcfg : getF s F.CTL_STATUS_config_source ≠ 0)
    (hv : rollbackFloor s.fuse < bits (wordAt (secBlock s 8) 0) 31 0) (hsel : bits (wordAt (secBlock s 8) 0) 31 0 ≤ selectedSeq s)
    (hlife : ownerLife s.fuse = some l) (hfree : (floorSlots s.fuse).length < 16) : raiseFloor s tag =
      secDone (showStore { s with fuse := writeFloor s.fuse l (bits (wordAt (secBlock s 8) 0) 31 0) }) 5 tag 1 := by
  unfold raiseFloor
  dsimp only
  rw [if_neg (by simp [hlock]), if_neg (fun h => h hlen), if_neg (by simp [hcfg, Nat.not_le.mpr hv, Nat.not_lt.mpr hsel]), hlife]
  dsimp only
  rw [if_neg (Nat.not_le.mpr hfree)]

end

theorem rollbackFloor_writeFloor {f : OneTime} {l : Nat} (v : Nat) (hlife : ownerLife f = some l) (hl : l < f.floors.length) :
    rollbackFloor (writeFloor f l v) = v := by
  have hlife' : ownerLife (writeFloor f l v) = some l := hlife
  unfold rollbackFloor floorSlots
  rw [hlife']
  simp [writeFloor, List.getD_eq_getElem?_getD, hl]

theorem floors_writeFloor_other (f : OneTime) {l j : Nat} (v : Nat) (h : j ≠ l) :
    (writeFloor f l v).floors.getD j [] = f.floors.getD j [] := by
  simp [writeFloor, List.getD_eq_getElem?_getD, List.getElem?_set_ne (Ne.symm h)]

theorem floor_showStore {s : State} (h : rollbackFloor s.fuse < 2 ^ 32) : getF (showStore s) F.SEC_ROLLBACK_floor = rollbackFloor s.fuse := by
  unfold showStore
  dsimp only
  rw [(only_setReg _ Off.SEC_KEY_COMMIT _).field F.SEC_ROLLBACK_floor (by decide), getF_setF_other _ _ _ _ (by decide) (by decide),
    getF_setF_other _ _ _ _ (by decide) (by decide), getF_setF_other _ _ _ _ (by decide) (by decide),
    getF_setF_other _ _ _ _ (by decide) (by decide), getF_setF_other _ _ _ _ (by decide) (by decide)]
  exact getF_setF_of_lt _ F.SEC_ROLLBACK_floor (by decide) h

/-- A floor written: the last slot of the owner life, shown in its register. -/
theorem floorRaised_shows (s : State) (tag : Nat) {l v : Nat} (hlife : ownerLife s.fuse = some l) (hl : l < s.fuse.floors.length)
    (hv : v < 2 ^ 32) :
    (secDone (showStore { s with fuse := writeFloor s.fuse l v }) 5 tag 1).fuse = writeFloor s.fuse l v ∧
      getF (secDone (showStore { s with fuse := writeFloor s.fuse l v }) 5 tag 1) F.SEC_ROLLBACK_floor = v := by
  have hfloor : rollbackFloor (writeFloor s.fuse l v) = v := rollbackFloor_writeFloor v hlife hl
  have hdone := frame_secDone (showStore { s with fuse := writeFloor s.fuse l v }) 5 tag 1
  refine ⟨(hdone.fuse (by decide)).trans ((only_showStore _).1 .fuse (by decide)), ?_⟩
  refine (hdone.fields F.SEC_ROLLBACK_floor (by decide)).trans ((floor_showStore ?_).trans hfloor)
  exact hfloor.trans_lt hv

theorem does_raiseFloor {s : State} {tag l : Nat} (h : HostUp s) (hlock : hasF s F.SEC_STATUS_lock = false) (hlen : (secBlock s 8).length = 8)
    (hcfg : getF s F.CTL_STATUS_config_source ≠ 0) (hv : rollbackFloor s.fuse < bits (wordAt (secBlock s 8) 0) 31 0)
    (hsel : bits (wordAt (secBlock s 8) 0) 31 0 ≤ selectedSeq s) (hlife : ownerLife s.fuse = some l) (hl : l < s.fuse.floors.length)
    (hfree : (floorSlots s.fuse).length < 16) : Does (.raiseFloor tag) s fun t => Replies 5 tag 1 t ∧
      rollbackFloor t.fuse = bits (wordAt (secBlock s 8) 0) 31 0 ∧ getF t F.SEC_ROLLBACK_floor = bits (wordAt (secBlock s 8) 0) 31 0 ∧
      t.fuse.t = s.fuse.t ∧ (∀ j, j ≠ l → t.fuse.floors.getD j [] = s.fuse.floors.getD j []) := by
  obtain ⟨hfuse, hshown⟩ := floorRaised_shows s tag hlife hl (v := bits (wordAt (secBlock s 8) 0) 31 0) (bits_lt _ 31 0)
  refine does_hostStore rfl (raiseFloor_of_raise tag hlock hlen hcfg hv hsel hlife hfree) h
    ((((only_store s _).comp (only_showStore _)).comp (only_secDone _ 5 tag 1)).1) (by decide) ⟨replies_secDone _ _ _ _, ?_, hshown, ?_, ?_⟩
  · rw [hfuse]
    exact rollbackFloor_writeFloor _ hlife hl
  · rw [hfuse]
    rfl
  · rw [hfuse]
    exact fun j hj => floors_writeFloor_other _ _ hj

/-- Settles O53: what a token does before its nonce is replaced, the floor written as the last slot of the owner life, and the two commands
that the module discards. -/
theorem tokensMoveTheLifecycle : Obligations.TokensMoveTheLifecycle := by
  refine ⟨fun s tag h hb => ?_, fun s tag k h hb => ?_, fun s tag h hl => ?_, fun s tag h hl hlen hv => ?_,
    fun s tag l h hl hlen hcfg hv hsel hlife hll hfree => does_raiseFloor h hl hlen hcfg hv hsel hlife hll hfree, fun s op tag h => ?_,
    fun s h => ?_⟩
  · obtain ⟨hreply, hnonce⟩ := answered_tokenDone s tag (r := 7) (secBlock s 29984) (by rw [tokenTaken_of_none hb])
    exact does_lifecycleToken h ⟨hreply, by rw [fuse_tokenDone, tokenTaken_of_none hb], hnonce⟩
  · obtain ⟨hreply, hnonce, hctr⟩ := answered_tokenDone s tag (secBlock s 29984) (congrArg Prod.fst (tokenTaken_of_token (s := s) hb))
    refine does_lifecycleToken h ⟨hreply, hnonce, hctr, refused_tokenDone tag hb, unlocked_tokenDone tag hb, fun hr hk hd => ?_,
      counted_moved tag hb, fun hr hk hd => ?_, fun hr hk hd => ?_⟩
    · obtain ⟨hfuse, hdebug⟩ := debug_moved tag hb hr hk hd
      exact ⟨hfuse, hdebug, tenant_moved tag hb hr hk (by rw [hd]; decide)⟩
    · rw [owner_moved tag hb hr hk hd]
      exact ⟨rfl, rfl, rfl, tenant_moved tag hb hr hk (by rw [hd]; decide)⟩
    · obtain ⟨hfuse, hflash⟩ := decommissioned_moved tag hb hr hk hd
      refine ⟨hfuse, ?_, tenant_moved tag hb hr hk (by rw [hd]; decide), hflash⟩
      rw [lifecycle_eq_five, hfuse]
  · exact does_hostStore rfl (raiseFloor_of_lock tag hl) h (only_secDone s 5 tag 4).1 (by decide)
      ⟨replies_secDone _ _ _ _, (frame_secDone s 5 tag 4).fuse (by decide)⟩
  · exact does_hostStore rfl (raiseFloor_of_low tag hl hlen hv) h (only_secDone s 5 tag 6).1 (by decide)
      ⟨replies_secDone _ _ _ _, (frame_secDone s 5 tag 6).fuse (by decide), only_secDone s 5 tag 6⟩
  · exact does_hostParts (ps := []) rfl rfl h (fun p _ => p.stands_rfl s) (by decide) (by decide) rfl
  · exact does_hostParts rfl rfl h (only_setF s F.SEC_STATUS_cmd_overrun 1).1 (by decide) (by decide)
      ⟨hasF_setF_one s _ (by decide) (by decide), only_setF s F.SEC_STATUS_cmd_overrun 1⟩

end Sys2Proof.Machine
end

section
/-!
PROOFS. Glitches, the key store, the mesh and the rotation of the session key (R417, R419 to R421).
-/

namespace Sys2Proof.Machine

/-! ### The power mode, which no alarm changes -/

theorem mode_holdCause (s : State) (c code : Nat) : (holdCause s c code).pwr.mode = s.pwr.mode := by
  have hmark : (markHold s c).pwr.mode = s.pwr.mode := by
    unfold markHold
    rw [setF_pwr]
  have henter : ∀ u, (enterHold u code).pwr = u.pwr := fun u =>
    ((only_heldPasses u code).comp (only_flag _ F.SAF_STATUS_hold_entered 11)).1 .pwr (by decide)
  unfold holdCause
  split
  · exact hmark
  · rw [henter]
    exact hmark

theorem mode_rangeFault (s : State) (a : Nat) : (rangeFault s a).pwr.mode = s.pwr.mode := by
  have hfault : ∀ u : State, (holdFault u 0x1C 6 0 0 0).pwr.mode = u.pwr.mode := fun u => by
    unfold holdFault
    rw [mode_holdCause, (frame_logFault u 0x1C 2 0 0 0).parts .pwr (by decide)]
  exact (hfault _).trans (congrArg PwrState.mode ((((only_setReg s Off.MEM_LAST_ERROR _).comp (only_setF _ F.MEM_LAST_ERROR_ADDR_addr a)).comp
    (only_setF _ F.MEM_STATUS_range_fault 1)).1 .pwr (by decide)))

theorem mode_cryptoErase (s : State) : (cryptoErase s).pwr.mode = s.pwr.mode := by
  have herased : (keyErased s).pwr = s.pwr := (frame_keyErased s).parts .pwr (by decide)
  rw [cryptoErase_eq, (only_showStore _).1 .pwr (by decide)]
  split
  · rw [mode_rangeFault, herased]
  · rw [herased]

theorem mode_alarm3 (s : State) (code : Nat) : (alarm3 s code).pwr.mode = s.pwr.mode := by
  have hlocked : (dropSession (locked (logAlarm s code 3))).pwr = s.pwr :=
    (((frame_logAlarm s code 3).comp (frame_locked _)).comp (frame_dropSession _)).parts .pwr (by decide)
  rw [alarm3_eq, mode_cryptoErase, hlocked]

/-! ### Glitches, R419 -/

/-- The slot of a glitch noted. -/
def glitchNoted (s : State) : State := { s with sec := { s.sec with glitch := some (slot s) } }

theorem only_glitchNoted (s : State) : Only [.sec] [] s (glitchNoted s) := only_sec s _

theorem glitch_of_first {s : State} (h : ∀ t0, s.sec.glitch = some t0 → t0 + 3906250 ≤ slot s) : glitch s = alarm1 (glitchNoted s) 3 := by
  unfold glitch
  dsimp only
  cases hg : s.sec.glitch with
  | none => exact if_neg (by simp)
  | some t0 => exact if_neg (by simpa using h t0 hg)

theorem glitch_of_second {s : State} {t0 : Nat} (hg : s.sec.glitch = some t0) (h : slot s < t0 + 3906250) :
    glitch s = alarm3 (glitchNoted s) 6 := by
  unfold glitch
  dsimp only
  rw [hg]
  exact if_pos (by simpa using h)

/-- Fewer than eight class 1 alarms of late bring no lock. -/
theorem alarm1_of_few {s : State} (code : Nat) (h : s.sec.class1.length < 7) : alarm1 s code = alarmNoted s code := by
  have hfew : (recentAlarms s).length ≠ 8 := by
    have hfilter := List.length_filter_le (fun t => decide (slot s < t + 14062500000)) s.sec.class1
    simp only [recentAlarms, List.length_take, List.length_cons]
    omega
  rw [alarm1_eq, if_neg hfew]

theorem getReg_alarmNoted (s : State) (code : Nat) : getReg (alarmNoted s code) Off.SEC_ALARM = BitVec.ofNat 64 (1 + 4 * code) :=
  ((only_sec (logAlarm s code 1) _).2 Off.SEC_ALARM (by simp)).trans (getReg_logAlarm s code 1)

theorem slot_alarmNoted (s : State) (code : Nat) : getF (alarmNoted s code) F.SEC_ALARM_SLOT_slot = slot s :=
  ((only_sec (logAlarm s code 1) _).field F.SEC_ALARM_SLOT_slot (by simp)).trans (slot_logAlarm s code 1)

theorem does_firstGlitch {s : State} (h : Up s) (hg : ∀ t0, s.sec.glitch = some t0 → t0 + 3906250 ≤ slot s) (hl : s.sec.class1.length < 7) :
    Does .glitchDetector s fun t => t.sec.glitch = some (slot s) ∧ getReg t Off.SEC_ALARM = 13 ∧ t.sec.tenant = s.sec.tenant ∧
      getF t F.SEC_ALARM_SLOT_slot = slot s ∧ Only alarmParts alarmRegs s t := by
  have honly : Only alarmParts alarmRegs s (alarm1 (glitchNoted s) 3) :=
    ((only_glitchNoted s).comp (only_alarm1 _ 3)).mono (by decide) fun _ h => h
  have hsec := sec_alarm1 (glitchNoted s) 3
  have hfew := alarm1_of_few (s := glitchNoted s) 3 hl
  refine does_parts rfl (glitch_of_first hg) h honly.1 (by decide) (by decide) ⟨?_, ?_, ?_, ?_, honly⟩
  · rw [hsec]
    rfl
  · rw [hfew]
    exact getReg_alarmNoted _ 3
  · rw [hsec]
    rfl
  · rw [hfew]
    exact slot_alarmNoted _ 3

theorem does_secondGlitch {s : State} {t0 : Nat} (h : Up s) (hg : s.sec.glitch = some t0) (hs : slot s < t0 + 3906250) :
    Does .glitchDetector s fun t => getReg t Off.SEC_ALARM = 27 ∧ hasF t F.SEC_STATUS_lock = true ∧ t.sec.tenant = none ∧
      t.sec.session = none ∧ hasF t F.FLS_STATUS_flash_closed = true ∧ t.fuse = s.fuse := by
  have hparts := ((only_glitchNoted s).frame.comp (frame_alarm3 _ 6)).parts
  have hsec := sec_alarm3 (glitchNoted s) 6
  refine does_parts rfl (glitch_of_second hg hs) h hparts (by decide) (by decide) ⟨getReg_alarm_alarm3 _ 6, hasF_lock_alarm3 _ 6, ?_, ?_,
    hasF_closed_alarm3 _ 6, hparts .fuse (by decide)⟩ <;> rw [hsec]

/-- The key store that fails its check, R420. -/
theorem does_keyStoreIntegrityFail {s : State} (h : Up s) :
    Does .keyStoreIntegrityFail s fun t => getReg t Off.SEC_ALARM = 31 ∧ hasF t F.SEC_STATUS_lock = true ∧ t.sec.tenant = none ∧
      t.sec.session = none ∧ t.nv.commitment = none ∧ t.fuse = s.fuse := by
  have hparts := (frame_alarm3 s 7).parts
  have hsec := sec_alarm3 s 7
  refine does_parts rfl rfl h hparts (by decide) (by decide) ⟨getReg_alarm_alarm3 _ 7, hasF_lock_alarm3 _ 7, ?_, ?_, commitment_alarm3 _ 7,
    hparts .fuse (by decide)⟩ <;> rw [hsec]

/-! ### The mesh, R421 -/

theorem only_showTrip (s : State) : Only [] [Off.SAF_LAST_TRIP] s (showTrip s) :=
  ((only_setF s F.SAF_LAST_TRIP_code _).comp (only_setF _ F.SAF_LAST_TRIP_both_detectors _)).mono (by simp) (by decide)

theorem only_showStraps (s : State) (head feed slotId : Nat) :
    Only [] [Off.CTL_STRAPS, Off.CHN_ADDR, Off.CHN_PARTNER] s (showStraps s head feed slotId) :=
  (((((only_setF s F.CTL_STRAPS_chain_head head).comp (only_setF _ F.CTL_STRAPS_feed_id feed)).comp
    (only_setF _ F.CTL_STRAPS_slot_id slotId)).comp (only_setF _ F.CHN_ADDR_head head)).comp (only_setF _ F.CHN_PARTNER_own_feed feed)).mono
    (by simp) (by decide)

/-- A module that resets itself starts cold, with its straps and its last trip shown. -/
theorem parts_selfReset {s : State} (h : s.pwr.mode = .up) : PartsBut [] (coldState (partialRecord s) .up) (selfReset s) := by
  unfold selfReset
  rw [if_pos h]
  exact ((only_showStraps _ _ _ _).comp (only_showTrip _)).1

/-- What stands in every module that starts cold. -/
theorem coldState_starts (s : State) (m : PowerMode) :
    (coldState s m).pwr.mode = m ∧ (coldState s m).pwr.phases = [] ∧ (coldState s m).plan = none ∧ (coldState s m).sec.tenant = none :=
  ⟨rfl, rfl, rfl, rfl⟩

/-- What a module that resets itself holds. -/
theorem selfReset_starts {s : State} (h : s.pwr.mode = .up) : (selfReset s).pwr.mode = .up ∧ (selfReset s).pwr.phases = [] ∧
    (selfReset s).plan = none ∧ (selfReset s).sec.tenant = none := by
  have hcold := parts_selfReset h
  have hpwr : (selfReset s).pwr = (coldState (partialRecord s) .up).pwr := hcold .pwr (by decide)
  have hplan : (selfReset s).plan = (coldState (partialRecord s) .up).plan := hcold .plan (by decide)
  have hsec : (selfReset s).sec = (coldState (partialRecord s) .up).sec := hcold .sec (by decide)
  rw [hpwr, hplan, hsec]
  exact coldState_starts _ _

theorem pending_partialRecord (s : State) : (partialRecord s).pending = s.pending := by
  have hclosed : ∀ minute w extra, (closeRecord s minute w extra).pending = s.pending := fun minute w extra =>
    parts_closeRecord s minute w extra .pending (by decide)
  unfold partialRecord storeRecords
  split
  · exact hclosed _ _ _
  · rfl

theorem pending_selfReset {s : State} (h : s.pwr.mode = .up) : (selfReset s).pending = s.pending :=
  (parts_selfReset h .pending (by decide)).trans (pending_partialRecord s)

/-- The store of a module of which the mesh is breached. -/
def storeBroken (s : State) : State := { s with fuse := { writeCount s.fuse 13 with seed := List.replicate 96 0xFF, breach := true } }

theorem pwr_storeBroken (s : State) : (storeBroken s).pwr = s.pwr := rfl

theorem pending_storeBroken (s : State) : (storeBroken s).pending = s.pending := rfl

theorem mode_storeBroken {s : State} (h : s.pwr.mode = .up) : (storeBroken (alarm3 s 9)).pwr.mode = .up := by
  rw [pwr_storeBroken, mode_alarm3]
  exact h

theorem breach_eq (s : State) : breach s = if (selfReset (storeBroken (alarm3 s 9))).pwr.mode = .up then
    setF (selfReset (storeBroken (alarm3 s 9))) F.SEC_MESH_found_at_power_up (b2n !phaseEnded s 1)
    else selfReset (storeBroken (alarm3 s 9)) := by
  unfold breach storeBroken
  rfl

/-- A module that is up restarts by a breach, and notes whether it was found before phase 1. -/
theorem breach_of_up {s : State} (h : s.pwr.mode = .up) :
    breach s = setF (selfReset (storeBroken (alarm3 s 9))) F.SEC_MESH_found_at_power_up (b2n !phaseEnded s 1) := by
  rw [breach_eq, if_pos (selfReset_starts (mode_storeBroken h)).1]

theorem pending_breach {s : State} (h : s.pwr.mode = .up) : (breach s).pending = s.pending := by
  rw [breach_of_up h, setF_pending, pending_selfReset (mode_storeBroken h), pending_storeBroken]
  exact (frame_alarm3 s 9).parts .pending (by decide)

/-- What a module that is up holds after a breach. -/
theorem breach_restarts {s : State} (h : s.pwr.mode = .up) : (breach s).pwr.mode = .up ∧ (breach s).pwr.phases = [] ∧
    (breach s).plan = none ∧ (breach s).sec.tenant = none ∧ hasF (breach s) F.SEC_MESH_found_at_power_up = !phaseEnded s 1 := by
  obtain ⟨hmode, hphases, hplan, htenant⟩ := selfReset_starts (mode_storeBroken h)
  rw [breach_of_up h, setF_pwr, setF_plan, setF_sec]
  refine ⟨hmode, hphases, hplan, htenant, ?_⟩
  unfold hasF
  cases phaseEnded s 1 with
  | false => rw [getF_setF_of_lt _ _ (by decide) (by decide)]; rfl
  | true => rw [getF_setF_of_lt _ _ (by decide) (by decide)]; rfl

theorem pwr_meshShown (s : State) (a b : Nat) : (meshShown s a b).pwr = s.pwr := (only_meshShown s a b).1 .pwr (by decide)

theorem fuse_meshShown (s : State) (a b : Nat) : (meshShown s a b).fuse = s.fuse := (only_meshShown s a b).1 .fuse (by decide)

/-- The store of a command that may program it stands whatever the queue becomes. -/
theorem does_store {c : Instr} {s u : State} {f : OneTime} (he : exec c s = settleFuse s u) (hf : u.fuse = f) :
    Does c s fun t => t.fuse = f := ⟨_, he, hf⟩

theorem meshMeasure_of_shorted {s : State} (a b : Nat) (h : s.fuse.breach = false) : meshMeasure s a b true = breach (meshShown s a b) := by
  rw [meshMeasure_eq, fuse_meshShown, h]
  exact if_pos (by simp [meshBroken])

theorem meshMeasure_of_breached {s : State} (a b : Nat) (shorted : Bool) (h : s.fuse.breach = true) :
    meshMeasure s a b shorted = meshShown s a b := by
  rw [meshMeasure_eq, fuse_meshShown, h]
  exact if_neg (by simp)

theorem traces_meshShown {s : State} (a b : Nat) (h : s.pwr.mode = .up) :
    getF (meshShown s a b) F.SEC_MESH_trace0 = a % 2 ^ 16 ∧ getF (meshShown s a b) F.SEC_MESH_trace1 = b % 2 ^ 16 := by
  unfold meshShown
  rw [if_pos h, getF_setF_other _ _ _ _ (by decide) (by decide)]
  exact ⟨getF_setF_same _ F.SEC_MESH_trace0 a (by decide), getF_setF_same _ F.SEC_MESH_trace1 b (by decide)⟩

theorem does_meshMeasure_breach {s : State} (a b : Nat) (h : Up s) (hb : s.fuse.breach = false) : Does (.meshMeasure a b true) s fun t =>
    t.fuse = { s.fuse with t := 13, tCopy := 13, seed := List.replicate 96 0xFF, breach := true } ∧
      t.pwr.mode = .up ∧ t.pwr.phases = [] ∧ t.plan = none ∧ t.sec.tenant = none ∧
      hasF t F.SEC_MESH_found_at_power_up = !phaseEnded s 1 := by
  have hup : (meshShown s a b).pwr.mode = .up := by
    rw [pwr_meshShown]
    exact h
  have hpending : (meshShown s a b).pending = s.pending := (only_meshShown s a b).1 .pending (by decide)
  obtain ⟨hmode, hphases, hplan, htenant, hfound⟩ := breach_restarts hup
  have hearly : phaseEnded (meshShown s a b) 1 = phaseEnded s 1 := by
    unfold phaseEnded
    rw [pwr_meshShown]
  refine does_settleFuse (congrArg (settleFuse s) (meshMeasure_of_shorted a b hb)) ((pending_breach hup).trans hpending)
    ⟨?_, hmode, hphases, hplan, htenant, hfound.trans (by rw [hearly])⟩
  rw [fuse_breach, fuse_meshShown]
  rfl

/-! ### The session key replaced, R417 -/

theorem keyRotation_of_idle {s : State} (h : ⟨8, 0, 0⟩ ∉ s.maint.running) : keyRotation s = s := by
  unfold keyRotation
  exact if_pos (by simpa using h)

theorem keyRotation_of_running {s : State} (h : ⟨8, 0, 0⟩ ∈ s.maint.running) : keyRotation s =
    if s.sec.session.isNone then endActivity s ⟨8, 0, 0⟩
    else newSession (endActivity s ⟨8, 0, 0⟩) (2 ^ 32 * (s.sec.sessionId.toNat / 2 ^ 32) + (s.sec.sessionId.toNat + 1) % 2 ^ 32) := by
  have hsec : (endActivity s ⟨8, 0, 0⟩).sec = s.sec := endActivity_sec s _
  unfold keyRotation
  rw [if_neg (by simpa using h)]
  dsimp only
  rw [hsec]

/-- A session key made, before its window shows. -/
def sessionMade (s : State) (id : Nat) : State :=
  { s with freeCtr := s.freeCtr + 1
           sec := { s.sec with session := some (Config.freshSession s.freeCtr).1, sessionId := BitVec.ofNat 64 id } }

theorem newSession_eq (s : State) (id : Nat) : newSession s id =
    setF (setWindow (sessionMade s id) 0x420000 ((Config.freshSession s.freeCtr).2.take 1568)) F.SEC_KEY_session_valid 1 := rfl

theorem parts_sessionMade (s : State) (id : Nat) : PartsBut [.sec, .freeCtr] s (sessionMade s id) :=
  fun p hp => by
    cases p with
    | sec | freeCtr => exact absurd (by decide) hp
    | mem | flash => exact fun _ => rfl
    | _ => rfl

theorem parts_newSession (s : State) (id : Nat) : PartsBut [] (sessionMade s id) (newSession s id) := by
  rw [newSession_eq]
  exact ((only_setWindow _ _ _).comp (only_setF _ F.SEC_KEY_session_valid 1)).1

theorem does_keyRotation {s : State} {dk : List Byte} (h : Up s) (hr : ⟨8, 0, 0⟩ ∈ s.maint.running) (hs : s.sec.session = some dk) :
    Does .keyRotation s fun t => ⟨8, 0, 0⟩ ∉ t.maint.running ∧ t.sec.session = some (Config.freshSession s.freeCtr).1 ∧
      t.sec.sessionId.toNat = 2 ^ 32 * (s.sec.sessionId.toNat / 2 ^ 32) + (s.sec.sessionId.toNat + 1) % 2 ^ 32 ∧
      t.freeCtr = s.freeCtr + 1 ∧ hasF t F.SEC_KEY_session_valid = true ∧ (∀ p : Part, p ∉ [.maint, .sec, .freeCtr] → p.stands s t) := by
  have hcmd : keyRotation s = newSession (endActivity s ⟨8, 0, 0⟩)
      (2 ^ 32 * (s.sec.sessionId.toNat / 2 ^ 32) + (s.sec.sessionId.toNat + 1) % 2 ^ 32) := by
    rw [keyRotation_of_running hr, hs]
    rfl
  generalize hid : 2 ^ 32 * (s.sec.sessionId.toNat / 2 ^ 32) + (s.sec.sessionId.toNat + 1) % 2 ^ 32 = id at hcmd
  have hmade := parts_newSession (endActivity s ⟨8, 0, 0⟩) id
  have hended := (only_endActivity s ⟨8, 0, 0⟩).partsBut (qs := [.maint, .sec, .freeCtr]) (by decide)
  have hparts := (hended.trans ((parts_sessionMade _ id).weaken (by decide))).trans (hmade.weaken (by simp))
  have hfree : (endActivity s ⟨8, 0, 0⟩).freeCtr = s.freeCtr := endActivity_freeCtr s _
  have hmaint : (newSession (endActivity s ⟨8, 0, 0⟩) id).maint = (endActivity s ⟨8, 0, 0⟩).maint := hmade .maint (by decide)
  have hsec : (newSession (endActivity s ⟨8, 0, 0⟩) id).sec = (sessionMade (endActivity s ⟨8, 0, 0⟩) id).sec := hmade .sec (by decide)
  have hctr : (newSession (endActivity s ⟨8, 0, 0⟩) id).freeCtr = (endActivity s ⟨8, 0, 0⟩).freeCtr + 1 := hmade .freeCtr (by decide)
  refine does_parts rfl hcmd h hparts (by decide) (by decide) ⟨?_, ?_, ?_, ?_, hasF_setF_one _ F.SEC_KEY_session_valid (by decide) (by decide),
    hparts⟩
  · rw [hmaint]
    exact (not_mem_endActivity s _).1
  · rw [hsec, ← hfree]
    rfl
  · rw [hsec]
    show (BitVec.ofNat 64 id).toNat = id
    have hlt := s.sec.sessionId.isLt
    rw [BitVec.toNat_ofNat]
    omega
  · rw [hctr, hfree]

/-- Settles O54: the alarms of a glitch and of the key store, the breach that restarts the module, and the rotation of the session key. -/
theorem tamperErasesTheKeys : Obligations.TamperErasesTheKeys := by
  refine ⟨fun s => does_firstGlitch, fun s t0 => does_secondGlitch, fun s => does_keyStoreIntegrityFail, fun s a b shorted h hb => ?_,
    fun s a b h hb => ?_, fun s h hr hs => ?_, fun s dk => does_keyRotation, fun s h hr => ?_⟩
  · cases hf : s.fuse.breach with
    | false =>
      obtain rfl : shorted = true := by simpa [hf] using hb
      exact (does_meshMeasure_breach a b h hf).imp fun t ht => ⟨fun _ => ht, fun h' => nomatch h'⟩
    | true =>
      obtain ⟨htrace0, htrace1⟩ := traces_meshShown a b h
      have honly := only_meshShown s a b
      exact does_settleFuse (congrArg (settleFuse s) (meshMeasure_of_breached a b shorted hf)) (honly.1 .pending (by decide))
        ⟨(fun h' => nomatch h'), fun _ => ⟨htrace0, htrace1, honly⟩⟩
  · have hfuse := fuse_breach (meshShown s a b)
    rw [fuse_meshShown] at hfuse
    exact does_store (congrArg (settleFuse s) (meshMeasure_of_shorted a b hb)) hfuse
  · have honly := only_endActivity s ⟨8, 0, 0⟩
    have hcmd : keyRotation s = endActivity s ⟨8, 0, 0⟩ := by
      rw [keyRotation_of_running hr, hs]
      rfl
    exact does_parts rfl hcmd h honly.1 (by decide) (by decide) ⟨(not_mem_endActivity s _).1, honly⟩
  · exact does_parts (ps := []) rfl (keyRotation_of_idle hr) h (fun p _ => p.stands_rfl s) (by decide) (by decide) rfl

end Sys2Proof.Machine
end

section
/-!
PROOFS. The rack controller over I3C: its address, MCTP and PLDM, register access and claims (R373 to R375).
-/

namespace Sys2Proof.Machine

/-! ### Answers -/

/-- An answer to the rack controller that changes nothing else. -/
theorem does_answer {c : Instr} {s : State} {f : State → State} {bs : List Byte} (he : exec c s = settle s (rackStep s f))
    (hw : f s = send s (.rack bs)) (h : RackUp s) : Does c s fun t => t.sent = .rack bs :: s.sent ∧ Only [.sent] [] s t :=
  does_rackParts he hw h (only_send s _).1 (by decide) (by decide) ⟨rfl, only_send s _⟩

/-- A command of the rack controller that gets no answer. -/
theorem does_unanswered {c : Instr} {s : State} {f : State → State} (he : exec c s = settle s (rackStep s f)) (hw : f s = s) (h : RackUp s) :
    Does c s fun t => t = s :=
  does_rackParts (ps := []) he hw h (fun p _ => p.stands_rfl s) (by decide) (by decide) rfl

/-- A register access that changes the control state, and its answer. -/
theorem does_answered {c : Instr} {s u : State} {f : State → State} {status : Nat} {p : State → Prop} {l : List Nat}
    (he : exec c s = settle s (rackStep s f)) (hw : f s = rackReply u status []) (h : RackUp s) (ho : Only [.ctl] l s u)
    (hp : Only [.ctl, .sent] l s (rackReply u status []) → p (rackReply u status [])) : Does c s p := by
  have honly : Only [.ctl, .sent] l s (rackReply u status []) := (ho.comp (only_rackReply u status [])).mono (by simp) (by simp)
  exact does_rackParts he hw h honly.1 (by decide) (by decide) (hp honly)

theorem sent_rackReply {s u : State} {l : List Nat} (ho : Only [.ctl] l s u) (status : Nat) :
    (rackReply u status []).sent = .rack [BitVec.ofNat 8 status] :: s.sent :=
  congrArg (_ :: ·) (ho.1 .sent (by decide))

/-! ### The address, PLDM and the sensors, R373 and R374 -/

theorem does_entdaa {s : State} (a : Nat) (h : RackUp s) : Does (.entdaa a) s fun t =>
    getF t F.PWR_MCTP_address = a % 128 ∧ hasF t F.PWR_MCTP_assigned = true ∧ Only [] [Off.PWR_MCTP] s t := by
  have honly : Only [] [Off.PWR_MCTP] s (entdaa s a) := (only_setF s F.PWR_MCTP_address a).trans (only_setF _ F.PWR_MCTP_assigned 1)
  refine does_rackParts rfl rfl h honly.1 (by decide) (by decide) ⟨?_, hasF_setF_one _ _ (by decide) (by decide), honly⟩
  exact (getF_setF_other _ _ _ _ (by decide) (by decide)).trans (getF_setF_same s F.PWR_MCTP_address a (by decide))

theorem does_sensorUpdate {s : State} (h : Up s) : Does .sensorUpdate s fun t => sensorValue t 1 = getF s F.PWR_DRAW_avg_w ∧
    sensorValue t 2 = getF s F.PWR_INPUT_vin ∧ sensorValue t 3 = getF s F.PWR_INPUT_iin ∧ sensorValue t 4 = getF s F.PWR_ENERGY_mj / 1000 ∧
    sensorValue t 6 = getF s F.SAF_THERMAL_hottest_c ∧ Only [.pwr] [] s t := by
  have honly : Only [.pwr] [] s (sensorUpdate s) := only_pwr s _
  exact does_parts rfl rfl h honly.1 (by decide) (by decide) ⟨rfl, rfl, rfl, rfl, rfl, honly⟩

/-! ### Register access, R375 -/

theorem rackRead_of_range {s : State} {off n : Nat} (ha : off % 8 = 0) (h0 : 0 < n) (h8 : n ≤ 8) (hb : off + 8 * n ≤ 2 ^ 26) :
    rackRead s off n = send s (.rack (0 :: (List.range n).flatMap fun i => leBytes 8 (readReg s (off + 8 * i)).toNat)) := by
  unfold rackRead rackReply
  rw [if_neg (by omega), List.flatMap_map]
  rfl

theorem rackWrite_of_row {s : State} {off : Nat} {r : RegRow} (v : Word) (ha : off % 8 = 0) (hb : off < 2 ^ 26) (hc : off ≠ Off.CTL_COMMIT)
    (hr : rowAt off = some r) : rackWrite s off v =
      if r.isStaged = true then rackReply (stageWrite s 2 off v (BitVec.allOnes 64)) (if mayStage s 2 then 0 else 1) []
      else rackReply s 2 [] := by
  unfold rackWrite
  rw [if_neg (by omega), hr]
  exact if_neg hc

theorem does_write_staged {s : State} {off : Nat} {v : Word} {r : RegRow} (h : RackUp s) (ha : off % 8 = 0) (hb : off < 2 ^ 26)
    (hc : off ≠ Off.CTL_COMMIT) (hr : rowAt off = some r) (hs : r.isStaged = true) (hm : mayStage s 2 = true) :
    Does (.write off v) s fun t => t.sent = .rack [0] :: s.sent ∧ FMap.get none t.ctl.staged off = some (stagedBy s off r v) ∧
      t.ctl.wroteAt = slot s ∧ Only [.ctl, .sent] [] s t := by
  have hcmd : rackWrite s off v = rackReply (stageWrite s 2 off v (BitVec.allOnes 64)) 0 [] := by
    rw [rackWrite_of_row v ha hb hc hr, if_pos hs, if_pos hm]
  rw [stageWrite_granted v hm hr] at hcmd
  exact does_answered rfl hcmd h (only_ctl s _) fun honly => ⟨rfl, FMap.get_set_self none s.ctl.staged off (some (stagedBy s off r v)), rfl, honly⟩

theorem does_write_refused {s : State} {off : Nat} {v : Word} {r : RegRow} (h : RackUp s) (ha : off % 8 = 0) (hb : off < 2 ^ 26)
    (hc : off ≠ Off.CTL_COMMIT) (hr : rowAt off = some r) (hs : r.isStaged = true) (hm : mayStage s 2 = false) :
    Does (.write off v) s fun t => t.sent = .rack [1] :: s.sent ∧ hasF t F.CTL_STATUS_stage_refused = true ∧
      Only [.sent] [Off.CTL_STATUS] s t := by
  have hcmd : rackWrite s off v = rackReply (stageRefused s) 1 [] := by
    rw [rackWrite_of_row v ha hb hc hr, if_pos hs, stageWrite_refused off v _ hm, if_neg (by simp [hm])]
  have hrefused : Only [] [Off.CTL_STATUS] s (stageRefused s) := only_setF s _ 1
  have honly : Only [.sent] [Off.CTL_STATUS] s (rackReply (stageRefused s) 1 []) := hrefused.comp (only_rackReply _ 1 [])
  exact does_rackParts rfl hcmd h honly.1 (by decide) (by decide)
    ⟨sent_rackReply (hrefused.mono (by simp) fun _ h => h) 1, hasF_setF_one s _ (by decide) (by decide), honly⟩

/-! ### A set frozen over the rack bus, R348 and R349 -/

/-- The staged values frozen as a set. -/
def setFrozen (s : State) (z : Crozier) : State :=
  { s with ctl := { s.ctl with staged := [], dropped := [], frozen := some z, wroteAt := slot s } }

/-- A set just frozen is checked, and discarded where it fails. -/
def frozenChecked (s : State) (z : Crozier) : State :=
  if (checkSet (setFrozen s z) z).1 = 0 then setF (setFrozen s z) F.CTL_CROZIER_state 1
  else discardSet (setFrozen s z) (checkSet (setFrozen s z) z).1 (checkSet (setFrozen s z) z).2

theorem commitRequest_of_free {s : State} {src target : Nat} {atSlot : Bool} (hm : mayStage s src = true) (hf : s.ctl.frozen = none) :
    ∃ z, commitRequest s src atSlot target = frozenChecked s z := by
  refine ⟨⟨s.ctl.staged, atSlot, target % 2 ^ 56, slot s + 2, changedMask (changedOffs s s.ctl.staged), none⟩, ?_⟩
  unfold commitRequest
  rw [if_neg (by simp [hm]), if_neg (by simp [hf])]
  rfl

theorem parts_frozenChecked (s : State) (z : Crozier) : PartsBut [.ctl, .host, .sent] s (frozenChecked s z) := by
  have hset : Only [.ctl] [] s (setFrozen s z) := only_ctl s _
  unfold frozenChecked
  split
  · exact (hset.comp (only_setF _ F.CTL_CROZIER_state 1)).partsBut (by decide)
  · exact (hset.comp (only_discardSet _ _ _)).partsBut (by decide)

theorem ctl_frozenChecked (s : State) (z : Crozier) :
    (frozenChecked s z).ctl.staged = [] ∧ (frozenChecked s z).ctl.wroteAt = slot s := by
  unfold frozenChecked
  split
  · rw [setF_ctl]
    exact ⟨rfl, rfl⟩
  · rw [discardSet_of_frozen (s := setFrozen s z) rfl, flag_ctl, discardEntered, bumpF_ctl, setF_ctl, setReg_ctl]
    exact ⟨rfl, rfl⟩

theorem does_write_commit {s : State} {v : Word} (h : RackUp s) (hv : bits v 1 0 = 1) (hm : mayStage s 2 = true)
    (hf : s.ctl.frozen = none) : Does (.write Off.CTL_COMMIT v) s fun t => t.ctl.staged = [] ∧ t.ctl.wroteAt = slot s ∧
      (∃ e, t.sent = .rack [0] :: e) := by
  obtain ⟨z, hz⟩ := commitRequest_of_free (atSlot := bit v 2) (target := bits v 63 8) hm hf
  have hw : commitWrite s 2 v = frozenChecked s z := by
    rw [← hz]
    simp only [commitWrite, hv]
  obtain ⟨hstaged, hwrote⟩ := ctl_frozenChecked s z
  exact does_writeCommit h hm hw (parts_frozenChecked s z) (by decide) (by decide) ⟨hstaged, hwrote, _, rfl⟩

/-! ### Claims, R348 and R375 -/

/-- The claim of the host ended where it holds one. -/
def hostEnded (s : State) : State := if getF s F.CTL_CLAIM_owner = 1 then endClaim s else s

theorem only_hostEnded (s : State) : Only [.ctl] [Off.CTL_CLAIM] s (hostEnded s) := Only.ite (only_endClaim s) (Only.rfl' _ _ s)

theorem rackClaim_eq (s : State) : rackClaim s = rackReply (takeClaim (hostEnded s) 2) 0 [] := rfl

theorem staged_takeClaim (s : State) (src : Nat) : (takeClaim s src).ctl.staged = s.ctl.staged := rfl

theorem no_host_claim_takeClaim (s : State) : hasF (takeClaim s 2) F.CTL_CLAIM_host_claim = false :=
  hasF_setF_zero (setF s F.CTL_CLAIM_owner 2) F.CTL_CLAIM_host_claim (by decide)

theorem does_claim {s : State} (h : RackUp s) : Does .claim s fun t => getF t F.CTL_CLAIM_owner = 2 ∧
    hasF t F.CTL_CLAIM_host_claim = false ∧ t.sent = .rack [0] :: s.sent ∧ (getF s F.CTL_CLAIM_owner = 1 → t.ctl.staged = []) ∧
    Only [.ctl, .sent] [Off.CTL_CLAIM] s t := by
  have htaken : Only [.ctl] [Off.CTL_CLAIM] s (takeClaim (hostEnded s) 2) := (only_hostEnded s).trans (only_takeClaim _ 2)
  refine does_answered rfl (rackClaim_eq s) h htaken fun honly =>
    ⟨owner_takeClaim _ 2, no_host_claim_takeClaim _, sent_rackReply htaken 0, fun ho => ?_, honly⟩
  refine (staged_takeClaim (hostEnded s) 2).trans ?_
  rw [hostEnded, if_pos ho]
  exact (endClaim_spec s).2.1

theorem does_releaseClaim {s : State} (h : RackUp s) (ho : getF s F.CTL_CLAIM_owner = 2) : Does .releaseClaim s fun t =>
    getF t F.CTL_CLAIM_owner = 0 ∧ t.ctl.staged = [] ∧ t.sent = .rack [0] :: s.sent ∧ Only [.ctl, .sent] [Off.CTL_CLAIM] s t := by
  obtain ⟨howner, hstaged, -, hended⟩ := endClaim_spec s
  exact does_answered rfl (if_pos ho : rackRelease s = _) h hended fun honly => ⟨howner, hstaged, sent_rackReply hended 0, honly⟩

/-- Settles O55: each request of the rack controller reaches the module that answers it, and its answer is one entry sent. -/
theorem theRackControllerIsAnswered : Obligations.TheRackControllerIsAnswered := by
  refine ⟨fun s a h => does_entdaa a h, fun s rq h => does_answer rfl rfl h, fun s p i h hp => does_answer rfl (if_pos hp : pldm s p i = _) h,
    fun s p i h h0 h2 => does_unanswered rfl (if_neg (by omega) : pldm s p i = _) h, fun s m h => does_unanswered rfl rfl h,
    fun s => does_sensorUpdate, fun s off n h ha h0 h8 hb => does_answer rfl (rackRead_of_range ha h0 h8 hb) h,
    fun s off n h hbad => does_answer rfl (if_pos hbad : rackRead s off n = _) h,
    fun s off v r => does_write_staged, fun s off v r => does_write_refused, fun s v => does_write_commit,
    fun s off v r h ha hb hc hr hs => ?_, fun s off v h hbad => does_answer rfl (if_pos hbad : rackWrite s off v = _) h, fun s => does_claim,
    fun s => does_releaseClaim, fun s h ho => does_answer rfl (if_neg ho : rackRelease s = _) h⟩
  have hcmd : rackWrite s off v = rackReply s 2 [] := by
    rw [rackWrite_of_row v ha hb hc hr, if_neg (by simp [hs])]
  exact does_answer rfl hcmd h

end Sys2Proof.Machine
end
